-- ==== Sys2Proof/Word.lean ====
section
/-! DEFINITION. The plain words of the model and the index ranges of R3 (00_scope.md) and R14 (01_device_architecture.md). -/

namespace Sys2Proof

/-- One byte. Values in memory and registers are little-endian (R5). -/
abbrev Byte := BitVec 8
abbrev W16 := BitVec 16
abbrev W32 := BitVec 32
/-- A 64-bit register slot (R11), scalar register or memory granule. -/
abbrev W64 := BitVec 64
/-- The 64 payload bytes and the 24 header bytes of a cell are kept apart (R286). -/
abbrev Payload := BitVec 512

/-- FOLIO_f.TILE_n as the device-wide TILE_INDEX 24f + n (R3, R84). -/
abbrev Tile := Fin 192
abbrev Folio := Fin 8
abbrev Deckle := Fin 2
/-- Die index: 0-7 the folios, 8-9 the deckles (R14). -/
abbrev Die := Fin 10
abbrev Ream := Fin 32
abbrev Port := Fin 64
/-- A collective group COLL_n of the device. -/
abbrev Coll := Fin 64
/-- An engine command queue of a folio (R242). -/
abbrev Ecq := Fin 16
/-- A host queue (R452). -/
abbrev HQueue := Fin 64
/-- A temperature sensor (R436). -/
abbrev Sensor := Fin 818
/-- A laser line (R398). -/
abbrev Line := Fin 9
/-- A felt link between two dies (R414). -/
abbrev Felt := Fin 45
/-- A folio pair joined by a twin-stream link (R16). -/
abbrev Pair := Fin 4
/-- A scalar register s0-s31 (R66). -/
abbrev SReg := Fin 32

/-- A finite map in plain data: pairs of a key and a value, in rising order of the key's rank. -/
abbrev Store (κ α : Type) := List (κ × α)

end Sys2Proof
end

