-- ==== Sys2Proof/Config.lean ====
section
/-! DEFINITION. What an implementation fixes and the free values: constants without a body, of which nothing can be
proved (log 6). -/

namespace Sys2Proof.Config

/-- Byte `addr` of memory after the `epoch`-th whole-device reset: R490 leaves the contents unspecified (log 1). -/
opaque freeByte (epoch addr : Nat) : BitVec 8

/-- The destination of a transfer that failed after it started (R215: an unspecified mixture of old and new values): whether
a place keeps what it holds, and what it holds otherwise. -/
opaque mixedKeeps (draw index : Nat) : Bool
opaque mixedByte (draw index : Nat) : BitVec 8

/-- The six table-driven functions of R171 on the operands whose result the spec bounds and does not state: function
code 0x10-0x16 of R96, FP32 operand bits; the result's bits. -/
opaque tableFunction (op : Nat) (x : BitVec 32) : BitVec 32

/-- The register-window number that a fault record carries for a register at a BAR index 0 offset (R500). -/
opaque registerWindow (offset : Nat) : BitVec 16

/-- The transactions beyond one that a die has space to assemble at once (R296 gives no number). -/
opaque assemblySpace (die : Nat) : Nat

/-- The set of its slice that a folio cache line belongs to, and where a node of a set's tree divides the ways from `lo` to
`hi`: R194 names the sets and tree pseudo-LRU and gives neither the index nor the tree of 20 ways. -/
opaque cacheSet (line : Nat) : Nat
opaque cacheSplit (lo hi : Nat) : Nat

/-- What stands for r of R55 where a command asks for SR to a format that is not narrower: R53 gives SR to conversions to a
narrower format only, and no rounding to these. -/
opaque wideDraw (seed : BitVec 32) (addr : Nat) : BitVec 32

/-- Whether a demand request finds a prefetched line still in flight, and whether a prefetch request finds its ream's queue
more than 75 % full (R199): the spec gives no times for either. -/
opaque prefetchLate (draw : Nat) : Bool
opaque reamQueueFull (draw : Nat) : Bool

/-- The cycles that a row of a TLD or TST waits for the vat's port in all (R193): the times of the vat's requests are left out. -/
opaque portWait (draw : Nat) : Nat

/-- What the code of a vat or cache word makes of more than two bits in error, and that of a ream line of more than six
symbols (R188, R197, R221): 0 nothing seen, 1 taken for a correctable error, else detected. -/
opaque wordOutcome (key hits : Nat) : Nat
opaque lineOutcome (key hits : Nat) : Nat

/-- The energy of one restart of a clock domain in 1/400 pJ, by the number of the domain in R38's table and of its unit: R39
charges it and no rule prices it. -/
opaque restartEnergy (kind unit : Nat) : Nat

/-- The metered power in mW of a rail other than a folio's, which R429 uses for a lost report: the spec gives no meter
there. -/
opaque railMetered (draw rail : Nat) : Nat

/-! ### What a part's fuses, mask ROM and firmware hold (R478, R485, R486) -/

/-- The serial number. -/
opaque serial : BitVec 64

/-- The unique device secret. -/
opaque uds : BitVec 256

/-- SHA-256 of the mask ROM. -/
opaque romDigest : BitVec 256

/-- The fused hash of a key slot. -/
opaque keyHash (slot : Nat) : BitVec 256

/-- The matched-set table that a firmware image carries, as revisions of folio, deckle and ream base, and the bytes of a table. -/
opaque matchedSets (image : List (BitVec 8)) : List (BitVec 8 × BitVec 8 × BitVec 8)
opaque matchedBytes (sets : List (BitVec 8 × BitVec 8 × BitVec 8)) : List (BitVec 8)

/-- The X.509 certificates of the root and the intermediate CA, and the DeviceID certificate in the flash store at manufacture. -/
opaque caChain : List (BitVec 8)
opaque deviceCert : List (BitVec 8)

/-- The alias certificate: the part that is signed, by the key's x and the measurements it carries, the scalar of the signature, and
the whole certificate with its signature. -/
opaque aliasBody (x : Nat) (measurements : List (BitVec 8)) : List (BitVec 8)
opaque aliasScalar (x : Nat) (measurements : List (BitVec 8)) : Nat
opaque x509 (body signature : List (BitVec 8)) : List (BitVec 8)

/-- Whether a LANE_REQ of a draw asks for a lane that is lost (R406) rather than degraded (R405): its block says neither. -/
opaque laneLost (draw : Nat) : Bool

/-- The flags byte of a twin-stream block's trailer (R412 gives no bits). -/
opaque twinFlags (draw : Nat) : BitVec 8

/-- The width and the speed that the CXL link negotiates, as places in the lists x16, x8, x4 and 32, 16, 8 GT/s (R446). -/
opaque linkWidth (draw : Nat) : Fin 3
opaque linkSpeed (draw : Nat) : Fin 3

/-- Whether a low pulse of 1 us to 10 us on DEV_RESET_N resets the device (R552 says neither). -/
opaque resetPulse (draw : Nat) : Bool

/-- CTExponent, DataTransferSize and MaxSPDMmsgSize of CAPABILITIES. -/
opaque spdmSizes : BitVec 8 × BitVec 32 × BitVec 32

/-- Byte `index` of the fresh nonce of a draw, and the secret scalar of a signature. -/
opaque nonceByte (draw index : Nat) : BitVec 8
opaque signScalar (draw : Nat) : Nat

/-- The status of a mailbox command whose read of ream memory meets an uncorrectable error (R499 names none). -/
opaque mboxReadStatus (draw : Nat) : BitVec 8

end Sys2Proof.Config
end

