-- ==== Sys2Proof/Machine/Num.lean ====
section
/-! DEFINITION. Formats, exact values, rounding, microscaling blocks and long accumulators (02_numeric_formats.md). -/

namespace Sys2Proof

/-- The operand formats of R74. The MX formats name their element format. -/
inductive Fmt where
  | fp32 | bf16 | fp16 | e4m3 | e5m2 | mx8a | mx8b | mx6a | mx6b | mx4 | int8 | int4 | int32
  deriving DecidableEq, Repr

/-- The element formats of R41. E8M0 is a block scale and never an element. -/
inductive Elem where
  | fp32 | bf16 | fp16 | e4m3 | e5m2 | e3m2 | e2m3 | e2m1 | int8 | int4 | int32
  deriving DecidableEq, Repr

/-- R74; codes 13-15 are reserved. -/
def Fmt.ofCode : Nat → Option Fmt
  | 0 => some .fp32 | 1 => some .bf16 | 2 => some .fp16 | 3 => some .e4m3 | 4 => some .e5m2
  | 5 => some .mx8a | 6 => some .mx8b | 7 => some .mx6a | 8 => some .mx6b | 9 => some .mx4
  | 10 => some .int8 | 11 => some .int4 | 12 => some .int32
  | _ => none

def Fmt.code : Fmt → Nat
  | .fp32 => 0 | .bf16 => 1 | .fp16 => 2 | .e4m3 => 3 | .e5m2 => 4 | .mx8a => 5 | .mx8b => 6
  | .mx6a => 7 | .mx6b => 8 | .mx4 => 9 | .int8 => 10 | .int4 => 11 | .int32 => 12

def Fmt.elem : Fmt → Elem
  | .fp32 => .fp32 | .bf16 => .bf16 | .fp16 => .fp16 | .e4m3 => .e4m3 | .e5m2 => .e5m2
  | .mx8a => .e4m3 | .mx8b => .e5m2 | .mx6a => .e3m2 | .mx6b => .e2m3 | .mx4 => .e2m1
  | .int8 => .int8 | .int4 => .int4 | .int32 => .int32

def Fmt.isMx : Fmt → Bool
  | .mx8a | .mx8b | .mx6a | .mx6b | .mx4 => true
  | _ => false

def Elem.isInt : Elem → Bool
  | .int8 | .int4 | .int32 => true
  | _ => false

/-- Width in bits (R41). -/
def Elem.width : Elem → Nat
  | .fp32 | .int32 => 32
  | .bf16 | .fp16 => 16
  | .e4m3 | .e5m2 | .int8 => 8
  | .e3m2 | .e2m3 => 6
  | .e2m1 | .int4 => 4

def Fmt.width (f : Fmt) : Nat := f.elem.width
def Fmt.isInt (f : Fmt) : Bool := f.elem.isInt

/-- Whether a format has infinities and NaNs (R42). -/
inductive Specials where
  | ieee   -- all-ones exponent: infinity or NaN
  | e4m3   -- S.1111.111 is NaN, no infinity
  | none   -- every code is finite
  deriving DecidableEq, Repr

/-- A floating-point layout of R41. -/
structure FpSpec where
  ebits : Nat
  mbits : Nat
  bias : Nat
  specials : Specials
  deriving DecidableEq, Repr

/-- The floating-point layout of an element format; the integer formats have none. -/
def Elem.fp : Elem → Option FpSpec
  | .fp32 => some ⟨8, 23, 127, .ieee⟩
  | .bf16 => some ⟨8, 7, 127, .ieee⟩
  | .fp16 => some ⟨5, 10, 15, .ieee⟩
  | .e4m3 => some ⟨4, 3, 7, .e4m3⟩
  | .e5m2 => some ⟨5, 2, 15, .ieee⟩
  | .e3m2 => some ⟨3, 2, 3, .none⟩
  | .e2m3 => some ⟨2, 3, 1, .none⟩
  | .e2m1 => some ⟨2, 1, 1, .none⟩
  | .int8 | .int4 | .int32 => none

def f32Spec : FpSpec := ⟨8, 23, 127, .ieee⟩

/-- The exponent of the least significant bit of a subnormal. -/
def FpSpec.qmin (p : FpSpec) : Int := 1 - (p.bias : Int) - (p.mbits : Int)

/-- The canonical NaN of R42. -/
def FpSpec.canonicalNaN (p : FpSpec) : Nat :=
  match p.specials with
  | .ieee => (2 ^ p.ebits - 1) * 2 ^ p.mbits + 2 ^ (p.mbits - 1)
  | .e4m3 => (2 ^ p.ebits - 1) * 2 ^ p.mbits + (2 ^ p.mbits - 1)
  | .none => 0

/-- The code of the largest finite magnitude (R42). -/
def FpSpec.maxBits (p : FpSpec) : Nat :=
  match p.specials with
  | .ieee => (2 ^ p.ebits - 2) * 2 ^ p.mbits + (2 ^ p.mbits - 1)
  | .e4m3 => (2 ^ p.ebits - 1) * 2 ^ p.mbits + (2 ^ p.mbits - 2)
  | .none => (2 ^ p.ebits - 1) * 2 ^ p.mbits + (2 ^ p.mbits - 1)

/-- The flags of NUM_STATUS (R57), bit by bit. -/
abbrev Flags := BitVec 7

namespace Flags
def none : Flags := 0
def nv : Flags := 1
def of : Flags := 2
def uf : Flags := 4
def nx : Flags := 8
def sat : Flags := 16
def laneRange : Flags := 32
def empty : Flags := 64
/-- A flag set where a condition holds. -/
def when (c : Bool) (f : Flags) : Flags := if c then f else 0
end Flags

/-- An exact value: NaN (signalling or quiet), an infinity, or (-1)^neg * mant * 2^exp. -/
inductive Val where
  | nan (signalling : Bool)
  | inf (neg : Bool)
  | fin (neg : Bool) (mant : Nat) (exp : Int)
  deriving DecidableEq, Repr

namespace Val

def zero : Val := .fin false 0 0
def ofInt (i : Int) : Val := .fin (decide (i < 0)) i.natAbs 0

def isNaN : Val → Bool
  | .nan _ => true
  | _ => false

def isSNaN : Val → Bool
  | .nan s => s
  | _ => false

def isInf : Val → Bool
  | .inf _ => true
  | _ => false

def isZero : Val → Bool
  | .fin _ 0 _ => true
  | _ => false

def sign : Val → Bool
  | .nan _ => false
  | .inf n => n
  | .fin n _ _ => n

/-- NV for a signalling NaN among the operands (R43). -/
def snanFlag (v : Val) : Flags := Flags.when v.isSNaN Flags.nv

def neg : Val → Val
  | .nan s => .nan s
  | .inf n => .inf (!n)
  | .fin n m e => .fin (!n) m e

/-- A finite value as an integer in units of 2^q, for q at most its exponent. -/
def units (n : Bool) (m : Nat) (e q : Int) : Int :=
  let k : Int := (m : Int) * 2 ^ (e - q).toNat
  if n then -k else k

/-- The exact sum. Opposite infinities give NaN with NV; a sum of zeros is -0 only where both are. -/
def add (a b : Val) : Val × Flags :=
  let f := a.snanFlag ||| b.snanFlag
  match a, b with
  | .nan _, _ | _, .nan _ => (.nan false, f)
  | .inf n, .inf k => if n = k then (.inf n, f) else (.nan false, f ||| Flags.nv)
  | .inf n, _ | _, .inf n => (.inf n, f)
  | .fin n m e, .fin k l g =>
    if m = 0 ∧ l = 0 then (.fin (n && k) 0 0, f)
    else
      let q := min e g
      let s := units n m e q + units k l g q
      if s = 0 then (.fin false 0 0, f) else (.fin (decide (s < 0)) s.natAbs q, f)

/-- The exact product. Zero times infinity gives NaN with NV. -/
def mul (a b : Val) : Val × Flags :=
  let f := a.snanFlag ||| b.snanFlag
  let s := xor a.sign b.sign
  match a, b with
  | .nan _, _ | _, .nan _ => (.nan false, f)
  | .inf _, .inf _ => (.inf s, f)
  | .inf _, .fin _ m _ | .fin _ m _, .inf _ => if m = 0 then (.nan false, f ||| Flags.nv) else (.inf s, f)
  | .fin _ m e, .fin _ l g => (.fin s (m * l) (e + g), f)

/-- a < b for values that are not NaN; -0 equals +0. -/
def lt (a b : Val) : Bool :=
  match a, b with
  | .nan _, _ | _, .nan _ => false
  | .inf n, .inf k => n && !k
  | .inf n, _ => n
  | _, .inf k => !k
  | .fin n m e, .fin k l g => let q := min e g; decide (units n m e q < units k l g q)

/-- a = b for values that are not NaN; -0 equals +0. -/
def eq (a b : Val) : Bool :=
  match a, b with
  | .nan _, _ | _, .nan _ => false
  | .inf n, .inf k => n == k
  | .inf _, _ | _, .inf _ => false
  | .fin n m e, .fin k l g => let q := min e g; decide (units n m e q = units k l g q)

/-- The value times 2^k, exactly. -/
def scale (v : Val) (k : Int) : Val :=
  match v with
  | .fin n m e => .fin n m (e + k)
  | w => w

end Val

/-- The value a floating-point code stands for (R41, R42, R44). -/
def FpSpec.decode (p : FpSpec) (bits : Nat) : Val :=
  let frac := bits % 2 ^ p.mbits
  let expo := bits / 2 ^ p.mbits % 2 ^ p.ebits
  let neg := decide (bits / 2 ^ (p.mbits + p.ebits) % 2 = 1)
  let top := 2 ^ p.ebits - 1
  let fin : Val :=
    if expo = 0 then .fin neg frac p.qmin else .fin neg (frac + 2 ^ p.mbits) (p.qmin + (expo : Int) - 1)
  match p.specials with
  | .ieee =>
    if expo = top then
      if frac = 0 then .inf neg else .nan (decide (frac < 2 ^ (p.mbits - 1)))
    else fin
  | .e4m3 => if expo = top ∧ frac = 2 ^ p.mbits - 1 then .nan false else fin
  | .none => fin

/-- The two's-complement value of the low `w` bits. -/
def signedOf (w bits : Nat) : Int := (BitVec.ofNat w bits).toInt

/-- The value an element code stands for. -/
def Elem.decode (f : Elem) (bits : Nat) : Val :=
  match f.fp with
  | some p => p.decode bits
  | none => Val.ofInt (signedOf f.width bits)

/-- Rounding modes 0-2 of R51. -/
inductive Rm where
  | rne | rz | sr
  deriving DecidableEq, Repr

def Rm.ofCode : Nat → Option Rm
  | 0 => some .rne
  | 1 => some .rz
  | 2 => some .sr
  | _ => none

/-- A magnitude `m * 2^e`, plus a little more where `sticky`, rounded to a multiple of 2^q: the multiple and whether
it is inexact (R51, R55). `r` is the 32-bit number of R55. -/
def roundAt (rm : Rm) (r : Nat) (m : Nat) (e q : Int) (sticky : Bool) : Nat × Bool :=
  if q ≤ e then
    let n := m * 2 ^ (e - q).toNat
    (n, sticky)
  else
    let d := (q - e).toNat
    let n := m / 2 ^ d
    let rem := m % 2 ^ d
    let inexact := decide (rem ≠ 0) || sticky
    let up : Bool := match rm with
      | .rne => decide (2 * rem > 2 ^ d) || (decide (2 * rem = 2 ^ d) && (sticky || decide (n % 2 = 1)))
      | .rz => false
      | .sr => decide (rem * 2 ^ 32 / 2 ^ d + r ≥ 2 ^ 32)
    (n + (if up then 1 else 0), inexact)

/-- The weight of the last place kept for a magnitude `m * 2^e`, m > 0: 2^q, never below the subnormal step (R55). -/
def FpSpec.lsb (p : FpSpec) (m : Nat) (e : Int) : Int := max (e + (Nat.log2 m : Int) - (p.mbits : Int)) p.qmin

/-- The magnitude of the largest finite value, in units of 2^qmin. -/
def FpSpec.maxUnits (p : FpSpec) : Nat :=
  let expo := p.maxBits / 2 ^ p.mbits
  (p.maxBits % 2 ^ p.mbits + 2 ^ p.mbits) * 2 ^ (expo - 1)

/-- The result of an overflow or of an infinite input (R54). -/
def FpSpec.big (p : FpSpec) (rm : Rm) (satc neg inf : Bool) : Nat × Flags :=
  let s := if neg then 2 ^ (p.ebits + p.mbits) else 0
  let top := s + p.maxBits
  match p.specials with
  | .ieee =>
    let infBits := s + (2 ^ p.ebits - 1) * 2 ^ p.mbits
    if inf then (infBits, 0)
    else if rm = .rz then (top, Flags.of)
    else if satc then (top, Flags.sat ||| Flags.of) else (infBits, Flags.of)
  | .e4m3 =>
    if satc then (top, if inf then Flags.sat else Flags.sat ||| Flags.of)
    else (p.canonicalNaN, if inf then Flags.nv else Flags.of ||| Flags.nv)
  | .none => (top, 0)

/-- A non-zero finite magnitude rounded to a floating-point format (R51, R54, R55), with the flags of R57. -/
def FpSpec.roundFin (p : FpSpec) (rm : Rm) (satc : Bool) (r : Nat) (neg : Bool) (m : Nat) (e : Int)
    (sticky : Bool) : Nat × Flags :=
  let q := p.lsb m e
  let (n, inexact) := roundAt rm r m e q sticky
  let tiny := decide (e + (Nat.log2 m : Int) < 1 - (p.bias : Int))
  let s := if neg then 2 ^ (p.ebits + p.mbits) else 0
  let fl := Flags.when inexact Flags.nx ||| Flags.when (inexact && tiny) Flags.uf
  if n * 2 ^ (q - p.qmin).toNat > p.maxUnits then
    let (b, f) := p.big rm satc neg false
    (b, f ||| Flags.nx)
  else (s + (q - p.qmin).toNat * 2 ^ p.mbits + n, fl)

/-- A value converted to a floating-point format. NaN becomes the canonical NaN (R43). -/
def FpSpec.encode (p : FpSpec) (rm : Rm) (satc : Bool) (r : Nat) (v : Val) : Nat × Flags :=
  match v with
  | .nan s => (p.canonicalNaN, Flags.when s Flags.nv)
  | .inf n => p.big rm satc n true
  | .fin n m e =>
    if m = 0 then ((if n then 2 ^ (p.ebits + p.mbits) else 0), 0) else p.roundFin rm satc r n m e false

/-- A value converted to a two's-complement integer of `w` bits (R54): the nearest bound with SAT when out of range.
A bound differs from the value, so NX is set with SAT, as R47 reads R57 (DEDUCED, log 10). -/
def encodeInt (w : Nat) (rm : Rm) (r : Nat) (v : Val) : Nat × Flags :=
  let hi : Int := 2 ^ (w - 1) - 1
  let lo : Int := -(2 ^ (w - 1))
  let code (i : Int) : Nat := (BitVec.ofInt w i).toNat
  match v with
  | .nan _ => (0, Flags.nv)
  | .inf n => (code (if n then lo else hi), Flags.sat)
  | .fin n m e =>
    let (k, inexact) := roundAt rm r m e 0 false
    let i : Int := if n then -(k : Int) else (k : Int)
    if i > hi then (code hi, Flags.sat ||| Flags.nx)
    else if i < lo then (code lo, Flags.sat ||| Flags.nx)
    else (code i, Flags.when inexact Flags.nx)

/-- A value converted to an element format. -/
def Elem.encode (f : Elem) (rm : Rm) (satc : Bool) (r : Nat) (v : Val) : Nat × Flags :=
  match f.fp with
  | some p => p.encode rm satc r v
  | none => encodeInt f.width rm r v

/-- FP32 bits of a value, rounded. -/
def toF32 (rm : Rm) (v : Val) : W32 × Flags :=
  let (b, f) := f32Spec.encode rm false 0 v
  (BitVec.ofNat 32 b, f)

def ofF32 (w : W32) : Val := f32Spec.decode w.toNat

/-! ### Reproducible stochastic rounding (R55) -/

def mix64 (z : W64) : W64 :=
  let a := (z ^^^ (z >>> 30)) * 0xBF58476D1CE4E5B9
  let b := (a ^^^ (a >>> 27)) * 0x94D049BB133111EB
  b ^^^ (b >>> 31)

/-- The 32-bit number r of R55. -/
def srDraw (seed : W32) (step addr : W64) : Nat :=
  let k := mix64 (mix64 (seed.setWidth 64) ^^^ step)
  ((mix64 (k ^^^ addr)) >>> 32).toNat

/-- The draw of a conversion under SR between elements of two widths, at an element address. SR applies to conversions to a
narrower format (R53); for any other, between which two values to choose is free (DESIGN CHOICE, log 228). -/
def srFor (src dst : Nat) (seed : W32) (step : W64) (addr : Nat) : Nat :=
  if dst < src then srDraw seed step (BitVec.ofNat 64 addr) else (Config.wideDraw seed addr).toNat

/-! ### Microscaling blocks -/

/-- The value of one MX element under scale code `c` (R45). A signalling element stays a signalling input (R43). -/
def mxValue (f : Elem) (c bits : Nat) : Val :=
  if c = 255 then .nan (f.decode bits).isSNaN
  else match f.decode bits with
    | .fin n m e => .fin n m (e + (c : Int) - 127)
    | .nan s => .nan s
    | .inf n => .inf n

/-- The largest unbiased exponent of an MX element format (R47). -/
def Elem.emax : Elem → Int
  | .e4m3 => 8
  | .e5m2 => 15
  | .e3m2 => 4
  | _ => 2

/-- One element of an MX block, rounded and clamped to the largest finite magnitude; the clamp sets neither SAT nor
OF, and NX wherever the value changes (R47). -/
def mxElement (p : FpSpec) (rm : Rm) (r : Nat) (v : Val) : Nat × Flags :=
  match v with
  | .fin n m e =>
    if m = 0 then ((if n then 2 ^ (p.ebits + p.mbits) else 0), 0)
    else
      let q := p.lsb m e
      let (k, inexact) := roundAt rm r m e q false
      let tiny := decide (e + (Nat.log2 m : Int) < 1 - (p.bias : Int))
      let s := if n then 2 ^ (p.ebits + p.mbits) else 0
      if k * 2 ^ (q - p.qmin).toNat > p.maxUnits then (s + p.maxBits, Flags.nx)
      else (s + (q - p.qmin).toNat * 2 ^ p.mbits + k,
            Flags.when inexact Flags.nx ||| Flags.when (inexact && tiny) Flags.uf)
  | _ => (0, 0)

/-- floor(log2 |v|) of a non-zero finite value. -/
def Val.floorLog2 : Val → Option Int
  | .fin _ m e => if m = 0 then none else some (e + (Nat.log2 m : Int))
  | _ => none

/-- Conversion of up to 32 values to an MX block: the scale code, the element codes and the flags (R47). `r i` is the
number of R55 for element i. -/
def mxConvert (f : Elem) (rm : Rm) (r : Nat → Nat) (xs : List Val) : Nat × List Nat × Flags :=
  match f.fp with
  | none => (0, [], 0)
  | some p =>
    if xs.any (fun v => v.isNaN || v.isInf) then (255, xs.map (fun _ => 0), Flags.nv)
    else match xs.filterMap Val.floorLog2 with
      | [] => (127, xs.map (fun v => (mxElement p rm 0 v).1), 0)
      | l :: ls =>
        let top := ls.foldl max l
        let x := max (-127) (min 127 (top - f.emax))
        let es := xs.zipIdx.map (fun vi => mxElement p rm (r vi.2) (vi.1.scale (-x)))
        ((x + 127).toNat, es.map Prod.fst, es.foldl (fun a e => a ||| e.2) 0)

/-- An element converted from one format to another (R54, R55): the code and the flags. -/
def convertCode (a b : Elem) (rm : Rm) (satc : Bool) (r code : Nat) : Nat × Flags :=
  let v := a.decode code
  let (c, f) := b.encode rm satc r v
  (c, f ||| v.snanFlag)

/-! ### FP32 arithmetic used by more than one unit -/

/-- FP32 addition rounded once. -/
def f32Add (rm : Rm) (a b : W32) : W32 × Flags :=
  let (v, f) := (ofF32 a).add (ofF32 b)
  let (w, g) := toF32 rm v
  (w, f ||| g)

/-- FP32 multiplication rounded once. -/
def f32Mul (rm : Rm) (a b : W32) : W32 × Flags :=
  let (v, f) := (ofF32 a).mul (ofF32 b)
  let (w, g) := toF32 rm v
  (w, f ||| g)

/-- a * b + c rounded once. -/
def f32Fma (rm : Rm) (a b c : W32) : W32 × Flags :=
  let (p, f) := (ofF32 a).mul (ofF32 b)
  let (v, g) := p.add (ofF32 c)
  let (w, h) := toF32 rm v
  (w, f ||| g ||| (ofF32 c).snanFlag ||| h)

def f32Sub (rm : Rm) (a b : W32) : W32 × Flags :=
  let (v, f) := (ofF32 a).add (ofF32 b).neg
  let (w, g) := toF32 rm v
  (w, f ||| g)

/-- R163: a NaN operand gives the canonical NaN; -0 lies below +0. -/
def f32MinMax (wantMax : Bool) (a b : W32) : W32 × Flags :=
  let x := ofF32 a
  let y := ofF32 b
  let f := x.snanFlag ||| y.snanFlag
  if x.isNaN || y.isNaN then (0x7FC00000, f)
  else
    let aLess := x.lt y || (!y.lt x && x.sign)
    if aLess = wantMax then (b, f) else (a, f)

/-- The integer square root, by bits from the top. -/
def isqrtLoop (n : Nat) : Nat → Nat → Nat
  | 0, s => s
  | k + 1, s => let t := s + 2 ^ k; if t * t ≤ n then isqrtLoop n k t else isqrtLoop n k s

def isqrt (n : Nat) : Nat := isqrtLoop n (Nat.log2 n / 2 + 1) 0

/-- A correctly rounded FP32 quotient with every flag of R57. Invalid: 0/0 and inf/inf give NaN with NV. A finite value
over zero is an infinity. -/
def f32DivFull (rm : Rm) (a b : W32) : W32 × Flags :=
  let x := ofF32 a
  let y := ofF32 b
  let f := x.snanFlag ||| y.snanFlag
  let s := xor x.sign y.sign
  let nan : W32 := 0x7FC00000
  match x, y with
  | .nan _, _ | _, .nan _ => (nan, f)
  | .inf _, .inf _ => (nan, f ||| Flags.nv)
  | .inf _, .fin _ _ _ => ((toF32 rm (.inf s)).1, f)
  | .fin _ _ _, .inf _ => ((toF32 rm (.fin s 0 0)).1, f)
  | .fin _ m e, .fin _ l g =>
    if l = 0 then if m = 0 then (nan, f ||| Flags.nv) else ((toF32 rm (.inf s)).1, f)
    else if m = 0 then ((toF32 rm (.fin s 0 0)).1, f)
    else
      let n := m * 2 ^ 64
      let (w, h) := f32Spec.roundFin rm false 0 s (n / l) (e - g - 64) (decide (n % l ≠ 0))
      (BitVec.ofNat 32 w, f ||| h)

/-- The quotient of R171: no function of its table sets UF or OF but as the table states, so it sets NV and NX only
(DEDUCED, log 13). -/
def f32Div (rm : Rm) (a b : W32) : W32 × Flags :=
  let (w, f) := f32DivFull rm a b
  (w, f &&& (Flags.nv ||| Flags.nx))

/-- A correctly rounded FP32 square root (R171). A negative non-zero operand gives NaN with NV; -0 gives -0. -/
def f32Sqrt (rm : Rm) (a : W32) : W32 × Flags :=
  let x := ofF32 a
  let nan : W32 := 0x7FC00000
  match x with
  | .nan s => (nan, Flags.when s Flags.nv)
  | .inf n => if n then (nan, Flags.nv) else (a, 0)
  | .fin n m e =>
    if m = 0 then (a, 0)
    else if n then (nan, Flags.nv)
    else
      let (m2, e2) := if e % 2 = 0 then (m, e) else (2 * m, e - 1)
      let k := m2 * 2 ^ 64
      let s := isqrt k
      let (w, h) := f32Spec.roundFin rm false 0 false s (e2 / 2 - 32) (decide (s * s ≠ k))
      (BitVec.ofNat 32 w, h)

/-! ### Long accumulators (R59-R62) -/

/-- A long accumulator: a 320-bit two's-complement value in units of 2^-149, four flags and the addend count. -/
structure LongAcc where
  v : BitVec 320
  nan : Bool
  pinf : Bool
  ninf : Bool
  allNegZ : Bool
  count : Nat
  deriving DecidableEq, Repr

namespace LongAcc

/-- A clear accumulator (R59). -/
def clear : LongAcc := ⟨0, false, false, false, true, 0⟩

/-- A finite exact value in units of 2^-149. Every addend's exponent is at least -149 (R59). -/
def fixed (n : Bool) (m : Nat) (e : Int) : BitVec 320 :=
  let k : Int := if e + 149 ≥ 0 then (m : Int) * 2 ^ (e + 149).toNat else (m : Int) / 2 ^ (-(e + 149)).toNat
  BitVec.ofInt 320 (if n then -k else k)

/-- One addend (R59, R61). The flag reports an accumulator overflow. -/
def add (a : LongAcc) (x : Val) : LongAcc × Bool :=
  if a.count ≥ 2 ^ 42 then ({ a with nan := true }, true)
  else
    let c := a.count + 1
    match x with
    | .nan _ => ({ a with nan := true, count := c }, false)
    | .inf n => ((if n then { a with ninf := true, count := c } else { a with pinf := true, count := c }), false)
    | .fin n m e =>
      if m = 0 ∧ n then ({ a with count := c }, false)
      else ({ a with v := a.v + fixed n m e, allNegZ := false, count := c }, false)

/-- The value read out, before rounding (R60). -/
def value (a : LongAcc) : Val :=
  if a.nan || (a.pinf && a.ninf) then .nan false
  else if a.pinf then .inf false
  else if a.ninf then .inf true
  else if a.v = 0 then .fin a.allNegZ 0 0
  else .fin (decide (a.v.toInt < 0)) a.v.toInt.natAbs (-149)

/-- Reading out to a format (R60); a NaN sets NV. -/
def read (a : LongAcc) (f : Elem) (rm : Rm) (satc : Bool) (r : Nat) : Nat × Flags :=
  let (b, fl) := f.encode rm satc r a.value
  (b, fl ||| Flags.when a.value.isNaN Flags.nv)

end LongAcc

/-- What a carry word carries (R62). -/
inductive Carry where
  | value (v : BitVec 320)
  | escape
  | nan
  | pinf
  | ninf
  | negZero
  | invalid
  deriving DecidableEq, Repr

/-- The meaning of a carry word (R62). -/
def decodeCarry (w : W64) : Carry :=
  if w = 0 then .value 0
  else
    let e := (w >>> 54).toNat
    let s := w.extractLsb' 0 54
    if e ≤ 318 then .value (BitVec.ofInt 320 s.toInt <<< e)
    else if e ≠ 0x3FF then .invalid
    else if s.toNat / 8 ≠ 0 then .invalid
    else match s.toNat with
      | 0 => .escape
      | 1 => .nan
      | 2 => .pinf
      | 3 => .ninf
      | 4 => .negZero
      | _ => .invalid

/-- The index of the lowest set bit, searched from `i` up. -/
def lowestBit (v : BitVec 320) : Nat → Nat → Nat
  | 0, i => i
  | fuel + 1, i => if v.getLsbD i then i else lowestBit v fuel (i + 1)

/-- The special carry word of a kind (R62). -/
def carrySpecial (kind : Nat) : W64 := BitVec.ofNat 64 (0x3FF * 2 ^ 54 + kind)

/-- The carry word of an accumulator; the escape word where S does not fit in 54 bits, or where only bit 319 is set,
for which no word with a valid E stands (R62; DEDUCED, log 170). -/
def encodeCarry (a : LongAcc) : W64 :=
  if a.nan || (a.pinf && a.ninf) then carrySpecial 1
  else if a.pinf then carrySpecial 2
  else if a.ninf then carrySpecial 3
  else if a.v = 0 then (if a.allNegZ then carrySpecial 4 else 0)
  else
    let e := lowestBit a.v 320 0
    let s := a.v.sshiftRight e
    if e ≤ 318 ∧ s.toInt < 2 ^ 53 ∧ -(2 ^ 53) ≤ s.toInt then
      ((s.setWidth 54).setWidth 64) ||| (BitVec.ofNat 64 e <<< 54)
    else carrySpecial 0

/-- A received carry word added to an accumulator as one addend (R62); an escape brings the full 320 bits. -/
def LongAcc.addCarry (a : LongAcc) (c : Carry) (full : BitVec 320) : LongAcc × Bool :=
  if a.count ≥ 2 ^ 42 then ({ a with nan := true }, true)
  else
    let b := { a with count := a.count + 1 }
    match c with
    | .value v => ({ b with v := b.v + v, allNegZ := false }, false)
    | .escape => ({ b with v := b.v + full, allNegZ := false }, false)
    | .nan => ({ b with nan := true }, false)
    | .pinf => ({ b with pinf := true }, false)
    | .ninf => ({ b with ninf := true }, false)
    | .negZero => (b, false)
    | .invalid => (a, false)

end Sys2Proof
end

