-- ==== Sys2Proof/Syntax.lean ====
section
/-! DEFINITION. The operands of the commands and the commands themselves. -/

namespace Sys2Proof

/-- Who makes a register access (R529). -/
inductive Src where
  | island
  | host
  | hart (f : Folio) (h : Fin 4)
  | cell (chip : BitVec 14) (die : BitVec 4)
  deriving DecidableEq, Repr

/-- The fields of an instruction word of format R below CLASS and OP, with its extension word (R70, R71, R73). -/
structure RWord where
  x : Bool
  d : BitVec 5
  a : BitVec 5
  b : BitVec 5
  m : BitVec 6
  imm : W32
  ext : W64
  deriving DecidableEq, Repr

/-- The fields of an instruction word of format P (R71). -/
structure PWord where
  x : Bool
  acc : BitVec 2
  fmt : BitVec 4
  aa : BitVec 4
  sb : BitVec 5
  mode : Bool
  fin : Bool
  rsv : BitVec 36
  ext : W64
  deriving DecidableEq, Repr

/-- The fields of an instruction word of format I (R71). -/
structure IWord where
  x : Bool
  td : BitVec 3
  ta : BitVec 3
  tb : BitVec 3
  tc : BitVec 3
  pg : BitVec 3
  ax : Bool
  rm : BitVec 2
  satc : Bool
  fmt : BitVec 4
  sr : BitVec 5
  ar : BitVec 4
  opx : BitVec 21
  ext : W64
  deriving DecidableEq, Repr

/-- A cell (R287, R288): the header fields, the payload with byte 0 in bits [7:0], the CRC as carried, DEPART and byte
87. -/
structure Cell where
  dstChip : BitVec 14
  dstDie : BitVec 4
  srcChip : BitVec 14
  srcDie : BitVec 4
  job : BitVec 12
  cls : BitVec 3
  rank : BitVec 3
  version : BitVec 4
  type : BitVec 6
  tag : W16
  seq : BitVec 12
  length : BitVec 7
  flags : BitVec 5
  rsv : BitVec 24
  payload : Payload
  crc : W32
  depart : BitVec 24
  last : Byte
  deriving DecidableEq, Repr

/-- The clock domains of R38. -/
inductive Domain where
  | tile (t : Tile)
  | twin (f : Folio)
  | cache (f : Folio)
  | parser (f : Folio)
  | mesh (f : Folio)
  | reamPhy (m : Ream)
  | reamBase (m : Ream)
  | port (p : Port)
  | deckle (n : Deckle)
  | ucie (i : Fin 8)
  | felt (d : Die)
  | cxl
  | island
  | tense (n : Deckle)
  deriving DecidableEq, Repr

/-- A link whose receiver reports on its lanes: an external port, or a felt link in the direction to its lower die
(`back` false: from it). -/
inductive Link where
  | port (p : Port)
  | felt (k : Felt) (back : Bool)
  deriving DecidableEq, Repr


/-- What a collective engine sends next (R362, R363, R369): the next contribution to a local member, by chip, or to the
device's own accumulation; a carry segment; the copy of the next own chunk into its destination; and the next chunk for
the local peers or for the ring successor. -/
inductive SendKind where
  | contrib (chip : BitVec 14)
  | carry
  | copy
  | multicast
  | forward
  deriving DecidableEq, Repr

/-- The RISC-V atomic operations of R466. -/
inductive Amo where
  | add
  | and
  | or
  | xor
  | min
  | max
  | minu
  | maxu
  | swap
  deriving DecidableEq, Repr

/-- What a parser-core hart does with an address (R465, R466). `held` says that the hart, which is outside the model, still
holds the reservation of its LR. -/
inductive HartOp where
  | load
  | store (data : W64)
  | amo (op : Amo) (data : W64)
  | lr
  | sc (data : W64) (held : Bool)
  deriving DecidableEq, Repr

/-- A domain that DEV_RESET resets alone (R490). -/
inductive ResetDomain where
  | folio (f : Folio)
  | deckle (n : Deckle)
  | tile (t : Tile)
  deriving DecidableEq, Repr

/-- What self-test finds on a tile (R150): the faulty physical rows 0-127, and whether a fault is not confined to one
physical row. -/
structure SelfTest where
  tile : Tile
  rows : List (Fin 129)
  wide : Bool
  deriving DecidableEq, Repr

/-- What the bring-up sequence of R477 finds: the rail of step 3 that does not report power good; the revisions of step 4;
the widths that the adapters of each pair report (R413); whether step 6 and
step 7 fail twice; per line the primary, standby and maximum drive that the LSM reports, if it is present, and its own
identity digest; the spare lanes of each ream (R219); the tiles on which self-test finds a fault; per folio and point the
lowest voltage in mV at which every critical-path monitor passes (R434); per folio the rail report of step 10 in mW; and
the duration in ms. -/
structure Boot where
  railFail : Option (Fin 30)
  folioRev : Vector Byte 8
  deckleRev : Vector Byte 2
  baseRev : Vector Byte 32
  twins : Vector (Vector (BitVec 4) 4) 4
  feltFail : Bool
  drives : Option (Vector (BitVec 16 × BitVec 16 × BitVec 16) 9)
  lsmDigest : Option (BitVec 256)
  reamFail : Bool
  lanes : Vector (Fin 65) 32
  tests : List SelfTest
  minMv : Vector (Vector (BitVec 16) 8) 8
  railMw : Vector (BitVec 24) 8
  ms : W32
  deriving DecidableEq, Repr

/-- How a mailbox command comes to its effect (R498): `bar`, from the command engine, which holds it with its arguments since BAR
index 0 started it or it waited there; or as it arrives over the management I3C bus, with its arguments and its data. -/
inductive Via where
  | bar
  | i3c (args : Vector W64 4) (data : List Byte)
  deriving DecidableEq, Repr

/-- What the fast comparator saw of a line (R398): its eight taps in two consecutive samples, in 0.01 dB. -/
structure LineSense where
  line : Line
  first : Vector (BitVec 16) 8
  second : Vector (BitVec 16) 8
  deriving DecidableEq, Repr

/-- A FENCE of a hart (R467) with its predecessor set: I, O, R, W in bits 3 to 0. -/
structure HartFenceOp where
  hart : Fin 4
  pred : BitVec 4
  deriving DecidableEq, Repr

/-- The commands, one constructor per row of the opcode table (spec/opcode_table.json). -/
inductive Instr where
  /-- POWER_ON, R476 -/
  | powerOn
  /-- BRINGUP, R477 -/
  | bringup (b : Boot)
  /-- DEV_RESET_N, R490: the pin changes its level. -/
  | devResetN
  /-- DEV_RESET_WHOLE, R490 -/
  | devResetWhole (src : Src)
  /-- DEV_RESET_PROCEED, R475 -/
  | devResetProceed (src : Src)
  /-- FOLIO_RESET, R491 -/
  | folioReset (src : Src) (folios : BitVec 8)
  /-- DECKLE_RESET, R490 -/
  | deckleReset (src : Src) (deckles : BitVec 2)
  /-- TILE_RESET, R491 -/
  | tileReset (src : Src) (index : Byte)
  /-- RESET_DONE, R490 -/
  | resetDone (d : ResetDomain)
  /-- CXL_RESET, R490 -/
  | cxlReset (perst : Bool)
  /-- MODE_CTL_SERVICE, R474 -/
  | modeCtlService (src : Src)
  /-- MODE_CTL_TEST, R474 -/
  | modeCtlTest (src : Src)
  /-- RECOVERY_START, R484 -/
  | recoveryStart (src : Src)
  /-- RECOVERY_DATA, R484 -/
  | recoveryData (src : Src) (data : W64)
  /-- RECOVERY_COMMIT, R484 -/
  | recoveryCommit (src : Src)
  /-- REGISTER_WRITE, R9 -/
  | registerWrite (src : Src) (off : BitVec 27) (wide : Bool) (value : W64) (line : BitVec 32)
  /-- BAD_SIZE_ACCESS, R11 -/
  | badSizeAccess (off : BitVec 27) (size : Nat) (write : Bool)
  /-- FAULT_RING_ACK, R500 -/
  | faultRingAck (src : Src) (index : W64)
  /-- DOMAIN_GATE, R39 -/
  | domainGate (d : Domain)
  /-- INSTRUCTION_FETCH, R68 -/
  | instructionFetch (t : Tile)
  /-- NOP, R81 -/
  | nop (t : Tile) (w : RWord)
  /-- HALT, R81 -/
  | halt (t : Tile) (w : RWord)
  /-- BR, R81 -/
  | br (t : Tile) (w : RWord)
  /-- BRC, R81 -/
  | brc (t : Tile) (w : RWord)
  /-- JR, R81 -/
  | jr (t : Tile) (w : RWord)
  /-- CALL, R81 -/
  | call (t : Tile) (w : RWord)
  /-- LOOP, R83 -/
  | loop (t : Tile) (w : RWord)
  /-- BRK, R81 -/
  | brk (t : Tile) (w : RWord)
  /-- LEXIT, R83 -/
  | lexit (t : Tile) (w : RWord)
  /-- ADD, R84 -/
  | add (t : Tile) (w : RWord)
  /-- SUB, R84 -/
  | sub (t : Tile) (w : RWord)
  /-- MUL, R84 -/
  | mul (t : Tile) (w : RWord)
  /-- MULHU, R84 -/
  | mulhu (t : Tile) (w : RWord)
  /-- DIVU, R85 -/
  | divu (t : Tile) (w : RWord)
  /-- REMU, R85 -/
  | remu (t : Tile) (w : RWord)
  /-- AND, R84 -/
  | and (t : Tile) (w : RWord)
  /-- OR, R84 -/
  | or (t : Tile) (w : RWord)
  /-- XOR, R84 -/
  | xor (t : Tile) (w : RWord)
  /-- SHL, R84 -/
  | shl (t : Tile) (w : RWord)
  /-- SHR, R84 -/
  | shr (t : Tile) (w : RWord)
  /-- SRA, R84 -/
  | sra (t : Tile) (w : RWord)
  /-- MIN, R84 -/
  | min (t : Tile) (w : RWord)
  /-- MAX, R84 -/
  | max (t : Tile) (w : RWord)
  /-- MINU, R84 -/
  | minu (t : Tile) (w : RWord)
  /-- MAXU, R84 -/
  | maxu (t : Tile) (w : RWord)
  /-- SLT, R84 -/
  | slt (t : Tile) (w : RWord)
  /-- SLTU, R84 -/
  | sltu (t : Tile) (w : RWord)
  /-- LI, R84 -/
  | li (t : Tile) (w : RWord)
  /-- LD, R86 -/
  | ld (t : Tile) (w : RWord)
  /-- ST, R86 -/
  | st (t : Tile) (w : RWord)
  /-- MOVSA, R84 -/
  | movsa (t : Tile) (w : RWord)
  /-- MOVAS, R84 -/
  | movas (t : Tile) (w : RWord)
  /-- AADD, R84 -/
  | aadd (t : Tile) (w : RWord)
  /-- RDSR, R87 -/
  | rdsr (t : Tile) (w : RWord)
  /-- WRSR, R87 -/
  | wrsr (t : Tile) (w : RWord)
  /-- SETVL, R84 -/
  | setvl (t : Tile) (w : RWord)
  /-- DMA, R89 -/
  | dma (t : Tile) (w : RWord)
  /-- PREF, R200 -/
  | pref (t : Tile) (w : RWord)
  /-- DESCRIPTOR_FETCH, R213 -/
  | descriptorFetch (t : Tile)
  /-- DMA_COPY, R206 -/
  | dmaCopy (t : Tile) (tag : Fin 32)
  /-- DMA_GATHER, R206 -/
  | dmaGather (t : Tile) (tag : Fin 32)
  /-- DMA_SCATTER, R206 -/
  | dmaScatter (t : Tile) (tag : Fin 32)
  /-- DMA_SKEW, R210 -/
  | dmaSkew (t : Tile) (tag : Fin 32)
  /-- DMA_SKEW_GATHER, R210 -/
  | dmaSkewGather (t : Tile) (tag : Fin 32)
  /-- DMA_FILL, R206 -/
  | dmaFill (t : Tile) (tag : Fin 32)
  /-- DMA_COMPLETE, R211 -/
  | dmaComplete (t : Tile) (tag : Fin 32)
  /-- WLD, R126 -/
  | wld (t : Tile) (w : PWord)
  /-- WLD_LOAD_END, R126 -/
  | wldLoadEnd (t : Tile)
  /-- WSWAP, R127 -/
  | wswap (t : Tile) (w : PWord)
  /-- STREAM, R133 -/
  | stream (t : Tile) (w : PWord)
  /-- STREAM_ROW_COMPLETE, R134 -/
  | streamRowComplete (t : Tile)
  /-- PRESS_RESUME, R138 -/
  | pressResume (t : Tile)
  /-- CPOP, R161 -/
  | cpop (t : Tile) (w : IWord)
  /-- TLD, R99 -/
  | tld (t : Tile) (w : IWord)
  /-- TST, R99 -/
  | tst (t : Tile) (w : IWord)
  /-- INFL_ADD, R162 -/
  | inflAdd (t : Tile) (w : IWord)
  /-- INFL_SUB, R162 -/
  | inflSub (t : Tile) (w : IWord)
  /-- INFL_MUL, R162 -/
  | inflMul (t : Tile) (w : IWord)
  /-- FMA, R162 -/
  | fma (t : Tile) (w : IWord)
  /-- INFL_MIN, R163 -/
  | inflMin (t : Tile) (w : IWord)
  /-- INFL_MAX, R163 -/
  | inflMax (t : Tile) (w : IWord)
  /-- ABS, R163 -/
  | abs (t : Tile) (w : IWord)
  /-- NEG, R163 -/
  | neg (t : Tile) (w : IWord)
  /-- SEL, R165 -/
  | sel (t : Tile) (w : IWord)
  /-- BCAST, R166 -/
  | bcast (t : Tile) (w : IWord)
  /-- CVT, R168 -/
  | cvt (t : Tile) (w : IWord)
  /-- SCALE, R167 -/
  | scale (t : Tile) (w : IWord)
  /-- EXP2, R171 -/
  | exp2 (t : Tile) (w : IWord)
  /-- LOG2, R171 -/
  | log2 (t : Tile) (w : IWord)
  /-- RCP, R171 -/
  | rcp (t : Tile) (w : IWord)
  /-- RSQRT, R171 -/
  | rsqrt (t : Tile) (w : IWord)
  /-- SQRT, R171 -/
  | sqrt (t : Tile) (w : IWord)
  /-- TANH, R171 -/
  | tanh (t : Tile) (w : IWord)
  /-- SIGM, R171 -/
  | sigm (t : Tile) (w : IWord)
  /-- DIV, R171 -/
  | div (t : Tile) (w : IWord)
  /-- CMP, R173 -/
  | cmp (t : Tile) (w : IWord)
  /-- RED, R178 -/
  | red (t : Tile) (w : IWord)
  /-- PERM, R180 -/
  | perm (t : Tile) (w : IWord)
  /-- ELIDE, R182 -/
  | elide (t : Tile) (w : IWord)
  /-- RESTORE, R183 -/
  | restore (t : Tile) (w : IWord)
  /-- PLOG, R175 -/
  | plog (t : Tile) (w : IWord)
  /-- PGEN, R175 -/
  | pgen (t : Tile) (w : IWord)
  /-- PCNT, R175 -/
  | pcnt (t : Tile) (w : IWord)
  /-- TMOV, R165 -/
  | tmov (t : Tile) (w : IWord)
  /-- INFLECTION_COMPLETE, R160 -/
  | inflectionComplete (t : Tile) (tag : Fin 64)
  /-- SBWAIT, R101 -/
  | sbwait (t : Tile) (w : RWord)
  /-- TWAIT, R102 -/
  | twait (t : Tile) (w : RWord)
  /-- BARR, R103 -/
  | barr (t : Tile) (w : RWord)
  /-- EGRANT, R104 -/
  | egrant (t : Tile) (w : RWord)
  /-- EEND, R104 -/
  | eend (t : Tile) (w : RWord)
  /-- FENCE, R105 -/
  | fence (t : Tile) (w : RWord)
  /-- TFENCE, R106 -/
  | tfence (t : Tile) (w : RWord)
  /-- POST, R107 -/
  | post (t : Tile) (w : RWord)
  /-- TILE_HALT, R113 -/
  | tileHalt (t : Tile)
  /-- SEQ_CTL_START, R119 -/
  | seqCtlStart (src : Src) (t : Tile)
  /-- SEQ_CTL_STOP, R115 -/
  | seqCtlStop (src : Src) (t : Tile)
  /-- VAT_SCRUB, R190 -/
  | vatScrub (t : Tile)
  /-- ENERGY_WINDOW, R422 -/
  | energyWindow (loads : Vector (BitVec 20) 8)
  /-- ENERGY_GRANT, R425 -/
  | energyGrant (t : Tile)
  /-- SLEW_STEP, R431 -/
  | slewStep (f : Folio)
  /-- PULP_RAMP_UP, R432 -/
  | pulpRampUp (q : HQueue) (index : BitVec 32)
  /-- PULP_RAMP_END, R432 -/
  | pulpRampEnd (t : Tile)
  /-- DVFS_REVIEW, R419 -/
  | dvfsReview
  /-- MC_TICK, R429 -/
  | mcTick (reports : List (Fin 32 × BitVec 24))
  /-- TELEMETRY_LOST, R429 -/
  | telemetryLost (r : Fin 32)
  /-- MARGIN_BUMP, R435 -/
  | marginBump (f : Folio)
  /-- SENSOR_SAMPLE, R438 -/
  | sensorSample (k : Sensor) (reading : BitVec 16)
  /-- FAST_RISE_END, R439 -/
  | fastRiseEnd (k : Sensor)
  /-- THERMAL_TRIP, R441 -/
  | thermalTrip (k : Sensor) (reading : BitVec 16)
  /-- TRIP_RESTART, R442 -/
  | tripRestart
  /-- COOLANT_SAMPLE, R443 -/
  | coolantSample (ok : Bool)
  /-- RAIL_FAULT, R551 -/
  | railFault (r : Fin 30) (status : W16)
  /-- MC_HEARTBEAT_LOSS, R494 -/
  | mcHeartbeatLoss (watchdog : Bool)
  /-- DUAL_WATCHDOG, R495 -/
  | dualWatchdog
  /-- TENSE_ENABLE, R260 -/
  | tenseEnable (src : Src) (ctl : BitVec 3)
  /-- TENSE_MARKER_SEND, R262 -/
  | tenseMarkerSend
  /-- TENSE_MARKER, R263 -/
  | tenseMarker (p : Fin 66) (m : BitVec 256)
  /-- MARKER_TIMEOUT, R268 -/
  | markerTimeout (p : Fin 66)
  /-- HOLDOVER_EXPIRY, R269 -/
  | holdoverExpiry
  /-- ROOT_TAKEOVER, R261 -/
  | rootTakeover
  /-- TENSE_QUIESCE_WRITE, R273 -/
  | tenseQuiesceWrite (src : Src) (tense : W64)
  /-- QUIESCE_AT, R273 -/
  | quiesceAt
  /-- QUIESCED, R273 -/
  | quiesced
  /-- RING_HELLO_SEND, R409 -/
  | ringHelloSend
  /-- RING_HELLO, R409 -/
  | ringHello (chip : BitVec 14) (heard : BitVec 14) (good : Bool)
  /-- BYPASS_OPEN, R410 -/
  | bypassOpen (light : Bool)
  /-- MESH_INJECT, R302 -/
  | meshInject (f : Folio) (src : Fin 40)
  /-- CELL_INGRESS, R324 -/
  | cellIngress (n : Deckle) (q : Fin 48) (c : Cell)
  /-- CELL_TRANSMIT, R333 -/
  | cellTransmit (n : Deckle) (q : Fin 48)
  /-- CONTROL_BLOCK, R391 -/
  | controlBlock (p : Port) (b : BitVec 512)
  /-- TRANSACTION_CELL, R295 -/
  | transactionCell (d : Die) (c : Cell)
  /-- ASSEMBLY_EXPIRY, R295 -/
  | assemblyExpiry (d : Die) (srcChip : BitVec 14) (srcDie : BitVec 4) (tag : W16)
  /-- DUPLICATE_RECORD_EXPIRY, R310 -/
  | duplicateRecordExpiry (d : Die) (srcChip : BitVec 14) (srcDie : BitVec 4) (tag : W16)
  /-- RETX_TIMER, R308 -/
  | retxTimer (d : Die) (tag : Fin 65536)
  /-- REMOTE_TIMEOUT, R309 -/
  | remoteTimeout (d : Die) (tag : Fin 65536)
  /-- MEM_REPLY, R294 -/
  | memReply (d : Die) (c : Cell)
  /-- NAK, R312 -/
  | nak (d : Die) (c : Cell)
  /-- MGMT_READ, R524 -/
  | mgmtRead (n : Deckle) (c : Cell)
  /-- MGMT_WRITE, R524 -/
  | mgmtWrite (n : Deckle) (c : Cell)
  /-- LOAD, R234 -/
  | load (f : Folio)
  /-- STORE, R234 -/
  | store (f : Folio)
  /-- ATOM_ADD, R234 -/
  | atomAdd (f : Folio)
  /-- ATOM_AND, R234 -/
  | atomAnd (f : Folio)
  /-- ATOM_OR, R234 -/
  | atomOr (f : Folio)
  /-- ATOM_XOR, R234 -/
  | atomXor (f : Folio)
  /-- ATOM_SMIN, R234 -/
  | atomSmin (f : Folio)
  /-- ATOM_SMAX, R234 -/
  | atomSmax (f : Folio)
  /-- ATOM_UMIN, R234 -/
  | atomUmin (f : Folio)
  /-- ATOM_UMAX, R234 -/
  | atomUmax (f : Folio)
  /-- ATOM_SWAP, R234 -/
  | atomSwap (f : Folio)
  /-- ATOM_CAS, R234 -/
  | atomCas (f : Folio)
  /-- ATOM_FADD, R234 -/
  | atomFadd (f : Folio)
  /-- RED_ADD, R235 -/
  | redAdd (f : Folio)
  /-- RED_MAX, R235 -/
  | redMax (f : Folio)
  /-- RED_MIN, R235 -/
  | redMin (f : Folio)
  /-- ACC_ADD, R240 -/
  | accAdd (f : Folio)
  /-- ACC_CARRY, R240 -/
  | accCarry (f : Folio)
  /-- ACC_WIDE, R240 -/
  | accWide (f : Folio)
  /-- REAM_SCRUB, R223 -/
  | reamScrub (m : Ream)
  /-- REFRESH, R224 -/
  | refresh (m : Ream) (bank : Fin 2048) (queued : Bool) (rows : Fin 2048)
  /-- ECQ_CTL_ENABLE, R242 -/
  | ecqCtlEnable (src : Src) (f : Folio) (q : Ecq) (ctl : W64)
  /-- ECQ_RESUME, R242 -/
  | ecqResume (src : Src) (f : Folio) (q : Ecq) (ctl : W64)
  /-- ECQ_TAIL_WRITE, R242 -/
  | ecqTailWrite (f : Folio) (q : Ecq)
  /-- ECQ_RECORD_FETCH, R246 -/
  | ecqRecordFetch (f : Folio) (q : Ecq)
  /-- CONVERT, R244 -/
  | convert (f : Folio) (q : Ecq)
  /-- ENG_GATHER, R244 -/
  | engGather (f : Folio) (q : Ecq)
  /-- ENG_SCATTER, R244 -/
  | engScatter (f : Folio) (q : Ecq)
  /-- ENG_ELIDE, R244 -/
  | engElide (f : Folio) (q : Ecq)
  /-- ENG_RESTORE, R244 -/
  | engRestore (f : Folio) (q : Ecq)
  /-- REGION_OPEN, R245 -/
  | regionOpen (f : Folio) (q : Ecq)
  /-- REGION_FINAL, R245 -/
  | regionFinal (f : Folio) (q : Ecq)
  /-- REGION_ABANDON, R245 -/
  | regionAbandon (f : Folio) (q : Ecq)
  /-- SGDM, R249 -/
  | sgdm (f : Folio) (q : Ecq)
  /-- ADAM, R249 -/
  | adam (f : Folio) (q : Ecq)
  /-- ADAMW, R249 -/
  | adamw (f : Folio) (q : Ecq)
  /-- ENGINE_COMMAND_COMPLETE, R247 -/
  | engineCommandComplete (f : Folio) (q : Ecq)
  /-- COLL_CREATE, R350 -/
  | collCreate (src : Src) (g : Coll) (ctl : W64)
  /-- COLL_DESTROY, R351 -/
  | collDestroy (src : Src) (g : Coll) (ctl : W64)
  /-- COLL_PREEMPT, R377 -/
  | collPreempt (src : Src) (g : Coll) (ctl : W64)
  /-- COLL_RESUME, R377 -/
  | collResume (src : Src) (g : Coll) (ctl : W64)
  /-- FORCE_ARRIVE, R354 -/
  | forceArrive (src : Src) (g : Coll) (ctl : W64)
  /-- JOIN, R350 -/
  | join (n : Deckle) (c : Cell)
  /-- CREATE_TIMEOUT, R350 -/
  | createTimeout (g : Coll)
  /-- ENTRY_VALIDATE, R358 -/
  | entryValidate (g : Coll)
  /-- DEVICE_ARRIVAL, R354 -/
  | deviceArrival (g : Coll)
  /-- ARRIVE, R355 -/
  | arrive (n : Deckle) (c : Cell)
  /-- EXCHANGE_START, R355 -/
  | exchangeStart (g : Coll)
  /-- REDUCE_SCATTER, R362 -/
  | reduceScatter (g : Coll)
  /-- ALL_GATHER, R369 -/
  | allGather (g : Coll)
  /-- CHUNK_SEND, R363 -/
  | chunkSend (g : Coll) (k : SendKind)
  /-- CONTRIB, R364 -/
  | contrib (n : Deckle) (c : Cell)
  /-- CARRY, R364 -/
  | carry (n : Deckle) (c : Cell)
  /-- GATHER, R369 -/
  | gather (n : Deckle) (c : Cell)
  /-- CREDIT, R363 -/
  | credit (n : Deckle) (c : Cell)
  /-- ACCUMULATION_FINISH, R364 -/
  | accumulationFinish (g : Coll) (x : Nat)
  /-- FUSED_UPDATE_DONE, R372 -/
  | fusedUpdateDone (g : Coll) (x : Nat)
  /-- STAGING_SLOT_FREE, R370 -/
  | stagingSlotFree (g : Coll) (slot : Nat)
  /-- DIGEST, R375 -/
  | digest (n : Deckle) (c : Cell)
  /-- ABORT, R378 -/
  | abort (n : Deckle) (c : Cell)
  /-- STEP_TIMEOUT, R378 -/
  | stepTimeout (g : Coll)
  /-- COLLECTIVE_COMPLETION, R382 -/
  | collectiveCompletion (g : Coll)
  /-- LOSS_OF_FRAME, R341 -/
  | lossOfFrame (p : Port) (words : BitVec 16)
  /-- PORT_BRINGUP, R392 -/
  | portBringup (p : Port)
  /-- PORT_STEP_TIMEOUT, R392 -/
  | portStepTimeout (p : Port) (lost : Bool)
  /-- IDENTITY_BLOCK, R393 -/
  | identityBlock (p : Port) (b : BitVec 512)
  /-- IDENTITY_RECHECK, R393 -/
  | identityRecheck (p : Port)
  /-- PORT_ADMISSION, R395 -/
  | portAdmission (p : Port)
  /-- PORT_ADMIT_WRITE, R395 -/
  | portAdmitWrite (src : Src) (p : Port) (enable : Bool)
  /-- PORT_MODE_WRITE, R338 -/
  | portModeWrite (src : Src) (n : Deckle) (modes : W64)
  /-- QUARANTINE_RELEASE, R317 -/
  | quarantineRelease (src : Src) (p : Port)
  /-- LANE_FAULT, R406 -/
  | laneFault (l : Link) (lanes : BitVec 34)
  /-- LANE_FAULT_CLEAR, R406 -/
  | laneFaultClear (l : Link) (words : BitVec 16)
  /-- LANE_FAULT_TIMEOUT, R407 -/
  | laneFaultTimeout (p : Port)
  /-- LANE_DEGRADED, R405 -/
  | laneDegraded (l : Link) (lane : Fin 34) (corrected : BitVec 24)
  /-- LINE_POWER_UPDATE, R398 -/
  | linePowerUpdate (l : Line) (taps : Vector (BitVec 16) 8) (primary : BitVec 16) (standby : BitVec 16) (most : BitVec 16)
  /-- LINE_LOST, R408 -/
  | lineLost (l : LineSense)
  /-- LINE_RECOVERY_DONE, R408 -/
  | lineRecoveryDone (l : Line) (standby : BitVec 16)
  /-- CHANGEOVER, R399 -/
  | changeover (l : Line) (threshold : BitVec 16)
  /-- CHANGEOVER_STEP, R399 -/
  | changeoverStep (l : Line) (primary : BitVec 16) (standby : BitVec 16) (power : BitVec 16) (primaryFailed : Bool)
  /-- COMB_SOURCE_FAIL, R387 -/
  | combSourceFail (d : Die) (k : Fin 2)
  /-- HEATER_UPDATE, R401 -/
  | heaterUpdate (r : Fin 7274)
  /-- RECALIBRATION, R402 -/
  | recalibration (p : Port)
  /-- LANE_CALIBRATION, R403 -/
  | laneCalibration (p : Port) (tx : Bool) (code : BitVec 12) (errors : BitVec 32)
  /-- TWIN_TRAINING, R413 -/
  | twinTraining (k : Pair) (a : BitVec 4) (b : BitVec 4) (a2 : BitVec 4) (b2 : BitVec 4)
  /-- TWIN_BLOCK, R412 -/
  | twinBlock (f : Folio) (good : Bool)
  /-- LAUNCH_DISPATCH, R24 -/
  | launchDispatch (f : Folio) (q : HQueue) (index : BitVec 32)
  /-- HQ_ENABLE, R463 -/
  | hqEnable (src : Src) (q : HQueue) (ctl : W64) (line : BitVec 32)
  /-- HQ_TAIL_SNOOP, R453 -/
  | hqTailSnoop (q : HQueue) (line : BitVec 32)
  /-- HQ_TAIL_POLL, R453 -/
  | hqTailPoll (lines : Vector (BitVec 32) 64)
  /-- HQ_ENTRY_FETCH, R455 -/
  | hqEntryFetch (q : HQueue) (entry : Option (Vector W64 16))
  /-- LAUNCH, R459 -/
  | launch (q : HQueue)
  /-- HQ_NOP, R456 -/
  | hqNop (q : HQueue)
  /-- LAUNCH_COMPLETE, R457 -/
  | launchComplete (q : HQueue) (index : BitVec 32)
  /-- FEAT_COMMIT, R460 -/
  | featCommit (src : Src)
  /-- BIAS_FLIP_GO, R451 -/
  | biasFlipGo (src : Src)
  /-- BIAS_FLIP_DONE, R451 -/
  | biasFlipDone
  /-- HDM_COMMIT, R447 -/
  | hdmCommit (d : Fin 2) (base : BitVec 36) (size : BitVec 36) (skip : BitVec 36) (ways : BitVec 4) (lock : Bool)
  /-- CXL_MEM_READ, R449 -/
  | cxlMemRead (hpa : W64)
  /-- CXL_MEM_WRITE, R449 -/
  | cxlMemWrite (hpa : W64) (data : Payload)
  /-- BAR2_READ, R537 -/
  | bar2Read (off : BitVec 26) (n : BitVec 13)
  /-- BAR2_WRITE, R537 -/
  | bar2Write (off : BitVec 26) (data : List (Byte × Bool))
  /-- APERTURE_ACCESS, R466 -/
  | apertureAccess (f : Folio) (h : Fin 4) (n : Fin 16) (off : BitVec 40) (size : Fin 4) (op : HartOp)
  /-- HART_FENCE, R467 -/
  | hartFence (f : Folio) (op : HartFenceOp)
  /-- EVQ_HEAD_WRITE, R469 -/
  | evqHeadWrite (src : Src) (f : Folio) (index : W32)
  /-- SENSOR_PEAK_CLR, R445 -/
  | sensorPeakClr (src : Src) (k : Sensor)
  /-- SCORE_CLEAR, R522 -/
  | scoreClear (src : Src)
  /-- SCORE_DECAY, R514 -/
  | scoreDecay
  /-- FW_UPDATE, R482 -/
  | fwUpdate (via : Via) (flashOk : Bool)
  /-- SVN_COMMIT, R483 -/
  | svnCommit (via : Via)
  /-- DEBUG_CHALLENGE, R488 -/
  | debugChallenge (via : Via)
  /-- DEBUG_TOKEN, R489 -/
  | debugToken (via : Via)
  /-- SENT_LOAD, R516 -/
  | sentLoad (via : Via)
  /-- SENT_ENABLE, R515 -/
  | sentEnable (via : Via)
  /-- SENT_DISABLE, R515 -/
  | sentDisable (via : Via)
  /-- SENT_RUN, R515 -/
  | sentRun (via : Via)
  /-- HASH, R515 -/
  | hash (via : Via)
  /-- MBOX_BAD_COMMAND, R499 -/
  | mboxBadCommand (via : Via) (code : Byte)
  /-- SENTINEL_START, R517 -/
  | sentinelStart (k : Fin 8)
  /-- SENTINEL_STOP, R517 -/
  | sentinelStop
  /-- UNLOCK_CHAL, R488 -/
  | unlockChal
  /-- UNLOCK_TOKEN, R489 -/
  | unlockToken (tok : Vector Byte 176)
  /-- CDAT_READ, R448 -/
  | cdatRead (entry : W16)
  /-- GET_VERSION, R487 -/
  | getVersion (mctp : Bool) (req : List Byte)
  /-- GET_CAPABILITIES, R487 -/
  | getCapabilities (mctp : Bool) (req : List Byte)
  /-- NEGOTIATE_ALGORITHMS, R487 -/
  | negotiateAlgorithms (mctp : Bool) (req : List Byte)
  /-- GET_DIGESTS, R487 -/
  | getDigests (mctp : Bool) (req : List Byte)
  /-- GET_CERTIFICATE, R486 -/
  | getCertificate (mctp : Bool) (req : List Byte)
  /-- CHALLENGE, R487 -/
  | challenge (mctp : Bool) (req : List Byte)
  /-- GET_MEASUREMENTS, R487 -/
  | getMeasurements (mctp : Bool) (req : List Byte)
  /-- HART_LOAD_STORE, R465 -/
  | hartLoadStore (f : Folio) (h : Fin 4) (addr : BitVec 56) (size : Fin 4) (op : HartOp) (host : W64)
  /-- LOSS_OF_POWER, R550 -/
  | lossOfPower
  /-- TAKEOVER_DONE, R494 -/
  | takeoverDone
  /-- ISLAND_SELF_CHECK, R494 -/
  | islandSelfCheck (passed : Bool)
  /-- MBOX_COMMAND_DONE, R498 -/
  | mboxCommandDone
  /-- RECOVERY_COMMIT_DONE, R484 -/
  | recoveryCommitDone (flashOk : Bool)
  /-- PORT_STEP_PASS, R392 -/
  | portStepPass (p : Port) (skew : BitVec 16)
  /-- RING_HELLO_LOSS, R409 -/
  | ringHelloLoss
  /-- POWERED_HOUR, R434 -/
  | poweredHour
  /-- PERST_N_RELEASE, R477 -/
  | perstNRelease
  deriving DecidableEq, Repr

end Sys2Proof
end

