-- ==== Sys2Proof/Decode.lean ====
section
/-! DEFINITION. The instruction words of SX (R70, R71) and commands from words. The decoder of SX reads what the sequencer finds in
memory; no row of the opcode table gives its command any bits, so no table word spells a command. -/

namespace Sys2Proof

/-- The fields of a word of format R (R71). -/
def RWord.ofWord (v ext : W64) : RWord where
  x := v.getLsbD 53
  d := v.extractLsb' 48 5
  a := v.extractLsb' 43 5
  b := v.extractLsb' 38 5
  m := v.extractLsb' 32 6
  imm := v.extractLsb' 0 32
  ext := if v.getLsbD 53 then ext else 0

/-- The fields of a word of format P (R71). -/
def PWord.ofWord (v ext : W64) : PWord where
  x := v.getLsbD 53
  acc := v.extractLsb' 51 2
  fmt := v.extractLsb' 47 4
  aa := v.extractLsb' 43 4
  sb := v.extractLsb' 38 5
  mode := v.getLsbD 37
  fin := v.getLsbD 36
  rsv := v.extractLsb' 0 36
  ext := if v.getLsbD 53 then ext else 0

/-- The fields of a word of format I (R71). -/
def IWord.ofWord (v ext : W64) : IWord where
  x := v.getLsbD 53
  td := v.extractLsb' 50 3
  ta := v.extractLsb' 47 3
  tb := v.extractLsb' 44 3
  tc := v.extractLsb' 41 3
  pg := v.extractLsb' 38 3
  ax := v.getLsbD 37
  rm := v.extractLsb' 35 2
  satc := v.getLsbD 34
  fmt := v.extractLsb' 30 4
  sr := v.extractLsb' 25 5
  ar := v.extractLsb' 21 4
  opx := v.extractLsb' 0 21
  ext := if v.getLsbD 53 then ext else 0

/-- The instructions of class 0, control (R81), by OP. -/
def decodeControl (t : Tile) (w : RWord) : Nat → Option Instr
  | 0x00 => some (.nop t w)
  | 0x01 => some (.halt t w)
  | 0x02 => some (.br t w)
  | 0x03 => some (.brc t w)
  | 0x04 => some (.jr t w)
  | 0x05 => some (.call t w)
  | 0x06 => some (.loop t w)
  | 0x07 => some (.brk t w)
  | 0x08 => some (.lexit t w)
  | _ => none

/-- The instructions of class 1, scalar (R84), by OP. -/
def decodeScalar (t : Tile) (w : RWord) : Nat → Option Instr
  | 0x00 => some (.add t w)
  | 0x01 => some (.sub t w)
  | 0x02 => some (.mul t w)
  | 0x03 => some (.mulhu t w)
  | 0x04 => some (.divu t w)
  | 0x05 => some (.remu t w)
  | 0x06 => some (.and t w)
  | 0x07 => some (.or t w)
  | 0x08 => some (.xor t w)
  | 0x09 => some (.shl t w)
  | 0x0A => some (.shr t w)
  | 0x0B => some (.sra t w)
  | 0x0C => some (.min t w)
  | 0x0D => some (.max t w)
  | 0x0E => some (.minu t w)
  | 0x0F => some (.maxu t w)
  | 0x10 => some (.slt t w)
  | 0x11 => some (.sltu t w)
  | 0x12 => some (.li t w)
  | 0x13 => some (.ld t w)
  | 0x14 => some (.st t w)
  | 0x15 => some (.movsa t w)
  | 0x16 => some (.movas t w)
  | 0x17 => some (.aadd t w)
  | 0x18 => some (.rdsr t w)
  | 0x19 => some (.wrsr t w)
  | 0x1A => some (.setvl t w)
  | _ => none

/-- The instructions of class 2, DMA and prefetch (R88), by OP. -/
def decodeDma (t : Tile) (w : RWord) : Nat → Option Instr
  | 0x00 => some (.dma t w)
  | 0x01 => some (.pref t w)
  | _ => none

/-- The instructions of class 5, synchronization (R100), by OP. -/
def decodeSync (t : Tile) (w : RWord) : Nat → Option Instr
  | 0x00 => some (.sbwait t w)
  | 0x01 => some (.twait t w)
  | 0x02 => some (.barr t w)
  | 0x03 => some (.egrant t w)
  | 0x04 => some (.eend t w)
  | 0x05 => some (.fence t w)
  | 0x06 => some (.tfence t w)
  | _ => none

/-- The instructions of class 6, communication (R107), by OP. -/
def decodeComm (t : Tile) (w : RWord) : Nat → Option Instr
  | 0x00 => some (.post t w)
  | _ => none

/-- The instructions of class 3, press (R91), by OP. -/
def decodePress (t : Tile) (w : PWord) : Nat → Option Instr
  | 0x00 => some (.wld t w)
  | 0x01 => some (.wswap t w)
  | 0x02 => some (.stream t w)
  | _ => none

/-- The instructions of class 4, inflection (R96), by OP. -/
def decodeInflection (t : Tile) (w : IWord) : Nat → Option Instr
  | 0x00 => some (.cpop t w)
  | 0x01 => some (.tld t w)
  | 0x02 => some (.tst t w)
  | 0x03 => some (.inflAdd t w)
  | 0x04 => some (.inflSub t w)
  | 0x05 => some (.inflMul t w)
  | 0x06 => some (.fma t w)
  | 0x07 => some (.inflMin t w)
  | 0x08 => some (.inflMax t w)
  | 0x09 => some (.abs t w)
  | 0x0A => some (.neg t w)
  | 0x0B => some (.sel t w)
  | 0x0C => some (.bcast t w)
  | 0x0D => some (.cvt t w)
  | 0x0E => some (.scale t w)
  | 0x10 => some (.exp2 t w)
  | 0x11 => some (.log2 t w)
  | 0x12 => some (.rcp t w)
  | 0x13 => some (.rsqrt t w)
  | 0x14 => some (.sqrt t w)
  | 0x15 => some (.tanh t w)
  | 0x16 => some (.sigm t w)
  | 0x17 => some (.div t w)
  | 0x18 => some (.cmp t w)
  | 0x19 => some (.red t w)
  | 0x1A => some (.perm t w)
  | 0x1B => some (.elide t w)
  | 0x1C => some (.restore t w)
  | 0x1D => some (.plog t w)
  | 0x1E => some (.pgen t w)
  | 0x1F => some (.pcnt t w)
  | 0x20 => some (.tmov t w)
  | _ => none

/-- The instruction that a word spells on a tile, with the word that follows it in memory: none where CLASS or OP is reserved
(R70, R72). -/
def decodeSx (t : Tile) (v ext : W64) : Option Instr :=
  let op := (v.extractLsb' 54 6).toNat
  match (v.extractLsb' 60 4).toNat with
  | 0x0 => decodeControl t (RWord.ofWord v ext) op
  | 0x1 => decodeScalar t (RWord.ofWord v ext) op
  | 0x2 => decodeDma t (RWord.ofWord v ext) op
  | 0x3 => decodePress t (PWord.ofWord v ext) op
  | 0x4 => decodeInflection t (IWord.ofWord v ext) op
  | 0x5 => decodeSync t (RWord.ofWord v ext) op
  | 0x6 => decodeComm t (RWord.ofWord v ext) op
  | _ => none

/-- The command that a word spells by the table's bits: none. -/
def decodeTableWord (_nbits _w : Nat) : Option Instr := none

end Sys2Proof
end

