-- ==== Sys2Proof/Machine/TileState.lean ====
section
/-! DEFINITION. The state of a tile as plain data (R66; 03_sx_tile_programs.md, 04_press_array.md, 05_inflection_unit.md,
06_vats_caches_dma.md). Registers that R116-R117 and their chapters give an address are in the register file. -/

namespace Sys2Proof.Machine

/-- The byte memory of the device: reams and vats of the eight folios, keyed by die index * 2^46 + offset (R4, R18).
`epoch` counts the whole-device resets since power-on, which leave the contents unspecified (R490). -/
structure Memory where
  epoch : Nat
  cells : List Host.Cell
  deriving DecidableEq, Repr

/-- 32-bit patterns by row * 128 + lane; an unlisted position holds 0. -/
abbrev Grid := Store Nat W32

/-- A weight block: words by row * 128 + column, scales by byte of the scale array (R121, R124). -/
structure WBlock where
  fmt : Fmt
  words : Store Nat W16
  scales : Store Nat Byte
  deriving DecidableEq, Repr

/-- The hidden entries of one bank row (R143): check sum, magnitude sum (both FP32 bits, the sum INT32 for integers) and
the count of weight blocks. -/
structure CheckEntry where
  c : W32
  m : W32
  b : Nat
  deriving DecidableEq, Repr

/-- A finished tile in a couch slot: rows 0-31 of 128 columns (R66, R94). -/
structure CouchTile where
  slot : Nat
  rows : Grid
  deriving DecidableEq, Repr

/-- An active loop counter (R83). -/
structure LoopCounter where
  n : Fin 4
  lstart : W64
  lend : W64
  lc : W32
  deriving DecidableEq, Repr

/-- A bank update that STRICT.CHECK holds back (R146): the bank row, its values and its hidden entry. -/
structure StagedRow where
  row : Nat
  values : List W32
  check : CheckEntry
  deriving DecidableEq, Repr

/-- A STREAM, with the weight block that is active at its start (R91-R94, R133). `entered` rows have entered the array and
`done` have left it; `phase` counts cycles towards the next row (R122). `cut` says that a halt abandoned rows (R139).
`staged`, `flags` and `missed` are what STRICT.CHECK holds back, and `tilesOut` the tiles it has let go (R109, R146). -/
structure StreamJob where
  acc : Fin 4
  fmt : Fmt
  base : Nat
  scaleOff : Nat
  rows : Nat
  add : Bool
  fin : Bool
  weights : WBlock
  done : Nat
  strict : Bool
  staged : List StagedRow
  missed : Option Nat                   -- first row whose check missed under STRICT.CHECK
  pc : W64
  entered : Nat := 0
  phase : Nat := 0
  cut : Bool := false
  flags : Flags := 0
  tilesOut : Nat := 0
  deriving DecidableEq, Repr

/-- A press instruction that has issued and waits to start (R75, R125). -/
inductive PressEntry where
  | wld (fmt : Fmt) (base scaleOff : Nat)
  | wswap
  | stream (j : StreamJob)
  deriving DecidableEq, Repr

/-- An inflection instruction that has issued and not finished: the scoreboard tag it is known by, the flags it sets
(R159), whether it writes the vat, and whether it holds the tag (PCNT holds none). -/
structure InflOp where
  tag : Nat
  flags : Flags
  storesVat : Bool
  holds : Bool := true
  deriving DecidableEq, Repr

/-- A descriptor waiting in the DMA queue (R89, R211). -/
structure DmaReq where
  tag : Fin 32
  off : Nat
  deriving DecidableEq, Repr

/-- The fields of a descriptor (R205). -/
structure Desc where
  length : Nat
  kind : Nat
  srcBuf : Nat
  dstBuf : Nat
  srcFmt : Nat
  dstFmt : Nat
  srcOff : Nat
  srcPitch : Nat
  dstOff : Nat
  dstPitch : Nat
  count : Nat
  rm : Nat
  satc : Bool
  wbits : Nat
  idxOff : Nat
  reservedBits : Bool
  deriving DecidableEq, Repr

/-- A buffer table entry as the engine reads it at fetch (R201, R204). -/
structure BufView where
  addr : Nat
  bytes : Nat
  valid : Bool
  read : Bool
  write : Bool
  policy : Nat
  deriving DecidableEq, Repr

/-- A transfer in progress (R211). `row` is the row under way and `part` the source bytes of it that have moved;
`loaded` holds the piece that has been read and not yet written; `asked` says that a transaction or twin blocks for the
piece are outstanding. `flags` are those its conversions raised (R208). -/
structure Xfer where
  tag : Fin 32
  off : Nat
  desc : Desc
  src : BufView
  dst : BufView
  idx : List Nat
  row : Nat
  part : Nat
  loaded : Option (List Byte)
  asked : Bool
  finished : Bool
  status : Nat
  bytes : Nat
  flags : Flags
  seed : W32
  step : W64
  deriving DecidableEq, Repr

/-- An open energy section (R104): the request, the fraction that its grant gave (none until the grant arrives), the
fraction that an overrun set until the section closes (R428), the time since which it is open within the window, its
metered energy of the window in 1/400 pJ. -/
structure Section where
  reqNJ : Nat
  durNs : Nat
  fraction : Option Nat
  limit : Option Nat
  since : Nat
  metered : Nat
  deriving DecidableEq, Repr

/-- Pulp on a tile (R432): its power in uW moves linearly from `fromUw` at time `start` to `toUw` after `len` ns. -/
structure Pulp where
  fromUw : Nat
  toUw : Nat
  start : Nat
  len : Nat
  deriving DecidableEq, Repr

/-- A halt that waits for the tile's outstanding operations (R113). -/
structure Halting where
  kind : Nat
  cause : Nat
  code : W32
  pc : W64
  info : W64
  deriving DecidableEq, Repr

/-- One tile. -/
structure TileState where
  s : Store (Fin 32) W64
  a : Store (Fin 16) W64
  t : Store (Fin 8) Grid
  p : Store (Fin 8) (BitVec 128)
  vl : Nat
  acc : Store (Fin 4) Grid
  check : Store Nat CheckEntry          -- by bank * 128 + row
  active : WBlock
  shadow : WBlock
  couch : List CouchTile                -- oldest first, at most 4
  couchNext : Nat                       -- the slot the next finished tile takes
  loops : List LoopCounter              -- most recently started first
  press : List StreamJob                -- the streams that have started, oldest first
  pressQueue : List PressEntry          -- oldest first, at most 8
  loading : Bool                        -- a load is in progress (R126)
  frozen : Bool                         -- R138
  inArray : Bool                        -- rows have entered since the array was last empty (PRESS_STEPS)
  gap : Nat                             -- array steps counted since a row last entered (R154)
  infl : List InflOp                    -- oldest first
  cpopWait : Bool                       -- a CPOP waits for a couch tile (R186)
  dmaQueue : List DmaReq                -- oldest first, at most 32
  xfers : List Xfer                     -- at most 8
  dmaStatus : Store Nat Nat             -- status per DMA tag with an error mark (R110)
  postStatus : Store Nat Nat            -- completion status per POST tag
  barrierGroup : Nat                    -- the group of the pending or faulted barrier (R110)
  barrierState : Nat                    -- its COLL_STATUS.STATE when the barrier was ended (R110)
  ibuf : List (Nat × BitVec 512)        -- instruction buffer lines that have been fetched, newest first (R68)
  image : Option (Nat × Nat × Memory)   -- the lines that dispatch filled, from one address to another, as memory held them
  job : Nat                             -- R25
  launch : Option Nat                   -- the launch that dispatched the tile, while it runs
  share : Nat                           -- its part's share of the launch's energy envelope in uW; 0 none (R424)
  energySection : Option Section
  halting : Option Halting
  target : Nat                          -- fraction that the slew limit moves towards (R431)
  hold : Option W64                     -- address of the STREAM that STRICT.CHECK holds issue for (R112)
  inReset : Bool                        -- R490
  dispatching : Nat                     -- cycles until its dispatch is complete (R69)
  cycles : Nat                          -- CYCLE (R87)
  paceFrac : Nat                        -- fraction in force in 1/256 (R425, R426)
  paceCount : Nat                       -- cycles of the pacing pattern (R426)
  usMeter : Nat                         -- energy metered in the current microsecond, in 1/400 pJ (R428)
  winMeter : Nat                        -- in the current window
  mcMeter : Nat                         -- and since the last calibration (R429)
  lastUsUw : Nat                        -- metered power of the last whole microsecond, in uW (R432)
  lastDepart : Nat                      -- tense at which the last write left the tile (R106, R279)
  pulp : Option Pulp                    -- R432
  scrub : Nat                           -- next granule of the vat scrubber (R190)
  deriving DecidableEq, Repr

def WBlock.zero : WBlock := ⟨.bf16, [], []⟩

/-- A tile at reset. The values the spec does not give are those of a dispatch (R69, log 2). -/
def TileState.reset : TileState where
  s := []
  a := []
  t := []
  p := []
  vl := 128
  acc := []
  check := []
  active := WBlock.zero
  shadow := WBlock.zero
  couch := []
  couchNext := 0
  loops := []
  press := []
  pressQueue := []
  loading := false
  frozen := false
  inArray := false
  gap := 0
  infl := []
  cpopWait := false
  dmaQueue := []
  xfers := []
  dmaStatus := []
  postStatus := []
  barrierGroup := 0
  barrierState := 0
  ibuf := []
  image := none
  job := 0
  launch := none
  share := 0
  energySection := none
  halting := none
  target := 256
  hold := none
  inReset := false
  dispatching := 0
  cycles := 0
  paceFrac := 256
  paceCount := 0
  usMeter := 0
  winMeter := 0
  mcMeter := 0
  lastUsUw := 0
  lastDepart := 0
  pulp := none
  scrub := 0

end Sys2Proof.Machine
end

