-- ==== Sys2Proof/Machine/NetState.lean ====
section
/-! DEFINITION. The state of the fabric inside the device as plain data: cells in flight, transactions and their records
(R293-R312), and the switch cores (R322-R343). -/

namespace Sys2Proof.Machine

/-- Where a cell in flight inside the device arrives: at a die's endpoint, or at a core port of a deckle. -/
inductive Hop where
  | die (d : Die)
  | core (n : Deckle) (q : Fin 48)
  deriving DecidableEq, Repr

/-- A cell between the nodes of a folio (R300, R301): the nodes it goes from and to, and in a mesh the router it has arrived
at and the mesh cycle of its injection. -/
structure MeshCell where
  folio : Folio
  src : Fin 40
  dst : Fin 40
  cell : Cell
  router : Fin 40
  born : Nat
  deriving DecidableEq, Repr

/-- Who waits for a transaction's result. -/
inductive TxnUser where
  | dma (t : Tile) (tag : Fin 32)
  | hart (f : Folio) (h : Fin 4)
  | coll (g : Coll) (work : Nat)
  | notice
  deriving DecidableEq, Repr

/-- A transaction that a die has sent and that has had no complete reply (R293, R308, R309). `tense` is its departure
tense, `sentAt` the time of its last transmission. -/
structure Txn where
  die : Die
  tag : Nat
  user : TxnUser
  cells : List Cell
  tense : Nat
  sentAt : Nat
  sends : Nat
  replies : List Cell
  deriving DecidableEq, Repr

/-- How a transaction ends: a completed reply with its data, a NAK with its code, or REMOTE_TIMEOUT. -/
inductive Answer where
  | reply (data : List Byte)
  | nak (code : Nat)
  | timeout
  deriving DecidableEq, Repr

/-- A transaction's result that its user has not taken. -/
structure Done where
  user : TxnUser
  answer : Answer
  deriving DecidableEq, Repr

/-- A request transaction under assembly at its target (R295). `came` holds, by SEQ, the local tense at which each cell that
is not age-checked was received. -/
structure Assembly where
  die : Die
  srcChip : BitVec 14
  srcDie : BitVec 4
  tag : W16
  cells : List Cell
  came : Store Nat Nat
  deriving DecidableEq, Repr

/-- A duplicate record (R310). -/
structure DupRec where
  die : Die
  srcChip : BitVec 14
  srcDie : BitVec 4
  tag : W16
  answer : Answer
  depart : BitVec 24
  came : Option Nat
  deriving DecidableEq, Repr

/-- A ream or vat operation that is complete at its folio and has not been performed (R232): its header words (R233), the
data it carries, and what its answer needs. -/
structure ReadyOp where
  folio : Folio
  word0 : W64
  word1 : W64
  data : List Byte
  cls : BitVec 3
  req : Cell
  depart : BitVec 24
  came : Option Nat
  deriving DecidableEq, Repr

/-- The shares of R298 and R329. -/
inductive Share where
  | s0 | s1 | transitReply | s3 | s2 | transitRequest | s5 | s6
  deriving DecidableEq, Repr

/-- The buffer points of R324 and R330, with the origination store (R336). -/
inductive Point where
  | ingress (q : Fin 48)
  | middle (x : Fin 3) (m : Fin 16)
  | pool (x y : Fin 3) (m : Fin 16)
  | egress (q : Fin 48)
  | origin
  deriving DecidableEq, Repr

/-- A cell, or a pointer to an origination-store slot, at a buffer point. `out` is the output core port, none for the
endpoint output; `res` says that it occupies reserved space; a lower `age` is older; `waited` counts the transmissions of other
shares that a class 5 cell with credit has waited through at its egress queue (R329). -/
structure Held where
  point : Point
  cell : Cell
  share : Share
  out : Option (Fin 48)
  inp : Fin 48
  res : Bool
  age : Nat
  slot : Option Nat
  waited : Nat := 0
  deriving DecidableEq, Repr

/-- A NAK that has been sent (R315): for which transaction and transmission of it, and the latest departure of the cells it
answers, or the local tense that stands for it (R295). -/
structure Naked where
  die : Die
  srcChip : BitVec 14
  srcDie : BitVec 4
  tag : W16
  retx : Bool
  depart : BitVec 24
  came : Option Nat
  deriving DecidableEq, Repr

/-- A slot of the origination store: its number, its reference count, whether it holds a mirror copy, and the collective group
whose reservation it takes (R336). -/
structure Slot where
  id : Nat
  refs : Nat
  mirror : Bool
  group : Option Coll
  deriving DecidableEq, Repr

/-- A cell that a deckle's endpoint holds until the origination store has a slot for it: its copies with their outputs, and the
collective group it belongs to (R336, R337). -/
structure Origin where
  targets : List (Cell × Option (Fin 48))
  group : Option Coll
  deriving DecidableEq, Repr

/-- A cell on its way through cut-through, and the core cycle in which its transmission begins (R335). -/
structure Cut where
  at' : Nat
  held : Held
  deriving DecidableEq, Repr

/-- The switch core of a deckle. `fifths` holds the part of a core cycle that has passed, in fifths; `origins` what waits for
the origination store; `sentAt`, by core port, one more than the core cycle of its last transmission; and `firsts`, by mirror
session, one more than the capture tense of the copy whose first cell was sent last. -/
structure Xbar where
  cycle : Nat
  fifths : Nat
  ages : Nat
  held : List Held
  slots : List Slot
  gp : Store Nat Nat
  ap : Store Nat Nat
  matched : List (Fin 16 × Fin 3 × Fin 3)
  sampled : Store Nat Nat
  copies : Store Nat Nat
  origins : List Origin
  cuts : List Cut
  sentAt : Store Nat Nat
  firsts : Store Nat Nat
  deriving DecidableEq, Repr

def Xbar.reset : Xbar := ⟨0, 0, 0, [], [], [], [], [], [], [], [], [], [], []⟩

/-- The credit counters of an external port (R390, R391): credit kind k is 0-31 for the reserved credits, 32 for the
shared credit and 33 for class 5. -/
structure LinkCredit where
  sent : Store Nat Nat
  granted : Store Nat Nat
  got : Store Nat Nat
  deriving DecidableEq, Repr

/-- A started clock domain: the time of its last activity, and whether hardware started it for an access (R39). -/
structure Clock where
  domain : Domain
  active : Nat
  hw : Bool
  deriving DecidableEq, Repr

/-- A parser-core hart (R464, R466, R469): its aperture access under way, by physical address and whether it reads and writes, and the
interrupt identities that MSIs have made pending in its IMSIC. -/
structure HartRec where
  access : Option (Nat × Bool × Bool)
  imsic : List Nat
  deriving DecidableEq, Repr

def HartRec.reset : HartRec := ⟨none, []⟩

/-- An event for a folio's parser cores that waits until the bias change of its slot's page is done (R451, R468). -/
structure HeldEvent where
  folio : Folio
  kind : Nat
  source : Nat
  record : List Byte
  deriving DecidableEq, Repr

/-- The fabric. -/
structure Net where
  flights : List (Hop × Cell)
  outbox : List MeshCell                  -- cells that wait at their nodes
  meshes : List MeshCell                  -- cells in the meshes
  meshCycle : Nat                         -- cycles of the meshes' clock
  arrived : List MeshCell                 -- cells that left a mesh at their node, which has not consumed them
  meshCredit : Store Nat Nat              -- credits used, by (folio * 40 + source) * 40 + target (R302)
  txns : List Txn
  done : List Done
  cooling : List (Die × Nat × Nat)        -- die, tag and the tense until which the tag stays unused (R293)
  assemblies : List Assembly
  dups : List DupRec
  ready : List ReadyOp                    -- in the order in which they became complete
  naked : List Naked
  nakAt : Store Nat Nat                   -- last NAK, by die, or by 16 + port for an ingress port (R316)
  xbar : Store Deckle Xbar
  credit : Store Port LinkCredit
  harts : Store Nat HartRec               -- by folio * 4 + hart
  events : List HeldEvent
  deriving DecidableEq, Repr

def Net.reset : Net := ⟨[], [], [], 0, [], [], [], [], [], [], [], [], [], [], [], [], [], []⟩

end Sys2Proof.Machine
end

