-- ==== Sys2Proof/Machine/CollState.lean ====
section
/-! DEFINITION. The state of the collective engines as plain data (R349-R382), beside the registers of R383. -/

namespace Sys2Proof.Machine

/-- A JOIN message held (R350): the sender, its round, what it carries and the JOB of its cell (R366). -/
structure JoinMsg where
  key : W32
  chip : Nat
  round : Nat
  shape : W64
  features : Nat
  minIn : Nat
  job : BitVec 12
  deriving DecidableEq, Repr

/-- An arrival or a group summary held for a step (R354, R355): of the member that sent it, the arrival tense, chip and
reason it names. -/
structure ArriveMsg where
  step : Nat
  sender : Nat
  tense : Nat
  chip : Nat
  reason : Nat
  summary : Bool
  deriving DecidableEq, Repr

/-- A digest or summary held (R375). -/
structure DigestMsg where
  step : Nat
  sender : Nat
  digest : BitVec 256
  summary : Bool
  agrees : Bool
  deriving DecidableEq, Repr

/-- A queue entry as posted (R356): its words 0 to 15, the tile and POST tag, the tile's DMA transfers that were
outstanding (R108), whether it has been validated and has started, its overflow count, whether some contributor
overflowed, and the flags of this member's rounding (R361, R382). -/
structure Entry where
  words : List W64
  tile : Tile
  post : Fin 4
  after : List (Fin 32)
  valid : Bool
  started : Bool
  overflow : Nat
  ovfAny : Bool
  flags : Flags
  deriving DecidableEq, Repr

/-- An entry that has completed and whose record is not written (R382). -/
structure Ended where
  entry : Entry
  status : Nat
  committed : Bool
  steps : Nat
  digest : BitVec 256
  late : Bool
  unlocked : Bool
  last : ArriveMsg
  deriving DecidableEq, Repr

/-- The addend of a carry chunk under way (R365): VALID and ESC of its headers, and the segments that passed their
checks, by number. -/
structure CarryIn where
  valid : Nat
  esc : Nat
  segs : List (Nat × List Byte)
  deriving DecidableEq, Repr

/-- An open or finished accumulation (R362-R364, R371): the chips whose contribution is in, the carry under way, whether
it is in, the largest VALID, and the elements below it. `sum` serves a sum, `ext` the running extremum in FP32 or INT32
bits, with `flags` those of the addends it compared (R43, R57). `waiting` counts the carry segments that the successor has
not acknowledged; `added` is the record of the cells already added: chip, TAG and SEQ (R364). -/
structure Accum where
  x : Nat
  came : List Nat
  carry : Option CarryIn
  carried : Bool
  valid : Nat
  ovf : Bool
  sum : List LongAcc
  ext : List W32
  finished : Bool
  updating : Bool
  waiting : Nat
  flags : Flags
  added : List (Nat × Nat × Nat)
  deriving DecidableEq, Repr

/-- A chunk that this member distributes from its source, or forwards from a staging slot (R369): the ENTRY it belongs
to, its global index, its transaction's bytes, and what is still to be sent. -/
structure OutChunk where
  entry : Nat
  index : Nat
  data : List Byte
  toLocal : Bool
  toRing : Bool
  slot : Option Nat
  deriving DecidableEq, Repr

/-- A carry segment that waits for credit (R363, R365), with the accumulation at the receiver and at this member. -/
structure OutCarry where
  x : Nat
  mine : Nat
  data : List Byte
  deriving DecidableEq, Repr

/-- What an outstanding collective transaction carries; of a GATHER, c mod 3 of its chunk (R370). -/
inductive WorkKind where
  | message
  | contrib (entry : Nat)
  | carry (entry x : Nat)
  | gather (entry third : Nat) (slot : Option Nat)
  deriving DecidableEq, Repr

/-- An outstanding collective transaction, by the number that its TxnUser names. -/
structure Work where
  id : Nat
  peer : Nat
  kind : WorkKind
  deriving DecidableEq, Repr

/-- A message that waits to be sent: its type, destination chip and die, and payload. -/
structure Mail where
  type : Nat
  chip : Nat
  die : Nat
  data : List Byte
  deriving DecidableEq, Repr

/-- The answer that a taken transaction awaits: the deckle it came to, a cell of it, and what its duplicate record keeps. -/
structure Owed where
  deckle : Deckle
  cell : Cell
  depart : BitVec 24
  came : Option Nat
  deriving DecidableEq, Repr

/-- An occupied staging slot (R370, R371): its number, the copies sent from it that are not acknowledged, and the chip and TAG
of its transaction. `owed` is none while it is ASSEMBLING; in WRITING it is the answer due once the slot is freed. -/
structure StageSlot where
  slot : Nat
  copies : Nat
  chip : Nat
  tag : Nat
  owed : Option Owed
  deriving DecidableEq, Repr

/-- A whole chunk transaction whose entry is posted and not yet validated (R358). -/
structure EarlyChunk where
  type : Nat
  asm : Assembly
  owed : Owed
  deriving DecidableEq, Repr

/-- The dynamic state of a group. -/
structure Group where
  createdAt : Nat
  reserved : Bool                         -- the resources of R352 are held
  joins : List JoinMsg
  sentRound1 : Bool
  tilesNow : List Tile                    -- tiles that arrived for the current step
  tilesNext : List Tile                   -- and for the step after it (R353)
  readyAt : Option Nat                    -- tense at which the later condition of its arrival was met (R354)
  arrival : Option ArriveMsg              -- this device's arrival for the current step
  heard : List ArriveMsg
  summarySent : Bool
  heldAt : Option Nat                     -- tense at which the last arrival or summary came (R355, R380)
  exchange : Bool                         -- the exchange of the current step has begun
  firstTense : Nat                        -- EXCH_TENSE of the step's first entry
  nextEntry : Nat                         -- ENTRY of the next entry to validate
  lastOp : Nat                            -- OP of the entry validated before it
  last : Option ArriveMsg                 -- the latest arrival in the machine
  late : Bool
  unlocked : Bool
  pausing : Bool                          -- PREEMPT waits for the step boundary
  queue : List Entry                      -- oldest first, at most 16
  ended : List Ended
  base : Nat                              -- oldest accumulation that has not finished (R363)
  sentX : Store Nat Nat                   -- next contribution to a local peer, or the own next one, by chip
  creditOf : Store Nat Nat                -- BASE last credited, by ENTRY * 2^14 + chip
  accums : List Accum
  carries : List OutCarry
  outChunks : List OutChunk
  ownChunk : Nat                          -- next chunk of the own shard to distribute
  written : List (Nat × Nat)              -- ENTRY and global chunk index of each chunk handled
  outstanding : Store Nat Nat             -- unacknowledged GATHER chunks, by receiver
  stage : List StageSlot
  hashes : Store Nat (BitVec 256)
  digest : Option (BitVec 256)            -- this member's D, once its last chunk is written
  digestSummarySent : Bool
  digests : List DigestMsg
  works : List Work
  nextWork : Nat
  mail : List Mail
  thermal : Bool                          -- a grant of the compute phase was reduced by the throttle, or by the cap (R354)
  capped : Bool
  heldKib : Nat                           -- KiB of each reduction store that creation reserved (R352)
  since : Nat                             -- the first transaction of the current step
  early : List EarlyChunk
  deriving DecidableEq, Repr

def Group.reset : Group where
  createdAt := 0
  reserved := false
  joins := []
  sentRound1 := false
  tilesNow := []
  tilesNext := []
  readyAt := none
  arrival := none
  heard := []
  summarySent := false
  heldAt := none
  exchange := false
  firstTense := 0
  nextEntry := 0
  lastOp := 0
  last := none
  late := false
  unlocked := false
  pausing := false
  queue := []
  ended := []
  base := 0
  sentX := []
  creditOf := []
  accums := []
  carries := []
  outChunks := []
  ownChunk := 0
  written := []
  outstanding := []
  stage := []
  hashes := []
  digest := none
  digestSummarySent := false
  digests := []
  works := []
  nextWork := 0
  mail := []
  thermal := false
  capped := false
  heldKib := 0
  since := 0
  early := []

end Sys2Proof.Machine
end

