-- ==== Sys2Proof/Machine/EnergyState.lean ====
section
/-! DEFINITION. The state of the energy account, the meters, the thermal control and the rails as plain data
(13_energy_and_thermal.md, 18_package_and_electrical.md), beside their registers. -/

namespace Sys2Proof.Machine

/-- A temperature sensor (R436-R440): the readings of its last 10 ms, the latest first, in 1/8 degrees; whether its throttle is
engaged and its warning set; and the time at which the fast rise in force ends. -/
structure SensorRec where
  past : List Int
  engaged : Bool
  warned : Bool
  fastUntil : Option Nat
  deriving DecidableEq, Repr

def SensorRec.reset : SensorRec := ⟨[], false, false, none⟩

/-- P_f of a folio at the start of a microsecond (R431): which microsecond, the power of each of its 24 tiles in uW, and whether the
slew limit has counted a step in it. -/
structure SlewBase where
  us : Nat
  power : List Nat
  limited : Bool
  deriving DecidableEq, Repr

/-- Granted and requested energy of a folio's sections within the window under way, in uW ns, up to the time `at'` (R419). -/
structure GrantUse where
  at' : Nat
  granted : Nat
  requested : Nat
  deriving DecidableEq, Repr

/-- The energy account. -/
structure Energy where
  /-- c of R429 in uW. -/
  correction : Int
  /-- k of R428 in 1/2^32. -/
  factor : Store Folio Nat
  /-- The trims in mV by 8 * folio + point, as the flash store keeps them (R434). -/
  trims : Store Nat Nat
  /-- What the margin bumps of R435 add at the current point beyond its trim, in mV. -/
  bumps : Store Folio Nat
  /-- P_f at the start of the microsecond in which a folio's fractions last moved (R431). -/
  slewBase : Store Folio SlewBase
  /-- What has been granted and requested in the window under way, and in the last 20 windows, the latest first (R419). -/
  use : Store Folio GrantUse
  ratios : Store Folio (List (Nat × Nat))
  /-- alloc and u of the current window in uW (R421, R422). -/
  alloc : Store Folio Nat
  loads : Store Folio Nat
  /-- u of the folios over the time since the last calibration, in uW ns, up to the time `loadAt` (R429). -/
  loadUse : Store Folio Nat
  loadAt : Nat
  /-- Energy of the window under way that the spec prices outside tile sections: ream traffic that no section originated and
  domain restarts, in 1/400 pJ (R421). -/
  uncontrolled : Store Folio Nat
  /-- Energy of restarts of domains that are no folio's, in 1/400 pJ, which the fixed reserves bear (R39, R420). -/
  restarts : Nat
  /-- Sections that closed within the window under way with their meter beyond their allowance (R428). -/
  closedOver : Store Folio Nat
  /-- Folios that metered the whole of the window under way (R421). -/
  metered : List Folio
  /-- A grant of the current window was reduced by the cap (ENERGY_STATUS.CAPPED). -/
  capped : Bool
  /-- A tile section of a folio held a grant in the current window (R433). -/
  granted : Bool
  /-- The last report of a rail in mW, and its time (R429). -/
  reports : Store Nat Nat
  reportAt : Store Nat Nat
  /-- Rails whose report is lost (R429). -/
  lost : List Nat
  /-- Reported rail energy in uJ (ENERGY_TOTAL). -/
  totalUj : Nat
  /-- theta of each folio in percent (R438). -/
  theta : Store Folio Nat
  sensors : Store Nat SensorRec
  /-- Low samples of COOLANT_OK in succession (R443). -/
  coolantLow : Nat
  /-- The time since which every reading after a trip is at most 75 degrees (R442). -/
  coolSince : Option Nat
  /-- Rails that are on (R549). -/
  rails : List (Fin 32)
  deriving DecidableEq, Repr

def Energy.reset : Energy where
  correction := 0
  factor := []
  trims := []
  bumps := []
  slewBase := []
  use := []
  ratios := []
  alloc := []
  loads := []
  loadUse := []
  loadAt := 0
  uncontrolled := []
  restarts := 0
  closedOver := []
  metered := []
  capped := false
  granted := false
  reports := []
  reportAt := []
  lost := []
  totalUj := 0
  theta := []
  sensors := []
  coolantLow := 0
  coolSince := none
  rails := [30, 31]

end Sys2Proof.Machine
end

