-- ==== Sys2Proof/Machine/HostState.lean ====
section
/-! DEFINITION. The state of the host attach as plain data (14_cxl_host_and_parsers.md), beside its registers. -/

namespace Sys2Proof.Machine

/-- A submission entry that was fetched and has no completion record (R455-R459): its own number, its queue and index, its
words, whether it has been checked, the folios whose part waits on a launch queue, the tiles that it dispatched and that
have not halted, those that halted with a kind other than HALT, its status so far, its lateness, the tense of its dispatch
or refusal, and whether its pulp has begun (R432). -/
structure Launch where
  id : Nat
  hq : HQueue
  index : Nat
  words : List W64
  checked : Bool
  parts : List Folio
  running : List Tile
  bad : List Tile
  status : Nat
  late : Option Nat
  tense : Nat
  ramped : Bool
  deriving DecidableEq, Repr

/-- An HDM decoder of the CXL component registers (R447): base, size and first DPA, and what its
control says. -/
structure Decoder where
  base : Nat
  size : Nat
  dpa : Nat
  committed : Bool
  failed : Bool
  locked : Bool
  deriving DecidableEq, Repr

def Decoder.reset : Decoder := ⟨0, 0, 0, false, false, false⟩

/-- The host attach. -/
structure HostSide where
  /-- Fetched entries without a completion record, oldest first. -/
  launches : List Launch
  /-- The launch queue of a folio: the launches whose part waits, in the order of their placement (R455). -/
  queues : Store Folio (List Nat)
  /-- The tail last read of a host queue, the queues that an error stopped (R454), and the time of the last poll
  (R453). -/
  tails : Store HQueue Nat
  stopped : List HQueue
  lastPoll : Nat
  nextId : Nat
  decoders : Store (Fin 2) Decoder
  /-- Memory_Active of the CXL Device DVSEC (R449). -/
  memActive : Bool
  /-- The CXL link is up (R477). -/
  linkUp : Bool
  /-- The negotiated lanes and GT/s of the link, 0 before it has trained; and the Uncorrectable Internal Error bit of AER
  (R446, R450). -/
  linkWidth : Nat
  linkSpeed : Nat
  aer : Bool
  /-- The bias change that runs: first page by DPA, pages, and the target (R451). -/
  flip : Option (Nat × Nat × Bool)
  deriving DecidableEq, Repr

def HostSide.reset : HostSide where
  launches := []
  queues := []
  tails := []
  stopped := []
  lastPoll := 0
  nextId := 0
  decoders := []
  memActive := false
  linkUp := false
  linkWidth := 0
  linkSpeed := 0
  aer := false
  flip := none

end Sys2Proof.Machine
end

