-- ==== Sys2Proof/Machine/Reg.lean ====
section
/-! DEFINITION. The register map of BAR index 0 (R523, R532-R535 and the register tables of every chapter): one
constructor per register, its fields with their access codes (R7), its reset value (R12) and its offset. -/

namespace Sys2Proof

/-- A register of the device, by its name in the spec and its instance. -/
inductive Reg where
  | seqCtl (t : Tile)
  | seqPc (t : Tile)
  | excCause (t : Tile)
  | excPc (t : Tile)
  | excInfo (t : Tile)
  | numStatus (t : Tile)
  | strict (t : Tile)
  | srSeed (t : Tile)
  | srStep (t : Tile)
  | checkMiss (t : Tile)
  | scoreboard (t : Tile)
  | tagError (t : Tile)
  | haltCode (t : Tile)
  | pressRepair (t : Tile)
  | pressService (t : Tile)
  | checkRows (t : Tile)
  | checkSkipped (t : Tile)
  | checkLast (t : Tile)
  | pressSteps (t : Tile)
  | pressStalls (t : Tile)
  | inflRows (t : Tile)
  | inflFuncRows (t : Tile)
  | inflEmpty (t : Tile)
  | laneRangeLast (t : Tile)
  | inflCouchWait (t : Tile)
  | vatCorrected (t : Tile)
  | vatUeLast (t : Tile)
  | vatPortWait (t : Tile)
  | dmaBytes (t : Tile)
  | dmaRejects (t : Tile)
  | dmaLastReject (t : Tile)
  | folioStatus (f : Folio)
  | bufBase (f : Folio) (e : Fin 256)
  | bufSize (f : Folio) (e : Fin 256)
  | bufCtl (f : Folio) (e : Fin 256)
  | fcCtl (f : Folio)
  | fcHits (f : Folio)
  | fcMisses (f : Folio)
  | fcPrefIssued (f : Folio)
  | fcPrefUsed (f : Folio)
  | fcHintsDropped (f : Folio)
  | fcCorrected (f : Folio)
  | fcUeLast (f : Folio)
  | xportRetx (d : Die)
  | xportTimeouts (d : Die)
  | xportNaksSent (d : Die)
  | xportNaksRcvd (d : Die)
  | xportLastNak (d : Die)
  | xportDuplicates (d : Die)
  | xportAssemblyDrops (d : Die)
  | xportOrphans (d : Die)
  | xportCrcDrops (d : Die)
  | xportNakSuppressed (d : Die)
  | ecqBase (f : Folio) (q : Ecq)
  | ecqSize (f : Folio) (q : Ecq)
  | ecqTailAddr (f : Folio) (q : Ecq)
  | ecqHead (f : Folio) (q : Ecq)
  | ecqCtl (f : Folio) (q : Ecq)
  | ecqDone (f : Folio) (q : Ecq)
  | engOps (f : Folio)
  | engNaks (f : Folio)
  | engCmds (f : Folio)
  | regionTarget (f : Folio) (r : Fin 256)
  | regionCount (f : Folio) (r : Fin 256)
  | regionSlot (f : Folio) (r : Fin 256)
  | regionState (f : Folio) (r : Fin 256)
  | aperture (f : Folio) (a : Fin 16)
  | evqBase (f : Folio)
  | evqSize (f : Folio)
  | evqTail (f : Folio)
  | evqHead (f : Folio)
  | evqCtl (f : Folio)
  | evqStatus (f : Folio)
  | reamStatus (m : Ream)
  | reamCorrected (m : Ream)
  | reamUeLast (m : Ream)
  | reamSpares (m : Ream)
  | reamScrub (m : Ream)
  | reamRefresh (m : Ream)
  | reamHammer (m : Ream)
  | tenseNow
  | tenseCtl
  | tenseStatus
  | tenseRootInit
  | tenseParents
  | tenseOffset
  | tenseLockLosses
  | tenseLateDiscards
  | tenseQuiesce
  | tenseBound
  | deckleId (n : Deckle)
  | switchCtl (n : Deckle)
  | switchStatus (n : Deckle)
  | allowList0 (n : Deckle)
  | allowList1 (n : Deckle)
  | portMode (n : Deckle)
  | xbarPushouts (n : Deckle)
  | xbarCutThrough (n : Deckle)
  | origStore (n : Deckle)
  | portLosses (n : Deckle)
  | requeued (n : Deckle)
  | mirrorCtl (n : Deckle) (s : Fin 8)
  | mirrorSrc (n : Deckle) (s : Fin 8)
  | mirrorValueLo (n : Deckle) (s : Fin 8)
  | mirrorValueHi (n : Deckle) (s : Fin 8)
  | mirrorMaskLo (n : Deckle) (s : Fin 8)
  | mirrorMaskHi (n : Deckle) (s : Fin 8)
  | mirrorSent (n : Deckle) (s : Fin 8)
  | mirrorDrops (n : Deckle) (s : Fin 8)
  | routeCtl (n : Deckle)
  | memberValid (n : Deckle)
  | retxTimer
  | portLive (n : Deckle)
  | ceDepth (n : Deckle)
  | globalTable (n : Deckle) (g : Fin 1024)
  | portViol (p : Port)
  | portViolLimit (p : Port)
  | portCrcDrops (p : Port)
  | collCtl (c : Coll)
  | collShape (c : Coll)
  | collKey (c : Coll)
  | collTiles0 (c : Coll)
  | collTiles1 (c : Coll)
  | collTiles2 (c : Coll)
  | collStage (c : Coll)
  | collTimeout (c : Coll)
  | collStatus (c : Coll)
  | collSteps (c : Coll)
  | collLastArrival (c : Coll)
  | collErrors (c : Coll)
  | collStore
  | ringTable (c : Coll) (w : Fin 256)
  | optCtl
  | lsmStatus
  | linePower (l : Line)
  | lineDrive (l : Line)
  | portPhy (p : Port)
  | laneMapTx (p : Port)
  | laneMapRx (p : Port)
  | fecCorrected (p : Port)
  | fecUncorrected (p : Port)
  | laneEvents (p : Port)
  | portAdmit (p : Port)
  | portAsym (p : Port)
  | feltLink (k : Felt)
  | feltEvents (k : Felt)
  | twinStatus (i : Pair)
  | twinErrors (i : Pair)
  | ringStatus
  | ringPeer
  | heater (r : Fin 7274) (w : Fin 8)
  | energyCtl
  | energyCap
  | energyStatus
  | energyWindow
  | energyTotal
  | exchPlanStart
  | exchPlanShape
  | exchForecast
  | thermalStatus
  | thermalHottest
  | thermalEvents
  | tripRecord
  | coolantStatus
  | marginStatus
  | folioPower (f : Folio)
  | folioGrant (f : Folio)
  | folioCal (f : Folio)
  | folioDvfs (f : Folio)
  | sensor (i : Sensor)
  | featDevice (w : Fin 4)
  | featDriver (w : Fin 4)
  | featEnabled (w : Fin 4)
  | featCtl
  | hqGlobal
  | biasFlipPage
  | biasFlipCtl
  | hqSqBase (q : HQueue)
  | hqSqSize (q : HQueue)
  | hqTailAddr (q : HQueue)
  | hqHead (q : HQueue)
  | hqCqBase (q : HQueue)
  | hqCtl (q : HQueue)
  | hqStatus (q : HQueue)
  | identPart
  | identFw
  | identSerial
  | dieRev0
  | dieRev1
  | devStatus
  | devReset
  | bootTime
  | modeCtl
  | recoveryCtl
  | recoveryData
  | debugStatus
  | mcStatus
  | faultRingTail
  | faultRingHead
  | faultRingLost
  | faultRingCtl
  | faultRingAck
  | faultSlot (s : Fin 4096) (w : Fin 4)
  | suspectCtl
  | suspectMask
  | suspectExch
  | peerArrival (m : Fin 16)
  | scoreId
  | scoreCtl
  | scoreCe
  | scoreRetry
  | scoreRetrain
  | scoreCrc
  | scoreTotal
  | scoreClear
  | sentStatus
  | sentRuns
  | sentStops
  | sentRingTail
  | mboxArg (w : Fin 4)
  | mboxCmd
  | mboxResult
  deriving DecidableEq, Repr

/-- The access codes of R7; the bits of no field are RSV. -/
inductive Access where
  | ro
  | rw
  | w1c
  | wo
  deriving DecidableEq, Repr

/-- A bit range [lo + width - 1 : lo] of a register. -/
structure Field where
  lo : Nat
  width : Nat
  deriving DecidableEq, Repr

/-- The value of a field of a 64-bit word. -/
def Field.get (f : Field) (w : W64) : Nat := (w.extractLsb' f.lo f.width).toNat

/-- The bits a field covers. -/
def Field.mask (f : Field) : W64 := ((BitVec.allOnes f.width).setWidth 64) <<< f.lo

/-- A 64-bit word with a field replaced by the low bits of `v`. -/
def Field.set (f : Field) (w : W64) (v : Nat) : W64 :=
  (w &&& ~~~ f.mask) ||| (((BitVec.ofNat f.width v).setWidth 64) <<< f.lo)

namespace Fld

def seqCtlRun : Field := ⟨0, 1⟩
def seqCtlStart : Field := ⟨1, 1⟩
def seqCtlStop : Field := ⟨2, 1⟩
def seqCtlHaltKind : Field := ⟨4, 3⟩
def seqPcPc : Field := ⟨0, 64⟩
def excCauseCause : Field := ⟨0, 8⟩
def excPcPc : Field := ⟨0, 64⟩
def excInfoInfo : Field := ⟨0, 64⟩
def numStatusNv : Field := ⟨0, 1⟩
def numStatusOf : Field := ⟨1, 1⟩
def numStatusUf : Field := ⟨2, 1⟩
def numStatusNx : Field := ⟨3, 1⟩
def numStatusSat : Field := ⟨4, 1⟩
def numStatusLaneRange : Field := ⟨5, 1⟩
def numStatusEmpty : Field := ⟨6, 1⟩
def strictLane : Field := ⟨0, 1⟩
def strictCheck : Field := ⟨1, 1⟩
def srSeedSeed : Field := ⟨0, 32⟩
def srStepStep : Field := ⟨0, 64⟩
def checkMissCount : Field := ⟨0, 32⟩
def scoreboardBusy : Field := ⟨0, 64⟩
def tagErrorMark : Field := ⟨0, 64⟩
def haltCodeCode : Field := ⟨0, 32⟩
def pressRepairRow : Field := ⟨0, 7⟩
def pressRepairValid : Field := ⟨7, 1⟩
def pressRepairSource : Field := ⟨8, 1⟩
def pressServiceInService : Field := ⟨0, 1⟩
def pressServiceReason : Field := ⟨1, 3⟩
def checkRowsCount : Field := ⟨0, 48⟩
def checkSkippedCount : Field := ⟨0, 48⟩
def checkLastRow : Field := ⟨0, 24⟩
def checkLastAcc : Field := ⟨24, 2⟩
def checkLastRatio : Field := ⟨32, 8⟩
def pressStepsCount : Field := ⟨0, 48⟩
def pressStallsCount : Field := ⟨0, 48⟩
def inflRowsCount : Field := ⟨0, 48⟩
def inflFuncRowsCount : Field := ⟨0, 48⟩
def inflEmptyCount : Field := ⟨0, 32⟩
def laneRangeLastRow : Field := ⟨0, 5⟩
def laneRangeLastLane : Field := ⟨8, 7⟩
def laneRangeLastIndex : Field := ⟨32, 32⟩
def inflCouchWaitCount : Field := ⟨0, 48⟩
def vatCorrectedCount : Field := ⟨0, 32⟩
def vatUeLastOffset : Field := ⟨0, 22⟩
def vatUeLastValid : Field := ⟨63, 1⟩
def vatPortWaitCount : Field := ⟨0, 48⟩
def dmaBytesCount : Field := ⟨0, 48⟩
def dmaRejectsCount : Field := ⟨0, 32⟩
def dmaLastRejectStatus : Field := ⟨0, 8⟩
def dmaLastRejectTag : Field := ⟨8, 5⟩
def dmaLastRejectDescOff : Field := ⟨32, 22⟩
def folioStatusInReset : Field := ⟨0, 1⟩
def folioStatusDegraded : Field := ⟨1, 1⟩
def folioStatusInService : Field := ⟨8, 5⟩
def folioStatusLaunchDepth : Field := ⟨16, 7⟩
def bufBaseAddr : Field := ⟨6, 58⟩
def bufSizeBytes : Field := ⟨0, 40⟩
def bufCtlValid : Field := ⟨0, 1⟩
def bufCtlRead : Field := ⟨1, 1⟩
def bufCtlWrite : Field := ⟨2, 1⟩
def bufCtlCache : Field := ⟨3, 2⟩
def fcCtlPrefetchEn : Field := ⟨0, 1⟩
def fcCtlHintEn : Field := ⟨1, 1⟩
def fcHitsCount : Field := ⟨0, 48⟩
def fcMissesCount : Field := ⟨0, 48⟩
def fcPrefIssuedCount : Field := ⟨0, 48⟩
def fcPrefUsedCount : Field := ⟨0, 48⟩
def fcHintsDroppedCount : Field := ⟨0, 32⟩
def fcCorrectedCount : Field := ⟨0, 32⟩
def fcUeLastLine : Field := ⟨6, 32⟩
def fcUeLastValid : Field := ⟨63, 1⟩
def xportRetxCount : Field := ⟨0, 48⟩
def xportTimeoutsCount : Field := ⟨0, 48⟩
def xportNaksSentCount : Field := ⟨0, 48⟩
def xportNaksRcvdCount : Field := ⟨0, 48⟩
def xportLastNakCode : Field := ⟨0, 8⟩
def xportLastNakDie : Field := ⟨8, 4⟩
def xportLastNakChip : Field := ⟨12, 14⟩
def xportLastNakTag : Field := ⟨26, 16⟩
def xportDuplicatesCount : Field := ⟨0, 48⟩
def xportAssemblyDropsCount : Field := ⟨0, 48⟩
def xportOrphansCount : Field := ⟨0, 48⟩
def xportCrcDropsCount : Field := ⟨0, 48⟩
def xportNakSuppressedCount : Field := ⟨0, 48⟩
def ecqBaseAddr : Field := ⟨6, 32⟩
def ecqSizeLog2 : Field := ⟨0, 5⟩
def ecqTailAddrAddr : Field := ⟨3, 35⟩
def ecqHeadIndex : Field := ⟨0, 32⟩
def ecqCtlEnable : Field := ⟨0, 1⟩
def ecqCtlEvent : Field := ⟨1, 1⟩
def ecqCtlError : Field := ⟨2, 1⟩
def ecqCtlResume : Field := ⟨3, 1⟩
def ecqCtlErrorCode : Field := ⟨8, 8⟩
def ecqDoneCount : Field := ⟨0, 48⟩
def engOpsCount : Field := ⟨0, 48⟩
def engNaksCount : Field := ⟨0, 32⟩
def engCmdsCount : Field := ⟨0, 48⟩
def regionTargetOffset : Field := ⟨0, 38⟩
def regionCountCount : Field := ⟨0, 32⟩
def regionCountFmt : Field := ⟨32, 4⟩
def regionSlotAddr : Field := ⟨6, 32⟩
def regionStateState : Field := ⟨0, 2⟩
def regionStateQueue : Field := ⟨8, 4⟩
def apertureOffHi : Field := ⟨0, 6⟩
def apertureDie : Field := ⟨6, 4⟩
def apertureChip : Field := ⟨10, 14⟩
def apertureValid : Field := ⟨24, 1⟩
def evqBaseAddr : Field := ⟨6, 32⟩
def evqSizeLog2 : Field := ⟨0, 5⟩
def evqTailIndex : Field := ⟨0, 32⟩
def evqHeadIndex : Field := ⟨0, 32⟩
def evqCtlEnable : Field := ⟨0, 1⟩
def evqCtlHart : Field := ⟨1, 2⟩
def evqCtlEiid : Field := ⟨8, 11⟩
def evqStatusLost : Field := ⟨0, 32⟩
def evqStatusOverflow : Field := ⟨32, 1⟩
def reamStatusTrained : Field := ⟨0, 1⟩
def reamStatusSelfRefresh : Field := ⟨1, 1⟩
def reamStatusHot : Field := ⟨2, 1⟩
def reamStatusLanesSpared : Field := ⟨8, 8⟩
def reamCorrectedCount : Field := ⟨0, 32⟩
def reamUeLastLine : Field := ⟨6, 32⟩
def reamUeLastValid : Field := ⟨63, 1⟩
def reamSparesUsed : Field := ⟨0, 16⟩
def reamSparesExhausted : Field := ⟨16, 1⟩
def reamScrubEnable : Field := ⟨0, 1⟩
def reamScrubPasses : Field := ⟨16, 32⟩
def reamRefreshForceHot : Field := ⟨0, 1⟩
def reamRefreshForced : Field := ⟨16, 32⟩
def reamHammerCount : Field := ⟨0, 32⟩
def tenseNowNs : Field := ⟨0, 64⟩
def tenseCtlEnable : Field := ⟨0, 1⟩
def tenseCtlRoot : Field := ⟨1, 1⟩
def tenseCtlStandbyRoot : Field := ⟨2, 1⟩
def tenseStatusState : Field := ⟨0, 3⟩
def tenseStatusDepth : Field := ⟨4, 5⟩
def tenseStatusParent : Field := ⟨9, 7⟩
def tenseStatusEpoch : Field := ⟨16, 8⟩
def tenseStatusRootChip : Field := ⟨24, 14⟩
def tenseStatusPrimary : Field := ⟨38, 1⟩
def tenseStatusQuiesced : Field := ⟨39, 1⟩
def tenseStatusWitness : Field := ⟨40, 1⟩
def tenseRootInitNs : Field := ⟨0, 64⟩
def tenseParents (i : Nat) : Field := ⟨8 * i, 8⟩
def tenseOffsetOffset : Field := ⟨0, 32⟩
def tenseLockLossesUnlocked : Field := ⟨0, 32⟩
def tenseLockLossesHoldovers : Field := ⟨32, 32⟩
def tenseLateDiscardsCount : Field := ⟨0, 48⟩
def tenseQuiesceAt : Field := ⟨0, 64⟩
def tenseBoundFolioNs : Field := ⟨0, 16⟩
def tenseBoundDeviceUs : Field := ⟨16, 16⟩
def tenseBoundMachineUs : Field := ⟨32, 16⟩
def deckleIdPart : Field := ⟨0, 16⟩
def deckleIdRev : Field := ⟨16, 8⟩
def deckleIdIndex : Field := ⟨24, 1⟩
def deckleIdChip : Field := ⟨32, 14⟩
def switchCtlCutThroughEn : Field := ⟨0, 1⟩
def switchCtlTransitMax : Field := ⟨8, 8⟩
def switchStatusEpVerMask : Field := ⟨0, 16⟩
def allowList0 (i : Nat) : Field := ⟨16 * i, 12⟩
def allowList1 (i : Nat) : Field := ⟨16 * i, 12⟩
def portMode (q : Nat) : Field := ⟨2 * q, 2⟩
def xbarPushoutsCount : Field := ⟨0, 48⟩
def xbarCutThroughCount : Field := ⟨0, 48⟩
def origStoreUsed : Field := ⟨0, 13⟩
def origStoreReserved : Field := ⟨16, 13⟩
def portLossesCount : Field := ⟨0, 32⟩
def requeuedCount : Field := ⟨0, 48⟩
def mirrorCtlEnable : Field := ⟨0, 1⟩
def mirrorCtlMatchEn : Field := ⟨1, 1⟩
def mirrorCtlDir : Field := ⟨2, 2⟩
def mirrorCtlTrunc : Field := ⟨4, 1⟩
def mirrorCtlDest : Field := ⟨8, 5⟩
def mirrorCtlSampleN : Field := ⟨16, 16⟩
def mirrorSrcPorts : Field := ⟨0, 48⟩
def mirrorValueLoBits : Field := ⟨0, 64⟩
def mirrorValueHiBits : Field := ⟨0, 64⟩
def mirrorMaskLoBits : Field := ⟨0, 64⟩
def mirrorMaskHiBits : Field := ⟨0, 64⟩
def mirrorSentCount : Field := ⟨0, 48⟩
def mirrorDropsCount : Field := ⟨0, 48⟩
def routeCtlValiantEn : Field := ⟨0, 1⟩
def routeCtlIsolation : Field := ⟨1, 1⟩
def routeCtlGroup16 : Field := ⟨2, 1⟩
def routeCtlChip : Field := ⟨4, 14⟩
def routeCtlFwdVerMin : Field := ⟨32, 4⟩
def routeCtlFwdVerMax : Field := ⟨36, 4⟩
def routeCtlValiantBias : Field := ⟨40, 8⟩
def memberValidMask : Field := ⟨0, 16⟩
def retxTimerMachineUs : Field := ⟨0, 8⟩
def portLiveMask : Field := ⟨0, 64⟩
def ceDepthCells : Field := ⟨0, 16⟩
def globalTableGwMembers : Field := ⟨0, 16⟩
def globalTableOwnPorts : Field := ⟨16, 32⟩
def globalTableViaGroup : Field := ⟨48, 10⟩
def globalTableValid : Field := ⟨58, 1⟩
def globalTableViaValid : Field := ⟨59, 1⟩
def portViolCount : Field := ⟨0, 32⟩
def portViolLastCode : Field := ⟨32, 8⟩
def portViolQuarantined : Field := ⟨63, 1⟩
def portViolLimitThreshold : Field := ⟨0, 32⟩
def portCrcDropsCount : Field := ⟨0, 48⟩
def collCtlCreate : Field := ⟨0, 1⟩
def collCtlDestroy : Field := ⟨1, 1⟩
def collCtlPreempt : Field := ⟨2, 1⟩
def collCtlResume : Field := ⟨3, 1⟩
def collCtlForceArrive : Field := ⟨4, 1⟩
def collCtlArriveReason : Field := ⟨5, 3⟩
def collCtlJob : Field := ⟨8, 12⟩
def collCtlRsEn : Field := ⟨20, 1⟩
def collCtlMinIn : Field := ⟨21, 2⟩
def collCtlFeatures : Field := ⟨32, 32⟩
def collShapeLocalMask : Field := ⟨0, 16⟩
def collShapeRingLen : Field := ⟨16, 11⟩
def collShapeRingPos : Field := ⟨27, 10⟩
def collShapeCapChunks : Field := ⟨40, 24⟩
def collKeyKey : Field := ⟨0, 32⟩
def collTiles0Mask : Field := ⟨0, 64⟩
def collTiles1Mask : Field := ⟨0, 64⟩
def collTiles2Mask : Field := ⟨0, 64⟩
def collStageOff : Field := ⟨6, 16⟩
def collStageBytes : Field := ⟨24, 22⟩
def collTimeoutStepUs : Field := ⟨0, 32⟩
def collTimeoutCreateMs : Field := ⟨32, 16⟩
def collStatusState : Field := ⟨0, 3⟩
def collStatusReason : Field := ⟨8, 8⟩
def collStatusQueued : Field := ⟨16, 5⟩
def collStepsCommitted : Field := ⟨0, 32⟩
def collStepsErrors : Field := ⟨32, 32⟩
def collLastArrivalChip : Field := ⟨0, 14⟩
def collLastArrivalReason : Field := ⟨16, 3⟩
def collLastArrivalLateNs : Field := ⟨24, 40⟩
def collErrorsChunkInvalid : Field := ⟨0, 16⟩
def collErrorsWindow : Field := ⟨16, 16⟩
def collErrorsOverflows : Field := ⟨32, 16⟩
def collStoreFreeKib : Field := ⟨0, 16⟩
def collStoreFreeKib1 : Field := ⟨16, 16⟩
def ringTable (i : Nat) : Field := ⟨16 * i, 10⟩
def optCtlChangeoverEn : Field := ⟨0, 1⟩
def optCtlRecalEn : Field := ⟨1, 1⟩
def optCtlRecalPeriodMin : Field := ⟨8, 8⟩
def optCtlRecalDelta : Field := ⟨16, 8⟩
def optCtlRecalMaxPorts : Field := ⟨24, 8⟩
def optCtlGapWaitS : Field := ⟨32, 16⟩
def lsmStatusPresent : Field := ⟨0, 1⟩
def lsmStatusPrimaryFailed : Field := ⟨2, 9⟩
def lsmStatusStandbyFailed : Field := ⟨11, 9⟩
def linePowerPower : Field := ⟨0, 16⟩
def linePowerCommission : Field := ⟨16, 16⟩
def linePowerMinFibre : Field := ⟨32, 16⟩
def lineDrivePrimaryMa : Field := ⟨0, 16⟩
def lineDriveStandbyMa : Field := ⟨16, 16⟩
def lineDriveMaxMa : Field := ⟨32, 16⟩
def lineDriveState : Field := ⟨48, 2⟩
def portPhyState : Field := ⟨0, 3⟩
def portPhyRecal : Field := ⟨3, 1⟩
def portPhyFarPort : Field := ⟨8, 8⟩
def portPhyFarChip : Field := ⟨16, 14⟩
def portPhyFailReason : Field := ⟨32, 8⟩
def laneMapTxPhys (i : Nat) : Field := ⟨4 * i, 4⟩
def laneMapTxSpare : Field := ⟨32, 4⟩
def laneMapTxRetired : Field := ⟨36, 9⟩
def laneMapRxPhys (i : Nat) : Field := ⟨4 * i, 4⟩
def laneMapRxSpare : Field := ⟨32, 4⟩
def laneMapRxRetired : Field := ⟨36, 9⟩
def fecCorrectedCount : Field := ⟨0, 48⟩
def fecUncorrectedCount : Field := ⟨0, 48⟩
def laneEventsSwaps : Field := ⟨0, 16⟩
def laneEventsFaults : Field := ⟨16, 16⟩
def laneEventsRecals : Field := ⟨32, 16⟩
def portAdmitEnable : Field := ⟨0, 1⟩
def portAsymAsym : Field := ⟨0, 16⟩
def portAsymSkew : Field := ⟨16, 16⟩
def feltLinkState : Field := ⟨0, 2⟩
def feltLinkSpares : Field := ⟨8, 2⟩
def feltEventsSwaps : Field := ⟨0, 16⟩
def feltEventsFaults : Field := ⟨16, 16⟩
def twinStatusState : Field := ⟨0, 2⟩
def twinStatusModules : Field := ⟨2, 3⟩
def twinStatusHalf : Field := ⟨5, 1⟩
def twinStatusRetrains : Field := ⟨8, 8⟩
def twinErrorsResends : Field := ⟨0, 32⟩
def ringStatusBypassOpen : Field := ⟨0, 1⟩
def ringStatusInLock : Field := ⟨1, 1⟩
def ringPeerChip : Field := ⟨0, 14⟩
def ringPeerValid : Field := ⟨14, 1⟩
def ringPeerPredChip : Field := ⟨16, 14⟩
def energyCtlDvfsEn : Field := ⟨0, 1⟩
def energyCtlMeterEnforce : Field := ⟨1, 1⟩
def energyCtlPulpRampUs : Field := ⟨8, 8⟩
def energyCtlPulpLeadUs : Field := ⟨16, 8⟩
def energyCapWeight (f : Nat) : Field := ⟨32 + 4 * f, 4⟩
def energyCapCapW : Field := ⟨0, 16⟩
def energyStatusCapped : Field := ⟨0, 1⟩
def energyStatusThrottled : Field := ⟨1, 1⟩
def energyStatusMeterDrift : Field := ⟨2, 1⟩
def energyStatusTelemetryLost : Field := ⟨3, 1⟩
def energyStatusDeviceW : Field := ⟨16, 16⟩
def energyStatusPoolW : Field := ⟨32, 16⟩
def energyStatusCorrectionW : Field := ⟨48, 16⟩
def energyWindowIndex : Field := ⟨0, 64⟩
def energyTotalMj : Field := ⟨0, 64⟩
def exchPlanStartTense : Field := ⟨0, 64⟩
def exchPlanShapeLengthUs : Field := ⟨0, 32⟩
def exchPlanShapePeriodUs : Field := ⟨32, 32⟩
def exchForecastNextWin : Field := ⟨0, 32⟩
def exchForecastRunWin : Field := ⟨32, 16⟩
def exchForecastPlanMisses : Field := ⟨48, 16⟩
def thermalStatusWarnLogic : Field := ⟨0, 1⟩
def thermalStatusWarnReam : Field := ⟨1, 1⟩
def thermalStatusThrottle : Field := ⟨2, 1⟩
def thermalStatusFastRise : Field := ⟨3, 1⟩
def thermalStatusThetaMin : Field := ⟨8, 9⟩
def thermalStatusHotSensor : Field := ⟨24, 10⟩
def thermalHottestLogicC : Field := ⟨0, 16⟩
def thermalHottestReamC : Field := ⟨16, 16⟩
def thermalEventsWarnings : Field := ⟨0, 16⟩
def thermalEventsThrottles : Field := ⟨16, 16⟩
def thermalEventsFastRises : Field := ⟨32, 16⟩
def thermalEventsTrips : Field := ⟨48, 16⟩
def tripRecordSensor : Field := ⟨0, 10⟩
def tripRecordValid : Field := ⟨10, 1⟩
def tripRecordCoolant : Field := ⟨11, 1⟩
def tripRecordReading : Field := ⟨16, 16⟩
def tripRecordTenseMs : Field := ⟨32, 32⟩
def coolantStatusCoolantOk : Field := ⟨0, 1⟩
def coolantStatusStopArmed : Field := ⟨1, 1⟩
def coolantStatusLosses : Field := ⟨16, 16⟩
def marginStatusPoweredHours : Field := ⟨0, 32⟩
def marginStatusCharHours : Field := ⟨32, 32⟩
def folioPowerMeteredDw : Field := ⟨0, 20⟩
def folioPowerRailDw : Field := ⟨20, 20⟩
def folioPowerUncontrolledDw : Field := ⟨40, 20⟩
def folioGrantAvailDw : Field := ⟨0, 20⟩
def folioGrantDemandDw : Field := ⟨20, 20⟩
def folioGrantFraction : Field := ⟨40, 9⟩
def folioCalFactor : Field := ⟨0, 16⟩
def folioCalOverruns : Field := ⟨16, 24⟩
def folioCalSlewSteps : Field := ⟨40, 24⟩
def folioDvfsPoint : Field := ⟨0, 3⟩
def folioDvfsFastest : Field := ⟨4, 3⟩
def folioDvfsSlowest : Field := ⟨8, 3⟩
def folioDvfsTrimMv : Field := ⟨16, 6⟩
def sensorNowC : Field := ⟨0, 16⟩
def sensorPeakC : Field := ⟨16, 16⟩
def sensorPeakClr : Field := ⟨32, 1⟩
def featDeviceBits : Field := ⟨0, 64⟩
def featDriverBits : Field := ⟨0, 64⟩
def featEnabledBits : Field := ⟨0, 64⟩
def featCtlCommit : Field := ⟨0, 1⟩
def featCtlDone : Field := ⟨1, 1⟩
def hqGlobalPollUs : Field := ⟨0, 16⟩
def biasFlipPagePage : Field := ⟨0, 20⟩
def biasFlipPageCount : Field := ⟨20, 11⟩
def biasFlipPageHost : Field := ⟨31, 1⟩
def biasFlipCtlGo : Field := ⟨0, 1⟩
def biasFlipCtlBusy : Field := ⟨1, 1⟩
def biasFlipCtlDone : Field := ⟨2, 1⟩
def hqSqBaseAddr : Field := ⟨6, 58⟩
def hqSqSizeLog2 : Field := ⟨0, 5⟩
def hqTailAddrAddr : Field := ⟨6, 58⟩
def hqHeadIndex : Field := ⟨0, 32⟩
def hqCqBaseAddr : Field := ⟨6, 58⟩
def hqCtlEnable : Field := ⟨0, 1⟩
def hqCtlLoc : Field := ⟨1, 1⟩
def hqCtlError : Field := ⟨2, 1⟩
def hqCtlErrorCode : Field := ⟨8, 8⟩
def hqCtlVector : Field := ⟨16, 6⟩
def hqStatusInflight : Field := ⟨0, 16⟩
def hqStatusSnoops : Field := ⟨16, 24⟩
def hqStatusPollHits : Field := ⟨40, 24⟩
def identPartPart : Field := ⟨0, 16⟩
def identPartRev : Field := ⟨16, 8⟩
def identFwLine : Field := ⟨0, 8⟩
def identFwRelease : Field := ⟨8, 8⟩
def identFwPatch : Field := ⟨16, 8⟩
def identFwQuire : Field := ⟨24, 1⟩
def identFwSeq : Field := ⟨32, 32⟩
def identSerialSerial : Field := ⟨0, 64⟩
def dieRev0 (f : Nat) : Field := ⟨8 * f, 8⟩
def dieRev1Deckle0 : Field := ⟨0, 8⟩
def dieRev1Deckle1 : Field := ⟨8, 8⟩
def dieRev1ReamBase : Field := ⟨16, 8⟩
def devStatusState : Field := ⟨0, 2⟩
def devStatusMode : Field := ⟨2, 2⟩
def devStatusStep : Field := ⟨4, 4⟩
def devStatusReason : Field := ⟨8, 8⟩
def devResetKey : Field := ⟨0, 8⟩
def devResetWhole : Field := ⟨8, 1⟩
def devResetProceed : Field := ⟨9, 1⟩
def devResetFolios : Field := ⟨16, 8⟩
def devResetDeckles : Field := ⟨24, 2⟩
def devResetTile : Field := ⟨26, 1⟩
def devResetTileIndex : Field := ⟨32, 8⟩
def bootTimeMs : Field := ⟨0, 32⟩
def modeCtlRequest : Field := ⟨0, 2⟩
def recoveryCtlStart : Field := ⟨0, 1⟩
def recoveryCtlCommit : Field := ⟨1, 1⟩
def recoveryCtlBusy : Field := ⟨2, 1⟩
def recoveryCtlDone : Field := ⟨3, 1⟩
def recoveryCtlResult : Field := ⟨8, 8⟩
def recoveryDataData : Field := ⟨0, 64⟩
def debugStatusLevel : Field := ⟨0, 2⟩
def debugStatusRejects : Field := ⟨2, 2⟩
def mcStatusActive : Field := ⟨0, 1⟩
def mcStatusStandbyReady : Field := ⟨1, 1⟩
def mcStatusTakeovers : Field := ⟨16, 16⟩
def faultRingTailIndex : Field := ⟨0, 64⟩
def faultRingHeadIndex : Field := ⟨0, 64⟩
def faultRingLostCount : Field := ⟨0, 64⟩
def faultRingCtlAlertLevel : Field := ⟨0, 2⟩
def faultRingAckIndex : Field := ⟨0, 64⟩
def suspectCtlMarginNs : Field := ⟨0, 16⟩
def suspectCtlStreakLimit : Field := ⟨16, 8⟩
def suspectMaskMask : Field := ⟨0, 16⟩
def suspectExchCount : Field := ⟨0, 48⟩
def peerArrivalLast : Field := ⟨0, 24⟩
def peerArrivalLastNone : Field := ⟨24, 24⟩
def peerArrivalStreak : Field := ⟨48, 8⟩
def peerArrivalLastReason : Field := ⟨56, 3⟩
def scoreIdLayout : Field := ⟨0, 16⟩
def scoreCtlHalfLifeH : Field := ⟨0, 8⟩
def scoreCtlWCe : Field := ⟨8, 8⟩
def scoreCtlWRetry : Field := ⟨16, 8⟩
def scoreCtlWRetrain : Field := ⟨24, 8⟩
def scoreCtlWCrc : Field := ⟨32, 8⟩
def scoreCeScore : Field := ⟨0, 32⟩
def scoreCeEvents : Field := ⟨32, 32⟩
def scoreRetryScore : Field := ⟨0, 32⟩
def scoreRetryEvents : Field := ⟨32, 32⟩
def scoreRetrainScore : Field := ⟨0, 32⟩
def scoreRetrainEvents : Field := ⟨32, 32⟩
def scoreCrcScore : Field := ⟨0, 32⟩
def scoreCrcEvents : Field := ⟨32, 32⟩
def scoreTotalTotal : Field := ⟨0, 32⟩
def scoreClearClear : Field := ⟨0, 1⟩
def sentStatusLoaded : Field := ⟨0, 8⟩
def sentStatusEnabled : Field := ⟨8, 8⟩
def sentStatusRunning : Field := ⟨16, 1⟩
def sentRunsRuns : Field := ⟨0, 32⟩
def sentRunsMismatches : Field := ⟨32, 32⟩
def sentStopsStopped : Field := ⟨0, 32⟩
def sentStopsSkipped : Field := ⟨32, 32⟩
def sentRingTailIndex : Field := ⟨0, 32⟩
def mboxArgValue : Field := ⟨0, 64⟩
def mboxCmdCmd : Field := ⟨0, 8⟩
def mboxResultStatus : Field := ⟨0, 8⟩
def mboxResultBusy : Field := ⟨8, 1⟩
def mboxResultDone : Field := ⟨9, 1⟩
def mboxResultLastCmd : Field := ⟨16, 8⟩
def mboxResultSource : Field := ⟨24, 1⟩

end Fld

namespace Reg

/-- The fields of each register with their access codes, from the register table of the chapter named by its rule. -/
def fields : Reg → List (Field × Access)
  | .seqCtl _ =>   -- R117
      [(Fld.seqCtlRun, .ro), (Fld.seqCtlStart, .wo), (Fld.seqCtlStop, .wo), (Fld.seqCtlHaltKind, .ro)]
  | .seqPc _ => [(Fld.seqPcPc, .rw)]   -- R117
  | .excCause _ => [(Fld.excCauseCause, .ro)]   -- R117
  | .excPc _ => [(Fld.excPcPc, .ro)]   -- R117
  | .excInfo _ => [(Fld.excInfoInfo, .ro)]   -- R117
  | .numStatus _ =>   -- R57
      [(Fld.numStatusNv, .w1c), (Fld.numStatusOf, .w1c), (Fld.numStatusUf, .w1c), (Fld.numStatusNx, .w1c),
      (Fld.numStatusSat, .w1c), (Fld.numStatusLaneRange, .w1c), (Fld.numStatusEmpty, .w1c)]
  | .strict _ => [(Fld.strictLane, .rw), (Fld.strictCheck, .rw)]   -- R117
  | .srSeed _ => [(Fld.srSeedSeed, .rw)]   -- R117
  | .srStep _ => [(Fld.srStepStep, .rw)]   -- R117
  | .checkMiss _ => [(Fld.checkMissCount, .ro)]   -- R117
  | .scoreboard _ => [(Fld.scoreboardBusy, .ro)]   -- R117
  | .tagError _ => [(Fld.tagErrorMark, .w1c)]   -- R117
  | .haltCode _ => [(Fld.haltCodeCode, .ro)]   -- R117
  | .pressRepair _ => [(Fld.pressRepairRow, .ro), (Fld.pressRepairValid, .ro), (Fld.pressRepairSource, .ro)]   -- R154
  | .pressService _ => [(Fld.pressServiceInService, .ro), (Fld.pressServiceReason, .ro)]   -- R154
  | .checkRows _ => [(Fld.checkRowsCount, .ro)]   -- R154
  | .checkSkipped _ => [(Fld.checkSkippedCount, .ro)]   -- R154
  | .checkLast _ => [(Fld.checkLastRow, .ro), (Fld.checkLastAcc, .ro), (Fld.checkLastRatio, .ro)]   -- R154
  | .pressSteps _ => [(Fld.pressStepsCount, .ro)]   -- R154
  | .pressStalls _ => [(Fld.pressStallsCount, .ro)]   -- R154
  | .inflRows _ => [(Fld.inflRowsCount, .ro)]   -- R186
  | .inflFuncRows _ => [(Fld.inflFuncRowsCount, .ro)]   -- R186
  | .inflEmpty _ => [(Fld.inflEmptyCount, .ro)]   -- R186
  | .laneRangeLast _ =>   -- R186
      [(Fld.laneRangeLastRow, .ro), (Fld.laneRangeLastLane, .ro), (Fld.laneRangeLastIndex, .ro)]
  | .inflCouchWait _ => [(Fld.inflCouchWaitCount, .ro)]   -- R186
  | .vatCorrected _ => [(Fld.vatCorrectedCount, .ro)]   -- R218
  | .vatUeLast _ => [(Fld.vatUeLastOffset, .ro), (Fld.vatUeLastValid, .w1c)]   -- R218
  | .vatPortWait _ => [(Fld.vatPortWaitCount, .ro)]   -- R218
  | .dmaBytes _ => [(Fld.dmaBytesCount, .ro)]   -- R218
  | .dmaRejects _ => [(Fld.dmaRejectsCount, .ro)]   -- R218
  | .dmaLastReject _ =>   -- R218
      [(Fld.dmaLastRejectStatus, .ro), (Fld.dmaLastRejectTag, .ro), (Fld.dmaLastRejectDescOff, .ro)]
  | .folioStatus _ =>   -- R533
      [(Fld.folioStatusInReset, .ro), (Fld.folioStatusDegraded, .ro), (Fld.folioStatusInService, .ro),
      (Fld.folioStatusLaunchDepth, .ro)]
  | .bufBase _ _ => [(Fld.bufBaseAddr, .rw)]   -- R202
  | .bufSize _ _ => [(Fld.bufSizeBytes, .rw)]   -- R202
  | .bufCtl _ _ =>   -- R202
      [(Fld.bufCtlValid, .rw), (Fld.bufCtlRead, .rw), (Fld.bufCtlWrite, .rw), (Fld.bufCtlCache, .rw)]
  | .fcCtl _ => [(Fld.fcCtlPrefetchEn, .rw), (Fld.fcCtlHintEn, .rw)]   -- R218
  | .fcHits _ => [(Fld.fcHitsCount, .ro)]   -- R218
  | .fcMisses _ => [(Fld.fcMissesCount, .ro)]   -- R218
  | .fcPrefIssued _ => [(Fld.fcPrefIssuedCount, .ro)]   -- R218
  | .fcPrefUsed _ => [(Fld.fcPrefUsedCount, .ro)]   -- R218
  | .fcHintsDropped _ => [(Fld.fcHintsDroppedCount, .ro)]   -- R218
  | .fcCorrected _ => [(Fld.fcCorrectedCount, .ro)]   -- R218
  | .fcUeLast _ => [(Fld.fcUeLastLine, .ro), (Fld.fcUeLastValid, .w1c)]   -- R218
  | .xportRetx _ => [(Fld.xportRetxCount, .ro)]   -- R321
  | .xportTimeouts _ => [(Fld.xportTimeoutsCount, .ro)]   -- R321
  | .xportNaksSent _ => [(Fld.xportNaksSentCount, .ro)]   -- R321
  | .xportNaksRcvd _ => [(Fld.xportNaksRcvdCount, .ro)]   -- R321
  | .xportLastNak _ =>   -- R321
      [(Fld.xportLastNakCode, .ro), (Fld.xportLastNakDie, .ro), (Fld.xportLastNakChip, .ro),
      (Fld.xportLastNakTag, .ro)]
  | .xportDuplicates _ => [(Fld.xportDuplicatesCount, .ro)]   -- R321
  | .xportAssemblyDrops _ => [(Fld.xportAssemblyDropsCount, .ro)]   -- R321
  | .xportOrphans _ => [(Fld.xportOrphansCount, .ro)]   -- R321
  | .xportCrcDrops _ => [(Fld.xportCrcDropsCount, .ro)]   -- R321
  | .xportNakSuppressed _ => [(Fld.xportNakSuppressedCount, .ro)]   -- R321
  | .ecqBase _ _ => [(Fld.ecqBaseAddr, .rw)]   -- R257
  | .ecqSize _ _ => [(Fld.ecqSizeLog2, .rw)]   -- R257
  | .ecqTailAddr _ _ => [(Fld.ecqTailAddrAddr, .rw)]   -- R257
  | .ecqHead _ _ => [(Fld.ecqHeadIndex, .ro)]   -- R257
  | .ecqCtl _ _ =>   -- R257
      [(Fld.ecqCtlEnable, .rw), (Fld.ecqCtlEvent, .rw), (Fld.ecqCtlError, .w1c), (Fld.ecqCtlResume, .wo),
      (Fld.ecqCtlErrorCode, .ro)]
  | .ecqDone _ _ => [(Fld.ecqDoneCount, .ro)]   -- R257
  | .engOps _ => [(Fld.engOpsCount, .ro)]   -- R257
  | .engNaks _ => [(Fld.engNaksCount, .ro)]   -- R257
  | .engCmds _ => [(Fld.engCmdsCount, .ro)]   -- R257
  | .regionTarget _ _ => [(Fld.regionTargetOffset, .ro)]   -- R257
  | .regionCount _ _ => [(Fld.regionCountCount, .ro), (Fld.regionCountFmt, .ro)]   -- R257
  | .regionSlot _ _ => [(Fld.regionSlotAddr, .ro)]   -- R257
  | .regionState _ _ => [(Fld.regionStateState, .ro), (Fld.regionStateQueue, .ro)]   -- R257
  | .aperture _ _ =>   -- R472
      [(Fld.apertureOffHi, .rw), (Fld.apertureDie, .rw), (Fld.apertureChip, .rw), (Fld.apertureValid, .rw)]
  | .evqBase _ => [(Fld.evqBaseAddr, .rw)]   -- R472
  | .evqSize _ => [(Fld.evqSizeLog2, .rw)]   -- R472
  | .evqTail _ => [(Fld.evqTailIndex, .ro)]   -- R472
  | .evqHead _ => [(Fld.evqHeadIndex, .rw)]   -- R472
  | .evqCtl _ => [(Fld.evqCtlEnable, .rw), (Fld.evqCtlHart, .rw), (Fld.evqCtlEiid, .rw)]   -- R472
  | .evqStatus _ => [(Fld.evqStatusLost, .ro), (Fld.evqStatusOverflow, .w1c)]   -- R472
  | .reamStatus _ =>   -- R255
      [(Fld.reamStatusTrained, .ro), (Fld.reamStatusSelfRefresh, .ro), (Fld.reamStatusHot, .ro),
      (Fld.reamStatusLanesSpared, .ro)]
  | .reamCorrected _ => [(Fld.reamCorrectedCount, .ro)]   -- R255
  | .reamUeLast _ => [(Fld.reamUeLastLine, .ro), (Fld.reamUeLastValid, .w1c)]   -- R255
  | .reamSpares _ => [(Fld.reamSparesUsed, .ro), (Fld.reamSparesExhausted, .ro)]   -- R255
  | .reamScrub _ => [(Fld.reamScrubEnable, .rw), (Fld.reamScrubPasses, .ro)]   -- R255
  | .reamRefresh _ => [(Fld.reamRefreshForceHot, .rw), (Fld.reamRefreshForced, .ro)]   -- R255
  | .reamHammer _ => [(Fld.reamHammerCount, .ro)]   -- R255
  | .tenseNow => [(Fld.tenseNowNs, .ro)]   -- R284
  | .tenseCtl => [(Fld.tenseCtlEnable, .rw), (Fld.tenseCtlRoot, .rw), (Fld.tenseCtlStandbyRoot, .rw)]   -- R284
  | .tenseStatus =>   -- R284
      [(Fld.tenseStatusState, .ro), (Fld.tenseStatusDepth, .ro), (Fld.tenseStatusParent, .ro),
      (Fld.tenseStatusEpoch, .ro), (Fld.tenseStatusRootChip, .ro), (Fld.tenseStatusPrimary, .ro),
      (Fld.tenseStatusQuiesced, .ro), (Fld.tenseStatusWitness, .ro)]
  | .tenseRootInit => [(Fld.tenseRootInitNs, .rw)]   -- R284
  | .tenseParents => (List.range 4).map (fun i => (Fld.tenseParents i, .rw))   -- R284
  | .tenseOffset => [(Fld.tenseOffsetOffset, .ro)]   -- R284
  | .tenseLockLosses => [(Fld.tenseLockLossesUnlocked, .ro), (Fld.tenseLockLossesHoldovers, .ro)]   -- R284
  | .tenseLateDiscards => [(Fld.tenseLateDiscardsCount, .ro)]   -- R284
  | .tenseQuiesce => [(Fld.tenseQuiesceAt, .rw)]   -- R284
  | .tenseBound =>   -- R284
      [(Fld.tenseBoundFolioNs, .ro), (Fld.tenseBoundDeviceUs, .ro), (Fld.tenseBoundMachineUs, .ro)]
  | .deckleId _ =>   -- R534
      [(Fld.deckleIdPart, .ro), (Fld.deckleIdRev, .ro), (Fld.deckleIdIndex, .ro), (Fld.deckleIdChip, .ro)]
  | .switchCtl _ => [(Fld.switchCtlCutThroughEn, .rw), (Fld.switchCtlTransitMax, .rw)]   -- R348
  | .switchStatus _ => [(Fld.switchStatusEpVerMask, .ro)]   -- R348
  | .allowList0 _ => (List.range 4).map (fun i => (Fld.allowList0 i, .rw))   -- R348
  | .allowList1 _ => (List.range 4).map (fun i => (Fld.allowList1 i, .rw))   -- R348
  | .portMode _ => (List.range 32).map (fun i => (Fld.portMode i, .rw))   -- R348
  | .xbarPushouts _ => [(Fld.xbarPushoutsCount, .ro)]   -- R348
  | .xbarCutThrough _ => [(Fld.xbarCutThroughCount, .ro)]   -- R348
  | .origStore _ => [(Fld.origStoreUsed, .ro), (Fld.origStoreReserved, .ro)]   -- R348
  | .portLosses _ => [(Fld.portLossesCount, .ro)]   -- R348
  | .requeued _ => [(Fld.requeuedCount, .ro)]   -- R348
  | .mirrorCtl _ _ =>   -- R348
      [(Fld.mirrorCtlEnable, .rw), (Fld.mirrorCtlMatchEn, .rw), (Fld.mirrorCtlDir, .rw),
      (Fld.mirrorCtlTrunc, .rw), (Fld.mirrorCtlDest, .rw), (Fld.mirrorCtlSampleN, .rw)]
  | .mirrorSrc _ _ => [(Fld.mirrorSrcPorts, .rw)]   -- R348
  | .mirrorValueLo _ _ => [(Fld.mirrorValueLoBits, .rw)]   -- R348
  | .mirrorValueHi _ _ => [(Fld.mirrorValueHiBits, .rw)]   -- R348
  | .mirrorMaskLo _ _ => [(Fld.mirrorMaskLoBits, .rw)]   -- R348
  | .mirrorMaskHi _ _ => [(Fld.mirrorMaskHiBits, .rw)]   -- R348
  | .mirrorSent _ _ => [(Fld.mirrorSentCount, .ro)]   -- R348
  | .mirrorDrops _ _ => [(Fld.mirrorDropsCount, .ro)]   -- R348
  | .routeCtl _ =>   -- R320
      [(Fld.routeCtlValiantEn, .rw), (Fld.routeCtlIsolation, .rw), (Fld.routeCtlGroup16, .rw),
      (Fld.routeCtlChip, .rw), (Fld.routeCtlFwdVerMin, .ro), (Fld.routeCtlFwdVerMax, .ro),
      (Fld.routeCtlValiantBias, .rw)]
  | .memberValid _ => [(Fld.memberValidMask, .rw)]   -- R320
  | .retxTimer => [(Fld.retxTimerMachineUs, .rw)]   -- R320
  | .portLive _ => [(Fld.portLiveMask, .ro)]   -- R320
  | .ceDepth _ => [(Fld.ceDepthCells, .rw)]   -- R320
  | .globalTable _ _ =>   -- R320
      [(Fld.globalTableGwMembers, .rw), (Fld.globalTableOwnPorts, .rw), (Fld.globalTableViaGroup, .rw),
      (Fld.globalTableValid, .rw), (Fld.globalTableViaValid, .rw)]
  | .portViol _ => [(Fld.portViolCount, .ro), (Fld.portViolLastCode, .ro), (Fld.portViolQuarantined, .w1c)]   -- R320
  | .portViolLimit _ => [(Fld.portViolLimitThreshold, .rw)]   -- R320
  | .portCrcDrops _ => [(Fld.portCrcDropsCount, .ro)]   -- R320
  | .collCtl _ =>   -- R384
      [(Fld.collCtlCreate, .wo), (Fld.collCtlDestroy, .wo), (Fld.collCtlPreempt, .wo), (Fld.collCtlResume, .wo),
      (Fld.collCtlForceArrive, .wo), (Fld.collCtlArriveReason, .rw), (Fld.collCtlJob, .rw),
      (Fld.collCtlRsEn, .rw), (Fld.collCtlMinIn, .rw), (Fld.collCtlFeatures, .rw)]
  | .collShape _ =>   -- R384
      [(Fld.collShapeLocalMask, .rw), (Fld.collShapeRingLen, .rw), (Fld.collShapeRingPos, .ro),
      (Fld.collShapeCapChunks, .rw)]
  | .collKey _ => [(Fld.collKeyKey, .rw)]   -- R384
  | .collTiles0 _ => [(Fld.collTiles0Mask, .rw)]   -- R384
  | .collTiles1 _ => [(Fld.collTiles1Mask, .rw)]   -- R384
  | .collTiles2 _ => [(Fld.collTiles2Mask, .rw)]   -- R384
  | .collStage _ => [(Fld.collStageOff, .rw), (Fld.collStageBytes, .rw)]   -- R384
  | .collTimeout _ => [(Fld.collTimeoutStepUs, .rw), (Fld.collTimeoutCreateMs, .rw)]   -- R384
  | .collStatus _ => [(Fld.collStatusState, .ro), (Fld.collStatusReason, .ro), (Fld.collStatusQueued, .ro)]   -- R384
  | .collSteps _ => [(Fld.collStepsCommitted, .ro), (Fld.collStepsErrors, .ro)]   -- R384
  | .collLastArrival _ =>   -- R384
      [(Fld.collLastArrivalChip, .ro), (Fld.collLastArrivalReason, .ro), (Fld.collLastArrivalLateNs, .ro)]
  | .collErrors _ =>   -- R384
      [(Fld.collErrorsChunkInvalid, .ro), (Fld.collErrorsWindow, .ro), (Fld.collErrorsOverflows, .ro)]
  | .collStore => [(Fld.collStoreFreeKib, .ro), (Fld.collStoreFreeKib1, .ro)]   -- R384
  | .ringTable _ _ => (List.range 4).map (fun i => (Fld.ringTable i, .rw))   -- R383
  | .optCtl =>   -- R415
      [(Fld.optCtlChangeoverEn, .rw), (Fld.optCtlRecalEn, .rw), (Fld.optCtlRecalPeriodMin, .rw),
      (Fld.optCtlRecalDelta, .rw), (Fld.optCtlRecalMaxPorts, .rw), (Fld.optCtlGapWaitS, .rw)]
  | .lsmStatus =>   -- R415
      [(Fld.lsmStatusPresent, .ro), (Fld.lsmStatusPrimaryFailed, .ro), (Fld.lsmStatusStandbyFailed, .ro)]
  | .linePower _ =>   -- R415
      [(Fld.linePowerPower, .ro), (Fld.linePowerCommission, .rw), (Fld.linePowerMinFibre, .ro)]
  | .lineDrive _ =>   -- R415
      [(Fld.lineDrivePrimaryMa, .ro), (Fld.lineDriveStandbyMa, .ro), (Fld.lineDriveMaxMa, .ro),
      (Fld.lineDriveState, .ro)]
  | .portPhy _ =>   -- R415
      [(Fld.portPhyState, .ro), (Fld.portPhyRecal, .ro), (Fld.portPhyFarPort, .ro), (Fld.portPhyFarChip, .ro),
      (Fld.portPhyFailReason, .ro)]
  | .laneMapTx _ =>   -- R415
      (List.range 8).map (fun i => (Fld.laneMapTxPhys i, .ro)) ++ [(Fld.laneMapTxSpare, .ro), (Fld.laneMapTxRetired, .ro)]
  | .laneMapRx _ =>   -- R415
      (List.range 8).map (fun i => (Fld.laneMapRxPhys i, .ro)) ++ [(Fld.laneMapRxSpare, .ro), (Fld.laneMapRxRetired, .ro)]
  | .fecCorrected _ => [(Fld.fecCorrectedCount, .ro)]   -- R415
  | .fecUncorrected _ => [(Fld.fecUncorrectedCount, .ro)]   -- R415
  | .laneEvents _ => [(Fld.laneEventsSwaps, .ro), (Fld.laneEventsFaults, .ro), (Fld.laneEventsRecals, .ro)]   -- R415
  | .portAdmit _ => [(Fld.portAdmitEnable, .rw)]   -- R415
  | .portAsym _ => [(Fld.portAsymAsym, .ro), (Fld.portAsymSkew, .ro)]   -- R415
  | .feltLink _ => [(Fld.feltLinkState, .ro), (Fld.feltLinkSpares, .ro)]   -- R415
  | .feltEvents _ => [(Fld.feltEventsSwaps, .ro), (Fld.feltEventsFaults, .ro)]   -- R415
  | .twinStatus _ =>   -- R415
      [(Fld.twinStatusState, .ro), (Fld.twinStatusModules, .ro), (Fld.twinStatusHalf, .ro),
      (Fld.twinStatusRetrains, .ro)]
  | .twinErrors _ => [(Fld.twinErrorsResends, .ro)]   -- R415
  | .ringStatus => [(Fld.ringStatusBypassOpen, .ro), (Fld.ringStatusInLock, .ro)]   -- R415
  | .ringPeer => [(Fld.ringPeerChip, .ro), (Fld.ringPeerValid, .ro), (Fld.ringPeerPredChip, .ro)]   -- R415
  | .heater _ w => if w.val < 4 then [(⟨0, 64⟩, .rw)] else if w.val = 4 then [(⟨0, 48⟩, .rw)]
      else if w.val = 5 then [(⟨0, 64⟩, .rw)] else []   -- R416
  | .energyCtl =>   -- R445
      [(Fld.energyCtlDvfsEn, .rw), (Fld.energyCtlMeterEnforce, .rw), (Fld.energyCtlPulpRampUs, .rw),
      (Fld.energyCtlPulpLeadUs, .rw)]
  | .energyCap => (List.range 8).map (fun i => (Fld.energyCapWeight i, .rw)) ++ [(Fld.energyCapCapW, .rw)]   -- R445
  | .energyStatus =>   -- R445
      [(Fld.energyStatusCapped, .ro), (Fld.energyStatusThrottled, .ro), (Fld.energyStatusMeterDrift, .ro),
      (Fld.energyStatusTelemetryLost, .ro), (Fld.energyStatusDeviceW, .ro), (Fld.energyStatusPoolW, .ro),
      (Fld.energyStatusCorrectionW, .ro)]
  | .energyWindow => [(Fld.energyWindowIndex, .ro)]   -- R445
  | .energyTotal => [(Fld.energyTotalMj, .ro)]   -- R445
  | .exchPlanStart => [(Fld.exchPlanStartTense, .rw)]   -- R445
  | .exchPlanShape => [(Fld.exchPlanShapeLengthUs, .rw), (Fld.exchPlanShapePeriodUs, .rw)]   -- R445
  | .exchForecast =>   -- R445
      [(Fld.exchForecastNextWin, .ro), (Fld.exchForecastRunWin, .ro), (Fld.exchForecastPlanMisses, .ro)]
  | .thermalStatus =>   -- R445
      [(Fld.thermalStatusWarnLogic, .ro), (Fld.thermalStatusWarnReam, .ro), (Fld.thermalStatusThrottle, .ro),
      (Fld.thermalStatusFastRise, .ro), (Fld.thermalStatusThetaMin, .ro), (Fld.thermalStatusHotSensor, .ro)]
  | .thermalHottest => [(Fld.thermalHottestLogicC, .ro), (Fld.thermalHottestReamC, .ro)]   -- R445
  | .thermalEvents =>   -- R445
      [(Fld.thermalEventsWarnings, .ro), (Fld.thermalEventsThrottles, .ro), (Fld.thermalEventsFastRises, .ro),
      (Fld.thermalEventsTrips, .ro)]
  | .tripRecord =>   -- R445
      [(Fld.tripRecordSensor, .ro), (Fld.tripRecordValid, .w1c), (Fld.tripRecordCoolant, .ro),
      (Fld.tripRecordReading, .ro), (Fld.tripRecordTenseMs, .ro)]
  | .coolantStatus =>   -- R445
      [(Fld.coolantStatusCoolantOk, .ro), (Fld.coolantStatusStopArmed, .ro), (Fld.coolantStatusLosses, .ro)]
  | .marginStatus => [(Fld.marginStatusPoweredHours, .ro), (Fld.marginStatusCharHours, .ro)]   -- R445
  | .folioPower _ =>   -- R445
      [(Fld.folioPowerMeteredDw, .ro), (Fld.folioPowerRailDw, .ro), (Fld.folioPowerUncontrolledDw, .ro)]
  | .folioGrant _ =>   -- R445
      [(Fld.folioGrantAvailDw, .ro), (Fld.folioGrantDemandDw, .ro), (Fld.folioGrantFraction, .ro)]
  | .folioCal _ => [(Fld.folioCalFactor, .ro), (Fld.folioCalOverruns, .ro), (Fld.folioCalSlewSteps, .ro)]   -- R445
  | .folioDvfs _ =>   -- R445
      [(Fld.folioDvfsPoint, .ro), (Fld.folioDvfsFastest, .rw), (Fld.folioDvfsSlowest, .rw),
      (Fld.folioDvfsTrimMv, .ro)]
  | .sensor _ => [(Fld.sensorNowC, .ro), (Fld.sensorPeakC, .ro), (Fld.sensorPeakClr, .wo)]   -- R445
  | .featDevice _ => [(Fld.featDeviceBits, .ro)]   -- R471
  | .featDriver _ => [(Fld.featDriverBits, .rw)]   -- R471
  | .featEnabled _ => [(Fld.featEnabledBits, .ro)]   -- R471
  | .featCtl => [(Fld.featCtlCommit, .wo), (Fld.featCtlDone, .ro)]   -- R471
  | .hqGlobal => [(Fld.hqGlobalPollUs, .rw)]   -- R471
  | .biasFlipPage =>   -- R471
      [(Fld.biasFlipPagePage, .rw), (Fld.biasFlipPageCount, .rw), (Fld.biasFlipPageHost, .rw)]
  | .biasFlipCtl => [(Fld.biasFlipCtlGo, .wo), (Fld.biasFlipCtlBusy, .ro), (Fld.biasFlipCtlDone, .w1c)]   -- R471
  | .hqSqBase _ => [(Fld.hqSqBaseAddr, .rw)]   -- R471
  | .hqSqSize _ => [(Fld.hqSqSizeLog2, .rw)]   -- R471
  | .hqTailAddr _ => [(Fld.hqTailAddrAddr, .rw)]   -- R471
  | .hqHead _ => [(Fld.hqHeadIndex, .ro)]   -- R471
  | .hqCqBase _ => [(Fld.hqCqBaseAddr, .rw)]   -- R471
  | .hqCtl _ =>   -- R471
      [(Fld.hqCtlEnable, .rw), (Fld.hqCtlLoc, .rw), (Fld.hqCtlError, .w1c), (Fld.hqCtlErrorCode, .ro),
      (Fld.hqCtlVector, .rw)]
  | .hqStatus _ => [(Fld.hqStatusInflight, .ro), (Fld.hqStatusSnoops, .ro), (Fld.hqStatusPollHits, .ro)]   -- R471
  | .identPart => [(Fld.identPartPart, .ro), (Fld.identPartRev, .ro)]   -- R503
  | .identFw =>   -- R503
      [(Fld.identFwLine, .ro), (Fld.identFwRelease, .ro), (Fld.identFwPatch, .ro), (Fld.identFwQuire, .ro),
      (Fld.identFwSeq, .ro)]
  | .identSerial => [(Fld.identSerialSerial, .ro)]   -- R503
  | .dieRev0 => (List.range 8).map (fun i => (Fld.dieRev0 i, .ro))   -- R503
  | .dieRev1 => [(Fld.dieRev1Deckle0, .ro), (Fld.dieRev1Deckle1, .ro), (Fld.dieRev1ReamBase, .ro)]   -- R503
  | .devStatus =>   -- R503
      [(Fld.devStatusState, .ro), (Fld.devStatusMode, .ro), (Fld.devStatusStep, .ro), (Fld.devStatusReason, .ro)]
  | .devReset =>   -- R503
      [(Fld.devResetKey, .wo), (Fld.devResetWhole, .wo), (Fld.devResetProceed, .wo), (Fld.devResetFolios, .wo),
      (Fld.devResetDeckles, .wo), (Fld.devResetTile, .wo), (Fld.devResetTileIndex, .wo)]
  | .bootTime => [(Fld.bootTimeMs, .ro)]   -- R503
  | .modeCtl => [(Fld.modeCtlRequest, .wo)]   -- R503
  | .recoveryCtl =>   -- R503
      [(Fld.recoveryCtlStart, .wo), (Fld.recoveryCtlCommit, .wo), (Fld.recoveryCtlBusy, .ro),
      (Fld.recoveryCtlDone, .w1c), (Fld.recoveryCtlResult, .ro)]
  | .recoveryData => [(Fld.recoveryDataData, .wo)]   -- R503
  | .debugStatus => [(Fld.debugStatusLevel, .ro), (Fld.debugStatusRejects, .ro)]   -- R503
  | .mcStatus => [(Fld.mcStatusActive, .ro), (Fld.mcStatusStandbyReady, .ro), (Fld.mcStatusTakeovers, .ro)]   -- R503
  | .faultRingTail => [(Fld.faultRingTailIndex, .ro)]   -- R503
  | .faultRingHead => [(Fld.faultRingHeadIndex, .ro)]   -- R503
  | .faultRingLost => [(Fld.faultRingLostCount, .ro)]   -- R503
  | .faultRingCtl => [(Fld.faultRingCtlAlertLevel, .rw)]   -- R503
  | .faultRingAck => [(Fld.faultRingAckIndex, .rw)]   -- R503
  | .faultSlot _ _ => [(⟨0, 64⟩, .ro)]   -- R500
  | .suspectCtl => [(Fld.suspectCtlMarginNs, .rw), (Fld.suspectCtlStreakLimit, .rw)]   -- R522
  | .suspectMask => [(Fld.suspectMaskMask, .w1c)]   -- R522
  | .suspectExch => [(Fld.suspectExchCount, .ro)]   -- R522
  | .peerArrival _ =>   -- R522
      [(Fld.peerArrivalLast, .ro), (Fld.peerArrivalLastNone, .ro), (Fld.peerArrivalStreak, .ro),
      (Fld.peerArrivalLastReason, .ro)]
  | .scoreId => [(Fld.scoreIdLayout, .ro)]   -- R522
  | .scoreCtl =>   -- R522
      [(Fld.scoreCtlHalfLifeH, .rw), (Fld.scoreCtlWCe, .rw), (Fld.scoreCtlWRetry, .rw),
      (Fld.scoreCtlWRetrain, .rw), (Fld.scoreCtlWCrc, .rw)]
  | .scoreCe => [(Fld.scoreCeScore, .ro), (Fld.scoreCeEvents, .ro)]   -- R522
  | .scoreRetry => [(Fld.scoreRetryScore, .ro), (Fld.scoreRetryEvents, .ro)]   -- R522
  | .scoreRetrain => [(Fld.scoreRetrainScore, .ro), (Fld.scoreRetrainEvents, .ro)]   -- R522
  | .scoreCrc => [(Fld.scoreCrcScore, .ro), (Fld.scoreCrcEvents, .ro)]   -- R522
  | .scoreTotal => [(Fld.scoreTotalTotal, .ro)]   -- R522
  | .scoreClear => [(Fld.scoreClearClear, .wo)]   -- R522
  | .sentStatus => [(Fld.sentStatusLoaded, .ro), (Fld.sentStatusEnabled, .ro), (Fld.sentStatusRunning, .ro)]   -- R522
  | .sentRuns => [(Fld.sentRunsRuns, .ro), (Fld.sentRunsMismatches, .ro)]   -- R522
  | .sentStops => [(Fld.sentStopsStopped, .ro), (Fld.sentStopsSkipped, .ro)]   -- R522
  | .sentRingTail => [(Fld.sentRingTailIndex, .ro)]   -- R522
  | .mboxArg _ => [(Fld.mboxArgValue, .rw)]   -- R535
  | .mboxCmd => [(Fld.mboxCmdCmd, .wo)]   -- R535
  | .mboxResult =>   -- R535
      [(Fld.mboxResultStatus, .ro), (Fld.mboxResultBusy, .ro), (Fld.mboxResultDone, .w1c),
      (Fld.mboxResultLastCmd, .ro), (Fld.mboxResultSource, .ro)]

/-- The OR of the masks of the fields of one access code. -/
def maskOf (r : Reg) (a : Access) : W64 :=
  r.fields.foldl (fun m p => if p.2 = a then m ||| p.1.mask else m) 0

/-- What each register holds at reset (R12). The registers not named here reset to 0. -/
def resetValue : Reg → W64
  | .scoreboard _ => 0xF000
  | .pressService _ => 0x2
  | .fcCtl _ => 0x3
  | .ecqSize _ _ => 0x4
  | .evqSize _ => 0x8
  | .evqCtl _ => 0x100
  | .reamScrub _ => 0x1
  | .tenseStatus => 0xFE00
  | .tenseParents => 0xFFFFFFFF
  | .tenseBound => 0x2800140190
  | .deckleId n => 0x113216 + BitVec.ofNat 64 (n.val * 0x1000000)
  | .switchCtl _ => 0x6001
  | .switchStatus _ => 0x2
  | .portMode _ => 0x5555555555555555
  | .mirrorCtl _ _ => 0x10000
  | .routeCtl _ => 0x104100000005
  | .retxTimer => 0x10
  | .ceDepth _ => 0xC0
  | .portViolLimit _ => 0x400
  | .collCtl _ => 0x60
  | .collShape _ => 0x10000010000
  | .collTimeout _ => 0x3E8000F4240
  | .collStore => 0xC000C000
  | .optCtl => 0x3C10050A03
  | .laneMapTx _ => 0x876543210
  | .laneMapRx _ => 0x876543210
  | .energyCtl => 0x191403
  | .energyCap => 0x8888888800001C20
  | .thermalStatus => 0x10000
  | .coolantStatus => 0x2
  | .folioGrant _ => 0x1000000000000
  | .folioCal _ => 0x1000
  | .folioDvfs _ => 0x707
  | .featDevice w => if w.val = 0 then 0x1F else 0   -- R461
  | .hqGlobal => 0x32
  | .biasFlipPage => 0x100000
  | .hqSqSize _ => 0x4
  | .identPart => 0x113216
  | .devStatus => 0x110
  | .faultRingCtl => 0x2
  | .suspectCtl => 0x801F4
  | .scoreId => 0x2
  | .scoreCtl => 0x110010118
  | _ => 0

/-- Where the transport counters of a die lie (R318). -/
def xportBase (d : Die) : Nat :=
  if d.val < 8 then 0x01000000 + d.val * 0x00800000 + 0x00240000
  else 0x05000000 + (d.val - 8) * 0x00400000 + 0x4000

/-- The BAR index 0 offset of each register (R523, R532-R535). -/
def addr : Reg → Nat
  | .seqCtl t => 0x01000000 + (t.val / 24) * 0x00800000 + 0x00100000 + (t.val % 24) * 0x1000
  | .seqPc t => 0x01000000 + (t.val / 24) * 0x00800000 + 0x00100000 + (t.val % 24) * 0x1000 + 0x8
  | .excCause t => 0x01000000 + (t.val / 24) * 0x00800000 + 0x00100000 + (t.val % 24) * 0x1000 + 0x10
  | .excPc t => 0x01000000 + (t.val / 24) * 0x00800000 + 0x00100000 + (t.val % 24) * 0x1000 + 0x18
  | .excInfo t => 0x01000000 + (t.val / 24) * 0x00800000 + 0x00100000 + (t.val % 24) * 0x1000 + 0x20
  | .numStatus t => 0x01000000 + (t.val / 24) * 0x00800000 + 0x00100000 + (t.val % 24) * 0x1000 + 0x28
  | .strict t => 0x01000000 + (t.val / 24) * 0x00800000 + 0x00100000 + (t.val % 24) * 0x1000 + 0x30
  | .srSeed t => 0x01000000 + (t.val / 24) * 0x00800000 + 0x00100000 + (t.val % 24) * 0x1000 + 0x38
  | .srStep t => 0x01000000 + (t.val / 24) * 0x00800000 + 0x00100000 + (t.val % 24) * 0x1000 + 0x40
  | .checkMiss t => 0x01000000 + (t.val / 24) * 0x00800000 + 0x00100000 + (t.val % 24) * 0x1000 + 0x48
  | .scoreboard t => 0x01000000 + (t.val / 24) * 0x00800000 + 0x00100000 + (t.val % 24) * 0x1000 + 0x50
  | .tagError t => 0x01000000 + (t.val / 24) * 0x00800000 + 0x00100000 + (t.val % 24) * 0x1000 + 0x58
  | .haltCode t => 0x01000000 + (t.val / 24) * 0x00800000 + 0x00100000 + (t.val % 24) * 0x1000 + 0x60
  | .pressRepair t => 0x01000000 + (t.val / 24) * 0x00800000 + 0x00180000 + (t.val % 24) * 0x100
  | .pressService t => 0x01000000 + (t.val / 24) * 0x00800000 + 0x00180000 + (t.val % 24) * 0x100 + 0x8
  | .checkRows t => 0x01000000 + (t.val / 24) * 0x00800000 + 0x00180000 + (t.val % 24) * 0x100 + 0x10
  | .checkSkipped t => 0x01000000 + (t.val / 24) * 0x00800000 + 0x00180000 + (t.val % 24) * 0x100 + 0x18
  | .checkLast t => 0x01000000 + (t.val / 24) * 0x00800000 + 0x00180000 + (t.val % 24) * 0x100 + 0x20
  | .pressSteps t => 0x01000000 + (t.val / 24) * 0x00800000 + 0x00180000 + (t.val % 24) * 0x100 + 0x28
  | .pressStalls t => 0x01000000 + (t.val / 24) * 0x00800000 + 0x00180000 + (t.val % 24) * 0x100 + 0x30
  | .inflRows t => 0x01000000 + (t.val / 24) * 0x00800000 + 0x001C0000 + (t.val % 24) * 0x100
  | .inflFuncRows t => 0x01000000 + (t.val / 24) * 0x00800000 + 0x001C0000 + (t.val % 24) * 0x100 + 0x8
  | .inflEmpty t => 0x01000000 + (t.val / 24) * 0x00800000 + 0x001C0000 + (t.val % 24) * 0x100 + 0x10
  | .laneRangeLast t => 0x01000000 + (t.val / 24) * 0x00800000 + 0x001C0000 + (t.val % 24) * 0x100 + 0x18
  | .inflCouchWait t => 0x01000000 + (t.val / 24) * 0x00800000 + 0x001C0000 + (t.val % 24) * 0x100 + 0x20
  | .vatCorrected t => 0x01000000 + (t.val / 24) * 0x00800000 + 0x001E0000 + (t.val % 24) * 0x100
  | .vatUeLast t => 0x01000000 + (t.val / 24) * 0x00800000 + 0x001E0000 + (t.val % 24) * 0x100 + 0x8
  | .vatPortWait t => 0x01000000 + (t.val / 24) * 0x00800000 + 0x001E0000 + (t.val % 24) * 0x100 + 0x10
  | .dmaBytes t => 0x01000000 + (t.val / 24) * 0x00800000 + 0x001E0000 + (t.val % 24) * 0x100 + 0x18
  | .dmaRejects t => 0x01000000 + (t.val / 24) * 0x00800000 + 0x001E0000 + (t.val % 24) * 0x100 + 0x20
  | .dmaLastReject t => 0x01000000 + (t.val / 24) * 0x00800000 + 0x001E0000 + (t.val % 24) * 0x100 + 0x28
  | .folioStatus f => 0x01000000 + f.val * 0x00800000
  | .bufBase f e => 0x01000000 + f.val * 0x00800000 + 0x00200000 + e.val * 0x20
  | .bufSize f e => 0x01000000 + f.val * 0x00800000 + 0x00200000 + e.val * 0x20 + 0x8
  | .bufCtl f e => 0x01000000 + f.val * 0x00800000 + 0x00200000 + e.val * 0x20 + 0x10
  | .fcCtl f => 0x01000000 + f.val * 0x00800000 + 0x00220000
  | .fcHits f => 0x01000000 + f.val * 0x00800000 + 0x00220000 + 0x8
  | .fcMisses f => 0x01000000 + f.val * 0x00800000 + 0x00220000 + 0x10
  | .fcPrefIssued f => 0x01000000 + f.val * 0x00800000 + 0x00220000 + 0x18
  | .fcPrefUsed f => 0x01000000 + f.val * 0x00800000 + 0x00220000 + 0x20
  | .fcHintsDropped f => 0x01000000 + f.val * 0x00800000 + 0x00220000 + 0x28
  | .fcCorrected f => 0x01000000 + f.val * 0x00800000 + 0x00220000 + 0x30
  | .fcUeLast f => 0x01000000 + f.val * 0x00800000 + 0x00220000 + 0x38
  | .xportRetx d => xportBase d
  | .xportTimeouts d => xportBase d + 0x8
  | .xportNaksSent d => xportBase d + 0x10
  | .xportNaksRcvd d => xportBase d + 0x18
  | .xportLastNak d => xportBase d + 0x20
  | .xportDuplicates d => xportBase d + 0x28
  | .xportAssemblyDrops d => xportBase d + 0x30
  | .xportOrphans d => xportBase d + 0x38
  | .xportCrcDrops d => xportBase d + 0x40
  | .xportNakSuppressed d => xportBase d + 0x48
  | .ecqBase f q => 0x01000000 + f.val * 0x00800000 + 0x00300000 + q.val * 0x40
  | .ecqSize f q => 0x01000000 + f.val * 0x00800000 + 0x00300000 + q.val * 0x40 + 0x8
  | .ecqTailAddr f q => 0x01000000 + f.val * 0x00800000 + 0x00300000 + q.val * 0x40 + 0x10
  | .ecqHead f q => 0x01000000 + f.val * 0x00800000 + 0x00300000 + q.val * 0x40 + 0x18
  | .ecqCtl f q => 0x01000000 + f.val * 0x00800000 + 0x00300000 + q.val * 0x40 + 0x20
  | .ecqDone f q => 0x01000000 + f.val * 0x00800000 + 0x00300000 + q.val * 0x40 + 0x28
  | .engOps f => 0x01000000 + f.val * 0x00800000 + 0x00300400
  | .engNaks f => 0x01000000 + f.val * 0x00800000 + 0x00300400 + 0x8
  | .engCmds f => 0x01000000 + f.val * 0x00800000 + 0x00300400 + 0x10
  | .regionTarget f r => 0x01000000 + f.val * 0x00800000 + 0x00301000 + r.val * 0x20
  | .regionCount f r => 0x01000000 + f.val * 0x00800000 + 0x00301000 + r.val * 0x20 + 0x8
  | .regionSlot f r => 0x01000000 + f.val * 0x00800000 + 0x00301000 + r.val * 0x20 + 0x10
  | .regionState f r => 0x01000000 + f.val * 0x00800000 + 0x00301000 + r.val * 0x20 + 0x18
  | .aperture f a => 0x01000000 + f.val * 0x00800000 + 0x00400000 + a.val * 8
  | .evqBase f => 0x01000000 + f.val * 0x00800000 + 0x00400000 + 0x80
  | .evqSize f => 0x01000000 + f.val * 0x00800000 + 0x00400000 + 0x88
  | .evqTail f => 0x01000000 + f.val * 0x00800000 + 0x00400000 + 0x90
  | .evqHead f => 0x01000000 + f.val * 0x00800000 + 0x00400000 + 0x98
  | .evqCtl f => 0x01000000 + f.val * 0x00800000 + 0x00400000 + 0xA0
  | .evqStatus f => 0x01000000 + f.val * 0x00800000 + 0x00400000 + 0xA8
  | .reamStatus m => 0x06000000 + m.val * 0x20000
  | .reamCorrected m => 0x06000000 + m.val * 0x20000 + 0x8
  | .reamUeLast m => 0x06000000 + m.val * 0x20000 + 0x10
  | .reamSpares m => 0x06000000 + m.val * 0x20000 + 0x18
  | .reamScrub m => 0x06000000 + m.val * 0x20000 + 0x20
  | .reamRefresh m => 0x06000000 + m.val * 0x20000 + 0x28
  | .reamHammer m => 0x06000000 + m.val * 0x20000 + 0x30
  | .tenseNow => 0x00200000
  | .tenseCtl => 0x00200000 + 0x8
  | .tenseStatus => 0x00200000 + 0x10
  | .tenseRootInit => 0x00200000 + 0x18
  | .tenseParents => 0x00200000 + 0x20
  | .tenseOffset => 0x00200000 + 0x28
  | .tenseLockLosses => 0x00200000 + 0x30
  | .tenseLateDiscards => 0x00200000 + 0x38
  | .tenseQuiesce => 0x00200000 + 0x40
  | .tenseBound => 0x00200000 + 0x48
  | .deckleId n => 0x05000000 + n.val * 0x00400000
  | .switchCtl n => 0x05000000 + n.val * 0x00400000 + 0x8000
  | .switchStatus n => 0x05000000 + n.val * 0x00400000 + 0x8000 + 0x8
  | .allowList0 n => 0x05000000 + n.val * 0x00400000 + 0x8000 + 0x10
  | .allowList1 n => 0x05000000 + n.val * 0x00400000 + 0x8000 + 0x18
  | .portMode n => 0x05000000 + n.val * 0x00400000 + 0x8000 + 0x20
  | .xbarPushouts n => 0x05000000 + n.val * 0x00400000 + 0x8000 + 0x28
  | .xbarCutThrough n => 0x05000000 + n.val * 0x00400000 + 0x8000 + 0x30
  | .origStore n => 0x05000000 + n.val * 0x00400000 + 0x8000 + 0x38
  | .portLosses n => 0x05000000 + n.val * 0x00400000 + 0x8000 + 0x40
  | .requeued n => 0x05000000 + n.val * 0x00400000 + 0x8000 + 0x48
  | .mirrorCtl n s => 0x05000000 + n.val * 0x00400000 + 0x9000 + s.val * 0x40
  | .mirrorSrc n s => 0x05000000 + n.val * 0x00400000 + 0x9000 + s.val * 0x40 + 0x8
  | .mirrorValueLo n s => 0x05000000 + n.val * 0x00400000 + 0x9000 + s.val * 0x40 + 0x10
  | .mirrorValueHi n s => 0x05000000 + n.val * 0x00400000 + 0x9000 + s.val * 0x40 + 0x18
  | .mirrorMaskLo n s => 0x05000000 + n.val * 0x00400000 + 0x9000 + s.val * 0x40 + 0x20
  | .mirrorMaskHi n s => 0x05000000 + n.val * 0x00400000 + 0x9000 + s.val * 0x40 + 0x28
  | .mirrorSent n s => 0x05000000 + n.val * 0x00400000 + 0x9000 + s.val * 0x40 + 0x30
  | .mirrorDrops n s => 0x05000000 + n.val * 0x00400000 + 0x9000 + s.val * 0x40 + 0x38
  | .routeCtl n => 0x05000000 + n.val * 0x00400000 + 0x10000
  | .memberValid n => 0x05000000 + n.val * 0x00400000 + 0x10000 + 0x8
  | .retxTimer => 0x05010010
  | .portLive n => 0x05000000 + n.val * 0x00400000 + 0x10018
  | .ceDepth n => 0x05000000 + n.val * 0x00400000 + 0x10018 + 0x8
  | .globalTable n g => 0x05000000 + n.val * 0x00400000 + 0x20000 + g.val * 8
  | .portViol p => 0x05000000 + (p.val / 32) * 0x00400000 + 0x30000 + p.val * 0x20
  | .portViolLimit p => 0x05000000 + (p.val / 32) * 0x00400000 + 0x30000 + p.val * 0x20 + 0x8
  | .portCrcDrops p => 0x05000000 + (p.val / 32) * 0x00400000 + 0x30000 + p.val * 0x20 + 0x10
  | .collCtl c => 0x05100000 + c.val * 0x100
  | .collShape c => 0x05100000 + c.val * 0x100 + 0x8
  | .collKey c => 0x05100000 + c.val * 0x100 + 0x10
  | .collTiles0 c => 0x05100000 + c.val * 0x100 + 0x18
  | .collTiles1 c => 0x05100000 + c.val * 0x100 + 0x20
  | .collTiles2 c => 0x05100000 + c.val * 0x100 + 0x28
  | .collStage c => 0x05100000 + c.val * 0x100 + 0x30
  | .collTimeout c => 0x05100000 + c.val * 0x100 + 0x38
  | .collStatus c => 0x05100000 + c.val * 0x100 + 0x40
  | .collSteps c => 0x05100000 + c.val * 0x100 + 0x48
  | .collLastArrival c => 0x05100000 + c.val * 0x100 + 0x50
  | .collErrors c => 0x05100000 + c.val * 0x100 + 0x58
  | .collStore => 0x05104000
  | .ringTable c w => 0x05200000 + c.val * 0x800 + w.val * 8
  | .optCtl => 0x05800000
  | .lsmStatus => 0x05800000 + 0x8
  | .linePower l => 0x05800100 + l.val * 0x10
  | .lineDrive l => 0x05800100 + l.val * 0x10 + 0x8
  | .portPhy p => 0x05810000 + p.val * 0x40
  | .laneMapTx p => 0x05810000 + p.val * 0x40 + 0x8
  | .laneMapRx p => 0x05810000 + p.val * 0x40 + 0x10
  | .fecCorrected p => 0x05810000 + p.val * 0x40 + 0x18
  | .fecUncorrected p => 0x05810000 + p.val * 0x40 + 0x20
  | .laneEvents p => 0x05810000 + p.val * 0x40 + 0x28
  | .portAdmit p => 0x05810000 + p.val * 0x40 + 0x30
  | .portAsym p => 0x05810000 + p.val * 0x40 + 0x38
  | .feltLink k => 0x05820000 + k.val * 0x20
  | .feltEvents k => 0x05820000 + k.val * 0x20 + 0x8
  | .twinStatus i => 0x05830000 + i.val * 0x20
  | .twinErrors i => 0x05830000 + i.val * 0x20 + 0x8
  | .ringStatus => 0x05831000
  | .ringPeer => 0x05831000 + 0x8
  | .heater r w => 0x05900000 + r.val * 0x40 + w.val * 8
  | .energyCtl => 0x00100000
  | .energyCap => 0x00100000 + 0x8
  | .energyStatus => 0x00100000 + 0x10
  | .energyWindow => 0x00100000 + 0x18
  | .energyTotal => 0x00100000 + 0x20
  | .exchPlanStart => 0x00100000 + 0x28
  | .exchPlanShape => 0x00100000 + 0x30
  | .exchForecast => 0x00100000 + 0x38
  | .thermalStatus => 0x00100000 + 0x40
  | .thermalHottest => 0x00100000 + 0x48
  | .thermalEvents => 0x00100000 + 0x50
  | .tripRecord => 0x00100000 + 0x58
  | .coolantStatus => 0x00100000 + 0x60
  | .marginStatus => 0x00100000 + 0x68
  | .folioPower f => 0x00100100 + f.val * 0x20
  | .folioGrant f => 0x00100100 + f.val * 0x20 + 0x8
  | .folioCal f => 0x00100100 + f.val * 0x20 + 0x10
  | .folioDvfs f => 0x00100100 + f.val * 0x20 + 0x18
  | .sensor i => 0x00110000 + i.val * 8
  | .featDevice w => 0x00010000 + w.val * 8
  | .featDriver w => 0x00010020 + w.val * 8
  | .featEnabled w => 0x00010040 + w.val * 8
  | .featCtl => 0x00010060
  | .hqGlobal => 0x00020000
  | .biasFlipPage => 0x00020010
  | .biasFlipCtl => 0x00020010 + 0x8
  | .hqSqBase q => 0x00021000 + q.val * 0x40
  | .hqSqSize q => 0x00021000 + q.val * 0x40 + 0x8
  | .hqTailAddr q => 0x00021000 + q.val * 0x40 + 0x10
  | .hqHead q => 0x00021000 + q.val * 0x40 + 0x18
  | .hqCqBase q => 0x00021000 + q.val * 0x40 + 0x20
  | .hqCtl q => 0x00021000 + q.val * 0x40 + 0x28
  | .hqStatus q => 0x00021000 + q.val * 0x40 + 0x30
  | .identPart => 0x0
  | .identFw => 0x0 + 0x8
  | .identSerial => 0x0 + 0x10
  | .dieRev0 => 0x0 + 0x18
  | .dieRev1 => 0x0 + 0x20
  | .devStatus => 0x0 + 0x28
  | .devReset => 0x0 + 0x30
  | .bootTime => 0x0 + 0x38
  | .modeCtl => 0x0 + 0x40
  | .recoveryCtl => 0x0 + 0x48
  | .recoveryData => 0x0 + 0x50
  | .debugStatus => 0x0 + 0x58
  | .mcStatus => 0x0 + 0x60
  | .faultRingTail => 0x00400000
  | .faultRingHead => 0x00400000 + 0x8
  | .faultRingLost => 0x00400000 + 0x10
  | .faultRingCtl => 0x00400000 + 0x18
  | .faultRingAck => 0x00400000 + 0x20
  | .faultSlot s w => 0x00401000 + s.val * 32 + w.val * 8
  | .suspectCtl => 0x00430000
  | .suspectMask => 0x00430000 + 0x8
  | .suspectExch => 0x00430000 + 0x10
  | .peerArrival m => 0x00430100 + m.val * 8
  | .scoreId => 0x00440000
  | .scoreCtl => 0x00440000 + 0x8
  | .scoreCe => 0x00440000 + 0x10
  | .scoreRetry => 0x00440000 + 0x18
  | .scoreRetrain => 0x00440000 + 0x20
  | .scoreCrc => 0x00440000 + 0x28
  | .scoreTotal => 0x00440000 + 0x30
  | .scoreClear => 0x00440000 + 0x38
  | .sentStatus => 0x00450000
  | .sentRuns => 0x00450000 + 0x8
  | .sentStops => 0x00450000 + 0x10
  | .sentRingTail => 0x00450000 + 0x18
  | .mboxArg w => 0x07000000 + w.val * 8
  | .mboxCmd => 0x07000020
  | .mboxResult => 0x07000020 + 0x8

/-- What an offset of BAR index 0 names: a register; a slot that a chapter says reads zero and ignores writes
(entry 0 of the buffer table R202, a port of the other deckle R319); or nothing (R525). -/
inductive Target where
  | reg (r : Reg)
  | blank
  | reserved
  deriving DecidableEq, Repr

def tileOf (f n : Nat) : Tile := Fin.ofNat 192 (24 * f + n)

/-- The tile control registers (R116). -/
def tileSlot (t : Tile) (o : Nat) : Target :=
  match o with
  | 0x0 => .reg (.seqCtl t)
  | 0x8 => .reg (.seqPc t)
  | 0x10 => .reg (.excCause t)
  | 0x18 => .reg (.excPc t)
  | 0x20 => .reg (.excInfo t)
  | 0x28 => .reg (.numStatus t)
  | 0x30 => .reg (.strict t)
  | 0x38 => .reg (.srSeed t)
  | 0x40 => .reg (.srStep t)
  | 0x48 => .reg (.checkMiss t)
  | 0x50 => .reg (.scoreboard t)
  | 0x58 => .reg (.tagError t)
  | 0x60 => .reg (.haltCode t)
  | _ => .reserved

/-- The press registers (R153). -/
def pressSlot (t : Tile) (o : Nat) : Target :=
  match o with
  | 0x0 => .reg (.pressRepair t)
  | 0x8 => .reg (.pressService t)
  | 0x10 => .reg (.checkRows t)
  | 0x18 => .reg (.checkSkipped t)
  | 0x20 => .reg (.checkLast t)
  | 0x28 => .reg (.pressSteps t)
  | 0x30 => .reg (.pressStalls t)
  | _ => .reserved

/-- The inflection registers (R185). -/
def inflSlot (t : Tile) (o : Nat) : Target :=
  match o with
  | 0x0 => .reg (.inflRows t)
  | 0x8 => .reg (.inflFuncRows t)
  | 0x10 => .reg (.inflEmpty t)
  | 0x18 => .reg (.laneRangeLast t)
  | 0x20 => .reg (.inflCouchWait t)
  | _ => .reserved

/-- The DMA and vat registers (R217). -/
def vatSlot (t : Tile) (o : Nat) : Target :=
  match o with
  | 0x0 => .reg (.vatCorrected t)
  | 0x8 => .reg (.vatUeLast t)
  | 0x10 => .reg (.vatPortWait t)
  | 0x18 => .reg (.dmaBytes t)
  | 0x20 => .reg (.dmaRejects t)
  | 0x28 => .reg (.dmaLastReject t)
  | _ => .reserved

/-- One buffer table entry (R202). -/
def bufSlot (f : Folio) (e : Fin 256) (o : Nat) : Target :=
  match o with
  | 0x0 => .reg (.bufBase f e)
  | 0x8 => .reg (.bufSize f e)
  | 0x10 => .reg (.bufCtl f e)
  | _ => .reserved

/-- The folio cache registers (R217). -/
def cacheSlot (f : Folio) (o : Nat) : Target :=
  match o with
  | 0x0 => .reg (.fcCtl f)
  | 0x8 => .reg (.fcHits f)
  | 0x10 => .reg (.fcMisses f)
  | 0x18 => .reg (.fcPrefIssued f)
  | 0x20 => .reg (.fcPrefUsed f)
  | 0x28 => .reg (.fcHintsDropped f)
  | 0x30 => .reg (.fcCorrected f)
  | 0x38 => .reg (.fcUeLast f)
  | _ => .reserved

/-- The transport counters of a die (R318). -/
def xportSlot (d : Die) (o : Nat) : Target :=
  match o with
  | 0x0 => .reg (.xportRetx d)
  | 0x8 => .reg (.xportTimeouts d)
  | 0x10 => .reg (.xportNaksSent d)
  | 0x18 => .reg (.xportNaksRcvd d)
  | 0x20 => .reg (.xportLastNak d)
  | 0x28 => .reg (.xportDuplicates d)
  | 0x30 => .reg (.xportAssemblyDrops d)
  | 0x38 => .reg (.xportOrphans d)
  | 0x40 => .reg (.xportCrcDrops d)
  | 0x48 => .reg (.xportNakSuppressed d)
  | _ => .reserved

/-- One engine command queue (R256). -/
def ecqSlot (f : Folio) (q : Ecq) (o : Nat) : Target :=
  match o with
  | 0x0 => .reg (.ecqBase f q)
  | 0x8 => .reg (.ecqSize f q)
  | 0x10 => .reg (.ecqTailAddr f q)
  | 0x18 => .reg (.ecqHead f q)
  | 0x20 => .reg (.ecqCtl f q)
  | 0x28 => .reg (.ecqDone f q)
  | _ => .reserved

/-- The engine counters (R256). -/
def engineSlot (f : Folio) (o : Nat) : Target :=
  match o with
  | 0x0 => .reg (.engOps f)
  | 0x8 => .reg (.engNaks f)
  | 0x10 => .reg (.engCmds f)
  | _ => .reserved

/-- One accumulation region (R256). -/
def accRegionSlot (f : Folio) (r : Fin 256) (o : Nat) : Target :=
  match o with
  | 0x0 => .reg (.regionTarget f r)
  | 0x8 => .reg (.regionCount f r)
  | 0x10 => .reg (.regionSlot f r)
  | 0x18 => .reg (.regionState f r)
  | _ => .reserved

/-- The event queue (R472). -/
def evqSlot (f : Folio) (o : Nat) : Target :=
  match o with
  | 0x80 => .reg (.evqBase f)
  | 0x88 => .reg (.evqSize f)
  | 0x90 => .reg (.evqTail f)
  | 0x98 => .reg (.evqHead f)
  | 0xA0 => .reg (.evqCtl f)
  | 0xA8 => .reg (.evqStatus f)
  | _ => .reserved

/-- The ream registers (R254). -/
def reamSlot (m : Ream) (o : Nat) : Target :=
  match o with
  | 0x0 => .reg (.reamStatus m)
  | 0x8 => .reg (.reamCorrected m)
  | 0x10 => .reg (.reamUeLast m)
  | 0x18 => .reg (.reamSpares m)
  | 0x20 => .reg (.reamScrub m)
  | 0x28 => .reg (.reamRefresh m)
  | 0x30 => .reg (.reamHammer m)
  | _ => .reserved

/-- The tense registers (R283). -/
def tenseSlot  (o : Nat) : Target :=
  match o with
  | 0x0 => .reg (.tenseNow)
  | 0x8 => .reg (.tenseCtl)
  | 0x10 => .reg (.tenseStatus)
  | 0x18 => .reg (.tenseRootInit)
  | 0x20 => .reg (.tenseParents)
  | 0x28 => .reg (.tenseOffset)
  | 0x30 => .reg (.tenseLockLosses)
  | 0x38 => .reg (.tenseLateDiscards)
  | 0x40 => .reg (.tenseQuiesce)
  | 0x48 => .reg (.tenseBound)
  | _ => .reserved

/-- The switch registers (R347). -/
def switchSlot (n : Deckle) (o : Nat) : Target :=
  match o with
  | 0x0 => .reg (.switchCtl n)
  | 0x8 => .reg (.switchStatus n)
  | 0x10 => .reg (.allowList0 n)
  | 0x18 => .reg (.allowList1 n)
  | 0x20 => .reg (.portMode n)
  | 0x28 => .reg (.xbarPushouts n)
  | 0x30 => .reg (.xbarCutThrough n)
  | 0x38 => .reg (.origStore n)
  | 0x40 => .reg (.portLosses n)
  | 0x48 => .reg (.requeued n)
  | _ => .reserved

/-- One mirror session (R347). -/
def mirrorSlot (n : Deckle) (s : Fin 8) (o : Nat) : Target :=
  match o with
  | 0x0 => .reg (.mirrorCtl n s)
  | 0x8 => .reg (.mirrorSrc n s)
  | 0x10 => .reg (.mirrorValueLo n s)
  | 0x18 => .reg (.mirrorValueHi n s)
  | 0x20 => .reg (.mirrorMaskLo n s)
  | 0x28 => .reg (.mirrorMaskHi n s)
  | 0x30 => .reg (.mirrorSent n s)
  | 0x38 => .reg (.mirrorDrops n s)
  | _ => .reserved

/-- The routing registers (R318); RETX_TIMER is one register for both windows (R319). -/
def routeSlot (n : Deckle) (o : Nat) : Target :=
  match o with
  | 0x0 => .reg (.routeCtl n)
  | 0x8 => .reg (.memberValid n)
  | 0x10 => .reg (.retxTimer)
  | 0x18 => .reg (.portLive n)
  | 0x20 => .reg (.ceDepth n)
  | _ => .reserved

/-- The violation registers of one port (R318). -/
def violSlot (p : Port) (o : Nat) : Target :=
  match o with
  | 0x0 => .reg (.portViol p)
  | 0x8 => .reg (.portViolLimit p)
  | 0x10 => .reg (.portCrcDrops p)
  | _ => .reserved

/-- One collective group (R383). -/
def collSlot (c : Coll) (o : Nat) : Target :=
  match o with
  | 0x0 => .reg (.collCtl c)
  | 0x8 => .reg (.collShape c)
  | 0x10 => .reg (.collKey c)
  | 0x18 => .reg (.collTiles0 c)
  | 0x20 => .reg (.collTiles1 c)
  | 0x28 => .reg (.collTiles2 c)
  | 0x30 => .reg (.collStage c)
  | 0x38 => .reg (.collTimeout c)
  | 0x40 => .reg (.collStatus c)
  | 0x48 => .reg (.collSteps c)
  | 0x50 => .reg (.collLastArrival c)
  | 0x58 => .reg (.collErrors c)
  | _ => .reserved

/-- The optics registers of one port (R414). -/
def portSlot (p : Port) (o : Nat) : Target :=
  match o with
  | 0x0 => .reg (.portPhy p)
  | 0x8 => .reg (.laneMapTx p)
  | 0x10 => .reg (.laneMapRx p)
  | 0x18 => .reg (.fecCorrected p)
  | 0x20 => .reg (.fecUncorrected p)
  | 0x28 => .reg (.laneEvents p)
  | 0x30 => .reg (.portAdmit p)
  | 0x38 => .reg (.portAsym p)
  | _ => .reserved

/-- One laser line (R414). -/
def lineSlot (l : Line) (o : Nat) : Target :=
  match o with
  | 0x0 => .reg (.linePower l)
  | 0x8 => .reg (.lineDrive l)
  | _ => .reserved

/-- One felt link (R414). -/
def feltSlot (k : Felt) (o : Nat) : Target :=
  match o with
  | 0x0 => .reg (.feltLink k)
  | 0x8 => .reg (.feltEvents k)
  | _ => .reserved

/-- One twin-stream link (R414). -/
def twinSlot (i : Pair) (o : Nat) : Target :=
  match o with
  | 0x0 => .reg (.twinStatus i)
  | 0x8 => .reg (.twinErrors i)
  | _ => .reserved

/-- The energy and thermal registers (R444). -/
def energySlot  (o : Nat) : Target :=
  match o with
  | 0x0 => .reg (.energyCtl)
  | 0x8 => .reg (.energyCap)
  | 0x10 => .reg (.energyStatus)
  | 0x18 => .reg (.energyWindow)
  | 0x20 => .reg (.energyTotal)
  | 0x28 => .reg (.exchPlanStart)
  | 0x30 => .reg (.exchPlanShape)
  | 0x38 => .reg (.exchForecast)
  | 0x40 => .reg (.thermalStatus)
  | 0x48 => .reg (.thermalHottest)
  | 0x50 => .reg (.thermalEvents)
  | 0x58 => .reg (.tripRecord)
  | 0x60 => .reg (.coolantStatus)
  | 0x68 => .reg (.marginStatus)
  | _ => .reserved

/-- The energy registers of one folio (R444). -/
def folioEnergySlot (f : Folio) (o : Nat) : Target :=
  match o with
  | 0x0 => .reg (.folioPower f)
  | 0x8 => .reg (.folioGrant f)
  | 0x10 => .reg (.folioCal f)
  | 0x18 => .reg (.folioDvfs f)
  | _ => .reserved

/-- Feature negotiation, the queue period and the bias flip (R470). -/
def featSlot  (o : Nat) : Target :=
  match o with
  | 0x0 => .reg (.featDevice 0)
  | 0x8 => .reg (.featDevice 1)
  | 0x10 => .reg (.featDevice 2)
  | 0x18 => .reg (.featDevice 3)
  | 0x20 => .reg (.featDriver 0)
  | 0x28 => .reg (.featDriver 1)
  | 0x30 => .reg (.featDriver 2)
  | 0x38 => .reg (.featDriver 3)
  | 0x40 => .reg (.featEnabled 0)
  | 0x48 => .reg (.featEnabled 1)
  | 0x50 => .reg (.featEnabled 2)
  | 0x58 => .reg (.featEnabled 3)
  | 0x60 => .reg (.featCtl)
  | 0x10000 => .reg (.hqGlobal)
  | 0x10010 => .reg (.biasFlipPage)
  | 0x10018 => .reg (.biasFlipCtl)
  | _ => .reserved

/-- One host queue (R470). -/
def hqSlot (q : HQueue) (o : Nat) : Target :=
  match o with
  | 0x0 => .reg (.hqSqBase q)
  | 0x8 => .reg (.hqSqSize q)
  | 0x10 => .reg (.hqTailAddr q)
  | 0x18 => .reg (.hqHead q)
  | 0x20 => .reg (.hqCqBase q)
  | 0x28 => .reg (.hqCtl q)
  | 0x30 => .reg (.hqStatus q)
  | _ => .reserved

/-- The identity and status window (R502). -/
def identSlot  (o : Nat) : Target :=
  match o with
  | 0x0 => .reg (.identPart)
  | 0x8 => .reg (.identFw)
  | 0x10 => .reg (.identSerial)
  | 0x18 => .reg (.dieRev0)
  | 0x20 => .reg (.dieRev1)
  | 0x28 => .reg (.devStatus)
  | 0x30 => .reg (.devReset)
  | 0x38 => .reg (.bootTime)
  | 0x40 => .reg (.modeCtl)
  | 0x48 => .reg (.recoveryCtl)
  | 0x50 => .reg (.recoveryData)
  | 0x58 => .reg (.debugStatus)
  | 0x60 => .reg (.mcStatus)
  | _ => .reserved

/-- The fault ring registers (R502). -/
def faultRingSlot  (o : Nat) : Target :=
  match o with
  | 0x0 => .reg (.faultRingTail)
  | 0x8 => .reg (.faultRingHead)
  | 0x10 => .reg (.faultRingLost)
  | 0x18 => .reg (.faultRingCtl)
  | 0x20 => .reg (.faultRingAck)
  | _ => .reserved

/-- Suspect marking, error scores and sentinels (R521), from 0x0043_0000. -/
def fleetSlot  (o : Nat) : Target :=
  match o with
  | 0x0 => .reg (.suspectCtl)
  | 0x8 => .reg (.suspectMask)
  | 0x10 => .reg (.suspectExch)
  | 0x100 => .reg (.peerArrival 0)
  | 0x108 => .reg (.peerArrival 1)
  | 0x110 => .reg (.peerArrival 2)
  | 0x118 => .reg (.peerArrival 3)
  | 0x120 => .reg (.peerArrival 4)
  | 0x128 => .reg (.peerArrival 5)
  | 0x130 => .reg (.peerArrival 6)
  | 0x138 => .reg (.peerArrival 7)
  | 0x140 => .reg (.peerArrival 8)
  | 0x148 => .reg (.peerArrival 9)
  | 0x150 => .reg (.peerArrival 10)
  | 0x158 => .reg (.peerArrival 11)
  | 0x160 => .reg (.peerArrival 12)
  | 0x168 => .reg (.peerArrival 13)
  | 0x170 => .reg (.peerArrival 14)
  | 0x178 => .reg (.peerArrival 15)
  | 0x10000 => .reg (.scoreId)
  | 0x10008 => .reg (.scoreCtl)
  | 0x10010 => .reg (.scoreCe)
  | 0x10018 => .reg (.scoreRetry)
  | 0x10020 => .reg (.scoreRetrain)
  | 0x10028 => .reg (.scoreCrc)
  | 0x10030 => .reg (.scoreTotal)
  | 0x10038 => .reg (.scoreClear)
  | 0x20000 => .reg (.sentStatus)
  | 0x20008 => .reg (.sentRuns)
  | 0x20010 => .reg (.sentStops)
  | 0x20018 => .reg (.sentRingTail)
  | _ => .reserved

/-- The mailbox (R535). -/
def mboxSlot  (o : Nat) : Target :=
  match o with
  | 0x0 => .reg (.mboxArg 0)
  | 0x8 => .reg (.mboxArg 1)
  | 0x10 => .reg (.mboxArg 2)
  | 0x18 => .reg (.mboxArg 3)
  | 0x20 => .reg (.mboxCmd)
  | 0x28 => .reg (.mboxResult)
  | _ => .reserved

/-- The folio window (R533). -/
def folioWindow (f : Folio) (o : Nat) : Target :=
  if o = 0 then .reg (.folioStatus f)
  else if 0x00100000 ≤ o ∧ o < 0x00118000 then
    tileSlot (tileOf f.val ((o - 0x00100000) / 0x1000)) ((o - 0x00100000) % 0x1000)
  else if 0x00180000 ≤ o ∧ o < 0x00181800 then
    pressSlot (tileOf f.val ((o - 0x00180000) / 0x100)) ((o - 0x00180000) % 0x100)
  else if 0x001C0000 ≤ o ∧ o < 0x001C1800 then
    inflSlot (tileOf f.val ((o - 0x001C0000) / 0x100)) ((o - 0x001C0000) % 0x100)
  else if 0x001E0000 ≤ o ∧ o < 0x001E1800 then
    vatSlot (tileOf f.val ((o - 0x001E0000) / 0x100)) ((o - 0x001E0000) % 0x100)
  else if 0x00200000 ≤ o ∧ o < 0x00200018 then .blank
  else if 0x00200020 ≤ o ∧ o < 0x00202000 then
    bufSlot f (Fin.ofNat 256 ((o - 0x00200000) / 0x20)) ((o - 0x00200000) % 0x20)
  else if 0x00220000 ≤ o ∧ o < 0x00220040 then cacheSlot f (o - 0x00220000)
  else if 0x00240000 ≤ o ∧ o < 0x00240050 then xportSlot (Fin.ofNat 10 f.val) (o - 0x00240000)
  else if 0x00300000 ≤ o ∧ o < 0x00300400 then
    ecqSlot f (Fin.ofNat 16 ((o - 0x00300000) / 0x40)) ((o - 0x00300000) % 0x40)
  else if 0x00300400 ≤ o ∧ o < 0x00300418 then engineSlot f (o - 0x00300400)
  else if 0x00301000 ≤ o ∧ o < 0x00303000 then
    accRegionSlot f (Fin.ofNat 256 ((o - 0x00301000) / 0x20)) ((o - 0x00301000) % 0x20)
  else if 0x00400000 ≤ o ∧ o < 0x00400080 then
    if (o - 0x00400000) % 8 = 0 then .reg (.aperture f (Fin.ofNat 16 ((o - 0x00400000) / 8))) else .reserved
  else if 0x00400080 ≤ o ∧ o < 0x004000B0 then evqSlot f (o - 0x00400000)
  else .reserved

/-- The deckle window (R534), which is also the control window of class 0 cells (R19). Both windows address the
collective registers and RETX_TIMER (R319, R383). -/
def deckleWindow (n : Deckle) (o : Nat) : Target :=
  if o = 0 then .reg (.deckleId n)
  else if 0x4000 ≤ o ∧ o < 0x4050 then xportSlot (Fin.ofNat 10 (8 + n.val)) (o - 0x4000)
  else if 0x8000 ≤ o ∧ o < 0x8050 then switchSlot n (o - 0x8000)
  else if 0x9000 ≤ o ∧ o < 0x9200 then mirrorSlot n (Fin.ofNat 8 ((o - 0x9000) / 0x40)) ((o - 0x9000) % 0x40)
  else if 0x10000 ≤ o ∧ o < 0x10028 then routeSlot n (o - 0x10000)
  else if 0x20000 ≤ o ∧ o < 0x22000 then
    if o % 8 = 0 then .reg (.globalTable n (Fin.ofNat 1024 ((o - 0x20000) / 8))) else .reserved
  else if 0x30000 ≤ o ∧ o < 0x30800 then
    let p := (o - 0x30000) / 0x20
    match violSlot (Fin.ofNat 64 p) ((o - 0x30000) % 0x20) with
    | .reg (.portViol q) => if p / 32 = n.val then .reg (.portViol q) else .blank
    | .reg (.portViolLimit q) => if p / 32 = n.val then .reg (.portViolLimit q) else .blank
    | .reg (.portCrcDrops q) => if p / 32 = n.val then .reg (.portCrcDrops q) else .blank
    | _ => .reserved
  else if 0x100000 ≤ o ∧ o < 0x104000 then
    collSlot (Fin.ofNat 64 ((o - 0x100000) / 0x100)) ((o - 0x100000) % 0x100)
  else if o = 0x104000 then .reg .collStore
  else if 0x200000 ≤ o ∧ o < 0x220000 then
    if o % 8 = 0 then
      .reg (.ringTable (Fin.ofNat 64 ((o - 0x200000) / 0x800)) (Fin.ofNat 256 ((o - 0x200000) % 0x800 / 8)))
    else .reserved
  else .reserved

/-- The felt and optics window (R414). -/
def opticsWindow (o : Nat) : Target :=
  if o = 0 then .reg .optCtl
  else if o = 8 then .reg .lsmStatus
  else if 0x100 ≤ o ∧ o < 0x190 then lineSlot (Fin.ofNat 9 ((o - 0x100) / 0x10)) ((o - 0x100) % 0x10)
  else if 0x10000 ≤ o ∧ o < 0x11000 then portSlot (Fin.ofNat 64 ((o - 0x10000) / 0x40)) ((o - 0x10000) % 0x40)
  else if 0x20000 ≤ o ∧ o < 0x205A0 then feltSlot (Fin.ofNat 45 ((o - 0x20000) / 0x20)) ((o - 0x20000) % 0x20)
  else if 0x30000 ≤ o ∧ o < 0x30080 then twinSlot (Fin.ofNat 4 ((o - 0x30000) / 0x20)) ((o - 0x30000) % 0x20)
  else if o = 0x31000 then .reg .ringStatus
  else if o = 0x31008 then .reg .ringPeer
  else if 0x100000 ≤ o ∧ o < 0x100000 + 0x40 * 7274 then
    if o % 8 = 0 then .reg (.heater (Fin.ofNat 7274 ((o - 0x100000) / 0x40)) (Fin.ofNat 8 (o % 0x40 / 8)))
    else .reserved
  else .reserved

/-- What a 64-bit slot of BAR index 0 names (R523). `a` is a multiple of 8. -/
def ofAddr (a : Nat) : Target :=
  if a < 0x00010000 then identSlot a
  else if a < 0x00021000 then featSlot (a - 0x00010000)
  else if a < 0x00022000 then hqSlot (Fin.ofNat 64 ((a - 0x00021000) / 0x40)) ((a - 0x00021000) % 0x40)
  else if 0x00100000 ≤ a ∧ a < 0x00100070 then energySlot (a - 0x00100000)
  else if 0x00100100 ≤ a ∧ a < 0x00100200 then
    folioEnergySlot (Fin.ofNat 8 ((a - 0x00100100) / 0x20)) ((a - 0x00100100) % 0x20)
  else if 0x00110000 ≤ a ∧ a < 0x00110000 + 8 * 818 then
    if a % 8 = 0 then .reg (.sensor (Fin.ofNat 818 ((a - 0x00110000) / 8))) else .reserved
  else if 0x00200000 ≤ a ∧ a < 0x00200050 then tenseSlot (a - 0x00200000)
  else if 0x00400000 ≤ a ∧ a < 0x00400028 then faultRingSlot (a - 0x00400000)
  else if 0x00401000 ≤ a ∧ a < 0x00421000 then
    if a % 8 = 0 then .reg (.faultSlot (Fin.ofNat 4096 ((a - 0x00401000) / 32)) (Fin.ofNat 4 (a % 32 / 8)))
    else .reserved
  else if 0x00430000 ≤ a ∧ a < 0x00460000 then fleetSlot (a - 0x00430000)
  else if 0x01000000 ≤ a ∧ a < 0x05000000 then
    folioWindow (Fin.ofNat 8 ((a - 0x01000000) / 0x00800000)) ((a - 0x01000000) % 0x00800000)
  else if 0x05000000 ≤ a ∧ a < 0x05800000 then
    deckleWindow (Fin.ofNat 2 ((a - 0x05000000) / 0x00400000)) ((a - 0x05000000) % 0x00400000)
  else if 0x05800000 ≤ a ∧ a < 0x06000000 then opticsWindow (a - 0x05800000)
  else if 0x06000000 ≤ a ∧ a < 0x06400000 then
    reamSlot (Fin.ofNat 32 ((a - 0x06000000) / 0x20000)) ((a - 0x06000000) % 0x20000)
  else if 0x07000000 ≤ a ∧ a < 0x08000000 then mboxSlot (a - 0x07000000)
  else .reserved

end Reg

end Sys2Proof
end

