-- ==== Sys2Proof/Machine/MgmtState.lean ====
section
/-! DEFINITION. The state of the management plane as plain data (15_bringup_identity_management.md,
16_faults_and_fleet.md), beside its registers: fuses, flash, mailbox, takeover, attestation and sentinels. -/

namespace Sys2Proof.Machine

/-- A quire of the flash (R480), by the fields of its header that matter at boot. `check` is the check of R480 that its
bytes alone fail: 0 none, 1 header, 2 key or signature, 3 CRC or digest. `sets` is the matched-set table that its firmware carries:
the permitted revisions of folio, deckle and ream base (R478). -/
structure Quire where
  seq : Nat
  line : Nat
  release : Nat
  patch : Nat
  svn : Nat
  slot : Nat
  digest : BitVec 256
  check : Nat
  sets : List (Byte × Byte × Byte)
  deriving DecidableEq, Repr

/-- An erased or partly written quire. -/
def Quire.erased : Quire := ⟨0xFFFFFFFF, 0xFF, 0xFF, 0xFF, 0xFF, 0xFF, 0, 1, []⟩

/-- The SPI NOR flash: quire A, quire B and the flash store, whose margin trims the energy account holds (R434) and whose
spare-row counts stand beside the reams (R226). `rows` holds rows with an uncorrectable error that the next bring-up spares,
by folio offset and folio; `deviceCert` is the DeviceID certificate (R486). -/
structure Flash where
  quireA : Quire
  quireB : Quire
  repairs : Store Tile Nat
  rows : List (Folio × Nat)
  heaters : Store Nat W64
  commission : Store Line Nat
  characterized : Bool
  deviceCert : List Byte
  deriving DecidableEq, Repr

/-- The fuses that commands can meet (R148, R485): MIN_SVN, the revoked key slots and the fused repair records. -/
structure Fuses where
  minSvn : Nat
  revoked : List Nat
  repairs : Store Tile Nat
  deriving DecidableEq, Repr

/-- A mailbox command in the command engine (R498): its code, arguments and data, what it leaves for its end, whether it came over
I3C, whether its effect has been carried out, and its status. -/
structure MboxRun where
  code : Nat
  args : List Nat
  data : List Byte
  result : List Byte
  i3c : Bool
  carried : Bool
  status : Nat
  deriving DecidableEq, Repr

/-- A register write that a takeover holds (R530): offset, 64-bit or 32-bit, value, and the source. -/
structure HeldWrite where
  src : Src
  off : Nat
  wide : Bool
  value : W64
  deriving DecidableEq, Repr

/-- A takeover that runs (R494, R530): the former island, its cause, the writes held in arrival order, the number dropped
and the offset of the first one, a rail fault that waits (R551), and the registers as the former island last mirrored them. -/
structure Takeover where
  former : Nat
  cause : Nat
  held : List HeldWrite
  dropped : Nat
  firstOff : Nat
  rail : Option (Nat × Nat)
  mirror : Store Reg W64
  deriving DecidableEq, Repr

/-- The transcript of an SPDM connection: the messages up to ALGORITHMS, those of digests and certificates, and those of
measurements since the last signature. -/
structure Spdm where
  vca : List Byte
  certs : List Byte
  meas : List Byte
  deriving DecidableEq, Repr

def Spdm.reset : Spdm := ⟨[], [], []⟩

/-- A sentinel descriptor in its slot (R515, R516): its fields, the period N of SENT_ENABLE (0 not enabled), the eligible
runs since it ran, the forecast run last looked at, by its first window, whether SENT_RUN asks for one run, and the next
point of its rotation. -/
structure Sentinel where
  program : Nat
  tiles : List Tile
  expect : BitVec 256
  outOff : Nat
  outBytes : Nat
  budgetUs : Nat
  ringOff : Nat
  ringLog2 : Nat
  args : List W64
  every : Nat
  since : Nat
  seen : Nat
  once : Bool
  point : Nat
  deriving DecidableEq, Repr

/-- A sentinel run in progress (R517): its slot, the descriptor as dispatched, TENSE_NOW and the time of the dispatch, the
stop tense, the operating point, and the folios of the set with their former points. -/
structure SentRun where
  slot : Fin 8
  desc : Sentinel
  tense : Nat
  since : Nat
  stopAt : Nat
  point : Nat
  former : List (Folio × Nat)
  deriving DecidableEq, Repr

/-- The management plane. -/
structure Mgmt where
  fuses : Fuses
  flash : Flash
  /-- The always-on rails are good, and the AON island runs (R476). -/
  powered : Bool
  /-- The booted quire, and its header (R481); none before step 2 and in recovery mode. -/
  booted : Option (Bool × Quire)
  /-- An update has written the other quire, and its reset is pending (R499). -/
  updated : Bool
  /-- The staging buffer of recovery, oldest byte first (R484). -/
  staging : List Byte
  /-- The commit that runs in recovery: the check of R480 that the staged quire fails (0 none), and the quire (R484). -/
  commit : Option (Nat × Quire)
  /-- The nonce of the current debug challenge (R488). -/
  nonce : Option (List Byte)
  /-- Tokens rejected since the last whole-device reset (R489). -/
  rejects : Nat
  mbox : Option MboxRun
  /-- Commands that came over I3C and wait for the engine, in arrival order (R498). -/
  queued : List MboxRun
  takeover : Option Takeover
  /-- An island failed and has not passed self-check (R494). -/
  failed : Bool
  /-- TRIP_N is asserted, low (R441). -/
  tripped : Bool
  tripTime : Nat
  /-- Folio pairs both of whose folios are being reset together (R413). -/
  pairReset : List Pair
  /-- A stop of R441 or R443 waits to be logged at restart (R501). -/
  unlogged : Bool
  /-- PERST_N is low (R497). -/
  perst : Bool
  /-- DEV_RESET_N is low (R497), since when, in ns. -/
  resetLow : Option Nat
  /-- The LSM's own identity digest (R487). -/
  lsmDigest : Option (BitVec 256)
  /-- The measurements that the alias certificate of this boot carries (R486). -/
  certMeas : List Byte
  doe : Spdm
  mctp : Spdm
  sentinels : Store (Fin 8) Sentinel
  sentRuns : List SentRun
  /-- Powered hours since the scores were last halved (R514). -/
  decayHours : Nat
  deriving DecidableEq, Repr

/-- The device as it ships: firmware line 1 in quire A, an erased quire B (R557). -/
def Mgmt.reset : Mgmt where
  fuses := ⟨0, [], []⟩
  flash := ⟨⟨0, 1, 1, 0, 0, 0, 0, 0, Config.matchedSets []⟩, Quire.erased, [], [], [], [], false, Config.deviceCert⟩
  powered := true
  booted := none
  updated := false
  staging := []
  commit := none
  nonce := none
  rejects := 0
  mbox := none
  queued := []
  takeover := none
  failed := false
  tripped := false
  tripTime := 0
  pairReset := []
  unlogged := false
  perst := false
  resetLow := none
  lsmDigest := none
  certMeas := []
  doe := Spdm.reset
  mctp := Spdm.reset
  sentinels := []
  sentRuns := []
  decayHours := 0

end Sys2Proof.Machine
end

