-- ==== Sys2Proof/Machine/OpticsState.lean ====
section
/-! DEFINITION. The state of tense distribution and of the optics as plain data (08_tense_and_ordering.md,
12_felt_and_optics.md), beside their registers. Times of arrival are in ns of elapsed time; tenses, delays and offsets are
in sixteenths of a ns. -/

namespace Sys2Proof.Machine

/-- A neighbour on a port, from its markers (R262, R263): when the last one arrived by elapsed time and by the local
counter, its TX_TENSE, the sender's state, depth, epoch, root chip and tick, the delay, and the offsets of the last 16
markers, the latest first; whether the last marker echoed one of ours, and so was measured. -/
structure Nbr where
  lastAt : Nat
  came : Int
  tx : Nat
  state : Nat
  depth : Nat
  epoch : Nat
  chip : Nat
  tick : Nat
  delay : Int
  offsets : List Int
  echoed : Bool
  deriving DecidableEq, Repr

/-- Tense distribution (R258-R273). -/
structure TenseRec where
  /-- By port: 0-63 PORT_n, 64 RING_IN, 65 RING_OUT. -/
  nbrs : Store Nat Nbr
  witness : Option Nat
  /-- Consecutive markers of the parent within 0.5 ns, and of the witness beyond 4 ns (R267). -/
  good : Nat
  bad : Nat
  /-- The parent that was lost on the way into HOLDOVER, which is no alternate. -/
  former : Option Nat
  holdoverAt : Nat
  /-- The device has been ACQUIRING or ROOT since TENSE_CTL.ENABLE was set: it steps no more (R258, R266). -/
  aligned : Bool
  /-- The device has been LOCKED or ROOT since TENSE_CTL.ENABLE was set: its counter is machine time (R258). -/
  machine : Bool
  /-- In 10^-6 sixteenths: the rate trim per ns, the part of a sixteenth, the correction that is being slewed and its
  greatest rate per ns (R263, R266, R269). -/
  trim : Int
  acc : Int
  slew : Int
  slewRate : Nat
  /-- ROOT_TICK of this device, the newest one heard of the EPOCH with its time, for the standby root (R261, R262). -/
  tick : Nat
  heardTick : Option (Nat × Nat)
  /-- The counter at the last round of markers on the felt links, which both ends hold (R262). -/
  feltRound : Option Nat
  /-- The time of the last round of markers (R262). -/
  sentAt : Option Nat
  /-- The launch queues have stopped at TENSE_QUIESCE.AT (R273). -/
  quiet : Bool
  deriving DecidableEq, Repr

def TenseRec.reset : TenseRec where
  nbrs := []
  witness := none
  good := 0
  bad := 0
  former := none
  holdoverAt := 0
  aligned := false
  machine := false
  trim := 0
  acc := 0
  slew := 0
  slewRate := 0
  tick := 0
  heardTick := none
  feltRound := none
  sentAt := none
  quiet := false

/-- An announced lane swap (R404): the SEQ at whose block it takes effect, the logical lane and the physical one. -/
structure Swap where
  at' : Nat
  lane : Nat
  phys : Nat
  deriving DecidableEq, Repr

/-- The lanes of a felt link direction (R386): those that are lost, and the spares that are free. Of 34 wavelengths, 32 and 33 are the
spares. -/
structure FeltDir where
  down : List Nat
  spares : List Nat
  deriving DecidableEq, Repr

def FeltDir.reset : FeltDir := ⟨[], [32, 33]⟩

/-- An external port (R392-R407): the bring-up step and when it began; when the port failed or was lost; whether it has
passed the identity check since it was trained, and how its path delays differ; the far end's SKEW; the reasons whose
first refusal is recorded; the number of its next control block; the swap its receiver awaits and the one its transmitter has
announced; the time of the lane fault in force;
the lanes calibrated in a recalibration, whether it is paused, whether one is scheduled, and the time and temperature of
the last one; the code that the sweep of the spare found, before its check; the lane that failed one check; the lane of
RX_CAL; and whether test mode cleared ENABLE (R474). `ident` is the last identity block. -/
structure PortRec where
  step : Nat
  since : Nat
  downAt : Nat
  identified : Bool
  skew : Int
  farSkew : Int
  noted : List Nat
  checkedAt : Nat
  ident : BitVec 512
  seq : Nat
  swap : Option Swap
  txSwap : Option Swap
  faultAt : Option Nat
  recal : Option Nat
  paused : Bool
  recalDue : Bool
  recalAt : Nat
  recalTemp : Int
  swept : Option Nat
  retry : Option Nat
  rxCal : Option Nat
  testCleared : Bool
  deriving DecidableEq, Repr

def PortRec.reset : PortRec where
  step := 0
  since := 0
  downAt := 0
  identified := false
  skew := 0
  farSkew := 0
  noted := []
  checkedAt := 0
  ident := 0
  seq := 0
  swap := none
  txSwap := none
  faultAt := none
  recal := none
  paused := false
  recalDue := false
  recalAt := 0
  recalTemp := 0
  swept := none
  retry := none
  rxCal := none
  testCleared := false

/-- A laser line (R398-R400, R408): when a changeover became due, the step of the ramp that runs with the power at its
start, and when the recovery of a lost line began. -/
structure LineRec where
  dueAt : Option Nat
  ramp : Option Nat
  rampAt : Nat
  level : Int
  recoverAt : Option Nat
  deriving DecidableEq, Repr

def LineRec.reset : LineRec := ⟨none, none, 0, 0, none⟩

/-- The optics. -/
structure Optics where
  ports : Store Port PortRec
  lines : Store Line LineRec
  /-- The lanes of a felt link direction, by 2 * link + direction (R386). -/
  felt : Store Nat FeltDir
  /-- Comb sources that failed, by 2 * die + source (R387). -/
  combFailed : List Nat
  /-- The heater code in force of each ring (R401). -/
  codes : Store Nat Nat
  /-- Time of the last hello on RING_IN (R409). -/
  helloAt : Nat
  /-- The sequence number of the next block of a folio's twin stream (R412). -/
  twinSeq : Store Folio Nat
  deriving DecidableEq, Repr

def Optics.reset : Optics where
  ports := []
  lines := []
  felt := []
  combFailed := []
  codes := []
  helloAt := 0
  twinSeq := []

end Sys2Proof.Machine
end

