-- ==== Sys2Proof/Machine/State.lean ====
section
/-! DEFINITION. The state of the device, as plain data. -/

namespace Sys2Proof.Machine

/-- Why the machine stops with a fault. Every rule of the spec leaves a defined state or a free value, so no meaning
raises one. -/
inductive Fault where
  /-- Raised by nothing; safe: a stop proves nothing about the device. -/
  | stopped (why : String)
  deriving DecidableEq, Repr

/-- Why a command has no meaning. -/
inductive Refusal where
  /-- A command that the model gives no meaning yet, by its mnemonic. Raised by the arms of `exec` only; safe. -/
  | notModelled (mnemonic : String)
  deriving DecidableEq, Repr

/-- What a code finds in stored data (R188, R197, R221). -/
inductive ErrMark where
  | correctable
  | uncorrectable
  deriving DecidableEq, Repr

/-- What a ream base keeps of a bank (R224, R225): the open row, the activations of its rows since their own last refresh, and how
many rows have reached 2,048 since the bank's last refresh slot. -/
structure BankRec where
  row : Option Nat
  counts : Store Nat Nat
  due : Nat
  deriving DecidableEq, Repr

/-- A line of a folio cache (R194): its number in the folio's ream, whether a prefetch brought it and no demand has hit
it, the prefetcher that asked for it, whether it is the next victim of its set (R198), the bits in error of its 64-bit words
(R197), its way, and the count of uses at its last one. -/
structure CacheLine where
  line : Nat
  way : Nat := 0
  used : Nat := 0
  prefetched : Bool
  by' : Option Nat
  next : Bool
  marks : Store Nat Nat
  deriving DecidableEq, Repr

/-- A requester of a folio cache (R199): the DMA engine or the instruction fetch of a tile, or a parser core. -/
inductive Requester where
  | dma (t : Tile)
  | fetch (t : Tile)
  | hart (f : Folio) (h : Fin 4)
  deriving DecidableEq, Repr

/-- The last misses of a requester: the line, the stride to it and how many in succession kept that stride (R199). -/
structure MissRun where
  who : Requester
  line : Nat
  stride : Int
  run : Nat
  deriving DecidableEq, Repr

/-- A stream prefetcher in use (R199): its number, the line of its stream that was demanded last, the next line it requests, its
distance and the lines requested since a demand hit. -/
structure Stream where
  id : Nat
  who : Requester
  stride : Int
  last : Int
  next : Int
  distance : Nat
  idle : Nat
  deriving DecidableEq, Repr

/-- A folio cache with its prefetchers, the least recently used first, its hint queue (R194-R200) and the count of uses of its
lines. -/
structure Cache where
  lines : List CacheLine
  misses : List MissRun
  streams : List Stream
  hints : List (Nat × Nat)
  uses : Nat := 0
  deriving DecidableEq, Repr

/-- A block of a twin stream that its receiver has not confirmed (R412): the sending tile and its transfer, the vat offset
and up to 256 bytes. -/
structure TwinBlock where
  tile : Tile
  tag : Fin 32
  off : Nat
  data : List Byte
  deriving DecidableEq, Repr

/-- The command that an engine queue runs (R242-R247): the record and its index, whether it has been carried out, its
status, flags, RESULT and count, the region that its completion opens, and whether ENABLE was set anew while it ran. -/
structure EcqRun where
  words : List W64
  index : Nat
  done : Bool
  status : Nat
  flags : Flags
  result : Nat
  count : Nat
  stale : Bool
  deriving DecidableEq, Repr

/-- An engine command queue beside its registers: the tail last noticed and the command that runs. -/
structure EcqState where
  tail : Nat
  /-- The tail word is still to be read: its page is in a bias change (R451). -/
  unread : Bool
  run : Option EcqRun
  deriving DecidableEq, Repr

/-- What the device has sent out, at the point where the spec describes what leaves it. -/
inductive Output where
  /-- A request over CXL.cache that resolves host ownership of a page in host bias, by folio * 131072 + page (R253). -/
  | resolve (page : Nat)
  /-- An MSI to the IMSIC of a parser hart (R469). -/
  | msi (f : Folio) (hart eiid : Nat)
  /-- An MSI-X vector to the host (R458). -/
  | msix (vector : Nat)
  /-- A write to host memory. -/
  | hostWrite (addr : Nat) (bytes : List Byte)
  /-- A cell on an external port. -/
  | cell (p : Port) (c : Cell)
  /-- A control or identity block on an external port (R390, R393). -/
  | block (p : Port) (bytes : List Byte)
  /-- A tense marker on PORT_n, RING_IN (64), RING_OUT (65), or FELT_LINK_k from its lower die (66 + 2k) or its higher die
  (67 + 2k) (R262). -/
  | marker (p : Nat) (bytes : List Byte)
  /-- A hello on RING_OUT: chip, member, GROUP16, firmware release, tense state, DEPTH, and the chip last heard (R409). -/
  | hello (fields : List Nat)
  /-- A write to the laser supply module over I3C (R397): a laser's drive in 0.1 mA, or its switch. -/
  | lsmDrive (l : Line) (standby : Bool) (ma : Nat)
  | lsmSwitch (l : Line) (standby : Bool) (on : Bool)
  /-- Rails that go off together (R550). -/
  | railsOff (rails : List (Fin 32))
  /-- A block that a folio's twin-stream engine sends over the twin link: its data and its trailer (R412). -/
  | twin (f : Folio) (bytes : List Byte)
  /-- A reply to a read over BAR index 0 or 2, CXL.mem or a hart's access, from the reader's point of view. -/
  | readData (bytes : List Byte)
  /-- An access of the host answered with an error, an Unsupported Request. -/
  | readError
  /-- An access fault of a hart; its xtval holds the physical address (R465, R466). -/
  | hartFault (f : Folio) (h : Fin 4) (xtval : Nat)
  /-- A hart's FENCE has ended (R467). -/
  | fenceDone (f : Folio) (h : Fin 4)
  /-- An Uncorrectable Internal Error reported through AER (R450). -/
  | aer
  /-- CXL.cache CLFlush of the lines of a range of host-cached pages: first page by DPA, and pages (R451). -/
  | flush (page count : Nat)
  /-- A message on the DOE mailbox, over MCTP or out of the JTAG port (R448, R487, R488). -/
  | message (bytes : List Byte)
  deriving DecidableEq, Repr

/-- The device. -/
structure State where
  /-- Registers of R532-R535 that do not hold their reset value. -/
  regs : Store Reg W64
  /-- Elapsed time in ns. -/
  now : Nat
  /-- Free values drawn so far: the model's own. -/
  free : Nat
  pending : List Instr
  out : List Output
  mem : Memory
  /-- Errors in stored data, by byte address: the bits in error of a vat word, or the 8-bit symbols in error of a ream line
  with its sideband (R188, R221). -/
  marks : Store Nat Nat
  tiles : Store Tile TileState
  caches : Store Folio Cache
  /-- Blocks that a folio's twin-stream engine has sent, oldest first (R412). -/
  twins : Store Folio (List TwinBlock)
  /-- Corrected errors of a row within the scrub pass, and spares used of a bank (R226), by row and by bank number. -/
  rowErrors : Store Nat Nat
  spares : Store Nat Nat
  /-- The next step of a ream's patrol scrubber (R223), and how often a bank's refresh has been postponed (R224). -/
  scrubStep : Store Ream Nat
  postponed : Store Nat Nat
  /-- The banks of the reams, by bank number. -/
  banks : Store Nat BankRec
  /-- Engine command queues by folio * 16 + queue. -/
  ecqs : Store Nat EcqState
  /-- Pages of ream in host bias (R253): folio * 131072 + page. -/
  hostPages : List Nat
  net : Net
  groups : Store Coll Group
  energy : Energy
  host : HostSide
  tense : TenseRec
  optics : Optics
  mgmt : Mgmt
  /-- JOIN messages of groups that this device has not created (R350). -/
  earlyJoins : List JoinMsg
  /-- The started clock domains; the management island always runs (R38, R39). -/
  clocks : List Clock
  /-- Dies in reset (R490, R491). -/
  downDies : List Die
  /-- The primary unit's tense counter in 1/16 ns (R258). -/
  tense16 : Nat
  /-- Every clock is stopped by a trip, a coolant stop or a rail fault (R441, R443, R551). -/
  clocksStopped : Bool
  deriving DecidableEq, Repr

def State.reset : State where
  regs := []
  now := 0
  free := 0
  pending := []
  out := []
  mem := ⟨0, []⟩
  marks := []
  tiles := []
  caches := []
  twins := []
  rowErrors := []
  spares := []
  scrubStep := []
  postponed := []
  banks := []
  ecqs := []
  hostPages := []
  net := Net.reset
  groups := []
  energy := Energy.reset
  host := HostSide.reset
  tense := TenseRec.reset
  optics := Optics.reset
  mgmt := Mgmt.reset
  earlyJoins := []
  clocks := [⟨.island, 0, false⟩]
  downDies := []
  tense16 := 0
  clocksStopped := false

end Sys2Proof.Machine
end

