-- ==== Sys2Proof/Machine/Store.lean ====
section
/-! DEFINITION. Reading and writing a `Store`: the one place where sparse state is read or changed. -/

namespace Sys2Proof.Store

variable {κ α : Type} [DecidableEq κ]

/-- The value at `k`, if the store lists one. -/
def find? (m : Store κ α) (k : κ) : Option α :=
  match m with
  | [] => none
  | (j, v) :: rest => if j = k then some v else find? rest k

/-- The value at `k`; what an unlisted key holds is `dflt k`. -/
def get (dflt : κ → α) (m : Store κ α) (k : κ) : α :=
  match find? m k with
  | some v => v
  | none => dflt k

/-- The store without any entry for `k`. -/
def erase (m : Store κ α) (k : κ) : Store κ α :=
  match m with
  | [] => []
  | (j, v) :: rest => if j = k then erase rest k else (j, v) :: erase rest k

/-- Put an entry before the first one of a higher rank. -/
def place (rank : κ → Nat) (m : Store κ α) (k : κ) (v : α) : Store κ α :=
  match m with
  | [] => [(k, v)]
  | (j, w) :: rest =>
    if rank k < rank j then (k, v) :: (j, w) :: rest else (j, w) :: place rank rest k v

/-- Write `v` at `k`. -/
def set (rank : κ → Nat) (m : Store κ α) (k : κ) (v : α) : Store κ α :=
  place rank (erase m k) k v

/-- Write `v` at `k`, keeping the canonical form: a key that holds its default is not listed. -/
def put [DecidableEq α] (rank : κ → Nat) (dflt : κ → α) (m : Store κ α) (k : κ) (v : α) : Store κ α :=
  if v = dflt k then erase m k else set rank m k v

/-- The keys' ranks rise strictly. -/
def rising (rank : κ → Nat) : Store κ α → Bool
  | [] => true
  | [_] => true
  | (j, _) :: (k, w) :: rest => decide (rank j < rank k) && rising rank ((k, w) :: rest)

/-- The canonical form: ranks rise strictly and no key holds its default. -/
def wf [DecidableEq α] (rank : κ → Nat) (dflt : κ → α) (m : Store κ α) : Bool :=
  rising rank m && m.all (fun p => decide (p.2 ≠ dflt p.1))

/-- The store over the keys 0 to n - 1 whose value at `k` is `f k`, listing no default. -/
def tabulate [DecidableEq α] (dflt : α) (n : Nat) (f : Nat → α) : Store Nat α :=
  (List.range n).filterMap (fun k => if f k = dflt then none else some (k, f k))

end Sys2Proof.Store
end

