-- ==== Sys2Proof/Machine/Ops.lean ====
section
/-! DEFINITION. The named operations over registers, memory, tiles and the records the device keeps. -/

namespace Sys2Proof.Machine

/-! ### Registers -/

/-- The stored value of a register. -/
def State.reg (s : State) (r : Reg) : W64 := Store.get Reg.resetValue s.regs r

/-- Store a register's value as the device itself does. -/
def State.setReg (s : State) (r : Reg) (v : W64) : State :=
  { s with regs := Store.put Reg.addr Reg.resetValue s.regs r v }

/-- The value of a field. -/
def State.fld (s : State) (r : Reg) (f : Field) : Nat := f.get (s.reg r)

/-- Whether a one-bit field is 1. -/
def State.flag (s : State) (r : Reg) (f : Field) : Bool := s.fld r f = 1

def State.setFld (s : State) (r : Reg) (f : Field) (v : Nat) : State := s.setReg r (f.set (s.reg r) v)

def State.setFlag (s : State) (r : Reg) (f : Field) (b : Bool) : State := s.setFld r f (if b then 1 else 0)

/-- A counter field's value after `n` events: it saturates at all ones. -/
def State.counted (s : State) (r : Reg) (f : Field) (n : Nat) : Nat := min (s.fld r f + n) (2 ^ f.width - 1)

/-- The score to which a counter is a source (R514). -/
def scoreOf (r : Reg) (f : Field) : Option Reg :=
  match r with
  | .vatCorrected _ | .fcCorrected _ | .reamCorrected _ => some .scoreCe
  | .xportRetx _ | .twinErrors _ => some .scoreRetry
  | .laneEvents _ => if f = Fld.laneEventsFaults then some .scoreRetrain else none
  | .feltEvents _ => if f = Fld.feltEventsFaults then some .scoreRetrain else none
  | .portLosses _ => some .scoreRetrain
  | .twinStatus _ => if f = Fld.twinStatusRetrains then some .scoreRetrain else none
  | .portCrcDrops _ | .xportCrcDrops _ => some .scoreCrc
  | _ => none

/-- SCORE_TOTAL (R514). -/
def State.scoreSum (s : State) : State :=
  let w (f : Field) (r : Reg) : Nat := s.fld .scoreCtl f * s.fld r Fld.scoreCeScore
  s.setFld .scoreTotal Fld.scoreTotalTotal (min (2 ^ 32 - 1)
    (w Fld.scoreCtlWCe .scoreCe + w Fld.scoreCtlWRetry .scoreRetry + w Fld.scoreCtlWRetrain .scoreRetrain
      + w Fld.scoreCtlWCrc .scoreCrc))

/-- Add events to a score. The four scores have one layout (R522). -/
def State.score (s : State) (r : Reg) (n : Nat) : State :=
  let s := s.setFld r Fld.scoreCeScore (s.counted r Fld.scoreCeScore n)
  (s.setFld r Fld.scoreCeEvents (s.counted r Fld.scoreCeEvents n)).scoreSum

/-- Add to a counter field; an increment of a score's source adds to the score at once. -/
def State.bump (s : State) (r : Reg) (f : Field) (n : Nat) : State :=
  let v := s.counted r f n
  let d := v - s.fld r f
  let s := s.setFld r f v
  match scoreOf r f with
  | some k => s.score k d
  | none => s

/-- Return the registers that satisfy `p` to their reset values. -/
def State.resetRegs (s : State) (p : Reg → Bool) : State :=
  { s with regs := s.regs.filter (fun e => !p e.1) }

/-! ### Memory -/

/-- What a byte that nothing has written reads as: 0 until the first whole-device reset after power-on, a free value
afterwards (R490; log 1). -/
def Memory.dflt (m : Memory) (a : Nat) : Byte := if m.epoch = 0 then 0 else Config.freeByte m.epoch a

def Memory.read (m : Memory) (a : Nat) : Byte := Store.get m.dflt m.cells a

def Memory.write (m : Memory) (a : Nat) (b : Byte) : Memory :=
  { m with cells := Store.put id m.dflt m.cells a b }

/-- The canonical form: addresses strictly rising, no entry equal to what an unlisted address reads as. -/
def Memory.wf (m : Memory) : Bool := Store.wf id m.dflt m.cells

def Memory.readBytes (m : Memory) (a n : Nat) : List Byte := (List.range n).map (fun i => m.read (a + i))

def Memory.writeBytes (m : Memory) (a : Nat) : List Byte → Memory
  | [] => m
  | b :: bs => (m.write a b).writeBytes (a + 1) bs

/-- The value of little-endian bytes (R5). -/
def leNat : List Byte → Nat
  | [] => 0
  | b :: bs => b.toNat + 256 * leNat bs

/-- The low `n` bytes of a value, little-endian. -/
def leBytes (n v : Nat) : List Byte := (List.range n).map (fun i => BitVec.ofNat 8 (v / 256 ^ i))

/-- Bytes in elements of `w` bytes. -/
def elements (w : Nat) (bs : List Byte) : List (List Byte) :=
  (List.range (bs.length / max w 1)).map (fun i => (bs.drop (i * w)).take w)

def State.readMem (s : State) (a n : Nat) : List Byte := s.mem.readBytes a n
def State.writeMem (s : State) (a : Nat) (bs : List Byte) : State := { s with mem := s.mem.writeBytes a bs }
def State.readLe (s : State) (a n : Nat) : Nat := leNat (s.readMem a n)

/-- The memory key of byte `off` of a die's offset space (R4, R18). -/
def dieAddr (die off : Nat) : Nat := die * 2 ^ 46 + off

def reamLimit : Nat := 0x4000000000
def vatBase : Nat := 0x4000000000
def vatSize : Nat := 0x400000

/-- The die of a tile. -/
def tileFolio (t : Tile) : Folio := Fin.ofNat 8 (t.val / 24)
def tileNum (t : Tile) : Nat := t.val % 24

/-- The memory key of byte `off` of a tile's vat; offsets wrap at 4 MiB (R131). -/
def vatAddr (t : Tile) (off : Nat) : Nat :=
  dieAddr (tileFolio t).val (vatBase + tileNum t * vatSize + off % vatSize)

/-- The memory key of ream offset `off` of a folio. -/
def reamAddr (f : Folio) (off : Nat) : Nat := dieAddr f.val off

/-! ### Tiles -/

def State.tile (s : State) (t : Tile) : TileState := Store.get (fun _ => TileState.reset) s.tiles t

def State.setTile (s : State) (t : Tile) (v : TileState) : State :=
  { s with tiles := Store.set (fun k => k.val) s.tiles t v }

def State.updTile (s : State) (t : Tile) (f : TileState → TileState) : State := s.setTile t (f (s.tile t))

/-- s0 reads zero (R67). -/
def TileState.readS (x : TileState) (i : Fin 32) : W64 :=
  if i.val = 0 then 0 else Store.get (fun _ => 0) x.s i

/-- A write to s0 is discarded (R67). -/
def TileState.writeS (x : TileState) (i : Fin 32) (v : W64) : TileState :=
  if i.val = 0 then x else { x with s := Store.put (fun k => k.val) (fun _ => 0) x.s i v }

def TileState.readA (x : TileState) (i : Fin 16) : W64 := Store.get (fun _ => 0) x.a i

def TileState.writeA (x : TileState) (i : Fin 16) (v : W64) : TileState :=
  { x with a := Store.put (fun k => k.val) (fun _ => 0) x.a i v }

/-- p0 reads all ones (R67). -/
def TileState.readP (x : TileState) (i : Fin 8) : BitVec 128 :=
  if i.val = 0 then BitVec.allOnes 128 else Store.get (fun _ => 0) x.p i

def TileState.writeP (x : TileState) (i : Fin 8) (v : BitVec 128) : TileState :=
  if i.val = 0 then x else { x with p := Store.put (fun k => k.val) (fun _ => 0) x.p i v }

def TileState.readT (x : TileState) (i : Fin 8) : Grid := Store.get (fun _ => []) x.t i

def TileState.writeT (x : TileState) (i : Fin 8) (g : Grid) : TileState :=
  { x with t := Store.put (fun k => k.val) (fun _ => []) x.t i g }

def TileState.readAcc (x : TileState) (i : Fin 4) : Grid := Store.get (fun _ => []) x.acc i

def TileState.writeAcc (x : TileState) (i : Fin 4) (g : Grid) : TileState :=
  { x with acc := Store.put (fun k => k.val) (fun _ => []) x.acc i g }

/-- The element at a row and a lane. -/
def gridAt (g : Grid) (row lane : Nat) : W32 := Store.get (fun _ => 0) g (row * 128 + lane)

/-- The grid of `rows` rows whose element at row r and lane i is `f r i`. -/
def gridTab (rows : Nat) (f : Nat → Nat → W32) : Grid :=
  Store.tabulate 0 (rows * 128) (fun k => f (k / 128) (k % 128))

/-! ### Time and records -/

/-- TENSE_NOW: a 64-bit count of ns (R6). -/
def State.tenseNow (s : State) : Nat := s.tense16 / 16 % 2 ^ 64

/-- The device holds tense lock in states 3, 4 and 6 (R266). -/
def State.tenseLocked (s : State) : Bool :=
  [3, 4, 6].contains (s.fld .tenseStatus Fld.tenseStatusState)

/-- The delivery bound of a scope in ns: tile, folio, device, machine (R278). The machine bound follows RETX_TIMER. -/
def State.boundNs (s : State) : Nat → Nat
  | 0 => 0
  | 1 => 400
  | 2 => 20000
  | _ => (2 * s.fld .retxTimer Fld.retxTimerMachineUs + 8) * 1000

/-- This device's chip number (R320). -/
def State.chip (s : State) : Nat := s.fld (.routeCtl 0) Fld.routeCtlChip

def State.emit (s : State) (o : Output) : State := { s with out := s.out ++ [o] }

/-- Draw a fresh index for a free value. -/
def State.draw (s : State) : State := { s with free := s.free + 1 }

/-- Charge energy in 1/400 pJ to a folio outside its tile sections (R421). -/
def State.chargeFolio (s : State) (f : Folio) (e : Nat) : State :=
  if e = 0 then s
  else { s with energy := { s.energy with
    uncontrolled := Store.set (fun k => k.val) s.energy.uncontrolled f (Store.get (fun _ => 0) s.energy.uncontrolled f + e) } }

/-- The severities of R501: 0 info, 1 warning, 2 error, 3 fatal. -/
def faultSeverity : Nat → Nat
  | 0x0103 | 0x0203 | 0x0404 => 0
  | 0x0100 | 0x0101 | 0x0102 | 0x0201 | 0x0204 | 0x0205 | 0x0402 | 0x0501 | 0x0601 => 2
  | 0x0401 | 0x0405 | 0x0603 => 3
  | _ => 1

/-- Append an entry to the fault record ring (R500). -/
def State.fault (s : State) (code die inst d0 d1 : Nat) : State :=
  let i := s.fld .faultRingTail Fld.faultRingTailIndex
  let slot : Fin 4096 := Fin.ofNat 4096 i
  let head : W64 := BitVec.ofNat 64
    (faultSeverity code + die % 256 * 2 ^ 8 + inst % 2 ^ 16 * 2 ^ 16 + code * 2 ^ 32)
  let s := if i ≥ 4096 then s.bump .faultRingLost Fld.faultRingLostCount 1 else s
  let s := s.setReg (.faultSlot slot 0) (BitVec.ofNat 64 s.tenseNow)
  let s := s.setReg (.faultSlot slot 1) head
  let s := s.setReg (.faultSlot slot 2) (BitVec.ofNat 64 d0)
  let s := s.setReg (.faultSlot slot 3) (BitVec.ofNat 64 d1)
  let s := s.setReg .faultRingHead (BitVec.ofNat 64 (i + 1 - 4096))
  s.setReg .faultRingTail (BitVec.ofNat 64 (i + 1))

/-- The die whose window holds a BAR index 0 offset; 15 for the windows of the management plane (R500, R523). -/
def windowDie (off : Nat) : Nat :=
  if 0x01000000 ≤ off ∧ off < 0x05000000 then (off - 0x01000000) / 0x00800000
  else if 0x05000000 ≤ off ∧ off < 0x05800000 then 8 + (off - 0x05000000) / 0x00400000
  else 15

/-- A fault record that names a register access (R9, R11, R501, R531). -/
def State.regFault (s : State) (code off v : Nat) : State :=
  s.fault code (windowDie off) (Config.registerWindow off).toNat off v

/-! ### Accumulation regions and plain writes of a folio (R237, R241) -/

/-- Bytes of a target element by format code (R237). -/
def fmtBytes (code : Nat) : Nat :=
  match Fmt.ofCode code with
  | some f => (f.width + 7) / 8
  | none => 1

/-- Whether two ranges of bytes have a byte in common. -/
def rangesMeet (a n b m : Nat) : Bool := decide (max a b < min (a + n) (b + m))

/-- Whether a write of `n` bytes at ream offset `off` meets the target or the slot area of a region that is OPEN or
FINALIZING (R241). -/
def State.regionBlocks (s : State) (f : Folio) (off n : Nat) : Bool :=
  (List.finRange 256).any (fun r =>
    if s.fld (.regionState f r) Fld.regionStateState = 0 then false
    else
      let count := s.fld (.regionCount f r) Fld.regionCountCount
      let fmt := s.fld (.regionCount f r) Fld.regionCountFmt
      rangesMeet off n (s.fld (.regionTarget f r) Fld.regionTargetOffset) (count * fmtBytes fmt)
        || rangesMeet off n (64 * s.fld (.regionSlot f r) Fld.regionSlotAddr) (count * 64))

/-- Whether a negotiated feature is enabled (R460, R461). -/
def State.feature (s : State) (bit : Nat) : Bool := (s.reg (.featEnabled 0)).getLsbD bit

/-- R497, R552: DEV_RESET_N has been low for 10 us and holds the device in reset. -/
def State.pinReset (s : State) : Bool := s.mgmt.resetLow.any (fun t => decide (t + 10000 ≤ s.now))

end Sys2Proof.Machine
end

