-- ==== Sys2Proof/Machine/Crypto.lean ====
section
/-! DEFINITION. SHA-256, HMAC-SHA-256, the HMAC-DRBG of RFC 6979 and ECDSA P-256, which R374, R480, R485, R489 and R515
name and whose text the spec does not give (PRESUMED, log 70, from FIPS 180-4, RFC 2104, RFC 6979 and FIPS 186-4). -/

namespace Sys2Proof.Machine

/-! ### SHA-256 -/

/-- The primes up to 311, of which there are 64: no prime up to 17 divides them but themselves. -/
def shaPrimes : List Nat :=
  (List.range 312).filter (fun n => decide (2 ≤ n) && [2, 3, 5, 7, 11, 13, 17].all (fun d => decide (n = d) || decide (n % d ≠ 0)))

/-- The greatest root with `root ^ k ≤ n`, whose bits below bit `i` are found from the top. -/
def rootFrom (k n : Nat) : Nat → Nat → Nat
  | 0, r => r
  | i + 1, r => rootFrom k n i (if (r + 2 ^ i) ^ k ≤ n then r + 2 ^ i else r)

/-- The first 32 bits of the fraction of a number's `k`th root, which are SHA-256's constants: of the cube roots of the first 64
primes for its rounds, and of the square roots of the first 8 for its start. -/
def rootFraction (k p : Nat) : W32 := BitVec.ofNat 32 (rootFrom k (p * 2 ^ (32 * k)) 37 0)

def shaRounds : List W32 := shaPrimes.map (rootFraction 3)
def shaStart : List W32 := (shaPrimes.take 8).map (rootFraction 2)

/-- The value of big-endian bytes. -/
def beNat (bs : List Byte) : Nat := bs.foldl (fun v b => v * 256 + b.toNat) 0

/-- The low `n` bytes of a value, big-endian. -/
def beBytes (n v : Nat) : List Byte := (leBytes n v).reverse

def shaPad (bs : List Byte) : List Byte :=
  let n := bs.length
  bs ++ [0x80] ++ List.replicate ((119 - n % 64) % 64) 0 ++ beBytes 8 (8 * n)

/-- A word turned right by the three amounts of one of SHA-256's mixing functions, the last of them a shift where `cut`. -/
def shaMix (x : W32) (i j k : Nat) (cut : Bool) : W32 :=
  x.rotateRight i ^^^ x.rotateRight j ^^^ (if cut then x >>> k else x.rotateRight k)

/-- The next word of the message schedule, which holds its words the newest first. -/
def shaNext (w : List W32) : W32 :=
  w.getD 15 0 + shaMix (w.getD 14 0) 7 18 3 true + w.getD 6 0 + shaMix (w.getD 1 0) 17 19 10 true

def shaSchedule (block : List Byte) : List W32 :=
  let first := (elements 4 block).map (fun b => BitVec.ofNat 32 (beNat b))
  ((List.range 48).foldl (fun w _ => shaNext w :: w) first.reverse).reverse

/-- The eight working words of SHA-256. -/
structure ShaWords where
  a : W32
  b : W32
  c : W32
  d : W32
  e : W32
  f : W32
  g : W32
  h : W32
  deriving DecidableEq, Repr

/-- One round, for a constant and a word of the schedule. -/
def ShaWords.round (v : ShaWords) (k w : W32) : ShaWords :=
  let choose := (v.e &&& v.f) ||| (~~~ v.e &&& v.g)
  let majority := (v.a &&& v.b) ||| (v.c &&& (v.a ||| v.b))
  let t := v.h + shaMix v.e 6 11 25 false + choose + k + w
  { a := t + shaMix v.a 2 13 22 false + majority, b := v.a, c := v.b, d := v.c, e := v.d + t, f := v.e, g := v.f, h := v.g }

def ShaWords.list (v : ShaWords) : List W32 := [v.a, v.b, v.c, v.d, v.e, v.f, v.g, v.h]
def ShaWords.of (l : List W32) : ShaWords :=
  ⟨l.getD 0 0, l.getD 1 0, l.getD 2 0, l.getD 3 0, l.getD 4 0, l.getD 5 0, l.getD 6 0, l.getD 7 0⟩

/-- A block of 64 bytes is added to the running digest. -/
def shaBlock (digest : List W32) (block : List Byte) : List W32 :=
  let v := (shaRounds.zip (shaSchedule block)).foldl (fun v p => v.round p.1 p.2) (ShaWords.of digest)
  digest.zipWith (· + ·) v.list

/-- SHA-256 as 32 bytes. -/
def sha256 (bs : List Byte) : List Byte :=
  ((elements 64 (shaPad bs)).foldl shaBlock shaStart).flatMap (fun w => beBytes 4 w.toNat)

/-- A digest as a number, byte 0 first. -/
def digestOf (bs : List Byte) : BitVec 256 := BitVec.ofNat 256 (beNat (sha256 bs))

def digestBytes (d : BitVec 256) : List Byte := beBytes 32 d.toNat

/-- HMAC-SHA-256. -/
def hmac (key msg : List Byte) : List Byte :=
  let k := (key ++ List.replicate 64 0).take 64
  let x (v : Byte) : List Byte := k.map (fun b => b ^^^ v)
  sha256 (x 0x5C ++ sha256 (x 0x36 ++ msg))

/-! ### P-256 -/

def p256p : Nat := 0xffffffff00000001000000000000000000000000ffffffffffffffffffffffff
def p256n : Nat := 0xffffffff00000000ffffffffffffffffbce6faada7179e84f3b9cac2fc632551
def p256b : Nat := 0x5ac635d8aa3a93e7b3ebbd55769886bc651d06b0cc53b0f63bce3c3e27d2604b
def p256g : Nat × Nat := (0x6b17d1f2e12c4247f8bce6e563a440f277037d812deb33a0f4a13945d898c296,
  0x4fe342e2fe1a7f9b8ee7eb4a7c0f9e162bce33576b315ececbb6406837bf51f5)

/-- a to the power e modulo m, over the low `n` bits of e. -/
def powMod (m a : Nat) : Nat → Nat → Nat
  | 0, _ => 1 % m
  | n + 1, e =>
    let r := powMod m (a * a % m) n (e / 2)
    if e % 2 = 1 then r * a % m else r

def invMod (m a : Nat) : Nat := powMod m (a % m) 256 (m - 2)

/-- The sum of two points; none is the point at infinity. -/
def ecAdd (a b : Option (Nat × Nat)) : Option (Nat × Nat) :=
  match a, b with
  | none, b => b
  | a, none => a
  | some (x1, y1), some (x2, y2) =>
    let p := p256p
    if x1 = x2 ∧ (y1 + y2) % p = 0 then none
    else
      let l :=
        if x1 = x2 then (3 * x1 * x1 + (p - 3)) * invMod p (2 * y1) % p
        else (y2 + (p - y1)) * invMod p (x2 + (p - x1)) % p
      let x := (l * l + 2 * p - x1 - x2) % p
      some (x, (l * (x1 + (p - x)) + (p - y1)) % p)

/-- A multiple of a point, over the low `n` bits of k. -/
def ecMul : Nat → Nat → Option (Nat × Nat) → Option (Nat × Nat)
  | 0, _, _ => none
  | n + 1, k, a =>
    let r := ecMul n (k / 2) (ecAdd a a)
    if k % 2 = 1 then ecAdd r a else r

/-- Whether a point lies on the curve. -/
def onCurve (x y : Nat) : Bool :=
  decide (x < p256p) && decide (y < p256p) && decide (y * y % p256p = (x * x * x + (p256p - 3) * x + p256b) % p256p)

/-- ECDSA P-256 over SHA-256: `key` is x then y, `sig` r then s, 32 bytes each, big-endian (R480). -/
def ecdsaVerify (key sig msg : List Byte) : Bool :=
  let x := beNat (key.take 32)
  let y := beNat ((key.drop 32).take 32)
  let r := beNat (sig.take 32)
  let s := beNat ((sig.drop 32).take 32)
  let n := p256n
  if !onCurve x y || decide (r = 0) || decide (r ≥ n) || decide (s = 0) || decide (s ≥ n) then false
  else
    let w := invMod n s
    let u1 := beNat (sha256 msg) * w % n
    let u2 := r * w % n
    match ecAdd (ecMul 256 u1 (some p256g)) (ecMul 256 u2 (some (x, y))) with
    | none => false
    | some (v, _) => decide (v % n = r)

/-- The signature r, s of a message under a private scalar, with the secret scalar k of 1 to n - 1. -/
def ecdsaSign (d k : Nat) (msg : List Byte) : List Byte :=
  let n := p256n
  let r := match ecMul 256 k (some p256g) with
    | some (x, _) => x % n
    | none => 0
  let v := invMod n k * (beNat (sha256 msg) + r * d) % n
  beBytes 32 r ++ beBytes 32 v

/-- The first candidate scalar of the HMAC-DRBG of RFC 6979 seeded with `seed` that lies in 1 to n - 1 (R485), over at
most `fuel` candidates. -/
def drbgScalar (k v : List Byte) : Nat → Nat
  | 0 => 1
  | fuel + 1 =>
    let v := hmac k v
    let c := beNat v
    if 1 ≤ c ∧ c < p256n then c
    else
      let k := hmac k (v ++ [0])
      drbgScalar k (hmac k v) fuel

/-- p256_key_from of R485: the private scalar. -/
def p256KeyFrom (seed : List Byte) : Nat :=
  let v := List.replicate 32 (1 : Byte)
  let k := hmac (List.replicate 32 0) (v ++ [0] ++ seed)
  let v := hmac k v
  let k := hmac k (v ++ [1] ++ seed)
  drbgScalar k (hmac k v) 8

end Sys2Proof.Machine
end

