-- ==== Sys2Proof/Machine/Flags.lean ====
section
/-! DEFINITION. The sticky numeric flags of NUM_STATUS (R57) and the scoreboard tags (R76, R78). -/

namespace Sys2Proof.Machine

/-- Set numeric flags in NUM_STATUS; they are sticky (R57). -/
def State.setFlags (s : State) (t : Tile) (f : Flags) : State :=
  s.setReg (.numStatus t) (s.reg (.numStatus t) ||| f.setWidth 64)

/-! The tags of R76. -/
def tagT (i : Fin 8) : Nat := i.val
def tagAcc (i : Fin 4) : Nat := 8 + i.val
def tagCouch (i : Nat) : Nat := 12 + i
def tagDma (i : Fin 32) : Nat := 16 + i.val
def tagP (i : Fin 8) : Nat := 48 + i.val
def tagPost (i : Fin 4) : Nat := 56 + i.val
def tagGrant : Nat := 60
def tagShadow : Nat := 61
def tagPress : Nat := 62
def tagBarrier : Nat := 63

/-- The 64-bit word with only bit `i` set. -/
def bit64 (i : Nat) : W64 := 1#64 <<< i

def State.tagBusy (s : State) (t : Tile) (i : Nat) : Bool := (s.reg (.scoreboard t)).getLsbD i

def State.busyTag (s : State) (t : Tile) (i : Nat) : State :=
  s.setReg (.scoreboard t) (s.reg (.scoreboard t) ||| bit64 i)

def State.clearTag (s : State) (t : Tile) (i : Nat) : State :=
  s.setReg (.scoreboard t) (s.reg (.scoreboard t) &&& ~~~ bit64 i)

/-- Clear a tag with its error mark (R78). -/
def State.clearTagError (s : State) (t : Tile) (i : Nat) : State :=
  let s := s.clearTag t i
  s.setReg (.tagError t) (s.reg (.tagError t) ||| bit64 i)

/-- Remove the error mark of a tag. -/
def State.clearMark (s : State) (t : Tile) (i : Nat) : State :=
  s.setReg (.tagError t) (s.reg (.tagError t) &&& ~~~ bit64 i)

/-- The lowest tag whose bit is set in a mask. -/
def lowestTag (m : W64) : Option Nat := (List.range 64).find? (fun i => m.getLsbD i)

end Sys2Proof.Machine
end

