-- ==== Sys2Proof/Machine/Cells.lean ====
section
/-! DEFINITION. The cell bit by bit: bytes and words, checksums, headers (R287-R291, R558). -/

namespace Sys2Proof

open Machine

/-- One bit of a reflected CRC-32C. -/
def crcStep (c : W32) : W32 := if c.getLsbD 0 then (c >>> 1) ^^^ 0x82F63B78 else c >>> 1

def crcByte (c : W32) (b : Byte) : W32 :=
  let c := c ^^^ b.setWidth 32
  crcStep (crcStep (crcStep (crcStep (crcStep (crcStep (crcStep (crcStep c)))))))

/-- CRC-32C: polynomial 0x1EDC_6F41 reflected, initial value and final exclusive-or all ones (R289). -/
def crc32c (bs : List Byte) : W32 := bs.foldl crcByte 0xFFFFFFFF ^^^ 0xFFFFFFFF

def crc16Step (c : W16) : W16 := if c.getLsbD 15 then (c <<< 1) ^^^ 0x1021 else c <<< 1

/-- CRC-16 with polynomial 0x1021 and initial value 0xFFFF, most significant bit first (R262). -/
def crc16 (bs : List Byte) : W16 :=
  bs.foldl (fun (c : W16) (b : Byte) =>
    let c : W16 := c ^^^ (b.setWidth 16 <<< 8)
    crc16Step (crc16Step (crc16Step (crc16Step (crc16Step (crc16Step (crc16Step (crc16Step c)))))))) 0xFFFF

/-- The header H of R288, with HOP_RANK and FLAGS as given. -/
def Cell.header (c : Cell) : BitVec 128 :=
  BitVec.ofNat 128
    (c.dstChip.toNat + c.dstDie.toNat * 2 ^ 14 + c.srcChip.toNat * 2 ^ 18 + c.srcDie.toNat * 2 ^ 32
      + c.job.toNat * 2 ^ 36 + c.cls.toNat * 2 ^ 48 + c.rank.toNat * 2 ^ 51 + c.version.toNat * 2 ^ 54
      + c.type.toNat * 2 ^ 58 + c.tag.toNat * 2 ^ 64 + c.seq.toNat * 2 ^ 80 + c.length.toNat * 2 ^ 92
      + c.flags.toNat * 2 ^ 99 + c.rsv.toNat * 2 ^ 104)

def payloadBytes (p : Payload) : List Byte := (List.range 64).map (fun i => p.extractLsb' (8 * i) 8)

/-- The payload that holds the given bytes, zero beyond them. -/
def payloadOf (bs : List Byte) : Payload := BitVec.ofNat 512 (leNat (bs.take 64))

/-- The first LENGTH payload bytes. -/
def Cell.data (c : Cell) : List Byte := (payloadBytes c.payload).take c.length.toNat

/-- The 88 bytes of a cell (R287). -/
def Cell.bytes (c : Cell) : List Byte :=
  leBytes 16 c.header.toNat ++ payloadBytes c.payload ++ leBytes 4 c.crc.toNat ++ leBytes 3 c.depart.toNat ++ [c.last]

/-- The CRC over bytes 0-79 and 84-87, with HOP_RANK and FLAGS taken as zero (R289). -/
def Cell.crcOf (c : Cell) : W32 :=
  crc32c (leBytes 16 ({ c with rank := 0, flags := 0 } : Cell).header.toNat ++ payloadBytes c.payload
    ++ leBytes 3 c.depart.toNat ++ [c.last])

def Cell.crcGood (c : Cell) : Bool := c.crc == c.crcOf

/-- Compute the CRC at the originating die. -/
def Cell.seal (c : Cell) : Cell := { c with crc := c.crcOf }

def Cell.unlocked (c : Cell) : Bool := c.flags.getLsbD 0
def Cell.isLast (c : Cell) : Bool := c.flags.getLsbD 1
def Cell.withFlag (c : Cell) (i : Nat) : Cell := { c with flags := c.flags ||| (1#5 <<< i) }

/-- A blank version 1 cell. -/
def Cell.blank : Cell where
  dstChip := 0
  dstDie := 0
  srcChip := 0
  srcDie := 0
  job := 0
  cls := 0
  rank := 0
  version := 1
  type := 0
  tag := 0
  seq := 0
  length := 0
  flags := 0
  rsv := 0
  payload := 0
  crc := 0
  depart := 0
  last := 0

/-- Split bytes into cells' payloads of 64 bytes; no bytes make one empty payload. -/
def chunks64 : Nat → List Byte → List (List Byte)
  | 0, _ => []
  | n + 1, bs => if bs.length ≤ 64 then [bs] else bs.take 64 :: chunks64 n (bs.drop 64)

/-- The cells of a transaction that carries the bytes: SEQ from 0, LAST on the last cell (R291, R293). The fields that
the cells share are those of `base`. -/
def cellsOf (base : Cell) (bs : List Byte) : List Cell :=
  let ps := chunks64 4096 bs
  (List.range ps.length).map (fun i =>
    let p := ps.getD i []
    let c := { base with seq := BitVec.ofNat 12 i, length := BitVec.ofNat 7 p.length, payload := payloadOf p }
    (if i + 1 = ps.length then c.withFlag 1 else c).seal)

/-- The bytes that a transaction's cells carry, in SEQ order. -/
def cellsData (cs : List Cell) : List Byte :=
  (List.range cs.length).flatMap (fun i =>
    match cs.find? (fun c => c.seq.toNat = i) with
    | some c => c.data
    | none => [])

/-- Whether a cell belongs to a chunk transaction: CONTRIB, CARRY or GATHER (R366, R367). -/
def Cell.isChunk (c : Cell) : Bool := c.cls = 3 && decide (0x0A ≤ c.type.toNat) && decide (c.type.toNat ≤ 0x0C)

/-- Whether the cells are complete: every SEQ from 0 to the LAST cell (R295). -/
def cellsWhole (cs : List Cell) : Bool :=
  match cs.find? Cell.isLast with
  | none => false
  | some l => (List.range (l.seq.toNat + 1)).all (fun i => cs.any (fun c => c.seq.toNat = i))

/-- Whether a LENGTH is consistent with its TYPE (R558), for the types of version 1. -/
def lengthFits (c : Cell) : Bool :=
  let n := c.length.toNat
  let bulk (first : Nat) :=
    if !c.isLast then decide (n = 64)
    else if c.seq = 0 then decide (first ≤ n ∧ n ≤ 64) else decide (1 ≤ n ∧ n ≤ 64)
  match c.type.toNat with
  | 0x01 => bulk 16
  | 0x02 => if c.isLast then decide (n ≤ 64) else decide (n = 64)
  | 0x03 => decide (n = 24)
  | 0x08 => decide (n = 40)
  | 0x09 => decide (n = 32)
  | 0x0A | 0x0B | 0x0C => bulk 32
  | 0x0D => decide (n = 24)
  | 0x0E => decide (n = 48)
  | 0x0F => decide (n = 24)
  | 0x10 => decide (n = 8)
  | 0x11 => decide (n = 16)
  | 0x12 => decide (n = 0) || decide (n = 1) || decide (n = 8)
  | 0x18 => if c.seq = 0 then decide (n = 64) else decide (n = 40)
  | _ => true

/-- The classes that R292 allows a type; none for a reserved type. -/
def typeClasses : Nat → Option (List Nat)
  | 0x01 => some [2, 3, 5]
  | 0x02 | 0x03 => some [1]
  | 0x08 | 0x09 | 0x0A | 0x0B | 0x0C | 0x0D | 0x0E | 0x0F => some [3]
  | 0x10 | 0x11 | 0x12 => some [0]
  | 0x18 => some [6]
  | _ => none

end Sys2Proof
end

