-- ==== Sys2Proof/Machine/Switch.lean ====
section
/-! DEFINITION. The switch core of a deckle: routing (R303-R307), the buffers and their rules (R330-R334), the core cycle
(R326-R329), the origination store (R336, R337), mirroring (R339, R340) and transmission (R333, R335). -/

namespace Sys2Proof.Machine

/-- The share of a cell by its header class, before it is classified (R330). -/
def classShare : Nat → Share
  | 0 => .s0
  | 1 => .s1
  | 2 => .s2
  | 3 => .s3
  | 5 => .s5
  | 6 => .s6
  | _ => .s2

/-- The rank of a share in the precedence of R329; 0 is the highest. -/
def Share.order : Share → Nat
  | .s0 => 0
  | .s1 => 1
  | .transitReply => 2
  | .s3 => 3
  | .s2 => 4
  | .transitRequest => 5
  | .s5 => 6
  | .s6 => 7

def Share.transit : Share → Bool
  | .transitReply => true
  | .transitRequest => true
  | _ => false

def State.updNet (s : State) (f : Net → Net) : State := { s with net := f s.net }

def State.xbar (s : State) (n : Deckle) : Xbar := Store.get (fun _ => Xbar.reset) s.net.xbar n

def State.setXbar (s : State) (n : Deckle) (x : Xbar) : State :=
  s.updNet (fun w => { w with xbar := Store.set (fun k => k.val) w.xbar n x })

def State.updXbar (s : State) (n : Deckle) (f : Xbar → Xbar) : State := s.setXbar n (f (s.xbar n))

def deckleDie (n : Deckle) : Die := Fin.ofNat 10 (8 + n.val)
def folioDie (f : Folio) : Die := Fin.ofNat 10 f.val
def otherDeckle (n : Deckle) : Deckle := Fin.ofNat 2 (1 - n.val)

/-- PORT_(32n + q) (R322). -/
def portOf (n : Deckle) (q : Nat) : Port := Fin.ofNat 64 (32 * n.val + q)
def portDeckle (p : Port) : Deckle := Fin.ofNat 2 (p.val / 32)
def portCore (p : Port) : Fin 48 := Fin.ofNat 48 (p.val % 32)

/-- A bit of a 64-bit register. -/
def State.bit (s : State) (r : Reg) (i : Nat) : Bool := (s.reg r).getLsbD i

def State.portLiveBit (s : State) (p : Port) : Bool := s.bit (.portLive (portDeckle p)) p.val

/-- PORT_LIVE reports every port in both windows. -/
def State.setPortLive (s : State) (p : Port) (b : Bool) : State :=
  let put (s : State) (n : Deckle) : State :=
    let v := s.reg (.portLive n)
    s.setReg (.portLive n) (if b then v ||| bit64 p.val else v &&& ~~~ bit64 p.val)
  put (put s 0) 1

/-- The number of the felt link between two dies (R414). -/
def feltIndex (d e : Die) : Felt :=
  let a := min d.val e.val
  let b := max d.val e.val
  Fin.ofNat 45 (9 * a + b - a * (a - 1) / 2 - a - 1)

/-- A felt link carries cells while it is not down: before bring-up trains it nothing is sent, and a link out of service
reads 0 (R386, R415). -/
def State.feltUp (s : State) (d e : Die) : Bool :=
  s.fld (.feltLink (feltIndex d e)) Fld.feltLinkState ≥ 2

/-! ### Routing -/

def State.chipOf (s : State) (n : Deckle) : Nat := s.fld (.routeCtl n) Fld.routeCtlChip
def State.ownGroup (s : State) (n : Deckle) : Nat := s.chipOf n / 16
def State.ownMember (s : State) (n : Deckle) : Nat := s.chipOf n % 16

/-- The ports to the member of peer rank k (R30). -/
def peerPorts (group16 : Bool) (k : Nat) : List Nat :=
  if group16 then [k, 32 + k] else [2 * k, 2 * k + 1, 32 + 2 * k, 33 + 2 * k]

/-- The ports to a member of the own group (R30). -/
def State.memberPorts (s : State) (n : Deckle) (m : Nat) : List Nat :=
  let own := s.ownMember n
  let g16 := s.flag (.routeCtl n) Fld.routeCtlGroup16
  if m = own then []
  else if !g16 && decide (m ≥ 8) then []
  else peerPorts g16 (if m < own then m else m - 1)

/-- The ports named by OWN_PORTS (R320). -/
def ownPorts (mask : Nat) : List Nat :=
  ((List.range 32).filter (fun i => mask.testBit i)).map (fun i => if i < 16 then 15 + i else 31 + i)

/-- The cells queued for a core port in its banks and its egress queue (R303, R342). -/
def Xbar.queuedFor (x : Xbar) (q : Fin 48) : List Held :=
  x.held.filter (fun h =>
    h.out = some q &&
      match h.point with
      | .egress _ => true
      | .pool _ _ _ => true
      | _ => false)

def State.portOccupancy (s : State) (p : Port) : Nat := ((s.xbar (portDeckle p)).queuedFor (portCore p)).length

/-- The least of the candidates by a measure, the first of equals. -/
def leastBy (f : Nat → Nat) : List Nat → Option Nat
  | [] => none
  | p :: ps =>
    match leastBy f ps with
    | none => some p
    | some r => if f r < f p then some r else some p

/-- Among the live ports of a list, the least occupied of the deckle's own; else, unless the cell came over the peer
ports, the least occupied of the other deckle's. Ties go to the lowest port (R303). -/
def State.pickPort (s : State) (n : Deckle) (fromPeer : Bool) (ports : List Nat) : Option Port :=
  let occ (p : Nat) := s.portOccupancy (Fin.ofNat 64 p)
  let live := (ports.mergeSort).filter (fun p => decide (p < 64) && s.portLiveBit (Fin.ofNat 64 p))
  let own := live.filter (fun p => p / 32 = n.val)
  match leastBy occ own with
  | some p => some (Fin.ofNat 64 p)
  | none => if fromPeer then none else (leastBy occ live).map (fun p => Fin.ofNat 64 p)

/-- Whether any port of a list is live, on either deckle. -/
def State.anyLive (s : State) (ports : List Nat) : Bool := ports.any (fun p => s.portLiveBit (Fin.ofNat 64 p))

/-- Where R303 sends a cell. -/
inductive Route where
  | die (d : BitVec 4)
  | port (p : Port) (valiant : Bool)
  | refuse (code : Nat)
  deriving DecidableEq, Repr

/-- NO_ROUTE, or OUT_OF_SLICE in a fenced slice (R35, R303). -/
def State.unreachable (s : State) (n : Deckle) : Route :=
  .refuse (if s.flag (.routeCtl n) Fld.routeCtlIsolation then 0x47 else 0x48)

/-- The global ports of the deckle that a non-minimal hop may take (R304). -/
def State.valiantPorts (s : State) (n : Deckle) (dstGroup : Nat) : List Nat :=
  ((List.range 16).map (fun i => 15 + 32 * n.val + i)).filter (fun p =>
    let q : Port := Fin.ofNat 64 p
    let g := s.fld (.portPhy q) Fld.portPhyFarChip / 16
    s.portLiveBit q && decide (g ≠ dstGroup) && decide (g ≠ s.ownGroup n))

/-- The test of R304 on the hop that R303 chose. -/
def State.valiantCheck (s : State) (n : Deckle) (c : Cell) (dstGroup : Nat) (p : Port) : Route :=
  let ok := [1, 2, 3, 5].contains c.cls.toNat && decide (c.rank.toNat ≤ 1) && !c.flags.getLsbD 4
    && s.flag (.routeCtl n) Fld.routeCtlValiantEn
  let occ (p : Nat) := s.portOccupancy (Fin.ofNat 64 p)
  if ok then
    match leastBy occ (s.valiantPorts n dstGroup) with
    | some v =>
      if s.portOccupancy p > 2 * occ v + s.fld (.routeCtl n) Fld.routeCtlValiantBias
      then .port (Fin.ofNat 64 v) true else .port p false
    | none => .port p false
  else .port p false

/-- Whether this deckle delivers to a die of the device without the peer ports: itself, or a folio with its felt link up. -/
def State.reachesDie (s : State) (n : Deckle) (d : BitVec 4) : Bool :=
  decide (d.toNat = 8 + n.val) || (decide (d.toNat < 8) && s.feltUp (deckleDie n) (Fin.ofNat 10 d.toNat))

/-- The next hop of a cell, but for HOP_LIMIT (R303). A cell that came over the peer ports never goes back over them (R17). -/
def State.hop (s : State) (n : Deckle) (fromPeer : Bool) (c : Cell) : Route :=
  let dst := c.dstChip.toNat
  let g := dst / 16
  if dst = s.chipOf n then
    if fromPeer && !s.reachesDie n c.dstDie then .refuse 0x47 else .die c.dstDie
  else if g = s.ownGroup n then
    if s.bit (.memberValid n) (dst % 16) = false then s.unreachable n
    else
      match s.pickPort n fromPeer (s.memberPorts n (dst % 16)) with
      | some p => .port p false
      | none => .refuse 0x47
  else
    let e := Reg.globalTable n (Fin.ofNat 1024 g)
    if s.flag e Fld.globalTableValid = false then s.unreachable n
    else
      let direct := decide (s.fld e Fld.globalTableGwMembers ≠ 0)
      let via := Reg.globalTable n (Fin.ofNat 1024 (s.fld e Fld.globalTableViaGroup))
      let hasVia := s.flag e Fld.globalTableViaValid
      let e := if direct then e else via
      if (!direct && !hasVia) || !s.flag e Fld.globalTableValid || decide (s.fld e Fld.globalTableGwMembers = 0)
      then .refuse 0x47
      else
        let own := ownPorts (s.fld e Fld.globalTableOwnPorts)
        let members := (List.range 16).filter (fun m => (s.fld e Fld.globalTableGwMembers).testBit m)
        let ports := if (s.fld e Fld.globalTableGwMembers).testBit (s.ownMember n) && s.anyLive own then own
          else members.flatMap (s.memberPorts n)
        match s.pickPort n fromPeer ports with
        | some p => s.valiantCheck n c g p
        | none => .refuse 0x47

/-- The route of a cell: R303's hop, and HOP_LIMIT for one that must leave the device at rank 7 (R305). Codes are checked in
ascending order (R559). -/
def State.route (s : State) (n : Deckle) (fromPeer : Bool) (c : Cell) : Route :=
  match s.hop n fromPeer c with
  | .port p v => if c.rank = 7 then .refuse 0x4C else .port p v
  | r => r

/-- The allow-list entry of a folio (R344). -/
def State.allowed (s : State) (n : Deckle) (f : Folio) : Nat :=
  let r := if f.val < 4 then Reg.allowList0 n else Reg.allowList1 n
  (s.reg r).toNat / 2 ^ (16 * (f.val % 4)) % 2 ^ 12

/-- The share of a cell from the middle queues onward (R298). -/
def State.classify (s : State) (n : Deckle) (c : Cell) : Share :=
  let foreign := decide (c.dstChip.toNat ≠ s.chipOf n) && decide (c.job ≠ 0)
    && !(List.finRange 8).any (fun f => s.allowed n f = c.job.toNat)
  if !foreign then classShare c.cls.toNat
  else
    match c.cls.toNat with
    | 1 => .transitReply
    | 2 | 3 | 5 => .transitRequest
    | k => classShare k

/-- The core port that carries a routed cell: the folio port of the destination folio, the external port, or the peer
port that R324 names; none is the endpoint output. A deckle-addressed cell for the other deckle takes the peer port of
its input's number, and so does a cell for a folio whose link to this deckle is out of service (DESIGN CHOICE, log 45). -/
def State.coreOut (s : State) (n : Deckle) (q : Fin 48) : Route → Option (Fin 48)
  | .die d =>
    if d.toNat = 8 + n.val then none
    else if s.reachesDie n d then some (Fin.ofNat 48 (32 + d.toNat))
    else some (Fin.ofNat 48 (40 + q.val % 8))
  | .port p _ => some (if portDeckle p = n then portCore p else Fin.ofNat 48 (40 + p.val % 8))
  | .refuse _ => none

/-! ### Buffers -/

/-- The reserved cells of a share at one rank, at a point (R330). -/
def reservedAt (pt : Point) (sh : Share) : Nat :=
  match pt, sh with
  | .ingress _, .s5 | .ingress _, .s6 => 0
  | .ingress _, .transitReply | .ingress _, .transitRequest => 0
  | .ingress _, _ => 4
  | .origin, _ => 0
  | _, .s5 | _, .s6 => 0
  | .pool _ _ _, .s1 | .pool _ _ _, .transitReply => 4
  | .pool _ _ _, _ => 2
  | _, _ => 1

/-- The shared cells of a point (R330). -/
def sharedCap : Point → Nat
  | .ingress q => if q.val < 32 then 1920 else 384
  | .middle _ _ => 112
  | .pool _ _ _ => 192
  | .egress _ => 48
  | .origin => 4096

def Share.isReply : Share → Bool
  | .s1 => true
  | .transitReply => true
  | _ => false

/-- The element of an output; a cell for the endpoint output takes the column of its own element (DESIGN CHOICE, log 45). -/
def Held.element (h : Held) : Fin 3 :=
  match h.out with
  | some q => Fin.ofNat 3 (q.val / 16)
  | none => Fin.ofNat 3 (h.inp.val / 16)

/-- The share by which a cell holds space: its header class at the ingress buffer (R330). -/
def Held.shareAt (h : Held) (pt : Point) : Share :=
  match pt with
  | .ingress _ => classShare h.cell.cls.toNat
  | _ => h.share

/-- Whether two points share their space: the 16 banks of a pool do (R330). -/
def samePoint : Point → Point → Bool
  | .pool x y _, .pool x' y' _ => decide (x = x') && decide (y = y')
  | a, b => decide (a = b)

/-- The cells whose space a cell would share at a point: at a pool, those of its group. -/
def Xbar.neighbours (x : Xbar) (pt : Point) (sh : Share) : List Held :=
  x.held.filter (fun k => samePoint k.point pt &&
    match pt with
    | .pool _ _ _ => (k.shareAt k.point).isReply == sh.isReply
    | _ => true)

/-- The limit of R332 on the shared space that transit shares occupy. -/
def transitCap (transitMax : Nat) : Point → Nat
  | .egress _ => 24
  | .ingress q => sharedCap (.ingress q)
  | .origin => 4096
  | _ => transitMax

/-- The space a cell finds at a point: reserved (some true), shared (some false) or none (R331, R332). -/
def Xbar.space (x : Xbar) (transitMax : Nat) (pt : Point) (h : Held) : Option Bool :=
  let sh := h.shareAt pt
  let near := x.neighbours pt sh
  let mine := near.filter (fun k => k.res && decide (k.shareAt pt = sh) && decide (k.cell.rank = h.cell.rank)
    && (match pt with
        | .middle _ _ => decide (k.element = h.element)
        | _ => true))
  let shared := near.filter (fun k => !k.res)
  if mine.length < reservedAt pt sh then some true
  else if shared.length < sharedCap pt
      ∧ (sh.transit = true → (shared.filter (fun k => (k.shareAt pt).transit)).length < transitCap transitMax pt)
    then some false
  else none

/-- The victim that an arriving cell may evict at a point: of the shared space, the class 6 cell enqueued there last, or else
the class 5 cell (R334). The cells of a point stand in the order in which they were enqueued. -/
def Xbar.victim (x : Xbar) (pt : Point) (h : Held) : Option Held :=
  let sh := h.shareAt pt
  let near := (x.neighbours pt sh).filter (fun k => !k.res)
  let newest (c : Share) := (near.filter (fun k => k.shareAt pt = c)).getLast?
  if sh = .s6 ∨ sh.transit = true then none
  else
    match newest .s6 with
    | some k => some k
    | none => if sh = .s5 then none else newest .s5

/-- Whether a cell can enter a point, by eviction if need be. -/
def Xbar.admits (x : Xbar) (transitMax : Nat) (pt : Point) (h : Held) : Bool :=
  (x.space transitMax pt h).isSome || (x.victim pt h).isSome

/-- Take one pointer off an origination-store slot; the slot is freed at 0 (R336). -/
def Xbar.unref (x : Xbar) : Option Nat → Xbar
  | none => x
  | some i =>
    let less := x.slots.map (fun k => if k.id = i then { k with refs := k.refs - 1 } else k)
    { x with slots := less.filter (fun k => k.refs ≠ 0) }

/-- Remove a cell from the core. -/
def Xbar.drop (x : Xbar) (h : Held) : Xbar := { x with held := x.held.filter (fun k => k.age ≠ h.age) }

def State.transitMax (s : State) (n : Deckle) : Nat := s.fld (.switchCtl n) Fld.switchCtlTransitMax

/-- Move a cell to a point, or do nothing where it finds no space. Push-out is counted, and an evicted mirror copy counts
in its session (R334). -/
def State.enter (s : State) (n : Deckle) (pt : Point) (h : Held) : Option State :=
  let x := s.xbar n
  match x.space (s.transitMax n) pt h with
  | some r =>
    let y := x.drop h
    some (s.setXbar n { y with held := y.held ++ [{ h with point := pt, res := r, waited := 0 }] })
  | none =>
    match x.victim pt h with
    | none => none
    | some v =>
      let y := ((x.drop h).drop v).unref v.slot
      let s := s.setXbar n { y with held := y.held ++ [{ h with point := pt, res := false, waited := 0 }] }
      let s := s.bump (.xbarPushouts n) Fld.xbarPushoutsCount 1
      some (if v.share = .s6
        then s.bump (.mirrorDrops n (Fin.ofNat 8 v.cell.tag.toNat)) Fld.mirrorDropsCount 1 else s)

/-- A new cell for the core, with the next age. -/
def State.newHeld (s : State) (n : Deckle) (c : Cell) (sh : Share) (inp : Fin 48) (out : Option (Fin 48))
    (slot : Option Nat) : State × Held :=
  let x := s.xbar n
  (s.setXbar n { x with ages := x.ages + 1 },
    { point := .ingress inp, cell := c, share := sh, out := out, inp := inp, res := false, age := x.ages, slot := slot })

/-- Whether `h` goes before `k` in the precedence of R329. -/
def Held.before (h k : Held) : Bool :=
  if h.share.order ≠ k.share.order then decide (h.share.order < k.share.order)
  else if h.cell.rank ≠ k.cell.rank then decide (k.cell.rank.toNat < h.cell.rank.toNat)
  else decide (h.age < k.age)

/-- The cell of highest precedence. -/
def bestHeld : List Held → Option Held
  | [] => none
  | h :: hs =>
    match bestHeld hs with
    | none => some h
    | some k => if h.before k then some h else some k

/-- Set CE on a cell that is enqueued behind more than CE_DEPTH others (R291). -/
def State.markCe (s : State) (n : Deckle) (h : Held) : Held :=
  match h.out with
  | some q =>
    if (((s.xbar n).queuedFor q).filter (fun k => k.age ≠ h.age)).length > s.fld (.ceDepth n) Fld.ceDepthCells
    then { h with cell := h.cell.withFlag 3 } else h
  | none => h

/-! ### The origination store (R330, R336, R337) -/

/-- Slots that hold mirror copies; at most 512. -/
def Xbar.mirrorSlots (x : Xbar) : Nat := (x.slots.filter Slot.mirror).length

/-- Whether a slot of the remainder is free: of what ORIG_STORE.RESERVED leaves. -/
def State.origFree (s : State) (n : Deckle) : Nat :=
  4096 - (((s.xbar n).slots.filter (fun k => k.group.isNone)).length + s.fld (.origStore n) Fld.origStoreReserved)

def State.origRoom (s : State) (n : Deckle) : Bool := decide (0 < s.origFree n)

/-- Slots of each deckle that a collective group reserves (R352). -/
def groupSlots : Nat := 48

/-- The space that a cell finds in the store: its group's reservation first, or else a slot of the remainder. -/
def State.origSpace (s : State) (n : Deckle) (g : Option Coll) : Option (Option Coll) :=
  let own : Bool := match g with
    | some k => (s.groups.any (fun e => e.1 = k && e.2.reserved))
        && decide (((s.xbar n).slots.filter (fun i => i.group = g)).length < groupSlots)
    | none => false
  if own then some g else if s.origRoom n then some none else none

/-- The share that a cell of the endpoint takes (R298, R345): a multicast cell takes share 3 (R337). -/
def State.originShare (s : State) (n : Deckle) (targets : List (Cell × Option (Fin 48))) (c : Cell) : Share :=
  if 1 < targets.length then classShare c.cls.toNat else s.classify n c

/-- Store a cell with one pointer for each target output; the pointers wait in the store until they can be enqueued. -/
def State.originate (s : State) (n : Deckle) (targets : List (Cell × Option (Fin 48))) (group : Option Coll := none) : State :=
  let x := s.xbar n
  let id := x.ages
  let hs := (List.range targets.length).map (fun i =>
    let (c, out) := targets.getD i (Cell.blank, none)
    ({ point := .origin, cell := c, share := s.originShare n targets c, out := out, inp := 32, res := false,
       age := x.ages + 1 + i, slot := some id } : Held))
  let s := s.setXbar n { x with
    ages := x.ages + 1 + targets.length, held := x.held ++ hs,
    slots := x.slots ++ [⟨id, targets.length, targets.any (fun t => t.1.cls = 6), group⟩] }
  s.setFld (.origStore n) Fld.origStoreUsed (s.xbar n).slots.length

/-- A cell of the endpoint waits for the store. -/
def State.awaitStore (s : State) (n : Deckle) (o : Origin) : State :=
  s.updXbar n (fun x => { x with origins := x.origins ++ [o] })

/-- The transaction of a die to which a request cell belongs. -/
def State.txnOf (s : State) (d : Die) (c : Cell) : Option Txn :=
  if c.cls = 1 then none else s.net.txns.find? (fun t => t.die = d && decide (t.tag = c.tag.toNat))

/-- The operation header of R233. -/
def opOffset (w0 : W64) : Nat := w0.toNat % 2 ^ 46
def opCode (w0 : W64) : Nat := w0.toNat / 2 ^ 46 % 64

/-- Whether a transaction writes: it is no LOAD. -/
def Txn.writes (t : Txn) : Bool := match t.cells with
  | c :: _ => decide (opCode (BitVec.ofNat 64 (leNat (c.data.take 8))) ≠ 0)
  | [] => false

/-- UNLOCKED, as the header flag of a cell (R270). -/
def unlockedFlag (s : State) : BitVec 5 := if s.fld .tenseStatus Fld.tenseStatusState = 5 then 1 else 0

/-- A cell's transaction is sent in this ns; its timer runs from here (R308). -/
def State.noteSent (s : State) (d : Die) (c : Cell) : State :=
  match s.txnOf d c with
  | none => s
  | some t => s.updNet (fun w => { w with txns := w.txns.map (fun k => if k = t then { t with sentAt := s.now } else k) })

/-- R279: a cell that leaves its die for the first time carries the tense at which it leaves, and UNLOCKED while the device is
UNLOCKED (R270). Its transaction keeps that cell for a retransmission, and a write of a tile has left the tile (R106). A
retransmitted cell keeps its DEPART. -/
def State.depart (s : State) (d : Die) (c : Cell) : State × Cell :=
  let s := s.noteSent d c
  let c := { c with flags := c.flags ||| unlockedFlag s }
  if c.flags.getLsbD 2 then (s, c)
  else
    let c := Cell.seal { c with depart := BitVec.ofNat 24 s.tenseNow }
    match s.txnOf d c with
    | none => (s, c)
    | some t =>
      let t' := { t with
        tense := s.tenseNow
        cells := t.cells.map (fun k => if k.seq = c.seq then { k with depart := c.depart, crc := c.crc } else k) }
      let s := s.updNet (fun w => { w with txns := w.txns.map (fun k => if k = t then t' else k) })
      match t.user, t.writes with
      | .dma u _, true => (s.updTile u (fun y => { y with lastDepart := s.tenseNow }), c)
      | _, _ => (s, c)

/-- The copies of a cell leave a deckle's endpoint as they enter its store (R279). -/
def State.departAll (s : State) (d : Die) : List (Cell × Option (Fin 48)) → State × List (Cell × Option (Fin 48))
  | [] => (s, [])
  | p :: ps =>
    let (s, c) := s.depart d p.1
    let (s, rest) := s.departAll d ps
    (s, (c, p.2) :: rest)

/-- The cells that wait enter the store, the first first, each as it finds a slot. -/
def State.fillStore (s : State) (n : Deckle) : State :=
  (s.xbar n).origins.foldl (fun s o =>
    match s.origSpace n o.group with
    | some g =>
      let s := s.updXbar n (fun x => { x with origins := x.origins.erase o })
      let (s, targets) := s.departAll (deckleDie n) o.targets
      s.originate n targets g
    | none => s) s

/-- Enqueue a pointer of the store. None: its output has no space. A pointer to the deckle's own endpoint goes straight
there. -/
def State.enqueuePointer (s : State) (n : Deckle) (h : Held) : Option State :=
  match h.out with
  | some q => s.enter n (.egress q) (s.markCe n h)
  | none =>
    let s := s.updXbar n (fun x => (x.drop h).unref h.slot)
    some (s.updNet (fun w => { w with flights := w.flights ++ [(.die (deckleDie n), h.cell)] }))

/-- Enqueue the pointers of each slot, oldest slot first: all of a slot's pointers at once or none (R337). -/
def State.enqueueOrigins (s : State) (n : Deckle) : State :=
  let ids := ((s.xbar n).held.filter (fun h => h.point = .origin)).filterMap Held.slot
  ids.eraseDups.foldl (fun s i =>
    let hs := (s.xbar n).held.filter (fun h => h.point = .origin && h.slot = some i)
    (hs.foldl (fun (o : Option State) h => o.bind (fun s => s.enqueuePointer n h)) (some s)).getD s) s

/-! ### Mirroring (R339, R340) -/

/-- Take a mirror copy for a session. -/
def State.mirrorCopy (s : State) (n : Deckle) (k : Fin 8) (q : Fin 48) (egress refused : Bool) (c : Cell) : State :=
  let x := s.xbar n
  let no := Store.get (fun _ => 0) x.copies k.val
  let x := { x with copies := Store.put id (fun _ => 0) x.copies k.val ((no + 1) % 65536) }
  let s := s.setXbar n x
  let trunc := s.flag (.mirrorCtl n k) Fld.mirrorCtlTrunc
  let dest : Fin 48 := Fin.ofNat 48 (s.fld (.mirrorCtl n k) Fld.mirrorCtlDest)
  let flags := (if egress then 1 else 0) + (if trunc then 2 else 0) + (if refused then 4 else 0)
  let head := leBytes 8 s.tenseNow ++ leBytes 1 q.val ++ leBytes 1 flags ++ leBytes 2 no ++ leBytes 4 0
  let chip := BitVec.ofNat 14 (s.chipOf n)
  let base : Cell := { Cell.blank with
    dstChip := chip, srcChip := chip, dstDie := BitVec.ofNat 4 (8 + n.val), srcDie := BitVec.ofNat 4 (8 + n.val),
    cls := 6, type := 0x18, tag := BitVec.ofNat 16 k.val, depart := BitVec.ofNat 24 s.tenseNow,
    flags := if s.fld .tenseStatus Fld.tenseStatusState = 5 then 1 else 0 }
  let bs := c.bytes
  let c0 := { base with length := 64, payload := payloadOf (head ++ bs.take 48) }
  let c1 := ({ base with seq := 1, length := 40, payload := payloadOf (bs.drop 48) }).withFlag 1
  let cells := if trunc then [(c0.withFlag 1).seal] else [c0.seal, c1.seal]
  if decide (cells.length ≤ s.origFree n) && decide ((s.xbar n).mirrorSlots + cells.length ≤ 512) then
    cells.foldl (fun s c => s.originate n [(c, some dest)]) s
  else s.bump (.mirrorDrops n k) Fld.mirrorDropsCount 1

/-- Whether an enabled session observes a core port at a point and matches a header (R339). -/
def State.mirrorMatches (s : State) (n : Deckle) (k : Fin 8) (q : Fin 48) (egress : Bool) (c : Cell) : Bool :=
  let dir := s.fld (.mirrorCtl n k) Fld.mirrorCtlDir
  let val := s.reg (.mirrorValueHi n k) ++ s.reg (.mirrorValueLo n k)
  let mask := s.reg (.mirrorMaskHi n k) ++ s.reg (.mirrorMaskLo n k)
  s.flag (.mirrorCtl n k) Fld.mirrorCtlEnable && s.bit (.mirrorSrc n k) q.val
    && (decide (dir = 2) || decide (dir = if egress then 1 else 0))
    && (!s.flag (.mirrorCtl n k) Fld.mirrorCtlMatchEn || (c.header &&& mask == val &&& mask))

/-- Observe a cell: each matching session counts it and copies one in every SAMPLE_N. -/
def State.mirror (s : State) (n : Deckle) (q : Fin 48) (egress refused : Bool) (c : Cell) : State :=
  (List.finRange 8).foldl (fun s k =>
    if s.mirrorMatches n k q egress c then
      let x := s.xbar n
      let seen := Store.get (fun _ => 0) x.sampled k.val + 1
      let due := decide (seen ≥ s.fld (.mirrorCtl n k) Fld.mirrorCtlSampleN)
      let s := s.setXbar n { x with sampled := Store.put id (fun _ => 0) x.sampled k.val (if due then 0 else seen) }
      if due then s.mirrorCopy n k q egress refused c else s
    else s) s

/-! ### Transmission (R329, R333, R335) -/

def State.linkCredit (s : State) (p : Port) : LinkCredit := Store.get (fun _ => ⟨[], [], []⟩) s.net.credit p

def State.setLinkCredit (s : State) (p : Port) (l : LinkCredit) : State :=
  s.updNet (fun w => { w with credit := Store.set (fun k => k.val) w.credit p l })

/-- The modulus of a credit counter (R390). -/
def creditMod (k : Nat) : Nat := if k < 32 then 16 else 65536

/-- The reserved credit kind of a header class and rank (R390). -/
def resKind (cls rank : Nat) : Nat := 8 * cls + rank

def LinkCredit.has (l : LinkCredit) (k : Nat) : Bool :=
  Store.get (fun _ => 0) l.sent k ≠ Store.get (fun _ => 0) l.granted k

/-- The credit a cell would use on an external port, its rank being the one it has after the increment: reserved first
(R333). -/
def LinkCredit.kindFor (l : LinkCredit) (cls rank : Nat) : Option Nat :=
  if cls < 4 then
    if l.has (resKind cls rank) then some (resKind cls rank) else if l.has 32 then some 32 else none
  else if cls = 5 then if l.has 33 then some 33 else none
  else none

def bumpCount (m : Store Nat Nat) (k n : Nat) : Store Nat Nat :=
  Store.put id (fun _ => 0) m k ((Store.get (fun _ => 0) m k + n) % creditMod k)

/-- The nodes of a folio's meshes, in the order of R300 (DESIGN CHOICE, log 44): tiles 0-23, slice groups 24-31, ream base ports
32-35, felt endpoint 36, parser cores 37, twin-stream engine 38, control port 39. Node k stands at column k mod 8 of row
k / 8. -/
def tileNode (t : Tile) : Fin 40 := Fin.ofNat 40 (tileNum t)
def reamNode (q : Nat) : Fin 40 := Fin.ofNat 40 (32 + q % 4)
def feltNode : Fin 40 := 36
def parserNode : Fin 40 := 37
def controlNode : Fin 40 := 39

/-- The node from which a user's cells enter its folio's mesh. -/
def TxnUser.node : TxnUser → Fin 40
  | .dma t _ => tileNode t
  | .hart _ _ => parserNode
  | _ => feltNode

/-- Which of a folio's four reams holds an offset (R220). -/
def reamSelect (off : Nat) : Nat := off / 2 ^ 8 % 4 ^^^ off / 2 ^ 15 % 4 ^^^ off / 2 ^ 24 % 4

/-- What a core port attaches to (R322). -/
inductive Attach where
  | ext (p : Port)
  | folio (f : Folio)
  | peer
  deriving DecidableEq, Repr

def attachOf (n : Deckle) (q : Fin 48) : Attach :=
  if q.val < 32 then .ext (portOf n q.val)
  else if q.val < 40 then .folio (Fin.ofNat 8 (q.val - 32)) else .peer

/-- The shared cells of a deckle's ingress buffer that are taken or spoken for: those it holds, and those in flight to it
beyond their reserved cells (R333). -/
def State.ingressShared (s : State) (n : Deckle) (q : Fin 48) : Nat :=
  let held := (s.xbar n).held.filter (fun h => h.point = .ingress q)
  let coming := (s.net.flights.filter (fun e => e.1 = .core n q)).map Prod.snd
  let extra (k : Nat) : Nat :=
    (coming.filter (fun c => decide (c.cls.toNat < 4) && decide (resKind c.cls.toNat c.rank.toNat = k))).length
      - (4 - (held.filter (fun h => h.res && decide (resKind h.cell.cls.toNat h.cell.rank.toNat = k))).length)
  (held.filter (fun h => !h.res)).length + (coming.filter (fun c => decide (c.cls.toNat ≥ 4))).length
    + ((List.range 32).map extra).sum

/-- Whether the receiver of an internal link has a credit for a cell (R333): a reserved one of its class and rank, the shared
one, which counts what class 5 cells occupy, or for class 5 free shared space. -/
def State.linkRoom (s : State) (n : Deckle) (q : Fin 48) (c : Cell) : Bool :=
  let cap := sharedCap (.ingress q)
  let used := s.ingressShared n q
  let held := (s.xbar n).held.filter (fun h => h.point = .ingress q)
  let coming := (s.net.flights.filter (fun e => e.1 = .core n q)).map Prod.snd
  let same (k : Cell) : Bool := decide (k.cls = c.cls) && decide (k.rank = c.rank)
  if c.cls.toNat < 4 then
    decide ((held.filter (fun h => h.res && same h.cell)).length + (coming.filter same).length < 4)
      || decide (used - (held.filter (fun h => !h.res && decide (h.cell.cls = 5))).length < cap)
  else decide (used < cap)

/-- A port in analysis mode carries class 6 cells only and needs no credit of R333. -/
def State.isAnalysis (s : State) (p : Port) : Bool :=
  s.fld (.portMode (portDeckle p)) ⟨2 * (p.val % 32), 2⟩ = 2

/-- Whether a core port has a credit for a cell: from the far end of an external port, from the ingress buffer of the other
deckle, or from the folio's endpoint, which accepts while its felt link carries cells. -/
def State.mayTransmit (s : State) (n : Deckle) (q : Fin 48) (c : Cell) : Bool :=
  match attachOf n q with
  | .ext p =>
    if c.cls = 6 then s.isAnalysis p
    else s.portLiveBit p && ((s.linkCredit p).kindFor c.cls.toNat (c.rank.toNat + 1)).isSome
  | .folio f => s.feltUp (deckleDie n) (folioDie f)
  | .peer =>
    let k := otherDeckle n
    s.feltUp (deckleDie n) (deckleDie k) && !s.downDies.contains (deckleDie k) && s.linkRoom k q c

/-- The node of a folio's mesh for which a request cell that arrives over the felt, or comes from the folio itself, is bound:
the ream port or the tile of its operation's offset. A later cell follows the SEQ 0 cell that the folio holds; one that came
before it goes to the ream port of its TAG (DESIGN CHOICE, log 180). -/
def State.requestNode (s : State) (f : Folio) (c : Cell) : Fin 40 :=
  let mine (k : Cell) : Bool := decide (k.seq = 0) && decide (k.srcChip = c.srcChip) && decide (k.srcDie = c.srcDie)
    && decide (k.tag = c.tag) && decide (k.cls ≠ 1)
  let here (e : MeshCell) : Option Cell := if e.folio = f && mine e.cell then some e.cell else none
  let head : Option Cell :=
    if c.seq = 0 then some c
    else
      match s.net.assemblies.findSome? (fun a => if a.die = folioDie f then a.cells.find? mine else none) with
      | some k => some k
      | none => (s.net.outbox ++ s.net.meshes ++ s.net.arrived).findSome? here
  match head with
  | some k =>
    let off := leNat (k.data.take 8) % 2 ^ 46
    if off < reamLimit then Fin.ofNat 40 (32 + reamSelect off)
    else Fin.ofNat 40 ((off - reamLimit) / vatSize % 24)
  | none => Fin.ofNat 40 (32 + c.tag.toNat % 4)

/-- The node for which a cell that has come to its folio is bound: a reply goes to its requester, and to the control port
where nothing awaits it. -/
def State.targetNode (s : State) (f : Folio) (c : Cell) : Fin 40 :=
  if c.cls = 1 then
    match s.net.txns.find? (fun t => t.die = folioDie f && decide (t.tag = c.tag.toNat)) with
    | some t => t.user.node
    | none => controlNode
  else s.requestNode f c

/-- A cell comes over the felt to a folio's endpoint, where it waits for its mesh. A folio in reset takes nothing (R491). -/
def State.toFolio (s : State) (f : Folio) (c : Cell) : State :=
  if s.downDies.contains (folioDie f) then
    s.updNet (fun w => { w with flights := w.flights ++ [(.die (folioDie f), c)] })
  else
    s.updNet (fun w => { w with outbox := w.outbox ++ [⟨f, feltNode, s.targetNode f c, c, feltNode, 0⟩] })

/-- A mirror copy counts as sent once its last cell leaves and its first has left (R348). -/
def State.mirrorSent (s : State) (n : Deckle) (c : Cell) : State :=
  if c.cls ≠ 6 then s
  else
    let k : Fin 8 := Fin.ofNat 8 c.tag.toNat
    let first := Store.get (fun _ => 0) (s.xbar n).firsts k.val
    if c.seq = 0 ∧ c.isLast = false then
      s.updXbar n (fun x => { x with firsts := Store.put id (fun _ => 0) x.firsts k.val (c.depart.toNat + 1) })
    else if c.seq = 0 ∨ first = c.depart.toNat + 1 then
      (s.updXbar n (fun x => { x with firsts := Store.put id (fun _ => 0) x.firsts k.val 0 })).bump
        (.mirrorSent n k) Fld.mirrorSentCount 1
    else s

/-- Send a cell on a core port: HOP_RANK rises on an external port (R299), its credit is used, and egress mirrors see
it. -/
def State.transmit (s : State) (n : Deckle) (q : Fin 48) (c : Cell) : State :=
  let s := (s.mirror n q true false c).mirrorSent n c
  let s := s.updXbar n (fun x => { x with sentAt := Store.set id x.sentAt q.val (x.cycle + 1) })
  match attachOf n q with
  | .ext p =>
    if c.cls = 6 then s.emit (.cell p c)
    else
      let l := s.linkCredit p
      let s :=
        match l.kindFor c.cls.toNat (c.rank.toNat + 1) with
        | some k => s.setLinkCredit p { l with sent := bumpCount l.sent k 1 }
        | none => s
      s.emit (.cell p { c with rank := c.rank + 1 })
  | .folio f => s.toFolio f c
  | .peer => s.updNet (fun w => { w with flights := w.flights ++ [(.core (otherDeckle n) q, c)] })

/-! ### The core cycle (R326-R328) -/

/-- Stage 1: in cycle c, input i of each element passes its best cell to middle queue (i + c) mod 16. -/
def State.stage1 (s : State) (n : Deckle) (c : Nat) : State :=
  (List.finRange 48).foldl (fun s q =>
    let pt := Point.middle (Fin.ofNat 3 (q.val / 16)) (Fin.ofNat 16 (q.val + c))
    let x := s.xbar n
    let can := x.held.filter (fun h => h.point = .ingress q && x.admits (s.transitMax n) pt h)
    match bestHeld can with
    | some h => (s.enter n pt h).getD s
    | none => s) s

/-- Stage 2: in cycle c, output i of element y takes its best cell of bank (i - c) mod 16 of the pools of y, where its egress
queue has space for that cell (R326). -/
def State.stage2 (s : State) (n : Deckle) (c : Nat) : State :=
  (List.finRange 48).foldl (fun s q =>
    let m : Fin 16 := Fin.ofNat 16 (q.val + 16 * (c + 1) - c)
    let x := s.xbar n
    let can := x.held.filter (fun h => h.out = some q &&
      match h.point with
      | .pool _ _ k => decide (k = m)
      | _ => false)
    match bestHeld can with
    | some h => (s.enter n (.egress q) (s.markCe n h)).getD s
    | none => s) s

/-- The endpoint output: in cycle c it takes one cell for this deckle from column c mod 3 (R324). -/
def State.stageEnd (s : State) (n : Deckle) (c : Nat) : State :=
  let y : Fin 3 := Fin.ofNat 3 c
  let can := (s.xbar n).held.filter (fun h => h.out.isNone &&
    match h.point with
    | .pool _ y' _ => decide (y' = y)
    | _ => false)
  match bestHeld can with
  | some h =>
    (s.updXbar n (fun x => x.drop h)).updNet
      (fun w => { w with flights := w.flights ++ [(.die (deckleDie n), h.cell)] })
  | none => s

/-- The best cell of middle queue (x, m) for column y that its pool can take. -/
def State.planeBest (s : State) (n : Deckle) (m : Fin 16) (x y : Fin 3) : Option Held :=
  let b := s.xbar n
  bestHeld (b.held.filter (fun h => h.point = .middle x m && h.element = y
    && b.admits (s.transitMax n) (.pool x y m) h))

/-- The first of the candidates of highest precedence at or after a pointer, in the order 0, 1, 2 from it. -/
def pickFrom (ptr : Nat) (cands : List (Fin 3 × Held)) : Option (Fin 3 × Held) :=
  let order : List (Fin 3) := [Fin.ofNat 3 ptr, Fin.ofNat 3 (ptr + 1), Fin.ofNat 3 (ptr + 2)]
  let sorted := order.flatMap (fun i => cands.filter (fun c => c.1 = i))
  sorted.foldl (fun b c =>
    match b with
    | none => some c
    | some d =>
      if c.2.share.order < d.2.share.order then some c
      else if c.2.share.order = d.2.share.order ∧ d.2.cell.rank.toNat < c.2.cell.rank.toNat then some c
      else some d) none

/-- One iteration of request, grant and accept in plane m (R328). The matches so far hold inputs and columns. Requests
compare by share and rank; the pointers decide among equals. -/
def State.planeIter (s : State) (n : Deckle) (m : Fin 16) (first : Bool) (done : List (Fin 3 × Fin 3)) :
    State × List (Fin 3 × Fin 3) :=
  let x := s.xbar n
  let free (i : Fin 3) := !done.any (fun p => p.1 = i)
  let open' (y : Fin 3) := !done.any (fun p => p.2 = y)
  let key (i : Fin 3) := m.val * 3 + i.val
  let grants : List (Fin 3 × Fin 3 × Held) := (List.finRange 3).filterMap (fun y =>
    if open' y then
      let reqs := (List.finRange 3).filterMap (fun i =>
        if free i then (s.planeBest n m i y).map (fun h => (i, h)) else none)
      (pickFrom (Store.get (fun _ => 0) x.gp (key y)) reqs).map (fun p => (p.1, y, p.2))
    else none)
  let accepts : List (Fin 3 × Fin 3) := (List.finRange 3).filterMap (fun i =>
    let mine := (grants.filter (fun g => g.1 = i)).map (fun g => (g.2.1, g.2.2))
    (pickFrom (Store.get (fun _ => 0) x.ap (key i)) mine).map (fun p => (i, p.1)))
  let x :=
    if first then
      { x with
        gp := accepts.foldl (fun g a => Store.put id (fun _ => 0) g (key a.2) ((a.1.val + 1) % 3)) x.gp
        ap := accepts.foldl (fun g a => Store.put id (fun _ => 0) g (key a.1) ((a.2.val + 1) % 3)) x.ap }
    else x
  (s.setXbar n x, done ++ accepts)

/-- The three iterations of plane m. -/
def State.planeArbitrate (s : State) (n : Deckle) (m : Fin 16) : State :=
  let (s, d) := s.planeIter n m true []
  let (s, d) := s.planeIter n m false d
  let (s, d) := s.planeIter n m false d
  s.updXbar n (fun x => { x with matched := x.matched ++ d.map (fun p => (m, p.1, p.2)) })

/-- Carry out the matches of the cycle before: each moves its best cell for its column. -/
def State.planeMove (s : State) (n : Deckle) : State :=
  let ms := (s.xbar n).matched
  let s := s.updXbar n (fun x => { x with matched := [] })
  ms.foldl (fun s p =>
    match s.planeBest n p.1 p.2.1 p.2.2 with
    | some h => (s.enter n (.pool p.2.1 p.2.2 p.1) h).getD s
    | none => s) s

/-- The cells that took cut-through two cycles before begin their transmission (R335). One whose output has lost its credit
or its link since then takes the buffered path. -/
def State.cutMove (s : State) (n : Deckle) (c : Nat) : State :=
  let ks := (s.xbar n).cuts.filter (fun k => decide (k.at' ≤ c))
  let s := s.updXbar n (fun x => { x with cuts := x.cuts.filter (fun k => !decide (k.at' ≤ c)) })
  ks.foldl (fun s k =>
    match k.held.out with
    | some o =>
      if s.mayTransmit n o k.held.cell then
        (s.transmit n o k.held.cell).bump (.xbarCutThrough n) Fld.xbarCutThroughCount 1
      else (s.enter n (.ingress k.held.inp) k.held).getD (s.updXbar n (fun x => { x with cuts := x.cuts ++ [k] }))
    | none => s) s

/-- Nothing is in a core. -/
def Xbar.idle (x : Xbar) : Bool := x.held.isEmpty && x.matched.isEmpty && x.origins.isEmpty && x.cuts.isEmpty

/-- One core cycle of a deckle. -/
def State.coreCycle (s : State) (n : Deckle) : State :=
  let c := (s.xbar n).cycle
  let s := s.updXbar n (fun x => { x with cycle := c + 1 })
  if (s.xbar n).idle then s
  else
    let s := s.cutMove n c
    let s := s.stage2 n c
    let s := s.stageEnd n c
    let s := s.planeMove n
    let s := (List.finRange 16).foldl (fun s m => s.planeArbitrate n m) s
    let s := s.stage1 n c
    let s := (s.fillStore n).enqueueOrigins n
    s.setFld (.origStore n) Fld.origStoreUsed (s.xbar n).slots.length

def State.coreCycles (s : State) (n : Deckle) : Nat → State
  | 0 => s
  | k + 1 => (s.coreCycle n).coreCycles n k

/-- One ns of a deckle's core, which runs at 1.40 GHz (R323): seven fifths of a cycle. -/
def State.coreNs (s : State) (n : Deckle) : State :=
  if s.downDies.contains (deckleDie n) then s
  else
    let f := (s.xbar n).fifths + 7
    (s.updXbar n (fun x => { x with fifths := f % 5 })).coreCycles n (f / 5)

/-! ### CELL_TRANSMIT -/

/-- The next cell of an egress queue: the best with credit, but a class 5 cell with credit that has waited through 31
transmissions of other shares goes first (R329). -/
def State.egressNext (s : State) (n : Deckle) (q : Fin 48) : Option Held :=
  let can := (s.xbar n).held.filter (fun h => h.point = .egress q && s.mayTransmit n q h.cell)
  match bestHeld (can.filter (fun h => h.share = .s5 && decide (31 ≤ h.waited))) with
  | some h => some h
  | none => bestHeld can

/-- A cell of another share leaves an egress queue: the class 5 cells with credit there have waited through it (R329). -/
def State.bulkWaits (s : State) (n : Deckle) (q : Fin 48) (h : Held) : State :=
  if h.share = .s5 then s
  else s.updXbar n (fun x => { x with held := x.held.map (fun k =>
    if k.point = .egress q ∧ k.share = .s5 ∧ s.mayTransmit n q k.cell = true then { k with waited := k.waited + 1 } else k) })

/-- R333: a port transmits its next cell. -/
def doCellTransmit (n : Deckle) (q : Fin 48) (s : State) : State :=
  if s.downDies.contains (deckleDie n) || s.clocksStopped then s
  else
    match s.egressNext n q with
    | none => s
    | some h =>
      let s := (s.bulkWaits n q h).updXbar n (fun x => (x.drop h).unref h.slot)
      let s := s.setFld (.origStore n) Fld.origStoreUsed (s.xbar n).slots.length
      s.transmit n q h.cell

def execCellTransmit (n : Deckle) (q : Fin 48) (s : State) : Host.Outcome State Fault Refusal := .next (doCellTransmit n q s)

end Sys2Proof.Machine
end

