-- ==== Sys2Proof/Machine/Transport.lean ====
section
/-! DEFINITION. Cells between endpoints: the deflection meshes (R300-R302), entry into a deckle (R314, R324), NAKs
(R315, R316), transactions with their timers (R293-R296, R308-R312), and the checks of a destination (R280, R314). -/

namespace Sys2Proof.Machine

/-! ### Clock domains (R39) -/

/-- A domain's number in R38's table, its unit, and the folio whose load its restarts are part of (R421), if it is a folio's: of the
two UCIe adapters of a pair each is one folio's. -/
def domainUnit : Domain → Nat × Nat × Option Folio
  | .tile t => (0, t.val, some (tileFolio t))
  | .twin f => (1, f.val, some f)
  | .cache f => (2, f.val, some f)
  | .parser f => (3, f.val, some f)
  | .mesh f => (4, f.val, some f)
  | .reamPhy m => (5, m.val, some (Fin.ofNat 8 (m.val / 4)))
  | .reamBase m => (6, m.val, some (Fin.ofNat 8 (m.val / 4)))
  | .port p => (7, p.val, none)
  | .deckle n => (8, n.val, none)
  | .ucie i => (9, i.val, some i)
  | .felt d => (10, d.val, if d.val < 8 then some (Fin.ofNat 8 d.val) else none)
  | .cxl => (11, 0, none)
  | .island => (12, 0, none)
  | .tense n => (13, n.val, none)

/-- Charge a restart of a domain (R39): to its folio's load (R421), or to the fixed reserves that bear its unit (R420). -/
def State.chargeRestart (s : State) (d : Domain) : State :=
  let e := Config.restartEnergy (domainUnit d).1 (domainUnit d).2.1
  match (domainUnit d).2.2 with
  | some f => s.chargeFolio f e
  | none => { s with energy := { s.energy with restarts := s.energy.restarts + e } }

/-- An access that finds a domain gated starts it. -/
def State.wake (s : State) (d : Domain) : State :=
  let s :=
    if s.clocks.any (fun c => c.domain = d) then
      { s with clocks := s.clocks.map (fun c => if c.domain = d then { c with active := s.now } else c) }
    else State.chargeRestart { s with clocks := s.clocks ++ [⟨d, s.now, true⟩] } d
  match d with
  | .reamBase m => s.setFlag (.reamStatus m) Fld.reamStatusSelfRefresh false
  | _ => s

/-- The domain's own work starts it and keeps it started. -/
def State.need (s : State) (d : Domain) : State :=
  { s with clocks := s.clocks.filter (fun c => c.domain ≠ d) ++ [⟨d, s.now, false⟩] }

/-- R39: a domain that hardware started and that has had no activity for one 50 µs window is gated again. A gated ream
base keeps its stack in self-refresh (R227). -/
def doDomainGate (d : Domain) (s : State) : State :=
  if s.clocks.any (fun c => c.domain = d && c.hw && decide (c.active + 50000 ≤ s.now)) then
    let s := { s with clocks := s.clocks.filter (fun c => c.domain ≠ d) }
    match d with
    | .reamBase m => s.setFlag (.reamStatus m) Fld.reamStatusSelfRefresh true
    | _ => s
  else s

def execDomainGate (d : Domain) (s : State) : Host.Outcome State Fault Refusal := .next (doDomainGate d s)

/-! ### Leaving a die -/

def State.fly (s : State) (h : Hop) (c : Cell) : State :=
  s.updNet (fun w => { w with flights := w.flights ++ [(h, c)] })

def meshKey (f : Folio) (a b : Fin 40) : Nat := (f.val * 40 + a.val) * 40 + b.val

/-- Credits of a node from a target that are in use (R302). -/
def State.creditsUsed (s : State) (e : MeshCell) : Nat :=
  Store.get (fun _ => 0) s.net.meshCredit (meshKey e.folio e.src e.dst)

def State.setCredits (s : State) (e : MeshCell) (n : Nat) : State :=
  s.updNet (fun w => { w with meshCredit := Store.put id (fun _ => 0) w.meshCredit (meshKey e.folio e.src e.dst) n })

/-- A node consumes a cell that arrived for it; a request's credit returns to the node that injected it (R302). -/
def State.consume (s : State) (e : MeshCell) : State :=
  let s := s.updNet (fun w => { w with arrived := w.arrived.erase e })
  if e.cell.cls = 1 then s else s.setCredits e (s.creditsUsed e - 1)

/-- Take the arriving cell from where it waits: at its node of a folio, or in flight. A cell that the device does not hold
arrives from outside it. -/
def State.land (s : State) (h : Hop) (c : Cell) : State :=
  let at' (e : MeshCell) : Bool :=
    match h with
    | .die d => decide (d = folioDie e.folio) && decide (e.dst ≠ feltNode) && decide (e.cell = c)
    | .core _ _ => false
  match s.net.arrived.find? at' with
  | some e => s.consume e
  | none => s.updNet (fun w => { w with flights := w.flights.erase (h, c) })

/-- The occupancy of a deckle's ingress buffer. -/
def State.ingressUse (s : State) (n : Deckle) (q : Fin 48) : Nat :=
  ((s.xbar n).held.filter (fun h => h.point = .ingress q)).length
    + (s.net.flights.filter (fun e => e.1 = .core n q)).length

/-- The deckle to which a folio sends a cell for another chip, or for a die it has no felt link to: the one with more
free space on its felt link, DECKLE_0 on a tie (R303, R343, R386). -/
def State.feltDeckle (s : State) (f : Folio) : Option Deckle :=
  let ok (n : Deckle) := s.feltUp (folioDie f) (deckleDie n) && !s.downDies.contains (deckleDie n)
  let use (n : Deckle) := s.ingressUse n (Fin.ofNat 48 (32 + f.val))
  if ok 0 && (!ok 1 || decide (use 0 ≤ use 1)) then some 0
  else if ok 1 then some 1
  else none

/-- The chip that a transaction is addressed to. -/
def Txn.dstChip (t : Txn) : Nat := match t.cells with
  | c :: _ => c.dstChip.toNat
  | [] => 0

def Txn.dstDie (t : Txn) : Nat := match t.cells with
  | c :: _ => c.dstDie.toNat
  | [] => 0

/-- Whether R36 keeps a cell from a folio: of job 0, or of another job than the folio's entry of a deckle's allow-list. -/
def State.jobDenied (s : State) (n : Deckle) (f : Folio) (c : Cell) : Bool :=
  decide (c.job = 0) || decide (c.job.toNat ≠ s.allowed n f)

/-- The scope of a transaction: device (2) on the own chip, else machine (3) (R280). -/
def State.scopeOf (s : State) (chip : Nat) : Nat := if chip = s.chip then 2 else 3

/-- The age of a departure at this device (R280). -/
def State.ageOf (s : State) (depart : BitVec 24) : Nat := (s.tenseNow + 2 ^ 24 - depart.toNat) % 2 ^ 24

/-- Whether a request cell of a folio is no longer to be sent: its transaction has ended, or it is sent again and its departure + B
has passed (R281). -/
def State.unsent (s : State) (d : Die) (c : Cell) : Bool :=
  decide (c.cls ≠ 1) && decide (c.srcDie.toNat = d.val) && decide (c.srcChip.toNat = s.chip)
    && ((s.txnOf d c).isNone
      || (c.flags.getLsbD 2 && decide (s.ageOf c.depart > s.boundNs (s.scopeOf c.dstChip.toNat))))

/-- Whether cells of a transaction wait to leave their die: for a mesh or in one, or for a deckle's store. -/
def State.leaving (s : State) (t : Txn) : Bool :=
  let mine (c : Cell) : Bool := decide (c.cls ≠ 1) && decide (c.tag.toNat = t.tag) && decide (c.srcDie.toNat = t.die.val)
    && decide (c.srcChip.toNat = s.chip)
  if t.die.val < 8 then
    (s.net.outbox ++ s.net.meshes ++ s.net.arrived).any (fun e =>
      decide (folioDie e.folio = t.die) && decide (e.dst = feltNode) && mine e.cell)
  else (s.xbar (Fin.ofNat 2 (t.die.val - 8))).origins.any (fun o => o.targets.any (fun p => mine p.1))

/-- A cell leaves a folio's felt endpoint: to another die of the device over their felt link, else over a deckle that has a
credit for it (R16, R303, R333, R386). It waits while there is none. A cell that R36 keeps from its folio goes to a deckle, which
refuses it (DESIGN CHOICE, log 208); one that is no longer to be sent goes nowhere (R281). -/
def State.leaveFolio (s : State) (e : MeshCell) : State :=
  let f := e.folio
  let d : Die := Fin.ofNat 10 e.cell.dstDie.toNat
  let denied := decide (d.val < 8) && s.jobDenied ((s.feltDeckle f).getD 0) (Fin.ofNat 8 d.val) e.cell
  let direct := decide (e.cell.dstChip.toNat = s.chip) && decide (e.cell.dstDie.toNat < 10) && s.feltUp (folioDie f) d
  if s.unsent (folioDie f) e.cell then s.consume e
  else if direct && !denied then
    let (s, c) := (s.consume e).depart (folioDie f) e.cell
    if d.val < 8 then s.toFolio (Fin.ofNat 8 d.val) c else s.fly (.die d) c
  else
    match s.feltDeckle f with
    | some n =>
      let q := Fin.ofNat 48 (32 + f.val)
      if s.linkRoom n q e.cell then
        let (s, c) := (s.consume e).depart (folioDie f) e.cell
        s.fly (.core n q) c
      else s
    | none => s

/-! ### The deflection meshes (R300-R302) -/

def gridX (k : Fin 40) : Nat := k.val % 8
def gridY (k : Fin 40) : Nat := k.val / 8

/-- The links between two routers of the 8 × 5 grid. -/
def gridDistance (a b : Fin 40) : Nat :=
  (gridX a - gridX b) + (gridX b - gridX a) + ((gridY a - gridY b) + (gridY b - gridY a))

/-- The routers that a router has a link to. -/
def gridNext (k : Fin 40) : List (Fin 40) := (List.finRange 40).filter (fun j => gridDistance k j = 1)

/-- The oldest cell first, by its injection; ties go to the lower injecting router (R301). -/
def MeshCell.before (a b : MeshCell) : Bool := decide (a.born < b.born) || (decide (a.born = b.born) && decide (a.src ≤ b.src))

def insertByAge (e : MeshCell) : List MeshCell → List MeshCell
  | [] => [e]
  | k :: ks => if e.before k then e :: k :: ks else k :: insertByAge e ks

def byAge (es : List MeshCell) : List MeshCell := es.foldr insertByAge []

/-- The cells of a router choose their outputs in turn: each the first free one that brings it closer to its node, or else the
first free one (R301). -/
def deflect : List MeshCell → List (Fin 40) → List MeshCell
  | [], _ => []
  | e :: es, outs =>
    let closer := outs.find? (fun o => gridDistance o e.dst < gridDistance e.router e.dst)
    match closer, outs with
    | some o, _ => { e with router := o } :: deflect es (outs.erase o)
    | none, o :: rest => { e with router := o } :: deflect es rest
    | none, [] => e :: deflect es []

/-- The cells at a router of one mesh, and those of them that it ejects in a cycle: up to two that have come to their node, the
oldest first (R301). -/
def routerCells (ms : List MeshCell) (f : Folio) (reply : Bool) (r : Fin 40) : List MeshCell :=
  byAge (ms.filter (fun e => e.folio = f && decide (e.cell.cls = 1) == reply && e.router = r))

def ejected (here : List MeshCell) : List MeshCell := (here.filter (fun e => e.dst = e.router)).take 2

/-- The routers that hold cells. -/
def busyRouters (ms : List MeshCell) : List (Folio × Bool × Fin 40) :=
  (ms.map (fun e => (e.folio, decide (e.cell.cls = 1), e.router))).eraseDups

/-- One cycle of the meshes: every router ejects what has come to its node and sends every other cell on (R301). -/
def State.meshCycle (s : State) : State :=
  let ms := s.net.meshes
  let moved := (busyRouters ms).map (fun k =>
    let here := routerCells ms k.1 k.2.1 k.2.2
    let out := ejected here
    (out, deflect (here.filter (fun e => !out.contains e)) (gridNext k.2.2)))
  s.updNet (fun w => { w with
    meshes := moved.flatMap Prod.snd, arrived := w.arrived ++ moved.flatMap Prod.fst, meshCycle := w.meshCycle + 1 })

/-- One ns: two cycles of the meshes (R300), and the cells at the felt endpoints leave. -/
def State.meshNs (s : State) : State :=
  let s := s.meshCycle.meshCycle
  (s.net.arrived.filter (fun e => e.dst = feltNode)).foldl State.leaveFolio s

/-- Whether a cell that waits at its node can enter its mesh: the router has a free slot, and a request has a credit from its
target (R301, R302). -/
def State.mayInject (s : State) (e : MeshCell) : Bool :=
  let reply := decide (e.cell.cls = 1)
  let here := routerCells s.net.meshes e.folio reply e.src
  decide (here.length - (ejected here).length < (gridNext e.src).length) && (reply || decide (s.creditsUsed e < 4))

/-- R302: the first cell at a node that can enter its mesh does so. -/
def doMeshInject (f : Folio) (src : Fin 40) (s : State) : State :=
  match s.net.outbox.find? (fun e => e.folio = f && e.src = src && s.mayInject e) with
  | none => s
  | some e =>
    if s.clocksStopped then s
    else
      let s := if e.cell.cls = 1 then s else s.setCredits e (s.creditsUsed e + 1)
      s.updNet (fun w => { w with
        outbox := w.outbox.erase e, meshes := w.meshes ++ [{ e with router := e.src, born := w.meshCycle }] })

def execMeshInject (f : Folio) (src : Fin 40) (s : State) : Host.Outcome State Fault Refusal := .next (doMeshInject f src s)

/-! ### The checks of a deckle, and NAKs -/

/-- Whether R280 age-checks a cell: neither it nor this device is UNLOCKED. -/
def State.ageChecked (s : State) (c : Cell) : Bool :=
  !c.unlocked && decide (s.fld .tenseStatus Fld.tenseStatusState ≠ 5)

/-- The local tense that stands for the departure of a cell that is not age-checked (R295). -/
def State.cameOf (s : State) (c : Cell) : Option Nat := if s.ageChecked c then none else some s.tenseNow

/-- The age of an assembly or of a record (R295, R310). -/
def State.recordAge (s : State) (depart : BitVec 24) (came : Option Nat) : Nat :=
  match came with
  | some t => s.tenseNow - t
  | none => s.ageOf depart

/-- The checks that any deckle makes: the die, the route, and at delivery the allow-list (R36, R314) and whether the folio is
in reset (R491), in ascending code (R559). -/
def State.deckleCode (s : State) (n : Deckle) (fromPeer : Bool) (c : Cell) : Option Nat :=
  if c.dstDie.toNat ≥ 10 then some 0x46
  else
    match s.route n fromPeer c with
    | .refuse code => some code
    | .die d =>
      if d.toNat < 8 then
        if s.jobDenied n (Fin.ofNat 8 d.toNat) c then some 0x49
        else if s.downDies.contains (Fin.ofNat 10 d.toNat) then some 0x4B else none
      else none
    | .port _ _ => none

/-- The bytes of a NAK's payload (R315). -/
def nakPayload (code : Nat) (die chip : Nat) (c : Cell) : List Byte :=
  leBytes 1 code ++ leBytes 1 die ++ leBytes 2 chip ++ leBytes 4 0 ++ leBytes 16 c.header.toNat

/-- The class 1 cell that answers a cell, before its type and payload. -/
def State.answerBase (s : State) (d : Die) (c : Cell) : Cell :=
  { Cell.blank with
    dstChip := c.srcChip, dstDie := c.srcDie, srcChip := BitVec.ofNat 14 s.chip, srcDie := BitVec.ofNat 4 d.val,
    job := c.job, cls := 1, tag := c.tag, depart := BitVec.ofNat 24 s.tenseNow,
    flags := if s.fld .tenseStatus Fld.tenseStatusState = 5 then 1 else 0 }

/-- 64 cell times, in ns (R316; DESIGN CHOICE, log 39). -/
def nakGap : Nat := 47

/-- Whether a refused cell is answered: one of class 2, 3 or 5, or a management request (R315). -/
def answerable (c : Cell) : Bool := [2, 3, 5].contains c.cls.toNat || (decide (c.cls = 0) && decide (c.type ≠ 0x12))

/-- A NAK stands for a cell's transaction and transmission. -/
def Naked.is (k : Naked) (d : Die) (c : Cell) : Bool :=
  decide (k.die = d) && decide (k.srcChip = c.srcChip) && decide (k.srcDie = c.srcDie) && decide (k.tag = c.tag)
    && (k.retx == c.flags.getLsbD 2)

/-- The NAKs that may still stand for cells on their way: those whose age is below B of their scope. -/
def State.nakedNow (s : State) : List Naked :=
  s.net.naked.filter (fun k => decide (s.recordAge k.depart k.came < s.boundNs (s.scopeOf k.srcChip.toNat)))

/-- Keep that a cell's transaction and transmission has had its NAK. -/
def State.noteNaked (s : State) (d : Die) (c : Cell) : State :=
  let kept := s.nakedNow.filter (fun k => !k.is d c)
  s.updNet (fun w => { w with
    naked := kept ++ [⟨d, c.srcChip, c.srcDie, c.tag, c.flags.getLsbD 2, c.depart, s.cameOf c⟩] })

def State.suppressed (s : State) (d : Die) : State := s.bump (.xportNakSuppressed d) Fld.xportNakSuppressedCount 1

/-- The answer to a cell that met a coded violation at die `d`, counted in the die's counters; `key` names the ingress port or
die whose NAKs R316 limits (R315). A class 2, 3 or 5 cell is answered by a NAK, once for each transaction and transmission; a
management request by a MGMT_REPLY, which is dropped where a deckle's store is full (R313). A refused cell that is answered by
nothing is counted as suppressed (DEDUCED, log 181). -/
def State.refusal (s : State) (d : Die) (key : Nat) (code : Nat) (c : Cell) : State × List Cell :=
  let room := decide (d.val < 8) || s.origRoom (Fin.ofNat 2 (d.val - 8))
  let recent := s.net.nakAt.any (fun e => e.1 = key && decide (s.now < e.2 + nakGap))
  if !answerable c then (s.suppressed d, [])
  else if c.cls = 0 then
    if room then (s.bump (.xportNaksSent d) Fld.xportNaksSentCount 1,
      cellsOf { s.answerBase d c with cls := 0, type := 0x12 } (leBytes 1 code))
    else (s.suppressed d, [])
  else if s.nakedNow.any (fun k => k.is d c) then ((s.noteNaked d c).suppressed d, [])
  else if recent || !room then (s.suppressed d, [])
  else
    let s := s.noteNaked d c
    let s := s.updNet (fun w => { w with nakAt := Store.set id w.nakAt key s.now })
    (s.bump (.xportNaksSent d) Fld.xportNaksSentCount 1,
      cellsOf { s.answerBase d c with type := 3 } (nakPayload code d.val s.chip c))

/-! ### Leaving a die -/

/-- The collective group to which a cell of a deckle's endpoint belongs. -/
def State.groupOfCell (s : State) (n : Deckle) (c : Cell) : Option Coll :=
  match s.txnOf (deckleDie n) c with
  | some t =>
    match t.user with
    | .coll g _ => some g
    | _ => none
  | none => none

/-- A cell that a deckle's endpoint makes is checked as any other: the copies of it that pass, with their outputs, and the
answers to those that do not, which go to the deckle itself (R35, R36, R304). -/
def State.checkCopy (s : State) (n : Deckle) (acc : List (Cell × Option (Fin 48))) (c : Cell) :
    State × List (Cell × Option (Fin 48)) :=
  match s.deckleCode n false c with
  | some code =>
    let (s, cs) := s.refusal (deckleDie n) (deckleDie n).val code c
    (cs.foldl (fun s k => s.originate n [(k, none)]) s, acc)
  | none =>
    match s.route n false c with
    | .port p true => (s, acc ++ [(c.withFlag 4, s.coreOut n 32 (.port p true))])
    | r => (s, acc ++ [(c, s.coreOut n 32 r)])

/-- The copies of a multicast cell as cells that each name distinct core ports (R337): a port named twice, which a peer port can
be, takes its second copy from a further cell. -/
def distinctPorts : Nat → List (Cell × Option (Fin 48)) → List (List (Cell × Option (Fin 48)))
  | 0, _ => []
  | k + 1, ts =>
    let first (p : (Cell × Option (Fin 48)) × Nat) : Bool := (ts.take p.2).all (fun t => decide (t.2 ≠ p.1.2))
    if ts.isEmpty then []
    else (ts.zipIdx.filter first).map (·.1) :: distinctPorts k ((ts.zipIdx.filter (fun p => !first p)).map (·.1))

/-- The copies of a cell leave a deckle's endpoint: to a die of the device over the core and the felt, to another chip by R303
(R324, R336, R337). NAKs and MGMT_REPLY cells have found room in the store; other cells wait for it. -/
def State.leaveDeckle (s : State) (n : Deckle) (copies : List Cell) : State :=
  let (s, targets) := copies.foldl (fun (p : State × List (Cell × Option (Fin 48))) c => p.1.checkCopy n p.2 c) (s, [])
  match targets with
  | [] => s
  | t :: _ =>
    if t.1.type = 3 ∨ t.1.type = 0x12 then s.originate n targets
    else
      ((distinctPorts targets.length targets).foldl (fun s ts => s.awaitStore n ⟨ts, s.groupOfCell n t.1⟩) s).fillStore n

/-- Send a cell from a die: a folio's node queues it for the mesh that its class takes, toward its node there or the felt
endpoint (R297, R300). -/
def State.sendCell (s : State) (d : Die) (src : Fin 40) (c : Cell) : State :=
  if d.val < 8 then
    let f : Folio := Fin.ofNat 8 d.val
    let own := decide (c.dstChip.toNat = s.chip) && decide (c.dstDie.toNat = d.val)
    let dst := if own then s.targetNode f c else feltNode
    s.updNet (fun w => { w with outbox := w.outbox ++ [⟨f, src, dst, c, src, 0⟩] })
  else s.leaveDeckle (Fin.ofNat 2 (d.val - 8)) [c]

def State.sendCells (s : State) (d : Die) (src : Fin 40) (cs : List Cell) : State :=
  cs.foldl (fun s c => s.sendCell d src c) s

/-- Answer a cell that met a coded violation, at die `d` from its node `src` (R315). -/
def State.refuseCell (s : State) (d : Die) (key : Nat) (src : Fin 40) (code : Nat) (c : Cell) : State :=
  let (s, cs) := s.refusal d key code c
  s.sendCells d src cs

/-! ### Entry into a deckle -/

/-- R317: quarantine a port. -/
def State.quarantine (s : State) (p : Port) : State :=
  let s := s.setFlag (.portViol p) Fld.portViolQuarantined true
  let s := s.setPortLive p false
  let st := s.fld (.portPhy p) Fld.portPhyState
  let s := if st = 3 ∨ st = 4 then s.setFld (.portPhy p) Fld.portPhyState 2 else s
  let s := s.bump (.portLosses (portDeckle p)) Fld.portLossesCount 1
  s.fault 0x0200 (8 + (portDeckle p).val) p.val p.val (s.fld (.portViol p) Fld.portViolLastCode)

/-- Count a violation toward quarantine (R314, R317). -/
def State.portViolation (s : State) (p : Port) (code : Nat) : State :=
  let s := s.bump (.portViol p) Fld.portViolCount 1
  let s := s.setFld (.portViol p) Fld.portViolLastCode code
  let limit := s.fld (.portViolLimit p) Fld.portViolLimitThreshold
  if limit ≠ 0 ∧ s.fld (.portViol p) Fld.portViolCount ≥ limit ∧ s.flag (.portViol p) Fld.portViolQuarantined = false
  then s.quarantine p else s

/-- The first-hop checks without a code (R314). -/
def State.firstHopDrop (s : State) (p : Port) (c : Cell) : Bool :=
  decide (c.rank = 0)
    || (decide (c.rank = 1) && decide (c.srcChip.toNat ≠ s.fld (.portPhy p) Fld.portPhyFarChip))
    || decide (c.job = 0xFFF)
    || decide (c.cls = 6) || (decide (c.version = 1) && decide (c.type = 0x18))

/-- The first coded check of R314 that a cell fails at a port, and whether it counts toward quarantine. -/
def State.firstHopCode (s : State) (n : Deckle) (c : Cell) : Option Nat :=
  let v := c.version.toNat
  if v < s.fld (.routeCtl n) Fld.routeCtlFwdVerMin ∨ s.fld (.routeCtl n) Fld.routeCtlFwdVerMax < v then some 0x40
  else if c.length.toNat > 64 then some 0x42
  else if c.cls = 4 ∨ c.cls = 7 then some 0x43
  else if c.dstDie.toNat ≥ 10 then some 0x46
  else none

/-- Whether a port is transmitting: its last transmission began in this core cycle, which is a cell time (R335, R16; log
182). -/
def State.transmitting (s : State) (n : Deckle) (q : Fin 48) : Bool :=
  decide (Store.get (fun _ => 0) (s.xbar n).sentAt q.val = (s.xbar n).cycle + 1)

/-- Whether a cell may take cut-through (R335). -/
def State.cutThrough (s : State) (n : Deckle) (q : Fin 48) (out : Option (Fin 48)) (c : Cell) : Bool :=
  match out with
  | none => false
  | some o =>
    s.flag (.switchCtl n) Fld.switchCtlCutThroughEn && ((s.xbar n).queuedFor o).isEmpty && !s.transmitting n o
      && (decide (o.val < 32) || decide (32 ≤ q.val)) && s.mayTransmit n o c

/-- The credit kind that a cell from an external port has used: that of the space it takes (R333, R391). -/
def State.countGot (s : State) (p : Port) (c : Cell) (res : Bool) : State :=
  let l := s.linkCredit p
  let k := if c.cls = 5 then 33 else if res then resKind c.cls.toNat c.rank.toNat else 32
  s.setLinkCredit p { l with got := bumpCount l.got k 1 }

/-- A cell takes cut-through in this core cycle, and its transmission begins in cycle 2, the next cycle but one. Of two for one
output the lower core port keeps it, and the other is buffered (R335). -/
def State.cutOver (s : State) (n : Deckle) (h : Held) : Option State :=
  let at' := (s.xbar n).cycle + 1
  let take (s : State) : State := s.updXbar n (fun x => { x with cuts := x.cuts ++ [⟨at', h⟩] })
  match (s.xbar n).cuts.find? (fun k => decide (k.at' = at') && decide (k.held.out = h.out)) with
  | none => some (take s)
  | some k =>
    if h.inp < k.held.inp then
      let s' := s.updXbar n (fun x => { x with cuts := x.cuts.erase k })
      match s'.enter n (.ingress k.held.inp) k.held with
      | some s' => some (take s')
      | none => s.enter n (.ingress h.inp) h
    else s.enter n (.ingress h.inp) h

/-- Route a cell that passed its checks: cut-through, or the ingress buffer (R324, R331, R334, R335). None: the buffer has no
space for it, and it waits where it is. -/
def State.acceptCell (s : State) (n : Deckle) (q : Fin 48) (c : Cell) : Option State :=
  let r := s.route n (decide (q.val ≥ 40)) c
  let c := match r with
    | .port _ true => c.withFlag 4
    | _ => c
  let out := s.coreOut n q r
  let (s, h) := s.newHeld n c (s.classify n c) q out none
  let room := (s.xbar n).space (s.transitMax n) (.ingress q) h
  let s := if q.val < 32 then s.countGot (portOf n q.val) c (room = some true) else s
  if s.cutThrough n q out c then s.cutOver n h else s.enter n (.ingress q) h

/-- R324: a cell is received on a core port, checked, routed and classified. -/
def doCellIngress (n : Deckle) (q : Fin 48) (c : Cell) (s : State) : State :=
  let s0 := s
  let s := s.land (.core n q) c
  if s.downDies.contains (deckleDie n) || s.clocksStopped then s0
  else if q.val < 32 then
    let p := portOf n q.val
    if !s.portLiveBit p then s
    else if !c.crcGood then s.bump (.portCrcDrops p) Fld.portCrcDropsCount 1
    else if s.firstHopDrop p c then (s.mirror n q false true c).portViolation p 0xFF
    else
      match s.firstHopCode n c with
      | some code =>
        let s := (s.mirror n q false true c).portViolation p code
        if answerable c then s.refuseCell (deckleDie n) (16 + p.val) feltNode code c else s
      | none =>
        match s.deckleCode n false c with
        | some code => (s.mirror n q false true c).refuseCell (deckleDie n) (16 + p.val) feltNode code c
        | none => ((s.mirror n q false false c).acceptCell n q c).getD s0
  else
    match s.deckleCode n (decide (q.val ≥ 40)) c with
    | some code => (s.mirror n q false true c).refuseCell (deckleDie n) (deckleDie n).val feltNode code c
    | none => ((s.mirror n q false false c).acceptCell n q c).getD s0

def execCellIngress (n : Deckle) (q : Fin 48) (c : Cell) (s : State) : Host.Outcome State Fault Refusal :=
  .next (doCellIngress n q c s)

/-! ### Transactions at the source -/

/-- The lowest tag that a die may use (R293): none outstanding, none cooling. -/
def State.freeTag (s : State) (d : Die) : Option Nat :=
  let used := (s.net.txns.filter (fun t => t.die = d)).map Txn.tag
    ++ (s.net.cooling.filter (fun e => e.1 = d && decide (s.tenseNow < e.2.2))).map (fun e => e.2.1)
  (List.range (used.length + 1)).find? (fun k => decide (k < 65536) && !used.contains k)

/-- Open a request transaction (R293): its cells, which are still to be sent. It waits where the die has no free tag. -/
def State.openTxn (s : State) (d : Die) (user : TxnUser) (job : BitVec 12) (dstChip : Nat) (dstDie : Nat)
    (cls type : Nat) (bs : List Byte) : Option (State × List Cell) :=
  match s.freeTag d with
  | none => none
  | some tag =>
    let base : Cell := { Cell.blank with
      dstChip := BitVec.ofNat 14 dstChip, dstDie := BitVec.ofNat 4 dstDie, srcChip := BitVec.ofNat 14 s.chip,
      srcDie := BitVec.ofNat 4 d.val, job := job, cls := BitVec.ofNat 3 cls, type := BitVec.ofNat 6 type,
      tag := BitVec.ofNat 16 tag, depart := BitVec.ofNat 24 s.tenseNow, flags := unlockedFlag s }
    let cells := cellsOf base bs
    let t : Txn := ⟨d, tag, user, cells, s.tenseNow, s.now, 1, []⟩
    some (s.updNet (fun w => { w with txns := w.txns ++ [t] }), cells)

/-- Originate a request transaction. -/
def State.request (s : State) (d : Die) (src : Fin 40) (user : TxnUser) (job : BitVec 12) (dstChip : Nat) (dstDie : Nat)
    (cls type : Nat) (bs : List Byte) : Option State :=
  (s.openTxn d user job dstChip dstDie cls type bs).map (fun r => r.1.sendCells d src r.2)

/-- The timer of R308 in ns. -/
def State.txnTimer (s : State) (t : Txn) : Nat :=
  if t.dstChip / 16 = s.chip / 16 then 8000 else 1000 * s.fld .retxTimer Fld.retxTimerMachineUs

/-- End a transaction: its user gets the answer, and its tag cools until departure + B (R293). -/
def State.finishTxn (s : State) (t : Txn) (a : Answer) : State :=
  let until' := t.tense + s.boundNs (s.scopeOf t.dstChip)
  s.updNet (fun w => { w with
    txns := w.txns.filter (fun k => !(decide (k.die = t.die) && decide (k.tag = t.tag)))
    done := w.done ++ [⟨t.user, a⟩]
    cooling := w.cooling.filter (fun e => decide (s.tenseNow < e.2.2)) ++ [(t.die, t.tag, until')] })

/-- A cell of a transaction as it is sent again: with RETX, with the same DEPART, and with UNLOCKED while the device is UNLOCKED
(R270, R308). -/
def State.again (s : State) (c : Cell) : Cell := { c.withFlag 2 with flags := (c.withFlag 2).flags ||| unlockedFlag s }

/-- R308: no complete reply within the timer, which runs from the transmission; the transaction is resent whole, once, but for a
cell whose departure + B has passed (R281). -/
def doRetxTimer (d : Die) (tag : Fin 65536) (s : State) : State :=
  match s.net.txns.find? (fun t => t.die = d && t.tag = tag.val) with
  | none => s
  | some t =>
    let local' := decide (d.val < 8) && decide (t.dstChip = s.chip) && decide (t.dstDie = d.val)
    let bound := s.boundNs (s.scopeOf t.dstChip)
    let live := t.cells.filter (fun c => decide (s.ageOf c.depart ≤ bound))
    if t.sends ≥ 2 ∨ local' = true ∨ s.leaving t = true ∨ s.now < t.sentAt + s.txnTimer t
      ∨ s.tenseNow > t.tense + bound ∨ live = [] ∨ s.clocksStopped = true then s
    else
      let s := s.updNet (fun w => { w with txns := w.txns.map (fun k =>
        if k.die = d ∧ k.tag = tag.val then { k with sends := 2, sentAt := s.now } else k) })
      (s.bump (.xportRetx d) Fld.xportRetxCount 1).sendCells d t.user.node (live.map s.again)

def execRetxTimer (d : Die) (tag : Fin 65536) (s : State) : Host.Outcome State Fault Refusal := .next (doRetxTimer d tag s)

/-- R309: after the timer of the last transmission and departure + B the transaction fails with REMOTE_TIMEOUT. One that has been
sent once by then is not sent again (R281). -/
def doRemoteTimeout (d : Die) (tag : Fin 65536) (s : State) : State :=
  match s.net.txns.find? (fun t => t.die = d && t.tag = tag.val) with
  | none => s
  | some t =>
    if s.leaving t = true ∨ s.now < t.sentAt + s.txnTimer t ∨ s.tenseNow < t.tense + s.boundNs (s.scopeOf t.dstChip) then s
    else (s.bump (.xportTimeouts d) Fld.xportTimeoutsCount 1).finishTxn t .timeout


/-! ### The checks of a destination -/

/-- Whether R280 discards a cell: a destination that holds lock finds its age above B - S. Ages are compared in
sixteenths of a ns. -/
def State.tooLate (s : State) (c : Cell) : Bool :=
  let scope := s.scopeOf c.srcChip.toNat
  let slack := if scope = 2 then 8 else 400
  decide (c.cls.toNat ≠ 0) && decide (c.cls.toNat ≠ 7) && s.tenseLocked && s.ageChecked c
    && decide (16 * s.ageOf c.depart + slack > 16 * s.boundNs scope)

/-- The versions that the endpoints accept (R346). -/
def State.endpointVersion (s : State) (c : Cell) : Bool :=
  (s.fld (.switchStatus 0) Fld.switchStatusEpVerMask).testBit c.version.toNat

/-- The first coded check of R314 that a cell of any class fails at its destination, before its address is looked at. -/
def State.endpointCode (s : State) (d : Die) (c : Cell) : Option Nat :=
  if !s.endpointVersion c then some 0x41
  else if c.length.toNat > 64 ∨ lengthFits c = false then some 0x42
  else
    match typeClasses c.type.toNat with
    | none => some 0x44
    | some cs =>
      if !cs.contains c.cls.toNat then some 0x43
      else if d.val < 8 ∧ ([0x01, 0x02, 0x03].contains c.type.toNat) = false then some 0x44
      else if c.type = 0x18 then some 0x44
      else if c.rsv ≠ 0 ∨ c.last ≠ 0 then some 0x45
      else none

/-- The common start of every arrival at a die: the cell CRC and the age check. None means the cell is dropped. -/
def State.arriveAt (s : State) (d : Die) (c : Cell) : State × Bool :=
  if !c.crcGood then (s.bump (.xportCrcDrops d) Fld.xportCrcDropsCount 1, false)
  else if s.tooLate c then (s.bump .tenseLateDiscards Fld.tenseLateDiscardsCount 1, false)
  else (s, true)

/-- The node of a die that answers. -/
def answerNode : Fin 40 := reamNode 0

def State.refuseAt (s : State) (d : Die) (code : Nat) (c : Cell) : State := s.refuseCell d d.val answerNode code c

/-! ### Assembly and duplicate records -/

def Assembly.is (a : Assembly) (d : Die) (c : Cell) : Bool :=
  decide (a.die = d) && decide (a.srcChip = c.srcChip) && decide (a.srcDie = c.srcDie) && decide (a.tag = c.tag)

def DupRec.is (a : DupRec) (d : Die) (c : Cell) : Bool :=
  decide (a.die = d) && decide (a.srcChip = c.srcChip) && decide (a.srcDie = c.srcDie) && decide (a.tag = c.tag)

/-- The departure of a cell that an assembly holds, or the local tense that stands for it. -/
def Assembly.stamp (a : Assembly) (c : Cell) : BitVec 24 × Option Nat :=
  (c.depart, Store.find? a.came c.seq.toNat)

/-- The earliest departure among the cells of an assembly: the one of the greatest age (R295). -/
def State.earliest (s : State) (a : Assembly) : BitVec 24 × Option Nat :=
  let age (e : BitVec 24 × Option Nat) := s.recordAge e.1 e.2
  match a.cells with
  | [] => (0, none)
  | c :: rest => (rest.map a.stamp).foldl (fun b k => if age k > age b then k else b) (a.stamp c)

/-- Whether a cell breaks its transaction's sequence: LAST on a SEQ below one already held, or a SEQ beyond LAST (R314,
0x4D). -/
def badSequence (cs : List Cell) (c : Cell) : Bool :=
  cs.any (fun k => (c.isLast && decide (c.seq.toNat < k.seq.toNat)) || (k.isLast && decide (k.seq.toNat < c.seq.toNat)))

/-- How a cell changes its transaction's assembly. -/
inductive Assembled where
  | waits
  | dropped (s : State)
  | refused (code : Nat) (s : State)
  | held (s : State)
  | whole (a : Assembly) (s : State)
  deriving DecidableEq, Repr

/-- The transactions that a die is assembling or has yet to perform: each will leave a record. -/
def State.assembling (s : State) (d : Die) : Nat :=
  (s.net.assemblies.filter (fun a => a.die = d)).length + (s.net.ready.filter (fun o => folioDie o.folio = d)).length

/-- Those of them that hold assembly space: chunk transactions assemble in the accumulators and in staging slots (R364, R370). -/
def State.occupying (s : State) (d : Die) : Nat :=
  s.assembling d - (s.net.assemblies.filter (fun a => a.die = d && a.cells.any Cell.isChunk)).length

/-- Keep when a cell came, where that stands for its departure (R295). -/
def State.stampCell (s : State) (came : Store Nat Nat) (c : Cell) : Store Nat Nat :=
  match s.cameOf c with
  | some t => Store.set id came c.seq.toNat t
  | none => came

/-- The first cell of a transaction, as it is held (R295). -/
def State.newAssembly (s : State) (d : Die) (c : Cell) : Assembly :=
  ⟨d, c.srcChip, c.srcDie, c.tag, [c], s.stampCell [] c⟩

/-- Add a cell to its assembly. The first cell of a transaction needs assembly space, unless it is of a chunk (R364, R370), and,
where the transaction has no record yet, a free record (R295, R296, R311). -/
def State.assemble (s : State) (d : Die) (c : Cell) : Assembled :=
  match s.net.assemblies.find? (fun a => a.is d c) with
  | some a =>
    if badSequence a.cells c then
      .refused 0x4D (s.updNet (fun w => { w with assemblies := w.assemblies.filter (fun k => !k.is d c) }))
    else
      let a := if a.cells.any (fun k => k.seq = c.seq) then a
        else { a with cells := a.cells ++ [c], came := s.stampCell a.came c }
      let rest := s.net.assemblies.filter (fun k => !k.is d c)
      if cellsWhole a.cells then .whole a (s.updNet (fun w => { w with assemblies := rest }))
      else .held (s.updNet (fun w => { w with assemblies := rest ++ [a] }))
  | none =>
    let records := (s.net.dups.filter (fun r => r.die = d)).length
    let known := s.net.dups.any (fun r => r.is d c)
    if records + s.assembling d ≥ 16384 ∧ known = false then .waits
    else if c.isChunk = false ∧ s.occupying d > Config.assemblySpace d.val then
      .dropped (s.bump (.xportAssemblyDrops d) Fld.xportAssemblyDropsCount 1)
    else
      let a := s.newAssembly d c
      if cellsWhole [c] then .whole a s
      else .held (s.updNet (fun w => { w with assemblies := w.assemblies ++ [a] }))

/-- Send the answer of a request: a MEM_REPLY transaction with its data, or a NAK (R294). -/
def State.answer (s : State) (d : Die) (src : Fin 40) (req : Cell) : Answer → State
  | .reply data => s.sendCells d src (cellsOf { s.answerBase d req with type := 2 } data)
  | .nak code => s.refuseCell d d.val src code req
  | .timeout => s

/-- Keep the duplicate record of a request transaction that completes, in place of an earlier one (R310). -/
def State.keepRecord (s : State) (d : Die) (req : Cell) (depart : BitVec 24) (came : Option Nat) (a : Answer) : State :=
  s.updNet (fun w => { w with
    dups := w.dups.filter (fun r => !r.is d req) ++ [⟨d, req.srcChip, req.srcDie, req.tag, a, depart, came⟩] })

/-- Complete a request transaction at its target: the answer leaves and a duplicate record is kept (R310). -/
def State.completeRequest (s : State) (d : Die) (src : Fin 40) (req : Cell) (depart : BitVec 24) (came : Option Nat)
    (keep a : Answer) : State :=
  (s.keepRecord d req depart came keep).answer d src req a

/-- Answer a repeated request from its record (R310). -/
def State.answerDuplicate (s : State) (d : Die) (req : Cell) (r : DupRec) : State :=
  (s.bump (.xportDuplicates d) Fld.xportDuplicatesCount 1).answer d answerNode req r.answer

/-- R295: a partial assembly whose age exceeds B for its scope is discarded. -/
def doAssemblyExpiry (d : Die) (srcChip : BitVec 14) (srcDie : BitVec 4) (tag : W16) (s : State) : State :=
  let key : Cell := { Cell.blank with srcChip := srcChip, srcDie := srcDie, tag := tag }
  match s.net.assemblies.find? (fun a => a.is d key) with
  | none => s
  | some a =>
    if s.recordAge (s.earliest a).1 (s.earliest a).2 > s.boundNs (s.scopeOf srcChip.toNat) then
      (s.updNet (fun w => { w with assemblies := w.assemblies.filter (fun k => !k.is d key) })).bump
        (.xportAssemblyDrops d) Fld.xportAssemblyDropsCount 1
    else s

def execAssemblyExpiry (d : Die) (srcChip : BitVec 14) (srcDie : BitVec 4) (tag : W16) (s : State) :
    Host.Outcome State Fault Refusal := .next (doAssemblyExpiry d srcChip srcDie tag s)

/-- R310: a duplicate record is freed once the age of its departure reaches B. -/
def doDuplicateRecordExpiry (d : Die) (srcChip : BitVec 14) (srcDie : BitVec 4) (tag : W16) (s : State) : State :=
  let key : Cell := { Cell.blank with srcChip := srcChip, srcDie := srcDie, tag := tag }
  match s.net.dups.find? (fun r => r.is d key) with
  | none => s
  | some r =>
    if s.recordAge r.depart r.came ≥ s.boundNs (s.scopeOf srcChip.toNat) then
      s.updNet (fun w => { w with dups := w.dups.filter (fun k => !k.is d key) })
    else s

def execDuplicateRecordExpiry (d : Die) (srcChip : BitVec 14) (srcDie : BitVec 4) (tag : W16) (s : State) :
    Host.Outcome State Fault Refusal := .next (doDuplicateRecordExpiry d srcChip srcDie tag s)

/-! ### Requests and replies that arrive -/

/-- Why a whole request cannot be performed at a folio, before its unit sees it (R20, R40, R292): BAD_ADDRESS for a
reserved offset or a vat range in a class other than 2, TILE_RESET, and BAD_FIELD (a unit's status) for an operation on a
vat other than LOAD and STORE, for a reserved OP, and for a class that R233 does not allow. -/
def State.addressCode (s : State) (f : Folio) (c : Cell) (w0 : W64) : Option Nat :=
  let off := opOffset w0
  let op := opCode w0
  let ops : List Nat := [0x00, 0x01, 0x08, 0x09, 0x0A, 0x0B, 0x0C, 0x0D, 0x0E, 0x0F, 0x10, 0x11, 0x12, 0x18, 0x19, 0x1A,
    0x20, 0x21, 0x22]
  if off < reamLimit then if ops.contains op then none else some 0x01
  else if off ≥ reamLimit + 24 * vatSize ∨ c.cls ≠ 2 then some 0x4A
  else
    let t : Tile := Fin.ofNat 192 (f.val * 24 + (off - reamLimit) / vatSize)
    if (s.tile t).inReset then some 0x4B else if op ≤ 1 then none else some 0x01

/-- The ream of a folio that holds an offset (R220). -/
def reamOf (f : Folio) (off : Nat) : Ream := Fin.ofNat 32 (4 * f.val + reamSelect off)

/-- The domains that an access to `n` bytes from a folio offset starts (R39): the tiles of its vats, or the ream bases of its
256-byte blocks. -/
def offDomains (f : Folio) (off n : Nat) : List Domain :=
  if off < reamLimit then
    ((List.range ((off % 256 + n - 1) / 256 + 1)).map (fun i => Domain.reamBase (reamOf f (off / 256 * 256 + 256 * i)))).eraseDups
  else
    let t := (off - reamLimit) / vatSize
    (List.range (((off - reamLimit) % vatSize + n - 1) / vatSize + 1)).map (fun i =>
      Domain.tile (Fin.ofNat 192 (f.val * 24 + (t + i) % 24)))

/-- Whether a domain is a tile's in reset, which no access starts (R40). -/
def State.domainDown (s : State) : Domain → Bool
  | .tile t => (s.tile t).inReset
  | _ => false

/-- The code that refuses a cell whose class R292 does not allow: a ream operation is refused with the status BAD_FIELD of
R233 (DEDUCED, log 183). -/
def classCode (d : Die) (c : Cell) (code : Nat) : Nat :=
  if code = 0x43 ∧ d.val < 8 ∧ c.type = 0x01 ∧ c.seq = 0 ∧ leNat (c.data.take 8) % 2 ^ 46 < reamLimit then 0x01 else code

/-- Refuse a request at a folio; a ream operation that is answered with a status counts among its engines' NAKs (R257). -/
def State.refuseOp (s : State) (f : Folio) (code : Nat) (c : Cell) (ream : Bool) : State :=
  (if ream && decide (code < 0x40) then s.bump (.engNaks f) Fld.engNaksCount 1 else s).refuseAt (folioDie f) code c

/-- R232, R295: a request cell arrives at its destination die. A whole request joins the operations that the folio's
engines perform in order of completion; one that has a record is answered from it, but for a LOAD (R310). -/
def doTransactionCell (d : Die) (c : Cell) (s : State) : State :=
  let s0 := s
  let s := s.land (.die d) c
  let reply := decide (c.cls = 0) && decide (c.type = 0x12)
  let mine := decide (c.cls ≠ 1) &&
    !(decide (d.val ≥ 8) && ([0x08, 0x09, 0x0A, 0x0B, 0x0C, 0x0D, 0x0E, 0x0F, 0x10, 0x11].contains c.type.toNat))
  if !mine || s.clocksStopped then s0
  else if s.downDies.contains d then
    -- a deckle answers for a folio in reset (R491)
    let e : Die := if s.downDies.contains 8 then 9 else 8
    let (s, ok) := s.arriveAt e c
    if ok && decide (d.val < 8) then s.refuseCell e e.val feltNode 0x4B c else s
  else
    let (s, ok) := s.arriveAt d c
    if !ok then s
    else if reply then s.bump (.xportOrphans d) Fld.xportOrphansCount 1
    else
      match s.endpointCode d c with
      | some code =>
        let code := classCode d c code
        if d.val < 8 then s.refuseOp (Fin.ofNat 8 d.val) code c true else s.refuseAt d code c
      | none =>
        if d.val ≥ 8 then s.refuseAt d 0x4A c
        else
          match s.assemble d c with
          | .waits => s0
          | .dropped s => s
          | .refused code s => s.refuseAt d code c
          | .held s => s
          | .whole a s =>
            let f : Folio := Fin.ofNat 8 d.val
            let bs := cellsData a.cells
            let w0 := BitVec.ofNat 64 (leNat (bs.take 8))
            let w1 := BitVec.ofNat 64 (leNat ((bs.drop 8).take 8))
            let (depart, came) := s.earliest a
            let start (s : State) : State :=
              match s.addressCode f c w0 with
              | some code =>
                (s.keepRecord d c depart came (.nak code)).refuseOp f code c (decide (opOffset w0 < reamLimit))
              | none =>
                let s := ((offDomains f (opOffset w0) (w1.toNat % 2 ^ 17)).filter (fun k => !s.domainDown k)).foldl State.wake s
                s.updNet (fun w => { w with ready := w.ready ++ [⟨f, w0, w1, bs.drop 16, c.cls, c, depart, came⟩] })
            match s.net.dups.find? (fun r => r.is d c) with
            | some r =>
              if opCode w0 = 0 then start (s.updNet (fun w => { w with dups := w.dups.erase r }))
              else s.answerDuplicate d c r
            | none => start s

def execTransactionCell (d : Die) (c : Cell) (s : State) : Host.Outcome State Fault Refusal := .next (doTransactionCell d c s)

/-- The outstanding transaction that a reply cell answers. -/
def State.txnFor (s : State) (d : Die) (c : Cell) : Option Txn :=
  s.net.txns.find? (fun t => t.die = d && decide (t.tag = c.tag.toNat) && decide (t.dstChip = c.srcChip.toNat))

/-- R294, R312: a reply cell arrives and is placed in its requester's space. -/
def doMemReply (d : Die) (c : Cell) (s : State) : State :=
  let s0 := s
  let s := s.land (.die d) c
  if c.cls ≠ 1 ∨ c.type = 3 ∨ s.clocksStopped = true then s0
  else if s.downDies.contains d then s
  else
    let (s, ok) := s.arriveAt d c
    if !ok then s
    else
      match s.txnFor d c with
      | none => s.bump (.xportOrphans d) Fld.xportOrphansCount 1
      | some t =>
        match s.endpointCode d c with
        | some code => s.refuseAt d code c
        | none =>
          let cells := if t.replies.any (fun k => k.seq = c.seq) then t.replies else t.replies ++ [c]
          if badSequence t.replies c then s.refuseAt d 0x4D c
          else if cellsWhole cells then s.finishTxn t (.reply (cellsData cells))
          else s.updNet (fun w => { w with txns := w.txns.map (fun k =>
            if k.die = t.die ∧ k.tag = t.tag then { k with replies := cells } else k) })


/-- R312, R321: a NAK arrives and completes its transaction with its status. -/
def doNak (d : Die) (c : Cell) (s : State) : State :=
  let s0 := s
  let s := s.land (.die d) c
  if c.cls ≠ 1 ∨ c.type ≠ 3 ∨ s.clocksStopped = true then s0
  else if s.downDies.contains d then s
  else
    let (s, ok) := s.arriveAt d c
    if !ok then s
    else
      match s.net.txns.find? (fun t => t.die = d && decide (t.tag = c.tag.toNat)) with
      | none => s.bump (.xportOrphans d) Fld.xportOrphansCount 1
      | some t =>
        match s.endpointCode d c with
        | some code => s.refuseAt d code c
        | none =>
          let bs := c.data
          let code := leNat (bs.take 1)
          let s := s.bump (.xportNaksRcvd d) Fld.xportNaksRcvdCount 1
          let s := s.setReg (.xportLastNak d) (BitVec.ofNat 64
            (code + leNat ((bs.drop 1).take 1) % 16 * 2 ^ 8 + leNat ((bs.drop 2).take 2) % 2 ^ 14 * 2 ^ 12
              + c.tag.toNat * 2 ^ 26))
          s.finishTxn t (.nak code)


/-- Take a user's result, where one is there. -/
def State.takeDone (s : State) (u : TxnUser) : Option (Answer × State) :=
  match s.net.done.find? (fun e => e.user = u) with
  | none => none
  | some e => some (e.answer, s.updNet (fun w => { w with done := w.done.erase e }))

/-- Whether a user has an outstanding transaction. -/
def State.waits (s : State) (u : TxnUser) : Bool := s.net.txns.any (fun t => t.user = u)

end Sys2Proof.Machine
end

