-- ==== Sys2Proof/Machine/Group.lean ====
section
/-! DEFINITION. Shared operations on collective groups: members (R349), messages (R366), how entries end (R358, R382), and
the fault and the group error that end a step (R378-R381). -/

namespace Sys2Proof.Machine

def State.group (s : State) (g : Coll) : Group := Store.get (fun _ => Group.reset) s.groups g
def State.setGroup (s : State) (g : Coll) (v : Group) : State := { s with groups := Store.set (fun k => k.val) s.groups g v }
def State.updGroup (s : State) (g : Coll) (f : Group → Group) : State := s.setGroup g (f (s.group g))

/-- COLL_STATUS.STATE: 0 NONE, 1 JOINING, 2 ACTIVE, 3 PAUSED, 4 FAULTED, 5 FAILED. -/
def State.collState (s : State) (g : Coll) : Nat := s.fld (.collStatus g) Fld.collStatusState
def State.setCollState (s : State) (g : Coll) (v : Nat) : State := s.setFld (.collStatus g) Fld.collStatusState v
def State.collRuns (s : State) (g : Coll) : Bool := s.collState g = 2 || s.collState g = 3

def State.collKey (s : State) (g : Coll) : W32 := BitVec.ofNat 32 (s.fld (.collKey g) Fld.collKeyKey)
def State.collJob (s : State) (g : Coll) : BitVec 12 := BitVec.ofNat 12 (s.fld (.collCtl g) Fld.collCtlJob)

/-- Entry i of the ring table (R383). -/
def State.ringEntry (s : State) (g : Coll) (i : Nat) : Nat :=
  (s.reg (.ringTable g (Fin.ofNat 256 (i / 4)))).toNat / 2 ^ (16 * (i % 4)) % 2 ^ 10

def State.ringLen (s : State) (g : Coll) : Nat := s.fld (.collShape g) Fld.collShapeRingLen
def State.ringGroups (s : State) (g : Coll) : List Nat := (List.range (s.ringLen g)).map (s.ringEntry g)

/-- The member numbers of LOCAL_MASK, in order. -/
def State.localMembers (s : State) (g : Coll) : List Nat :=
  (List.range 16).filter (fun m => (s.fld (.collShape g) Fld.collShapeLocalMask).testBit m)

/-- n, p and ρ of R349; ρ by member number. -/
def State.localCount (s : State) (g : Coll) : Nat := (s.localMembers g).length
def State.ringPos (s : State) (g : Coll) : Nat := s.fld (.collShape g) Fld.collShapeRingPos
def State.localRank (s : State) (g : Coll) (m : Nat) : Nat := ((s.localMembers g).filter (fun k => decide (k < m))).length

def State.member (s : State) : Nat := s.chip % 16
def State.machineGroup (s : State) : Nat := s.chip / 16

/-- Local peers, and counterparts (R349), as chips. -/
def State.localPeers (s : State) (g : Coll) : List Nat :=
  ((s.localMembers g).filter (fun m => decide (m ≠ s.member))).map (fun m => s.machineGroup * 16 + m)

def State.counterparts (s : State) (g : Coll) : List Nat :=
  ((s.ringGroups g).filter (fun k => decide (k ≠ s.machineGroup))).map (fun k => k * 16 + s.member)

/-- The counterparts at the next and the previous ring position. -/
def State.ringNext (s : State) (g : Coll) : Nat := s.ringEntry g ((s.ringPos g + 1) % max 1 (s.ringLen g)) * 16 + s.member
def State.ringPrev (s : State) (g : Coll) : Nat :=
  s.ringEntry g ((s.ringPos g + s.ringLen g - 1) % max 1 (s.ringLen g)) * 16 + s.member

/-- The tile set (R384). -/
def State.inTileSet (s : State) (g : Coll) (t : Tile) : Bool :=
  if t.val < 64 then s.bit (.collTiles0 g) t.val
  else if t.val < 128 then s.bit (.collTiles1 g) (t.val - 64)
  else s.bit (.collTiles2 g) (t.val - 128)

def State.tileSet (s : State) (g : Coll) : List Tile := (List.finRange 192).filter (s.inTileSet g)

/-- The current step (R353). -/
def State.currentStep (s : State) (g : Coll) : Nat := s.fld (.collSteps g) Fld.collStepsCommitted + 1

/-! ### Messages (R366). The fields of JOIN, ARRIVE, CREDIT, DIGEST and ABORT lie in the order R366 names them, each
aligned to its size (DESIGN CHOICE, log 74). -/

def State.joinData (s : State) (g : Coll) (round : Nat) : List Byte :=
  leBytes 4 (s.collKey g).toNat ++ leBytes 4 round ++ leBytes 8 (s.reg (.collShape g) &&& 0xFFFFFF0007FFFFFF).toNat
    ++ leBytes 8 (s.fld (.collCtl g) Fld.collCtlFeatures) ++ leBytes 8 (s.fld (.collCtl g) Fld.collCtlMinIn)
    ++ leBytes 8 0

def State.arriveData (s : State) (g : Coll) (a : ArriveMsg) : List Byte :=
  leBytes 4 (s.collKey g).toNat ++ leBytes 4 a.step ++ leBytes 8 a.tense ++ leBytes 2 a.chip ++ leBytes 1 a.reason
    ++ leBytes 1 (if a.summary then 1 else 0) ++ leBytes 12 0

def State.creditData (s : State) (g : Coll) (entry base : Nat) : List Byte :=
  leBytes 4 (s.collKey g).toNat ++ leBytes 4 (s.currentStep g) ++ leBytes 8 entry ++ leBytes 8 base

def State.digestData (s : State) (g : Coll) (d : BitVec 256) (summary agrees : Bool) : List Byte :=
  leBytes 4 (s.collKey g).toNat ++ leBytes 4 (s.currentStep g)
    ++ leBytes 8 ((if summary then 1 else 0) + (if agrees then 2 else 0))
    ++ (List.range 32).map (fun i => d.extractLsb' (8 * (31 - i)) 8)

def State.abortData (s : State) (g : Coll) (kind status : Nat) : List Byte :=
  leBytes 4 (s.collKey g).toNat ++ leBytes 4 (s.currentStep g) ++ leBytes 8 kind ++ leBytes 8 status

/-- The deckle whose collective engine sends: DECKLE_0, or DECKLE_1 while DECKLE_0 is in reset (DESIGN CHOICE, log 75). -/
def State.engineDeckle (s : State) : Deckle := if s.downDies.contains 8 then 1 else 0

/-- Originate a collective transaction from a deckle, and note what it carries. -/
def State.collSend (s : State) (g : Coll) (d : Deckle) (type chip die : Nat) (kind : WorkKind) (data : List Byte) :
    Option State :=
  let id := (s.group g).nextWork
  match s.request (deckleDie d) 0 (.coll g id) (s.collJob g) chip die 3 type data with
  | some s => some (s.updGroup g (fun v => { v with nextWork := id + 1, works := v.works ++ [⟨id, chip, kind⟩] }))
  | none => none

/-- Send the messages that wait; one for which no tag is free waits on. -/
def State.flushMail (s : State) (g : Coll) : State :=
  let mail := (s.group g).mail
  mail.foldl (fun s m =>
    match s.collSend g s.engineDeckle m.type m.chip m.die .message m.data with
    | some s => s
    | none => s.updGroup g (fun v => { v with mail := v.mail ++ [m] })) (s.updGroup g (fun v => { v with mail := [] }))

/-- Queue a message to each of some chips and send what can be sent. -/
def State.tell (s : State) (g : Coll) (type : Nat) (chips : List Nat) (data : List Byte) : State :=
  (s.updGroup g (fun v => { v with mail := v.mail ++ chips.map (fun c => ⟨type, c, 8, data⟩) })).flushMail g

/-! ### Entries -/

def Entry.word (e : Entry) (i : Nat) : Nat := (e.words.getD i 0).toNat
def Entry.op (e : Entry) : Nat := e.word 0 % 16
def Entry.inFmt (e : Entry) : Nat := e.word 0 / 2 ^ 4 % 16
def Entry.outFmt (e : Entry) : Nat := e.word 0 / 2 ^ 8 % 16
def Entry.rm (e : Entry) : Nat := e.word 0 / 2 ^ 12 % 4
def Entry.satc (e : Entry) : Bool := (e.word 0).testBit 14
def Entry.redop (e : Entry) : Nat := e.word 0 / 2 ^ 15 % 4
def Entry.commit (e : Entry) : Bool := (e.word 0).testBit 17
def Entry.update (e : Entry) : Bool := (e.word 0).testBit 18
def Entry.follow (e : Entry) : Bool := (e.word 0).testBit 19
def Entry.number (e : Entry) : Nat := e.word 0 / 2 ^ 24 % 256
def Entry.step (e : Entry) : Nat := e.word 0 / 2 ^ 32
def Entry.tense (e : Entry) : Nat := e.word 1
def Entry.src (e : Entry) : Nat := e.word 2 % 2 ^ 46
def Entry.dst (e : Entry) : Nat := e.word 3 % 2 ^ 46
def Entry.length (e : Entry) : Nat := e.word 4 % 2 ^ 40
def Entry.updOff (e : Entry) : Nat := e.word 5 % 2 ^ 46
def Entry.seed (e : Entry) : Nat := e.word 6 % 2 ^ 32
def Entry.cplTag (e : Entry) : Nat := e.word 6 / 2 ^ 32 % 2 ^ 16
def Entry.srStep (e : Entry) : Nat := e.word 7
def Entry.cplAddr (e : Entry) : Nat := e.word 8

def ArriveMsg.none : ArriveMsg := ⟨0, 0, 0, 0, 0, false⟩

/-- Keep COLL_STATUS.QUEUED at the length of the queue. -/
def State.countQueued (s : State) (g : Coll) : State := s.setFld (.collStatus g) Fld.collStatusQueued (s.group g).queue.length

/-- The device is UNLOCKED (R267, R270). -/
def State.unlockedNow (s : State) : Bool := decide (s.fld .tenseStatus Fld.tenseStatusState = 5)

/-- An entry leaves the queue with a status; its record is written by COLLECTIVE_COMPLETION. -/
def State.endEntry (s : State) (g : Coll) (e : Entry) (status : Nat) (committed : Bool) (digest : BitVec 256) : State :=
  let v := s.group g
  let r : Ended := ⟨e, status, committed, s.fld (.collSteps g) Fld.collStepsCommitted, digest, v.late,
    v.unlocked || s.unlockedNow, v.last.getD ArriveMsg.none⟩
  let s := if e.overflow > 0 then s.bump (.collErrors g) Fld.collErrorsOverflows 1 else s
  (s.setGroup g { v with queue := v.queue.erase e, ended := v.ended ++ [r] }).countQueued g

def State.endEntries (s : State) (g : Coll) (p : Entry → Bool) (status : Entry → Nat) : State :=
  ((s.group g).queue.filter p).foldl (fun s e => s.endEntry g e (status e) false 0) s

/-- Put a changed entry in the place of an entry of the queue. -/
def State.setEntry (s : State) (g : Coll) (old new : Entry) : State :=
  s.updGroup g (fun v => { v with queue := v.queue.map (fun e => if e = old then new else e) })

/-- Every tile of the local set has arrived and entry 0 has been validated: the two conditions of R354. -/
def State.arrivalReady (s : State) (g : Coll) : Bool :=
  decide ((s.group g).nextEntry > 0) && (s.tileSet g).all (fun t => (s.group g).tilesNow.contains t)

/-- Note the tense at which the later of the two was met: the device's arrival tense (R354). -/
def State.noteReady (s : State) (g : Coll) : State :=
  if s.arrivalReady g && (s.group g).readyAt.isNone then s.updGroup g (fun v => { v with readyAt := some s.tenseNow }) else s

/-- Forget the exchange under way, once its step has committed: arrivals and messages for later steps stay (R353), as do the
transactions that await a reply (R371, R378) and the reductions of grants since the exchange began (R354). -/
def Group.endStep (v : Group) : Group :=
  { v with
    tilesNow := v.tilesNext, tilesNext := [], readyAt := none, arrival := none, summarySent := false, heldAt := none, exchange := false,
    firstTense := 0, nextEntry := 0, lastOp := 0, late := false, unlocked := false, base := 0, sentX := [], creditOf := [],
    accums := [], carries := [], outChunks := [], ownChunk := 0, written := [], outstanding := [], stage := [],
    hashes := [], digest := none, digestSummarySent := false, digests := [], since := v.nextWork, early := [] }

/-- Forget all that belongs to the step and to later ones (R379, R381). -/
def Group.clearStep (v : Group) : Group := { v.endStep with tilesNow := [], heard := [] }

/-- Give a collective transaction its answer (R366). -/
def State.answerOwed (s : State) (o : Owed) (a : Answer) : State :=
  s.completeRequest (deckleDie o.deckle) answerNode o.cell o.depart o.came a a

/-- The step leaves the staging slots: the chunks that they hold in WRITING have been applied, and are answered so. -/
def State.leaveStage (s : State) (g : Coll) : State :=
  ((s.group g).stage.filterMap StageSlot.owed).foldl (fun s o => s.answerOwed o (.reply []))
    (s.updGroup g (fun v => { v with stage := [] }))

/-- Leave the step with all that belongs to it and to later ones (R379, R381). -/
def State.leaveStep (s : State) (g : Coll) : State := (s.leaveStage g).updGroup g Group.clearStep

/-- Clear the BARRIER tags that wait on a group, with the error mark where R381 sets it. -/
def State.clearBarriers (s : State) (g : Coll) (mark : Bool) (state : Nat) : State :=
  ((s.tileSet g).filter (fun t => s.tagBusy t tagBarrier && decide ((s.tile t).barrierGroup = g.val))).foldl
    (fun s t =>
      let s := if mark then s.clearTagError t tagBarrier else s.clearTag t tagBarrier
      if mark then s.updTile t (fun x => { x with barrierState := state }) else s) s

/-- Every member that a group speaks to. -/
def State.allOthers (s : State) (g : Coll) : List Nat := s.localPeers g ++ s.counterparts g

/-- R378, R381: the group is faulted. Entries of the step complete with `status` and those queued for later steps with
ABORTED; `spread` sends ABORT of kind fault. -/
def State.faultGroup (s : State) (g : Coll) (status : Nat) (spread : Bool) : State :=
  if s.collState g = 1 ∨ s.collRuns g = true then
    let step := s.currentStep g
    let s := s.endEntries g (fun _ => true) (fun e => if e.step = step then status else 0x2D)
    let s := s.leaveStep g
    let s := s.setCollState g 4
    let s := s.setFld (.collStatus g) Fld.collStatusReason 8
    let s := s.clearBarriers g true 4
    if spread then s.tell g 0x0F (s.allOthers g) (s.abortData g 1 status) else s
  else s

/-- R379: the step ends in a group error. The entry numbered `number` carried it; none: the first outstanding one. -/
def State.groupError (s : State) (g : Coll) (status : Nat) (number : Option Nat) (spread : Bool) : State :=
  if s.collRuns g then
    let step := s.currentStep g
    let mine := (s.group g).queue.filter (fun e => e.step = step)
    let bearer := (number.orElse (fun _ => mine.head?.map Entry.number)).getD 0
    let s := s.endEntries g (fun e => decide (e.step = step)) (fun e => if e.number = bearer then status else 0x2D)
    let s := s.leaveStep g
    let s := s.bump (.collSteps g) Fld.collStepsErrors 1
    let s := s.clearBarriers g false 0
    let s := if spread then s.tell g 0x0F (s.allOthers g) (s.abortData g 0 status) else s
    if (s.group g).pausing then (s.setCollState g 3).updGroup g (fun v => { v with pausing := false }) else s
  else s

/-! ### The advance of BASE, and entries that complete without a digest -/

/-- N of R349, the accumulations of a reduce-scatter, and the chunks of an all-gather. -/
def State.memberCount (s : State) (g : Coll) : Nat := s.localCount g * s.ringLen g
def State.capChunks (s : State) (g : Coll) : Nat := s.fld (.collShape g) Fld.collShapeCapChunks
def State.accumCount (s : State) (g : Coll) : Nat := s.capChunks g * s.ringLen g

/-- The reduce-scatter entry under way or next in the current step. -/
def State.rsEntry (s : State) (g : Coll) : Option Entry :=
  (s.group g).queue.find? (fun e => e.op = 1 && decide (e.step = s.currentStep g))

/-- R363, R371: the oldest accumulation has become FREE; BASE advances and is credited. -/
def State.advanceOnce (s : State) (g : Coll) : State :=
  let v := s.group g
  match v.accums.find? (fun a => a.x = v.base), s.rsEntry g with
  | some a, some e =>
    if a.finished = true ∧ a.updating = false ∧ a.waiting = 0 then
      let s := s.updGroup g (fun v => { v with base := v.base + 1, accums := v.accums.filter (fun k => k.x ≠ a.x) })
      s.tell g 0x0D (s.localPeers g ++ (if s.ringLen g > 1 then [s.ringPrev g] else []))
        (s.creditData g e.number (v.base + 1))
    else s
  | _, _ => s

/-- A window holds four accumulations, so BASE advances by at most four at once. -/
def State.advanceBase (s : State) (g : Coll) : State :=
  (((s.advanceOnce g).advanceOnce g).advanceOnce g).advanceOnce g

/-- The ENTRY that a transaction serves. -/
def WorkKind.entry : WorkKind → Option Nat
  | .message => none
  | .contrib e => some e
  | .carry e _ => some e
  | .gather e _ _ => some e

/-- Whether a transaction belongs to the current step; one of a step that has ended awaits its reply and nothing else (R371). -/
def Group.ofStep (v : Group) (w : Work) : Bool := decide (v.since ≤ w.id)

/-- Whether a transaction of an entry of the current step is unacknowledged. -/
def Group.sending (v : Group) (number : Nat) : Bool :=
  v.works.any (fun w => v.ofStep w && decide (w.kind.entry = some number))

/-- End the entries that are complete: a reduce-scatter whose accumulations are all FREE and whose contributions have all
been acknowledged; an all-gather without COMMIT whose chunks are all written and sent (R359, R373, R382). -/
def State.endDone (s : State) (g : Coll) : State :=
  let s :=
    match s.rsEntry g with
    | some e =>
      let v := s.group g
      let all := s.accumCount g
      if e.started = true ∧ v.base ≥ all ∧ v.sending e.number = false
        ∧ (s.localPeers g).all (fun c => decide (Store.get (fun _ => 0) v.sentX c ≥ all)) = true then
        (s.endEntry g e 0 false 0).updGroup g (fun v => { v with base := 0, sentX := [], accums := [], carries := [] })
      else s
    | none => s
  match (s.group g).queue.find? (fun e => e.op = 2 && e.started && decide (e.step = s.currentStep g)) with
  | some e =>
    let v := s.group g
    if e.commit = false ∧ (v.written.filter (fun w => w.1 = e.number)).length ≥ s.memberCount g * s.capChunks g
      ∧ (v.outChunks.all (fun c => decide (c.entry ≠ e.number))) = true ∧ v.sending e.number = false then
      (s.endEntry g e 0 false 0).updGroup g (fun v => { v with ownChunk := 0 })
    else s
  | none => s

/-- What an acknowledged transaction of the step frees (R370, R371). -/
def WorkKind.acknowledge (k : WorkKind) (peer : Nat) (v : Group) : Group :=
  match k with
  | .message => v
  | .contrib _ => v
  | .carry _ x => { v with accums := v.accums.map (fun a => if a.x = x then { a with waiting := a.waiting - 1 } else a) }
  | .gather _ _ slot => { v with
      outstanding := Store.put id (fun _ => 0) v.outstanding peer (Store.get (fun _ => 0) v.outstanding peer - 1)
      stage := v.stage.map (fun q => if some q.slot = slot then { q with copies := q.copies - 1 } else q) }

/-- A collective transaction's outcome at its sender: NAKs of R508 and REMOTE_TIMEOUT fault the group, also after its step has
ended; a refused chunk of the step is a group error (R368, R371); an acknowledged one frees what it held. -/
def State.settleWork (s : State) (g : Coll) (w : Work) (a : Answer) : State :=
  let chunk := (s.group g).ofStep w && decide (w.kind ≠ .message)
  let s := s.updGroup g (fun v => { v with works := v.works.filter (fun k => k.id ≠ w.id) })
  match a with
  | .reply _ => if chunk then ((s.updGroup g (w.kind.acknowledge w.peer)).advanceBase g).endDone g else s
  | .timeout => s.faultGroup g 0x2A true
  | .nak c =>
    if [0x47, 0x48, 0x49, 0x4B, 0x4C].contains c then s.faultGroup g 0x2A true
    else if chunk then s.groupError g (if c = 0x26 then 0x26 else 0x27) w.kind.entry true
    else s

/-! ### Harts (R464-R469) -/

def State.hart (s : State) (f : Folio) (h : Fin 4) : HartRec := Store.get (fun _ => HartRec.reset) s.net.harts (4 * f.val + h.val)
def State.updHart (s : State) (f : Folio) (h : Fin 4) (u : HartRec → HartRec) : State :=
  s.updNet (fun w => { w with harts := Store.put id (fun _ => HartRec.reset) w.harts (4 * f.val + h.val) (u (s.hart f h)) })

/-- The `time` CSR of a hart reads TENSE_NOW (R464). -/
def State.hartTime (s : State) : W64 := BitVec.ofNat 64 s.tenseNow

/-- A hart's access ends in an access fault at a physical address. -/
def State.hartFault (s : State) (f : Folio) (h : Fin 4) (addr : Nat) : State := s.emit (.hartFault f h addr)

/-- An MSI to the IMSIC of a hart makes its identity pending (R464, R469). -/
def State.sendMsi (s : State) (f : Folio) (h : Fin 4) (eiid : Nat) : State :=
  (s.updHart f h (fun r => { r with imsic := if r.imsic.contains eiid then r.imsic else eiid :: r.imsic })).emit (.msi f h.val eiid)

/-- R466: an aperture access of a hart completes with its reply, or with an access fault. -/
def State.settleHarts (s : State) : State :=
  let mine := s.net.done.filter (fun e =>
    match e.user with
    | .hart _ _ => true
    | _ => false)
  mine.foldl (fun s e =>
    let s := s.updNet (fun w => { w with done := w.done.erase e })
    match e.user with
    | .hart f h =>
      let addr := match (s.hart f h).access with
        | some a => a.1
        | none => 0
      let s := s.updHart f h (fun r => { r with access := none })
      match e.answer with
      | .reply bs => s.emit (.readData bs)
      | _ => s.hartFault f h addr
    | _ => s) s

/-- Take every result of the collective engines' transactions and of the harts' accesses. -/
def State.settle (s : State) : State :=
  let s := s.settleHarts
  let mine := s.net.done.filterMap (fun e =>
    match e.user with
    | .coll g id => some (g, id, e.answer, e)
    | _ => none)
  mine.foldl (fun s m =>
    let s := s.updNet (fun w => { w with done := w.done.erase m.2.2.2 })
    match (s.group m.1).works.find? (fun w => w.id = m.2.1) with
    | some w => s.settleWork m.1 w m.2.2.1
    | none => s) s

/-! ### Replies that arrive, with their effect on the collective engines -/

/-- R294, R312. -/
def execMemReply (d : Die) (c : Cell) (s : State) : Host.Outcome State Fault Refusal := .next (doMemReply d c s).settle

/-- R312, R508. -/
def execNak (d : Die) (c : Cell) (s : State) : Host.Outcome State Fault Refusal := .next (doNak d c s).settle

/-- R309, R371, R378. -/
def execRemoteTimeout (d : Die) (tag : Fin 65536) (s : State) : Host.Outcome State Fault Refusal :=
  .next (doRemoteTimeout d tag s).settle

end Sys2Proof.Machine
end

