-- ==== Sys2Proof/Machine/Power.lean ====
section
/-! DEFINITION. Operating points (R417, R418), metering (R428), requests and grants (R423-R427), the slew limit (R431)
and the opening and closing of energy sections (R104, R432). Powers are in uW, rounded down where a quotient is not whole
(DESIGN CHOICE, log 96). -/

namespace Sys2Proof.Machine

def State.updEnergy (s : State) (f : Energy → Energy) : State := { s with energy := f s.energy }

/-! ### Operating points -/

/-- Tile clock in MHz by point (R417). -/
def pointMhz : Nat → Nat
  | 0 => 1900 | 1 => 1750 | 2 => 1600 | 3 => 1450 | 4 => 1300 | 5 => 1150 | 6 => 1000 | _ => 800

/-- VDD_FOLIO before trim in mV. -/
def pointMv : Nat → Nat
  | 0 => 800 | 1 => 760 | 2 => 720 | 3 => 690 | 4 => 660 | 5 => 630 | 6 => 610 | _ => 580

/-- Idle folio power in W. -/
def pointIdleW : Nat → Nat
  | 0 => 48 | 1 => 42 | 2 => 37 | 3 => 33 | 4 => 29 | 5 => 26 | 6 => 23 | _ => 20

def State.point (s : State) (f : Folio) : Nat := s.fld (.folioDvfs f) Fld.folioDvfsPoint

def State.clockMhz (s : State) (f : Folio) : Nat := pointMhz (s.point f)

/-- The voltage applied in mV: the table voltage less the trim (R434), with what R435 added beyond it. -/
def State.voltage (s : State) (f : Folio) : Nat :=
  pointMv (s.point f) - s.fld (.folioDvfs f) Fld.folioDvfsTrimMv + Store.get (fun _ => 0) s.energy.bumps f

/-- k in 1/2^32; 1.0 until calibration moves it (R429). -/
def State.kFactor (s : State) (f : Folio) : Nat := Store.get (fun _ => 2 ^ 32) s.energy.factor f

/-- `e` times s and k (R418). -/
def State.scaled (s : State) (f : Folio) (e : Nat) : Nat := e * s.voltage f ^ 2 * s.kFactor f / (640000 * 2 ^ 32)

/-! ### Metering -/

/-- Add metered energy in 1/400 pJ to a tile. -/
def State.meterTile (s : State) (t : Tile) (e : Nat) : State :=
  s.updTile t (fun x =>
    { x with
      usMeter := x.usMeter + e, winMeter := x.winMeter + e, mcMeter := x.mcMeter + e,
      energySection := x.energySection.map (fun c => { c with metered := c.metered + e }) })

/-- Charge an event of R152 or R184, priced in 1/400 pJ, weighted by s and k (R418, R428). -/
def State.charge (s : State) (t : Tile) (e : Nat) : State := s.meterTile t (s.scaled (tileFolio t) e)

/-- Charge `n` ream bytes at 9.8 pJ each, which s and k do not scale (R228, R418). -/
def State.chargeReam (s : State) (t : Tile) (n : Nat) : State := s.meterTile t (3920 * n)

/-! ### Pulp -/

/-- PULP_MAX (R432). -/
def State.pulpMax (s : State) (f : Folio) : Nat := 32000000 * s.voltage f ^ 2 * s.clockMhz f / (640000 * 1900)

/-- The pulp power of a tile now, before its folio's fraction. -/
def Pulp.now (p : Pulp) (time : Nat) : Nat :=
  let d := time - p.start
  if d ≥ p.len then p.toUw
  else if p.fromUw ≤ p.toUw then p.fromUw + (p.toUw - p.fromUw) * d / p.len
  else p.fromUw - (p.fromUw - p.toUw) * d / p.len

/-- Pulp takes the folio's fraction (R432). -/
def State.pulpUw (s : State) (t : Tile) : Nat :=
  match (s.tile t).pulp with
  | none => 0
  | some p => p.now s.now * s.fld (.folioGrant (tileFolio t)) Fld.folioGrantFraction / 256

/-! ### Requests -/

def folioTiles (f : Folio) : List Tile := (List.range 24).map (fun n => Fin.ofNat 192 (f.val * 24 + n))

/-- P_req of R423 in uW. -/
def State.requestUw (s : State) (t : Tile) : Nat :=
  match (s.tile t).energySection with
  | none => 0
  | some c =>
    let f := tileFolio t
    min 32000000 (c.reqNJ * s.voltage f ^ 2 * s.kFactor f * s.clockMhz f * 1000000
      / (640000 * 2 ^ 32 * max c.durNs 1 * 1900))

/-- The request after the adjustment of R424 to the envelope share of the launch part. -/
def State.demandOf (s : State) (t : Tile) : Nat :=
  let x := s.tile t
  let p := s.requestUw t
  if x.share = 0 ∨ x.launch = none then p
  else
    let sum := ((folioTiles (tileFolio t)).map (fun u =>
      if (s.tile u).launch = x.launch then s.requestUw u else 0)).foldl (· + ·) 0
    if sum > x.share then p * x.share / sum else p

def State.demand (s : State) (f : Folio) : Nat := ((folioTiles f).map s.demandOf).foldl (· + ·) 0

/-- theta[f] in percent (R438). -/
def State.thetaOf (s : State) (f : Folio) : Nat := Store.get (fun _ => 100) s.energy.theta f

/-- alloc - u, and avail (R422). -/
def State.spare (s : State) (f : Folio) : Nat :=
  Store.get (fun _ => 0) s.energy.alloc f - Store.get (fun _ => 0) s.energy.loads f
def State.avail (s : State) (f : Folio) : Nat := s.spare f * s.thetaOf f / 100

/-- The fraction in force of a granted open section. -/
def TileState.granted (x : TileState) : Nat :=
  match x.energySection with
  | some c => c.fraction.getD 0
  | none => 0

/-- Granted tile power at the fractions `g`, and the pulp power of a folio, which together are P_f (R431). -/
def State.grantedUw (s : State) (f : Folio) (g : TileState → Nat) : Nat :=
  ((folioTiles f).map (fun t => s.demandOf t * g (s.tile t) / 256)).foldl (· + ·) 0
def State.pulpSum (s : State) (f : Folio) : Nat := ((folioTiles f).map s.pulpUw).foldl (· + ·) 0

/-! ### Fractions -/

/-- Put a fraction in force on a tile; a change restarts the pacing count (R426). -/
def setFraction (x : TileState) (g : Nat) : TileState :=
  { x with
    energySection := x.energySection.map (fun c => { c with fraction := some g })
    paceFrac := g
    paceCount := if g = x.paceFrac then x.paceCount else 0 }

/-- Whether the tile has an open section whose grant has come, the one that comes now included. -/
def TileState.holds (x : TileState) : Bool :=
  match x.energySection with
  | some c => c.fraction.isSome
  | none => false

/-- The fraction that the slew limit and then the overrun rule allow a granted section to move towards. -/
def TileState.aim (x : TileState) : Nat :=
  match x.energySection with
  | some c => if c.fraction.isSome then min x.target (c.limit.getD 256) else 0
  | none => 0

/-- The power of a tile at a fraction, its pulp included. -/
def State.tileUw (s : State) (t : Tile) (g : TileState → Nat) : Nat := s.demandOf t * g (s.tile t) / 256 + s.pulpUw t

/-- The power of each of a folio's tiles at the fractions `g`. -/
def State.tilesUw (s : State) (f : Folio) (g : TileState → Nat) : List Nat := (folioTiles f).map (fun t => s.tileUw t g)

/-- P_f at the start of this microsecond, where something has already moved in it; else as it stands now (R431). -/
def State.slewFrom (s : State) (f : Folio) : SlewBase :=
  let fresh : SlewBase := ⟨s.now / 1000, s.tilesUw f TileState.granted, false⟩
  match Store.find? s.energy.slewBase f with
  | some b => if b.us = s.now / 1000 then b else fresh
  | none => fresh

/-- What a folio's sections have been granted and have requested up to now within the window (R419). -/
def State.useNow (s : State) (f : Folio) : GrantUse :=
  let u := Store.get (fun _ => (⟨0, 0, 0⟩ : GrantUse)) s.energy.use f
  let held := (folioTiles f).filter (fun t => (s.tile t).holds)
  ⟨s.now, u.granted + s.grantedUw f TileState.granted * (s.now - u.at'),
    u.requested + (held.map s.demandOf).foldl (· + ·) 0 * (s.now - u.at')⟩

/-- Before a folio's granted power changes: the meter of F and the base of the slew limit are brought up to now. -/
def State.markPower (s : State) (f : Folio) : State :=
  s.updEnergy (fun e => { e with
    slewBase := Store.set (fun k => k.val) e.slewBase f (s.slewFrom f)
    use := Store.set (fun k => k.val) e.use f (s.useNow f) })

/-- The fraction of a tile whose power may move from `base` only `lim` of the way of `span` (R431). -/
def slewFraction (base aim demand lim span : Nat) : Nat :=
  let p : Int := (base : Int) + ((aim : Int) - base) * lim / max span 1
  max 1 (min 256 (256 * p.toNat / max demand 1))

/-- Move the folio's fractions towards their targets within the slew limit, all together, from where they stood at the start of the
microsecond; the overrun rule may hold one lower (R425, R431). A section with E = 0 is not moved (R423). A limited microsecond
counts once. -/
def State.slewStep (s : State) (f : Folio) : State :=
  let s := s.markPower f
  let base := s.slewFrom f
  let aims := s.tilesUw f TileState.aim
  let b := base.power.foldl (· + ·) 0
  let a := aims.foldl (· + ·) 0
  let lim := 400000 * s.voltage f
  if a ≤ b + lim ∧ b ≤ a + lim then
    (folioTiles f).foldl (fun s t =>
      if (s.tile t).holds then s.updTile t (fun x => setFraction x x.aim) else s) s
  else
    let span := (a - b) + (b - a)
    let move (s : State) (e : Tile × Nat × Nat × Nat) : State :=
      if (s.tile e.1).holds = false then s
      else if e.2.2.2 = 0 then s.updTile e.1 (fun x => setFraction x x.aim)
      else s.updTile e.1 (fun x =>
        setFraction x (min (slewFraction e.2.1 e.2.2.1 e.2.2.2 lim span) ((x.energySection.bind Section.limit).getD 256)))
    let tiles := folioTiles f
    let s := (tiles.zip (base.power.zip (aims.zip (tiles.map s.demandOf)))).foldl move s
    if base.limited then s
    else
      (s.updEnergy (fun e => { e with slewBase := Store.set (fun k => k.val) e.slewBase f { base with limited := true } })).bump
        (.folioCal f) Fld.folioCalSlewSteps 1

/-- Whether some fraction of a folio has not reached its target. -/
def State.slewing (s : State) (f : Folio) : Bool :=
  (folioTiles f).any (fun t => decide ((s.tile t).granted ≠ (s.tile t).aim))

/-- Note for the arrivals of R354 that a grant was reduced: by the throttle when the demand would have fitted in
alloc - u, else by the cap (R427). -/
def State.noteReduced (s : State) (t : Tile) (fits : Bool) : State :=
  let s := if fits then s else s.updEnergy (fun e => { e with capped := true })
  (List.finRange 64).foldl (fun s g =>
    if s.collRuns g && s.inTileSet g t then
      s.updGroup g (fun v => { v with thermal := v.thermal || fits, capped := v.capped || !fits })
    else s) s

/-! ### Sections -/

/-- The allowance at fraction `g` and the metered energy, in fJ, of a section over the part of the window for which it was
open (R428); 1/400 pJ is 2.5 fJ. -/
def State.allowance (s : State) (t : Tile) (c : Section) (g : Nat) : Nat := g * s.requestUw t * (s.now - c.since) / 256
def Section.used (c : Section) : Nat := c.metered * 5 / 2

/-- Whether a granted section's metered energy exceeds 1.125 times its allowance (R428). -/
def State.overAllowance (s : State) (t : Tile) (c : Section) : Bool :=
  match c.fraction with
  | some g => decide (8 * c.used > 9 * s.allowance t c g)
  | none => false

/-- The section of a tile ends within the window: the end of the window still counts it if it overran (R428). -/
def State.countClosed (s : State) (t : Tile) : State :=
  match (s.tile t).energySection with
  | none => s
  | some c =>
    let f := tileFolio t
    let s := s.markPower f
    if s.overAllowance t c then s.updEnergy (fun e => { e with
        closedOver := Store.put (fun k => k.val) (fun _ => 0) e.closedOver f (Store.get (fun _ => 0) e.closedOver f + 1) })
      else s

/-- The pulp that takes over from a section (R432): at the tile's metered power of the last microsecond, limited to PULP_MAX, which
already stands at the folio's fraction. -/
def State.pulpAfter (s : State) (t : Tile) : Pulp :=
  let f := tileFolio t
  let p := min (s.tile t).lastUsUw (s.pulpMax f)
  ⟨p * 256 / max (s.fld (.folioGrant f) Fld.folioGrantFraction) 1, 0, s.now, 1000 * s.fld .energyCtl Fld.energyCtlPulpRampUs⟩

/-- Close the open section and start the pulp that follows it (R104, R432). -/
def State.closeSection (s : State) (t : Tile) : State :=
  match (s.tile t).energySection with
  | none => s
  | some _ =>
    let s := s.countClosed t
    s.updTile t (fun x => { x with energySection := none, pulp := some (s.pulpAfter t) })

/-- Open a section, which closes an open one, and send its request (R104). -/
def State.openSection (s : State) (t : Tile) (nj dur : Nat) : State :=
  let s := s.countClosed t
  (s.updTile t (fun x => { x with energySection := some ⟨nj, dur, none, none, s.now, 0⟩ })).busyTag t tagGrant

/-- The fraction of a request of power `p` that arrives within a window: what avail leaves beside the power already granted and
other tiles' pulp (R425, R432). -/
def State.grantFraction (s : State) (f : Folio) (p : Nat) : Nat :=
  let left := s.avail f - (s.grantedUw f TileState.aim + s.pulpSum f)
  if p ≤ left then 256 else max 1 (256 * left / max p 1)

/-- The arbiter answers a request that arrives within a window (R423, R425). The grant takes over from the tile's pulp, and only the
difference passes through the slew limit (R432). -/
def State.grant (s : State) (t : Tile) : State :=
  let f := tileFolio t
  match (s.tile t).energySection with
  | some c =>
    if c.fraction.isSome then s
    else
      let s := (s.markPower f).updTile t (fun x => { x with pulp := none })
      let s := s.updEnergy (fun e => { e with granted := true })
      if c.reqNJ = 0 then
        (s.updTile t (fun x => { (setFraction x 256) with target := 256 })).clearTag t tagGrant
      else
        let g := s.grantFraction f (s.demandOf t)
        let fits := decide (s.demand f ≤ s.spare f)
        let s := s.updTile t (fun x => { x with
          target := g, energySection := x.energySection.map (fun c => { c with fraction := some 0 }) })
        let s := s.slewStep f
        let s := if g < 256 then s.noteReduced t fits else s
        s.clearTag t tagGrant
  | none => s.clearTag t tagGrant

end Sys2Proof.Machine
end

