-- ==== Sys2Proof/Machine/StopStep.lean ====
section
/-! DEFINITION. Stopping the step of the device on an uncorrectable error (R29, R378, R507). -/

namespace Sys2Proof.Machine

/-- R29, R378: every group that runs is faulted with UNCORRECTABLE, and its members are told. -/
def State.stopStep (s : State) : State :=
  (List.finRange 64).foldl (fun s g => if s.collRuns g then s.faultGroup g 0x2B true else s) s

end Sys2Proof.Machine
end

