-- ==== Sys2Proof/Machine/Ream.lean ====
section
/-! DEFINITION. The ream: the address mapping (R220), error protection and sparing (R221-R226), reads and writes that
meet error marks, the patrol scrubber and refresh. -/

namespace Sys2Proof.Machine

/-- The location of a ream offset (R220). -/
structure ReamLoc where
  ream : Ream
  pc : Nat
  sid : Nat
  bg : Nat
  bank : Nat
  row : Nat
  col : Nat
  deriving DecidableEq, Repr

def bitsOf (x hi lo : Nat) : Nat := x / 2 ^ lo % 2 ^ (hi - lo + 1)

def reamLoc (f : Folio) (x : Nat) : ReamLoc where
  ream := Fin.ofNat 32 (4 * f.val + (bitsOf x 9 8 ^^^ bitsOf x 16 15 ^^^ bitsOf x 25 24))
  pc := bitsOf x 14 10 ^^^ bitsOf x 22 18 ^^^ bitsOf x 30 26
  sid := bitsOf x 23 22
  bg := bitsOf x 21 20
  bank := bitsOf x 19 18
  row := bitsOf x 37 24
  col := bitsOf x 17 15

/-- The number of a bank of the device, and of a row of it. -/
def ReamLoc.bankKey (l : ReamLoc) : Nat := (((l.ream.val * 32 + l.pc) * 4 + l.sid) * 4 + l.bg) * 4 + l.bank
def ReamLoc.rowKey (l : ReamLoc) : Nat := l.bankKey * 16384 + l.row

/-- The folio of a ream. -/
def reamFolio (m : Ream) : Folio := Fin.ofNat 8 (m.val / 4)

/-! ### Banks: rows that are opened and counted (R225) -/

def BankRec.reset : BankRec := ⟨none, [], 0⟩

def State.bank (s : State) (key : Nat) : BankRec := Store.get (fun _ => BankRec.reset) s.banks key

def State.setBank (s : State) (key : Nat) (b : BankRec) : State :=
  { s with banks := Store.put id (fun _ => BankRec.reset) s.banks key b }

/-- Open a row of a bank: an activation, unless the row is open already. A row that reaches 2,048 of them within its refresh
period is due for a refresh of its neighbours. -/
def BankRec.activate (b : BankRec) (row : Nat) : BankRec :=
  if b.row = some row then b
  else
    let n := Store.get (fun _ => 0) b.counts row + 1
    { b with row := some row, counts := Store.set id b.counts row n, due := if n = 2048 then b.due + 1 else b.due }

/-- The bank's refresh slot: it closes the open row, takes the due neighbours with it, and ends the refresh period of the 8 rows
that it covers, group `rows` of the bank. -/
def BankRec.refresh (b : BankRec) (rows : Nat) : BankRec :=
  { row := none, counts := b.counts.filter (fun e => decide (e.1 / 8 ≠ rows)), due := 0 }

/-- The offsets of the 256-byte blocks that `n` bytes touch (R229). -/
def blocksOf (off n : Nat) : List Nat :=
  if n = 0 then [] else (List.range ((off % 256 + n + 255) / 256)).map (fun i => off / 256 * 256 + 256 * i)

/-- An access to the stacks: a stack in self-refresh is woken (R227), and the rows are opened. -/
def State.touchReam (s : State) (f : Folio) (off n : Nat) : State :=
  (blocksOf off n).foldl (fun s x =>
    let l := reamLoc f x
    let d : Domain := .reamBase l.ream
    let s := if s.flag (.reamStatus l.ream) Fld.reamStatusSelfRefresh || s.clocks.any (fun c => c.domain = d) then s.wake d else s
    s.setBank l.bankKey ((s.bank l.bankKey).activate l.row)) s

/-! ### Errors (R221, R222, R226) -/

/-- What the code of a line makes of `hits` symbols in error: two are corrected, six detected (R221). -/
def reedSolomon (key hits : Nat) : Option ErrMark :=
  if hits = 0 then none
  else if hits ≤ 2 then some .correctable
  else if hits ≤ 6 then some .uncorrectable
  else match Config.lineOutcome key hits with
    | 0 => none
    | 1 => some .correctable
    | _ => some .uncorrectable

/-- The marks with an address from `lo` to below `hi`, as lines of the folio and what the code finds there. -/
def State.lineMarks (s : State) (f : Folio) (lo hi : Nat) : List (Nat × ErrMark) :=
  (s.marks.filter (fun e => decide (reamAddr f lo ≤ e.1) && decide (e.1 < reamAddr f (min hi reamLimit)))).filterMap (fun e =>
    (reedSolomon e.1 e.2).map (fun m => ((e.1 - reamAddr f 0) / 64, m)))

/-- The lines of `n` bytes at an offset whose data the code finds in error. -/
def State.reamMarks (s : State) (f : Folio) (off n : Nat) : List (Nat × ErrMark) :=
  if n = 0 then [] else s.lineMarks f (off / 64 * 64) (off + n)

/-- The flash store keeps a row with an uncorrectable error, for the next bring-up to spare (R226). -/
def State.noteRow (s : State) (f : Folio) (off : Nat) : State :=
  let rows := s.mgmt.flash.rows
  if rows.any (fun r => (reamLoc r.1 r.2).rowKey = (reamLoc f off).rowKey) then s
  else { s with mgmt := { s.mgmt with flash := { s.mgmt.flash with rows := rows ++ [(f, off)] } } }

/-- An uncorrectable error of a line: recorded, and the step stops (R29, R222). -/
def State.reamError (s : State) (f : Folio) (line : Nat) : State :=
  let l := reamLoc f (64 * line)
  let s := s.noteRow f (64 * line)
  let s := s.setReg (.reamUeLast l.ream) (BitVec.ofNat 64 (64 * line + 2 ^ 63))
  (s.fault 0x0102 f.val l.ream.val (64 * line) l.ream.val).stopStep

/-- A corrected line is written back and counted. -/
def State.correctLine (s : State) (f : Folio) (line : Nat) : State :=
  ({ s with marks := Store.erase s.marks (reamAddr f (64 * line)) }).bump (.reamCorrected (reamLoc f (64 * line)).ream)
    Fld.reamCorrectedCount 1

/-- R226: a row with 4 corrected errors within a scrub pass is copied, corrected, into a spare of its bank, if one is left. The
copy reads every line of the row by R222. -/
def State.spareRow (s : State) (l : ReamLoc) : State :=
  let used := Store.get (fun _ => 0) s.spares l.bankKey
  if used ≥ 16 then s
  else
    let f := reamFolio l.ream
    let row := (s.lineMarks f 0 reamLimit).filter (fun e => decide ((reamLoc f (64 * e.1)).rowKey = l.rowKey))
    let s := row.foldl (fun s e => if e.2 = .correctable then s.correctLine f e.1 else s.reamError f e.1) s
    let s := { s with
      spares := Store.put id (fun _ => 0) s.spares l.bankKey (used + 1)
      rowErrors := Store.erase s.rowErrors l.rowKey }
    let s := s.bump (.reamSpares l.ream) Fld.reamSparesUsed 1
    let s := if used + 1 = 16 then s.setFlag (.reamSpares l.ream) Fld.reamSparesExhausted true else s
    s.fault 0x0103 (l.ream.val / 4) l.ream.val l.row (l.bankKey % 64)

/-- A correctable error that a read finds: corrected, written back and counted (R222, R226). -/
def State.reamCorrect (s : State) (f : Folio) (line : Nat) : State :=
  let l := reamLoc f (64 * line)
  let s := s.correctLine f line
  let n := Store.get (fun _ => 0) s.rowErrors l.rowKey + 1
  let s := { s with rowErrors := Store.put id (fun _ => 0) s.rowErrors l.rowKey n }
  if n = 4 then s.spareRow l else s

/-- A read that finds the errors `hits`: each is treated by R222. True: one was uncorrectable. -/
def State.meetMarks (s : State) (f : Folio) (hits : List (Nat × ErrMark)) : State × Bool :=
  (hits.foldl (fun s e => if e.2 = .correctable then s.reamCorrect f e.1 else s.reamError f e.1) s,
    hits.any (fun e => e.2 = .uncorrectable))

/-- Read lines at the ream base for their errors. True: the data holds an uncorrectable error (R222). -/
def State.reamScan (s : State) (f : Folio) (off n : Nat) : State × Bool :=
  let s := s.touchReam f off n
  s.meetMarks f (s.reamMarks f off n)

/-- Whether `n` bytes at an offset cover a 64-byte line whole. -/
def coversLine (off n line : Nat) : Bool := decide (off ≤ 64 * line) && decide (64 * line + 64 ≤ off + n)

/-- Bytes with their addresses. -/
def withOffsets (off : Nat) : List Byte → List (Nat × Byte)
  | [] => []
  | b :: bs => (off, b) :: withOffsets (off + 1) bs

def Memory.writeAll (m : Memory) (base : Nat) : List (Nat × Byte) → Memory
  | [] => m
  | e :: es => (m.write (base + e.1) e.2).writeAll base es

/-- Write bytes at the ream base. A line written whole loses its errors; a partial write reads the line and merges, and leaves an
uncorrectable line as it is; where `atOnce`, one such line keeps the whole write from changing anything (R236). True: the write
met an uncorrectable error (R222). -/
def State.reamWrite (s : State) (f : Folio) (off : Nat) (bs : List Byte) (atOnce : Bool) : State × Bool :=
  let n := bs.length
  let s := s.touchReam f off n
  let hits := s.reamMarks f off n
  if hits.isEmpty then (s.writeMem (reamAddr f off) bs, false)
  else
    let part := hits.filter (fun e => !coversLine off n e.1)
    let bad := part.filter (fun e => e.2 = .uncorrectable)
    let (s, met) := s.meetMarks f part
    if atOnce && met then (s, true)
    else
      let s := { s with marks := s.marks.filter (fun e => !(hits.any (fun h =>
        decide (e.1 = reamAddr f (64 * h.1)) && coversLine off n h.1))) }
      let keep := (withOffsets off bs).filter (fun e => !(bad.any (fun h => h.1 = e.1 / 64)))
      ({ s with mem := s.mem.writeAll (reamAddr f 0) keep }, met)

/-! ### Scrubbing and refresh (R223, R224) -/

/-- Whether a ream refreshes at the 16 ms period: FORCE_HOT, or its sensor reads above 85 degrees (R224). -/
def State.reamHot (s : State) (m : Ream) : Bool :=
  s.flag (.reamRefresh m) Fld.reamRefreshForceHot
    || decide (680 < ((Store.get (fun _ => SensorRec.reset) s.energy.sensors (768 + m.val)).past.headD 0))

/-- HOT follows the period. -/
def State.noteHot (s : State) (m : Ream) : State := s.setFlag (.reamStatus m) Fld.reamStatusHot (s.reamHot m)

/-- R223: the patrol scrubber of a ream base reads one line of each pseudo-channel. `PASSES` counts a pass when the last
of its 2^25 steps is done; the step number is held with the ream. -/
def scrubLines (m : Ream) (step : Nat) : List Nat :=
  let f : Folio := Fin.ofNat 8 (m.val / 4)
  -- the 2^25 lines of a pseudo-channel, in order of row, bank, block and line
  (List.range 32).filterMap (fun pc =>
    let line := step % 4
    let col := step / 4 % 8
    let bank := step / 32 % 4
    let bg := step / 128 % 4
    let sid := step / 512 % 4
    let row := step / 2048 % 16384
    let hi := row * 2 ^ 24 + sid * 2 ^ 22 + bg * 2 ^ 20 + bank * 2 ^ 18 + col * 2 ^ 15
    let p := pc ^^^ bitsOf hi 22 18 ^^^ bitsOf hi 30 26
    let q := m.val % 4 ^^^ bitsOf hi 16 15 ^^^ bitsOf hi 25 24
    let x := hi + p * 2 ^ 10 + q * 2 ^ 8 + line * 64
    if (reamLoc f x).ream = m then some (x / 64) else none)

end Sys2Proof.Machine
end

