-- ==== Sys2Proof/Machine/Vat.lean ====
section
/-! DEFINITION. Reads and writes of a vat with its error marks (R187-R189). -/

namespace Sys2Proof.Machine

/-- Record an uncorrectable vat error and stop the step (R188, R189). -/
def State.vatError (s : State) (t : Tile) (off : Nat) : State :=
  let s := s.setReg (.vatUeLast t) (BitVec.ofNat 64 (off % vatSize + 2 ^ 63))
  (s.fault 0x0100 (tileFolio t).val (tileNum t) (off % vatSize) 0).stopStep

/-- What the word code of 8 check bits makes of `hits` bits in error: one is corrected, two are detected (R188). -/
def secded (key hits : Nat) : Option ErrMark :=
  if hits = 0 then none
  else if hits = 1 then some .correctable
  else if hits = 2 then some .uncorrectable
  else match Config.wordOutcome key hits with
    | 0 => none
    | 1 => some .correctable
    | _ => some .uncorrectable

/-- The vat offset of a mark's word. -/
def markWord {α : Type} (t : Tile) (e : Nat × α) : Nat := (e.1 - vatAddr t 0) % vatSize

/-- Whether a mark is on one of the 64-bit words of the tile's vat that `n` bytes at `off` touch; the range wraps at the
end of the vat. -/
def markTouched {α : Type} (t : Tile) (off n : Nat) (e : Nat × α) : Bool :=
  decide (vatAddr t 0 ≤ e.1) && decide (e.1 < vatAddr t 0 + vatSize)
    && decide ((markWord t e + vatSize - off / 8 * 8 % vatSize) % vatSize < n + off % 8)

/-- What the code finds in the marked words that satisfy `p`, by address. -/
def State.wordMarks (s : State) (p : Nat × Nat → Bool) : List (Nat × ErrMark) :=
  (s.marks.filter p).filterMap (fun e => (secded e.1 e.2).map (fun m => (e.1, m)))

/-- The marks on the words that `n` bytes at `off` touch. -/
def State.vatMarksAt (s : State) (t : Tile) (off n : Nat) : List (Nat × ErrMark) := s.wordMarks (markTouched t off n)

/-- Words that are written back or written whole hold no error. -/
def State.dropMarks (s : State) (l : List (Nat × ErrMark)) : State :=
  { s with marks := s.marks.filter (fun e => !(l.any (fun h => h.1 = e.1))) }

/-- Whether a write of `n` bytes at `off` covers the whole word of a mark. -/
def coversWord {α : Type} (t : Tile) (off n : Nat) (e : Nat × α) : Bool :=
  decide ((markWord t e + vatSize - off % vatSize) % vatSize + 8 ≤ n)

/-- Read the words whose marks are `hits`: single-bit errors are corrected, written back and counted, uncorrectable ones
recorded; the offset of the first is returned (R189). -/
def State.vatReadMarks (s : State) (t : Tile) (hits : List (Nat × ErrMark)) : State × Option Nat :=
  let ce := hits.filter (fun e => e.2 = .correctable)
  let s :=
    if ce.isEmpty then s
    else (s.dropMarks ce).bump (.vatCorrected t) Fld.vatCorrectedCount ce.length
  let ue := (hits.filter (fun e => e.2 = .uncorrectable)).map (markWord t)
  (ue.foldl (fun s o => s.vatError t o) s, ue.head?)

/-- Read `n` bytes of the vat for their marks. -/
def State.vatScan (s : State) (t : Tile) (off n : Nat) : State × Option Nat := s.vatReadMarks t (s.vatMarksAt t off n)

/-- `w` bits of the vat from a bit offset, little-endian (R46). -/
def State.vatBits (s : State) (t : Tile) (bitOff w : Nat) : Nat :=
  leNat ((List.range ((bitOff % 8 + w + 7) / 8)).map (fun i => s.mem.read (vatAddr t (bitOff / 8 + i))))
    / 2 ^ (bitOff % 8) % 2 ^ w

/-- The bytes at a vat offset; the offset wraps at the end of the vat. -/
def State.vatRead (s : State) (t : Tile) (off n : Nat) : List Byte :=
  (List.range n).map (fun i => s.mem.read (vatAddr t (off + i)))

def State.vatReadLe (s : State) (t : Tile) (off n : Nat) : Nat := leNat (s.vatRead t off n)

/-- Write bytes at a vat offset, one by one, wrapping at the end of the vat. -/
def State.vatPut (s : State) (t : Tile) (off : Nat) : List Byte → State
  | [] => s
  | b :: bs => State.vatPut { s with mem := s.mem.write (vatAddr t off) b } t (off + 1) bs

/-- A write of bytes into the vat. The words that it covers in part are read first (R188, R189): one that is uncorrectable leaves
the vat as it was and is reported. A word written whole loses its mark. -/
def State.vatWrite (s : State) (t : Tile) (off : Nat) (bs : List Byte) : State × Option Nat :=
  let n := bs.length
  let hits := s.vatMarksAt t off n
  match s.vatReadMarks t (hits.filter (fun e => !coversWord t off n e)) with
  | (s, some o) => (s, some o)
  | (s, none) => ((if hits.isEmpty then s else s.dropMarks hits).vatPut t off bs, none)

end Sys2Proof.Machine
end

