-- ==== Sys2Proof/Machine/Cache.lean ====
section
/-! DEFINITION. The folio cache with its stream prefetchers and hints (R194-R200), and the reads and writes that a
folio's own requesters make in its ream (R196, R222, R241). -/

namespace Sys2Proof.Machine

def Cache.empty : Cache := ⟨[], [], [], [], 0⟩
def State.cache (s : State) (f : Folio) : Cache := Store.get (fun _ => Cache.empty) s.caches f

def State.setCache (s : State) (f : Folio) (c : Cache) : State :=
  { s with caches := Store.set (fun k => k.val) s.caches f c }

/-- The slice of a line (R194). -/
def sliceOf (line : Nat) : Nat :=
  line % 64 ^^^ line / 2 ^ 6 % 64 ^^^ line / 2 ^ 12 % 64 ^^^ line / 2 ^ 18 % 64 ^^^ line / 2 ^ 24 % 64 ^^^ line / 2 ^ 30 % 4

/-- Whether a device access waits for a bias change of a page that it touches (R451). -/
def State.biasWaits (s : State) (f : Folio) (off n : Nat) : Bool :=
  match s.host.flip with
  | none => false
  | some (first, count, _) =>
    let p := f.val * 131072 + off / 2 ^ 21
    rangesMeet p ((off % 2 ^ 21 + n + 2 ^ 21 - 1) / 2 ^ 21) first count

/-- Whether a page is in host bias, where the cache allocates no lines (R253). -/
def State.hostBias (s : State) (f : Folio) (off : Nat) : Bool := s.hostPages.contains (f.val * 131072 + off / 2 ^ 21)

/-- A device access to a page in host bias first resolves host ownership over CXL.cache (R253). -/
def State.resolveHost (s : State) (f : Folio) (off n : Nat) : State :=
  let p := f.val * 131072 + off / 2 ^ 21
  let last := f.val * 131072 + (off + n - 1) / 2 ^ 21
  if n = 0 then s
  else (s.hostPages.filter (fun k => decide (p ≤ k) && decide (k ≤ last))).foldl (fun s k => s.emit (.resolve k)) s

/-! ### Lines (R194, R197, R198) -/

/-- The lines of the set that a line belongs to. -/
def Cache.set (c : Cache) (line : Nat) : List CacheLine :=
  c.lines.filter (fun e =>
    decide (sliceOf e.line = sliceOf line) && decide (Config.cacheSet e.line % 2048 = Config.cacheSet line % 2048))

/-- Change a stream prefetcher. -/
def Cache.updStream (c : Cache) (id : Nat) (g : Stream → Stream) : Cache :=
  { c with streams := c.streams.map (fun t => if t.id = id then g t else t) }

/-- Change a line. -/
def Cache.updLine (c : Cache) (line : Nat) (g : CacheLine → CacheLine) : Cache :=
  { c with lines := c.lines.map (fun e => if e.line = line then g e else e) }

/-- Take a line out. -/
def Cache.drop (c : Cache) (line : Nat) : Cache := { c with lines := c.lines.filter (fun e => decide (e.line ≠ line)) }

/-- The most recent use among lines. -/
def lastUse (es : List CacheLine) : Nat := (es.map CacheLine.used).foldl max 0

/-- The way that tree pseudo-LRU gives up among the ways from `lo` to `hi`: each node points away from its half that was used last
(R194). -/
def treeVictim (set : List CacheLine) : Nat → Nat → Nat → Nat
  | 0, lo, _ => lo
  | n + 1, lo, hi =>
    if hi ≤ lo + 1 then lo
    else
      let mid := lo + 1 + Config.cacheSplit lo hi % (hi - lo - 1)
      let use (a b : Nat) : Nat := lastUse (set.filter (fun e => decide (a ≤ e.way) && decide (e.way < b)))
      if use lo mid > use mid hi then treeVictim set n mid hi else treeVictim set n lo mid

/-- The line that a full set gives up: the newest that an evict-first fill made the next victim (R198), else the one that the
replacement names. -/
def Cache.victim (c : Cache) (line : Nat) : Option CacheLine :=
  let set := c.set line
  let marked := set.filter CacheLine.next
  match marked.find? (fun e => e.used = lastUse marked) with
  | some e => some e
  | none => set.find? (fun e => e.way = treeVictim set 20 0 20)

/-- A line takes a way and is the one used last. -/
def Cache.put (c : Cache) (e : CacheLine) (way : Nat) : Cache :=
  { c with lines := c.lines ++ [{ e with way := way, used := c.uses + 1 }], uses := c.uses + 1 }

/-- The lowest way of a set that holds no line. -/
def Cache.freeWay (c : Cache) (line : Nat) : Nat :=
  ((List.range 20).find? (fun w => (c.set line).all (fun e => decide (e.way ≠ w)))).getD 0

/-- Fill a line. A full set of 20 gives one line up; where that line was prefetched and not used, its prefetcher halves its
distance (R199). The cache allocates no line of a page in host bias (R253). -/
def State.fillLine (s : State) (f : Folio) (e : CacheLine) : State :=
  let c := s.cache f
  if s.hostBias f (64 * e.line) || c.lines.any (fun k => k.line = e.line) then s
  else if (c.set e.line).length < 20 then s.setCache f (c.put e (c.freeWay e.line))
  else
    match c.victim e.line with
    | none => s
    | some v =>
      let c := c.drop v.line
      let c := match v.by' with
        | some id => if v.prefetched then c.updStream id (fun t => { t with distance := max 8 (t.distance / 2) }) else c
        | none => c
      s.setCache f (c.put e v.way)

/-- What the code finds in the words of a line that satisfy `p`. -/
def CacheLine.found (e : CacheLine) (p : Nat → Bool) : List (Nat × ErrMark) :=
  (e.marks.filter (fun m => p m.1)).filterMap (fun m => (secded (8 * e.line + m.1) m.2).map (fun k => (m.1, k)))

/-- A read of words of a cached line: single-bit errors are corrected and counted; an uncorrectable one invalidates the line, is
recorded and stops the step, although the ream holds the value. True: there was one. -/
def State.readLine (s : State) (f : Folio) (e : CacheLine) (p : Nat → Bool) : State × Bool :=
  let hits := e.found p
  let ce := hits.filter (fun m => m.2 = .correctable)
  let s :=
    if ce.isEmpty then s
    else (s.setCache f ((s.cache f).updLine e.line (fun k =>
        { k with marks := k.marks.filter (fun m => !(ce.any (fun h => h.1 = m.1))) }))).bump (.fcCorrected f)
      Fld.fcCorrectedCount ce.length
  if hits.any (fun m => m.2 = .uncorrectable) then
    let s := s.setCache f ((s.cache f).drop e.line)
    let s := s.setReg (.fcUeLast f) (BitVec.ofNat 64 (64 * e.line + 2 ^ 63))
    ((s.fault 0x0101 f.val 0 (64 * e.line) 0).stopStep, true)
  else (s, false)

/-! ### Prefetch (R199) -/

/-- Fetch a line at prefetch priority: nothing where the cache holds it or may not, or where the ream's queue is more than 75 %
full. The read treats errors by R222; a line with an uncorrectable one is not filled. -/
def State.prefetchLine (s : State) (f : Folio) (line : Nat) (by' : Option Nat) : State :=
  if s.hostBias f (64 * line) || (s.cache f).lines.any (fun k => k.line = line) then s
  else if Config.reamQueueFull s.free then s.draw
  else
    let s := (s.draw.bump (.fcPrefIssued f) Fld.fcPrefIssuedCount 1).chargeFolio f (3920 * 64)
    match s.reamScan f (64 * line) 64 with
    | (s, true) => s
    | (s, false) => s.fillLine f { line := line, prefetched := true, by' := by', next := false, marks := [] }

/-- Send the requests of a stream, up to its distance beyond a line, which counts lines of the stream (DESIGN CHOICE, log 226); it
stops at the end of the ream range and after 1,024 lines without a demand hit. Requests complete at once. -/
def State.runStream (s : State) (f : Folio) (line id : Nat) : Nat → State
  | 0 => s
  | n + 1 =>
    match (s.cache f).streams.find? (fun t => t.id = id) with
    | none => s
    | some t =>
      if s.flag (.fcCtl f) Fld.fcCtlPrefetchEn = false then s
      else if t.next < 0 ∨ t.next ≥ 2 ^ 32 ∨ t.idle ≥ 1024 then
        s.setCache f { s.cache f with streams := (s.cache f).streams.filter (fun k => decide (k.id ≠ id)) }
      else if (t.next - line) * t.stride.sign > t.stride.natAbs * t.distance then s
      else
        let s := s.prefetchLine f t.next.toNat (some id)
        let s := s.setCache f ((s.cache f).updStream id (fun t => { t with next := t.next + t.stride, idle := t.idle + 1 }))
        s.runStream f line id n

/-- Whether a requester's demand for a line moves a stream on: the line lies ahead of the one demanded last, at the stream's stride,
and no further than the next line it requests (log 224). -/
def Stream.reaches (t : Stream) (who : Requester) (line : Nat) : Bool :=
  let d := ((line : Int) - t.last) * t.stride.sign
  decide (t.who = who) && decide (0 < d) && decide (d % t.stride.natAbs = 0) && decide ((t.next - line) * t.stride.sign ≥ 0)

/-- A demand moves its stream on: `id` names the prefetcher that brought the line, where one did. The stream becomes the most
recently used, a hit restarts its count of lines, and it runs on from the line. -/
def State.advanceStream (s : State) (f : Folio) (who : Requester) (line : Nat) (hit : Bool) (id : Option Nat) : State :=
  let c := s.cache f
  match c.streams.find? (fun t => t.reaches who line || id = some t.id) with
  | none => s
  | some t =>
    let next := if (t.next - line) * t.stride.sign > 0 then t.next else (line : Int) + t.stride
    let t' := { t with last := line, next := next, idle := if hit then 0 else t.idle }
    (s.setCache f { c with streams := c.streams.filter (fun k => decide (k.id ≠ t.id)) ++ [t'] }).runStream f line t.id 128

/-- Train on a miss: three misses in succession a constant stride of 1 to 16 lines apart, and every further one that no stream
covers, allocate a prefetcher, the least recently used of 64. A hit between them does not break the succession (DESIGN CHOICE,
log 225). -/
def State.train (s : State) (f : Folio) (who : Requester) (line : Nat) : State :=
  let c := s.cache f
  let next : MissRun :=
    match c.misses.find? (fun m => m.who = who) with
    | none => ⟨who, line, 0, 1⟩
    | some m =>
      let d : Int := (line : Int) - (m.line : Int)
      if m.run ≥ 2 ∧ d = m.stride then ⟨who, line, d, m.run + 1⟩
      else if 1 ≤ d.natAbs ∧ d.natAbs ≤ 16 then ⟨who, line, d, 2⟩ else ⟨who, line, 0, 1⟩
  let c : Cache := { c with misses := c.misses.filter (fun m => m.who ≠ who) ++ [next] }
  if c.streams.any (fun t => t.reaches who line) then (s.setCache f c).advanceStream f who line false none
  else if next.run ≥ 3 ∧ s.flag (.fcCtl f) Fld.fcCtlPrefetchEn = true then
    let keep := if c.streams.length ≥ 64 then c.streams.drop 1 else c.streams
    let t : Stream := ⟨s.free, who, next.stride, line, (line : Int) + next.stride, 8, 0⟩
    (s.draw.setCache f { c with streams := keep ++ [t] }).runStream f line s.free 64
  else s.setCache f c

/-- A demand hit on a prefetched line: it is used, and its prefetcher doubles its distance where the line was still in flight. -/
def State.usePrefetch (s : State) (f : Folio) (e : CacheLine) : State :=
  let s := s.bump (.fcPrefUsed f) Fld.fcPrefUsedCount 1
  let late := Config.prefetchLate s.free
  let c := (s.cache f).updLine e.line (fun k => { k with prefetched := false })
  match e.by' with
  | none => s.setCache f c
  | some id => s.draw.setCache f (if late then c.updStream id (fun t => { t with distance := min 64 (2 * t.distance) }) else c)

/-- What a requester's ream traffic is charged to: a tile's energy section, or the folio (R228, R421). -/
def State.chargeUse (s : State) (f : Folio) (who : Option Tile) (n : Nat) : State :=
  match who with
  | some t => s.chargeReam t n
  | none => s.chargeFolio f (3920 * n)

/-- The tile whose meter counts a requester's ream bytes: those of its DMA (R428). -/
def Requester.tile : Requester → Option Tile
  | .dma t => some t
  | .fetch _ => none
  | .hart _ _ => none

/-- A demand read of one line under an allocation policy (R198): 0 allocate, 1 no-allocate, 2 evict-first. A miss under 2 trains
the prefetchers as one under 0 does (DESIGN CHOICE, log 174), and only reads are demand requests (DESIGN CHOICE, log 175). True:
the data holds an uncorrectable error (R197, R222). -/
def State.demandLine (s : State) (f : Folio) (who : Requester) (policy line : Nat) : State × Bool :=
  match (s.cache f).lines.find? (fun e => e.line = line) with
  | some e =>
    let s := s.bump (.fcHits f) Fld.fcHitsCount 1
    let n := (s.cache f).uses + 1
    let s := s.setCache f { (s.cache f).updLine line (fun k => { k with next := false, used := n }) with uses := n }
    let s := if e.prefetched then s.usePrefetch f e else s
    (s.advanceStream f who line true (if e.prefetched then e.by' else none)).readLine f e (fun _ => true)
  | none =>
    let s := (s.bump (.fcMisses f) Fld.fcMissesCount 1).chargeUse f who.tile 64
    let (s, bad) := s.reamScan f (64 * line) 64
    let s := if policy = 1 then s else s.train f who line
    let s := if policy = 1 ∨ bad = true then s else s.fillLine f
      { line := line, prefetched := false, by' := none, next := decide (policy = 2), marks := [] }
    (s, bad)

def State.demandLines (s : State) (f : Folio) (who : Requester) (policy : Nat) : List Nat → State × Bool
  | [] => (s, false)
  | l :: ls =>
    let (s, bad) := s.demandLine f who policy l
    if bad then (s, true) else s.demandLines f who policy ls

/-- The lines that `n` bytes at an offset touch. -/
def linesOf (off n : Nat) : List Nat :=
  if n = 0 then [] else (List.range ((off % 64 + n + 63) / 64)).map (fun i => off / 64 + i)

/-- A read of a folio's ream by one of its own requesters, through the cache. None: the error was delivered to it. -/
def State.folioRead (s : State) (f : Folio) (who : Requester) (policy off n : Nat) : State × Option (List Byte) :=
  let (s, bad) := (s.resolveHost f off n).demandLines f who policy (linesOf off n)
  if bad then (s, none) else (s, some (s.readMem (reamAddr f off) n))

/-- The slice takes a write into a line that it holds (R195): words written whole lose their errors, and the others that it
touches are read. -/
def State.updateLine (s : State) (f : Folio) (off n line : Nat) : State :=
  match (s.cache f).lines.find? (fun e => e.line = line) with
  | none => s
  | some e =>
    let addr (w : Nat) : Nat := 64 * line + 8 * w
    let whole (w : Nat) : Bool := decide (off ≤ addr w) && decide (addr w + 8 ≤ off + n)
    let (s, bad) := s.readLine f e (fun w => rangesMeet (addr w) 8 off n && !whole w)
    if bad then s
    else s.setCache f ((s.cache f).updLine line (fun k => { k with marks := k.marks.filter (fun m => !whole m.1) }))

/-- Before a ream-engine write completes, the slice invalidates its copies (R196). -/
def State.invalidate (s : State) (f : Folio) (off n : Nat) : State :=
  let c := s.cache f
  let keep := c.lines.filter (fun e => !(decide (off / 64 ≤ e.line) && decide (64 * e.line < off + n)))
  if keep.length = c.lines.length then s else s.setCache f { c with lines := keep }

/-- One ns of the hint queues: each folio's oldest hint is carried out, its lines fetched at prefetch priority (R200). -/
def State.hintNs (s : State) (f : Folio) : State :=
  let c := s.cache f
  match c.hints with
  | [] => s
  | (off, n) :: rest =>
    (linesOf off n).foldl (fun s l => s.prefetchLine f l none) (s.setCache f { c with hints := rest })

end Sys2Proof.Machine
end

