-- ==== Sys2Proof/Machine/Engine.lean ====
section
/-! DEFINITION. The ream engines: remote operations (R233-R236), accumulation regions (R237-R241), the patrol scrubber and
refresh (R223-R225). -/

namespace Sys2Proof.Machine

/-! ### Reads and writes at an engine -/

/-- Read bytes at the engines of a folio. None: an uncorrectable error (R222). The bytes are charged by R228. -/
def State.baseRead (s : State) (f : Folio) (off n : Nat) : State × Option (List Byte) :=
  match (s.chargeFolio f (3920 * n)).reamScan f off n with
  | (s, true) => (s, none)
  | (s, false) => (s, some (s.readMem (reamAddr f off) n))

/-- Cut bytes at 256-byte block boundaries (R229). -/
def pieces (off : Nat) : Nat → List Byte → List (Nat × List Byte)
  | 0, _ => []
  | n + 1, bs =>
    if bs.isEmpty then []
    else
      let k := 256 - off % 256
      (off, bs.take k) :: pieces (off + k) n (bs.drop k)

/-- Write pieces until one meets an uncorrectable error and changes nothing (R236); the slices invalidate their copies
(R196). -/
def State.writePieces (s : State) (f : Folio) : List (Nat × List Byte) → State × Bool
  | [] => (s, false)
  | p :: ps =>
    match ((s.chargeFolio f (3920 * p.2.length)).invalidate f p.1 p.2.length).reamWrite f p.1 p.2 true with
    | (s, true) => (s, true)
    | (s, false) => s.writePieces f ps

/-- Write bytes at the engines of a folio. True: an uncorrectable error. -/
def State.baseWrite (s : State) (f : Folio) (off : Nat) (bs : List Byte) : State × Bool :=
  s.writePieces f (pieces off (bs.length / 256 + 2) bs)

/-! ### Slots (R238) -/

def slotAcc (bs : List Byte) : LongAcc :=
  let fl := leNat ((bs.drop 40).take 1)
  ⟨BitVec.ofNat 320 (leNat (bs.take 40)), fl.testBit 0, fl.testBit 1, fl.testBit 2, fl.testBit 3,
    leNat ((bs.drop 48).take 8) % 2 ^ 43⟩

def accFlags (a : LongAcc) : Nat :=
  (if a.nan then 1 else 0) + (if a.pinf then 2 else 0) + (if a.ninf then 4 else 0) + (if a.allNegZ then 8 else 0)

def accSlot (a : LongAcc) : List Byte :=
  leBytes 40 a.v.toNat ++ leBytes 1 (accFlags a) ++ leBytes 7 0 ++ leBytes 8 a.count ++ leBytes 8 0

def State.regionSlotOff (s : State) (f : Folio) (r : Fin 256) : Nat := 64 * s.fld (.regionSlot f r) Fld.regionSlotAddr

/-! ### Element operations -/

/-- The lowest of the status codes that hold; 0 when none does (R236). -/
def lowestStatus (l : List (Bool × Nat)) : Nat :=
  ((l.filter (·.1)).map (·.2)).foldl (fun m c => if m = 0 then c else min m c) 0

/-- An integer atomic on the old value and its operand, `w` bits wide (R234). -/
def atomic (op w old a b : Nat) : Nat :=
  let less := signedOf w old < signedOf w a
  match op with
  | 0x08 => (old + a) % 2 ^ w
  | 0x09 => old &&& a
  | 0x0A => old ||| a
  | 0x0B => old ^^^ a
  | 0x0C => if less then old else a
  | 0x0D => if less then a else old
  | 0x0E => min old a
  | 0x0F => max old a
  | 0x10 => a
  | 0x11 => if old = a then b else old
  | _ => old

/-- A reduction of a stored element with an operand element (R235). -/
def reduce (op : Nat) (e : Elem) (rm : Rm) (satc : Bool) (old a : Nat) : Nat :=
  if e.isInt then
    let less := signedOf e.width old < signedOf e.width a
    if op = 0x18 then (old + a) % 2 ^ e.width
    else if op = 0x19 then (if less then a else old)
    else if less then old else a
  else if op = 0x18 then (e.encode rm satc 0 ((e.decode old).add (e.decode a)).1).1
  else
    let x := (toF32 .rne (e.decode old)).1
    let y := (toF32 .rne (e.decode a)).1
    (e.encode .rne false 0 (ofF32 (f32MinMax (op = 0x19) x y).1)).1

/-- The addend of an ACC operation applied to an accumulator, and whether it exceeded the count limit (R240). -/
def applyAddend (op : Nat) (e : Elem) (a : LongAcc) (bs : List Byte) : LongAcc × Bool :=
  if op = 0x20 then a.add (e.decode (leNat bs))
  else if op = 0x21 then a.addCarry (decodeCarry (BitVec.ofNat 64 (leNat bs))) 0
  else if a.count ≥ 2 ^ 42 then ({ a with nan := true }, true)
  else
    let x := slotAcc bs
    ({ a with
      v := a.v + x.v, nan := a.nan || x.nan, pinf := a.pinf || x.pinf, ninf := a.ninf || x.ninf,
      allNegZ := a.allNegZ && x.allNegZ, count := a.count + 1 }, false)

/-! ### A remote operation -/

def ReadyOp.off (o : ReadyOp) : Nat := opOffset o.word0
def ReadyOp.op (o : ReadyOp) : Nat := opCode o.word0
def ReadyOp.fmt (o : ReadyOp) : Nat := o.word0.toNat / 2 ^ 52 % 16
def ReadyOp.rm (o : ReadyOp) : Nat := o.word0.toNat / 2 ^ 56 % 4
def ReadyOp.satc (o : ReadyOp) : Bool := o.word0.getLsbD 58
def ReadyOp.length (o : ReadyOp) : Nat := o.word1.toNat % 2 ^ 17
def ReadyOp.region (o : ReadyOp) : Fin 256 := Fin.ofNat 256 (o.word1.toNat / 2 ^ 32)
def ReadyOp.inVat (o : ReadyOp) : Bool := decide (o.off ≥ reamLimit)
def ReadyOp.isAtom (o : ReadyOp) : Bool := decide (0x08 ≤ o.op) && decide (o.op ≤ 0x12)
def ReadyOp.isRed (o : ReadyOp) : Bool := decide (0x18 ≤ o.op) && decide (o.op ≤ 0x1A)
def ReadyOp.isAcc (o : ReadyOp) : Bool := decide (0x20 ≤ o.op)
def ReadyOp.elem (o : ReadyOp) : Elem := ((Fmt.ofCode o.fmt).map Fmt.elem).getD (Fmt.elem .fp32)

/-- The data bytes that an operation defines (R235). -/
def ReadyOp.wants (o : ReadyOp) : Nat :=
  if o.op = 0 then 0 else if o.op = 0x11 then 2 * o.length else o.length

/-- The bytes of a data element of an ACC operation (R239). -/
def ReadyOp.accWidth (o : ReadyOp) : Nat :=
  if o.op = 0x20 then fmtBytes o.fmt else if o.op = 0x21 then 8 else 48

/-- BAD_FIELD (R233-R236). -/
def ReadyOp.badField (o : ReadyOp) : Bool :=
  let rsv := decide (o.word0.toNat ≥ 2 ^ 59) || decide (o.word1.toNat / 2 ^ 17 % 2 ^ 15 ≠ 0)
    || decide (o.word1.toNat ≥ 2 ^ 40)
  let useFmt := o.op = 0x12 || o.isRed || o.op = 0x20
  let useRm := o.op = 0x12 || (o.isRed && decide (o.fmt ≠ 12))
  let useSat := o.isRed && decide (o.fmt ≠ 12)
  let badWord := o.op = 0x21 && (elements 8 o.data).any (fun bs =>
    match decodeCarry (BitVec.ofNat 64 (leNat bs)) with
    | .escape | .invalid => true
    | _ => false)
  let badWide := o.op = 0x22 && (elements 48 o.data).any (fun bs => decide (16 ≤ leNat (bs.drop 40)))
  rsv || !([2, 3, 5].contains o.cls.toNat) || decide (o.rm ≥ 2) || (!useFmt && decide (o.fmt ≠ 0))
    || (!useRm && decide (o.rm ≠ 0)) || (!useSat && o.satc) || (!o.isAcc && decide (o.region.val ≠ 0))
    || decide (o.length = 0) || decide (o.length > 65536) || decide (o.data.length ≠ o.wants)
    || (o.isAtom && !(if o.op = 0x12 then [4] else [4, 8]).contains o.length) || badWord || badWide

/-- BAD_FORMAT (R234). -/
def ReadyOp.badFormat (o : ReadyOp) : Bool :=
  if o.op = 0x12 then decide (o.fmt ≠ 0)
  else if o.isRed then !([0, 1, 2, 12].contains o.fmt)
  else if o.op = 0x20 then !([0, 1, 2, 3, 4, 10, 12].contains o.fmt)
  else false

/-- Why an operation is refused before anything is performed: a status of R236, 0 for none. An ACC operation that names a
region is held against that region's arrays only while it is OPEN; an OFFSET below TARGET reaches no element of the
region, which is RANGE (DESIGN CHOICE, log 58). -/
def opStatus (s : State) (f : Folio) (o : ReadyOp) : Nat :=
  let align : Bool :=
    if o.isAtom then decide (o.off % max o.length 1 ≠ 0)
    else if o.isRed then
      let w := fmtBytes o.fmt
      !o.badFormat && (decide (o.off % w ≠ 0) || decide (o.length % w ≠ 0))
    else false
  if o.isAcc then
    let r := o.region
    let opened := s.fld (.regionState f r) Fld.regionStateState = 1
    let w := fmtBytes (s.fld (.regionCount f r) Fld.regionCountFmt)
    let target := s.fld (.regionTarget f r) Fld.regionTargetOffset
    let n := o.length / o.accWidth
    lowestStatus
      [(o.badField, 1),
       (opened && (decide (o.off < target) ||
         decide ((o.off - target) / w + n > s.fld (.regionCount f r) Fld.regionCountCount)), 2),
       (decide (o.length % o.accWidth ≠ 0) || (opened && decide (target ≤ o.off) && decide ((o.off - target) % w ≠ 0)), 3),
       (o.badFormat, 4), (!opened, 5)]
  else
    let last := if o.inVat then reamLimit + 24 * vatSize else reamLimit
    lowestStatus
      [(o.badField, 1), (decide (o.off + o.length > last), 2), (align, 3), (o.badFormat, 4),
       (!o.inVat && decide (o.op ≠ 0) && s.regionBlocks f o.off o.length, 6)]

/-- Apply the elements of an ACC operation to their slots, from element `i` on (R239, R240): the state, the status so
far. -/
def State.accElements (s : State) (f : Folio) (o : ReadyOp) : Nat → Nat → List (List Byte) → State × Nat
  | _, st, [] => (s, st)
  | i, st, bs :: rest =>
    let off := s.regionSlotOff f o.region + 64 * i
    match s.baseRead f off 64 with
    | (s, none) => (s, if st = 8 then 8 else 9)
    | (s, some slot) =>
      let (a, ovf) := applyAddend o.op o.elem (slotAcc slot) bs
      match s.baseWrite f off (accSlot a) with
      | (s, true) => (s, if ovf || decide (st = 8) then 8 else 9)
      | (s, false) => s.accElements f o (i + 1) (if ovf then 8 else st) rest

/-- The parts of `n` bytes at a folio offset in the vat range that lie in one vat each: the tile, the vat offset and the
length. An operation touches at most two vats. -/
def vatParts (f : Folio) (off n : Nat) : List (Tile × Nat × Nat) :=
  let tile (x : Nat) : Tile := Fin.ofNat 192 (f.val * 24 + (x - reamLimit) / vatSize)
  let at' := (off - reamLimit) % vatSize
  let k := min n (vatSize - at')
  if k = n then [(tile off, at', n)] else [(tile off, at', k), (tile (off + k), 0, n - k)]

/-- Check the parts of a vat load for uncorrectable words. True: one was met. -/
def State.scanParts (s : State) : List (Tile × Nat × Nat) → State × Bool
  | [] => (s, false)
  | p :: ps =>
    match s.vatScan p.1 p.2.1 p.2.2 with
    | (s, some _) => (s, true)
    | (s, none) => s.scanParts ps

/-- Write the parts of a vat store. True: an uncorrectable word was met. -/
def State.writeParts (s : State) : List (Tile × Nat × Nat) → List Byte → State × Bool
  | [], _ => (s, false)
  | p :: ps, bs =>
    match s.vatWrite p.1 p.2.1 (bs.take p.2.2) with
    | (s, some _) => (s, true)
    | (s, none) => s.writeParts ps (bs.drop p.2.2)

/-- The effect of an operation that is not refused: the state, its status and the reply's data. -/
def State.performOp (s : State) (f : Folio) (o : ReadyOp) : State × Nat × List Byte :=
  let rm := (Rm.ofCode o.rm).getD .rne
  if o.inVat then
    if o.op = 0 then
      match s.scanParts (vatParts f o.off o.length) with
      | (s, true) => (s, 9, [])
      | (s, false) => (s, 0, s.readMem (dieAddr f.val o.off) o.length)
    else
      match s.writeParts (vatParts f o.off o.length) o.data with
      | (s, true) => (s, 9, [])
      | (s, false) => (s, 0, [])
  else if o.op = 0 then
    match s.baseRead f o.off o.length with
    | (s, none) => (s, 9, [])
    | (s, some bs) => (s, 0, bs)
  else if o.op = 1 then
    match s.baseWrite f o.off o.data with
    | (s, true) => (s, 9, [])
    | (s, false) => (s, 0, [])
  else if o.isAtom then
    match s.baseRead f o.off o.length with
    | (s, none) => (s, 9, [])
    | (s, some old) =>
      let a := leNat (o.data.take o.length)
      let b := leNat (o.data.drop o.length)
      let new := if o.op = 0x12 then
          (f32Add rm (BitVec.ofNat 32 (leNat old)) (BitVec.ofNat 32 a)).1.toNat
        else atomic o.op (8 * o.length) (leNat old) a b
      match s.baseWrite f o.off (leBytes o.length new) with
      | (s, true) => (s, 9, [])
      | (s, false) => (s, 0, old)
  else if o.isRed then
    match s.baseRead f o.off o.length with
    | (s, none) => (s, 9, [])
    | (s, some old) =>
      let w := fmtBytes o.fmt
      let new := ((elements w old).zip (elements w o.data)).flatMap (fun p =>
        leBytes w (reduce o.op o.elem rm o.satc (leNat p.1) (leNat p.2)))
      match s.baseWrite f o.off new with
      | (s, true) => (s, 9, [])
      | (s, false) => (s, 0, [])
  else
    let r := o.region
    let i := (o.off - s.fld (.regionTarget f r) Fld.regionTargetOffset)
      / fmtBytes (s.fld (.regionCount f r) Fld.regionCountFmt)
    let (s, st) := s.accElements f o i 0 (elements o.accWidth o.data)
    (s, st, [])

/-- The bytes of its folio's ream that an operation touches: those it names, or the slots of an ACC operation (R239). -/
def ReadyOp.span (o : ReadyOp) (s : State) (f : Folio) : Nat × Nat :=
  if o.isAcc then
    let r := o.region
    let i := (o.off - s.fld (.regionTarget f r) Fld.regionTargetOffset) / fmtBytes (s.fld (.regionCount f r) Fld.regionCountFmt)
    (s.regionSlotOff f r + 64 * i, 64 * (o.length / o.accWidth))
  else (o.off, o.length)

/-- The effect of the oldest operation on the device, and its answer. -/
def State.carryOut (s : State) (f : Folio) (o : ReadyOp) : State :=
  let (s, st, data) :=
    if opStatus s f o ≠ 0 then (s, opStatus s f o, [])
    else if o.inVat && (vatParts f o.off o.length).any (fun p => (s.tile p.1).inReset) then (s, 0x4B, [])
    else (if o.inVat then s else s.resolveHost f (o.span s f).1 (o.span s f).2).performOp f o
  let s := if o.inVat then s
    else if st = 0 then s.bump (.engOps f) Fld.engOpsCount 1 else s.bump (.engNaks f) Fld.engNaksCount 1
  let a : Answer := if st = 0 then .reply data else .nak st
  s.completeRequest (folioDie f) answerNode o.req o.depart o.came a a

/-- Perform an operation that is complete at a folio, and answer it (R232-R241). A tile in reset answers TILE_RESET for its vat
(R40). An operation waits while the bias of a page that it touches changes (R451). A request sent again that was complete before the
first one was performed is answered from its record, but for a LOAD (R310). -/
def State.performReady (s : State) (f : Folio) (o : ReadyOp) : State :=
  if s.clocksStopped = true ∨ (o.inVat = false ∧ s.biasWaits f (o.span s f).1 (o.span s f).2 = true) then s
  else
    let s := s.updNet (fun w => { w with ready := w.ready.erase o })
    match s.net.dups.find? (fun r => r.is (folioDie f) o.req) with
    | some r => if o.op = 0 then s.carryOut f o else s.answerDuplicate (folioDie f) o.req r
    | none => s.carryOut f o

/-- The operation that a folio performs next: the oldest complete one (R232). -/
def State.headOp (s : State) (f : Folio) : Option ReadyOp := s.net.ready.find? (fun o => o.folio = f)

/-- Perform the oldest complete operation of a folio where its code is `op`. -/
def State.runOp (s : State) (f : Folio) (op : Nat) : State :=
  match s.headOp f with
  | none => s
  | some o => if o.op = op then s.performReady f o else s

/-! ### The order of accesses to one word (R230-R232, R252) -/

/-- Whether two ranges of bytes touch a common 8-byte word. -/
def wordsMeet (a n b m : Nat) : Bool :=
  decide (n ≠ 0) && decide (m ≠ 0)
    && rangesMeet (a / 8 * 8) ((a % 8 + n + 7) / 8 * 8) (b / 8 * 8) ((b % 8 + m + 7) / 8 * 8)

/-- Whether an operation touches a word of `n` bytes at an offset: the words of its bytes, or those of an ACC operation's
slots. -/
def ReadyOp.touches (o : ReadyOp) (s : State) (f : Folio) (off n : Nat) : Bool :=
  !o.inVat && wordsMeet (o.span s f).1 (o.span s f).2 off n

/-- Before an access of another kind to `n` bytes at an offset, the operations complete at the folio are performed, up to the last
that touches one of its words. -/
def State.settleOps (s : State) (f : Folio) (off n : Nat) : State :=
  let ops := s.net.ready.filter (fun o => decide (o.folio = f) && !o.inVat)
  ((ops.reverse.dropWhile (fun o => !o.touches s f off n)).reverse).foldl (fun s o => s.performReady f o) s

/-- A read by an engine command, or by a unit of the device through the engines. None: an uncorrectable error. -/
def State.engRead (s : State) (f : Folio) (off n : Nat) : State × Option (List Byte) :=
  ((s.settleOps f off n).resolveHost f off n).baseRead f off n

/-- A write of the same kind. True: an uncorrectable error. -/
def State.engWrite (s : State) (f : Folio) (off : Nat) (bs : List Byte) : State × Bool :=
  ((s.settleOps f off bs.length).resolveHost f off bs.length).baseWrite f off bs

def execLoad (f : Folio) (s : State) : Host.Outcome State Fault Refusal := .next (s.runOp f 0x00)
def execStore (f : Folio) (s : State) : Host.Outcome State Fault Refusal := .next (s.runOp f 0x01)
def execAtomAdd (f : Folio) (s : State) : Host.Outcome State Fault Refusal := .next (s.runOp f 0x08)
def execAtomAnd (f : Folio) (s : State) : Host.Outcome State Fault Refusal := .next (s.runOp f 0x09)
def execAtomOr (f : Folio) (s : State) : Host.Outcome State Fault Refusal := .next (s.runOp f 0x0A)
def execAtomXor (f : Folio) (s : State) : Host.Outcome State Fault Refusal := .next (s.runOp f 0x0B)
def execAtomSmin (f : Folio) (s : State) : Host.Outcome State Fault Refusal := .next (s.runOp f 0x0C)
def execAtomSmax (f : Folio) (s : State) : Host.Outcome State Fault Refusal := .next (s.runOp f 0x0D)
def execAtomUmin (f : Folio) (s : State) : Host.Outcome State Fault Refusal := .next (s.runOp f 0x0E)
def execAtomUmax (f : Folio) (s : State) : Host.Outcome State Fault Refusal := .next (s.runOp f 0x0F)
def execAtomSwap (f : Folio) (s : State) : Host.Outcome State Fault Refusal := .next (s.runOp f 0x10)
def execAtomCas (f : Folio) (s : State) : Host.Outcome State Fault Refusal := .next (s.runOp f 0x11)
def execAtomFadd (f : Folio) (s : State) : Host.Outcome State Fault Refusal := .next (s.runOp f 0x12)
def execRedAdd (f : Folio) (s : State) : Host.Outcome State Fault Refusal := .next (s.runOp f 0x18)
def execRedMax (f : Folio) (s : State) : Host.Outcome State Fault Refusal := .next (s.runOp f 0x19)
def execRedMin (f : Folio) (s : State) : Host.Outcome State Fault Refusal := .next (s.runOp f 0x1A)
def execAccAdd (f : Folio) (s : State) : Host.Outcome State Fault Refusal := .next (s.runOp f 0x20)
def execAccCarry (f : Folio) (s : State) : Host.Outcome State Fault Refusal := .next (s.runOp f 0x21)
def execAccWide (f : Folio) (s : State) : Host.Outcome State Fault Refusal := .next (s.runOp f 0x22)

/-- A host read of ream memory, which resolves no ownership (R252, R253). -/
def State.hdmRead (s : State) (f : Folio) (off n : Nat) : State × Option (List Byte) := (s.settleOps f off n).baseRead f off n

/-- A host write of ream memory. -/
def State.hdmWrite (s : State) (f : Folio) (off : Nat) (bs : List Byte) : State × Bool :=
  (s.settleOps f off bs.length).baseWrite f off bs

/-! ### Upkeep -/

/-- The steps of a scrub pass (R223). -/
def scrubPass : Nat := 2 ^ 25

/-- R223: one line of each pseudo-channel is read; errors go by R222. A pass that ends clears the counts of corrected
errors per row (R226). -/
def doReamScrub (m : Ream) (s : State) : State :=
  if s.flag (.reamScrub m) Fld.reamScrubEnable = false ∨ s.clocksStopped = true
    ∨ s.flag (.reamStatus m) Fld.reamStatusSelfRefresh = true then s
  else
    let s := s.chargeFolio (reamFolio m) (3920 * 64 * 32)
    let k := Store.get (fun _ => 0) s.scrubStep m
    let s := (scrubLines m k).foldl (fun s l => (s.reamScan (reamFolio m) (64 * l) 64).1) s
    if k + 1 = scrubPass then
      ({ s with
        scrubStep := Store.put (fun r => r.val) (fun _ => 0) s.scrubStep m 0
        rowErrors := s.rowErrors.filter (fun e => decide (e.1 / 16384 / 2048 ≠ m.val)) }).bump (.reamScrub m)
          Fld.reamScrubPasses 1
    else { s with scrubStep := Store.put (fun r => r.val) (fun _ => 0) s.scrubStep m (k + 1) }

def execReamScrub (m : Ream) (s : State) : Host.Outcome State Fault Refusal := .next (doReamScrub m s)

/-- R224, R225: a refresh of a bank falls due. With requests queued it is postponed, up to 8 times, and then issued ahead
of them, with the neighbours of the rows that have reached 2,048 activations. `rows` names the 8 rows that the command covers: the
order in which a base takes them is its own (log 189). A stack in self-refresh refreshes itself (R227). -/
def doRefresh (m : Ream) (bank : Fin 2048) (queued : Bool) (rows : Fin 2048) (s : State) : State :=
  if s.clocksStopped = true ∨ s.flag (.reamStatus m) Fld.reamStatusSelfRefresh = true then s
  else
    let s := s.noteHot m
    let key := m.val * 2048 + bank.val
    let n := Store.get (fun _ => 0) s.postponed key
    if queued && decide (n < 8) then
      { s with postponed := Store.put id (fun _ => 0) s.postponed key (n + 1) }
    else
      let s := { s with postponed := Store.put id (fun _ => 0) s.postponed key 0 }
      let s := if queued then s.bump (.reamRefresh m) Fld.reamRefreshForced 1 else s
      let b := s.bank key
      (s.setBank key (b.refresh rows.val)).bump (.reamHammer m) Fld.reamHammerCount b.due

def execRefresh (m : Ream) (bank : Fin 2048) (queued : Bool) (rows : Fin 2048) (s : State) : Host.Outcome State Fault Refusal :=
  .next (doRefresh m bank queued rows s)

end Sys2Proof.Machine
end

