-- ==== Sys2Proof/Machine/Plain.lean ====
section
/-! DEFINITION. The plain writes of a folio's own requesters to its ream (R195, R222, R230-R232, R241). -/

namespace Sys2Proof.Machine

/-- A write of a folio's ream by one of its own requesters, charged to the tile `who` or to the folio: write-through (R195),
after the engine operations on the same words that were complete before it (R232), dropped and recorded where a region forbids it
(R241). A write that meets an uncorrectable line is reported by the fault record and the stop; its slice invalidates the line
(R222). -/
def State.folioWrite (s : State) (f : Folio) (who : Option Tile) (off : Nat) (bs : List Byte) : State :=
  let n := bs.length
  let s := s.settleOps f off n
  if s.regionBlocks f off n then s.fault 0x0104 f.val 0 off 0
  else
    let s := (s.resolveHost f off n).chargeUse f who n
    let s := (linesOf off n).foldl (fun s l => s.updateLine f off n l) s
    let (s, bad) := s.reamWrite f off bs false
    if bad then
      let c := s.cache f
      s.setCache f { c with lines := c.lines.filter (fun e => !(linesOf off n).contains e.line) }
    else s

end Sys2Proof.Machine
end

