-- ==== Sys2Proof/Machine/Events.lean ====
section
/-! DEFINITION. The parser-core event queues and the event mirror (R451, R468, R469, R539). -/

namespace Sys2Proof.Machine

/-- The 64 bytes of an event entry (R468). -/
def eventBytes (kind source phase : Nat) (record : List Byte) : List Byte :=
  leBytes 1 kind ++ leBytes 1 phase ++ leBytes 2 source ++ leBytes 4 0 ++ (record ++ leBytes 32 0).take 32
    ++ leBytes 24 0

/-- The ream offset of the next slot of a folio's event queue, and of its mirror in FOLIO_0 (R469, R539). -/
def State.eventSlot (s : State) (f : Folio) : Nat :=
  64 * s.fld (.evqBase f) Fld.evqBaseAddr + s.fld (.evqTail f) Fld.evqTailIndex % 2 ^ s.fld (.evqSize f) Fld.evqSizeLog2 * 64
def State.mirrorSlot (s : State) (f : Folio) : Nat :=
  0x3FFC000000 + 0x3F80000 + f.val * 0x10000 + s.fld (.evqTail f) Fld.evqTailIndex % 1024 * 64

/-- An event that is lost (R469). -/
def State.loseEvent (s : State) (f : Folio) : State :=
  (s.bump (.evqStatus f) Fld.evqStatusLost 1).setFlag (.evqStatus f) Fld.evqStatusOverflow true

/-- An event for a folio's parser cores: written at EVQ_TAIL with its MSI, or lost (R469, R472), and mirrored where EVQ_HOST
is enabled (R539). -/
def State.writeEvent (s : State) (f : Folio) (kind source : Nat) (record : List Byte) : State :=
  let tail := s.fld (.evqTail f) Fld.evqTailIndex
  let head := s.fld (.evqHead f) Fld.evqHeadIndex
  let size := 2 ^ s.fld (.evqSize f) Fld.evqSizeLog2
  if s.flag (.evqCtl f) Fld.evqCtlEnable = true ∧ (tail + 2 ^ 32 - head) % 2 ^ 32 < size then
    let mirror := s.mirrorSlot f
    let s := s.folioWrite f none (s.eventSlot f) (eventBytes kind source (1 - tail / size % 2) record)
    let s := if s.feature 4 then s.folioWrite 0 none mirror (eventBytes kind source (1 - tail / 1024 % 2) record) else s
    let s := s.setFld (.evqTail f) Fld.evqTailIndex ((tail + 1) % 2 ^ 32)
    s.sendMsi f (Fin.ofNat 4 (s.fld (.evqCtl f) Fld.evqCtlHart)) (s.fld (.evqCtl f) Fld.evqCtlEiid)
  else s.loseEvent f

/-- Whether an event of a folio waits: for a bias change of a page that it would be written to, or behind an event that does (R451). -/
def State.eventWaits (s : State) (f : Folio) : Bool :=
  s.flag (.evqCtl f) Fld.evqCtlEnable && (s.net.events.any (fun e => decide (e.folio = f)) || s.biasWaits f (s.eventSlot f) 64
    || (s.feature 4 && s.biasWaits 0 (s.mirrorSlot f) 64))

/-- An event comes about. -/
def State.postEvent (s : State) (f : Folio) (kind source : Nat) (record : List Byte) : State :=
  if s.eventWaits f then s.updNet (fun w => { w with events := w.events ++ [⟨f, kind, source, record⟩] })
  else s.writeEvent f kind source record

/-- The events that waited for a bias change are written. -/
def State.postHeld (s : State) : State :=
  let l := s.net.events
  l.foldl (fun s e => s.postEvent e.folio e.kind e.source e.record) (s.updNet (fun w => { w with events := [] }))

end Sys2Proof.Machine
end

