-- ==== Sys2Proof/Machine/Operands.lean ====
section
/-! DEFINITION. The fields an instruction may use and the ILLEGAL_ENCODING checks of R72; the operand forms of R73 and
R84. The class and opcode of a command's row are fixed by its mnemonic, so a reserved CLASS or OP cannot be sent. -/

namespace Sys2Proof

open Machine

/-- The extension-word rule of an instruction (R72, R73). -/
inductive ExtRule where
  | never
  | optional
  | required
  deriving DecidableEq, Repr

def ExtRule.ok : ExtRule → Bool → Bool
  | .never, x => !x
  | .optional, _ => true
  | .required, x => x

/-- The fields an instruction of format R uses: every other field and bit is reserved (R71). `dA` and `aA` say that D
or A names an address register. -/
structure RUse where
  d : Bool := false
  a : Bool := false
  b : Bool := false
  m : BitVec 6 := 0
  imm : W32 := 0
  dA : Bool := false
  aA : Bool := false
  ext : ExtRule := .never
  deriving DecidableEq, Repr

/-- R72 for format R. With X = 1 the IMM field must be zero (R73). -/
def RWord.legal (w : RWord) (u : RUse) : Bool :=
  u.ext.ok w.x
    && (u.d || w.d == 0) && (u.a || w.a == 0) && (u.b || w.b == 0)
    && (w.m &&& ~~~ u.m == 0) && (w.imm &&& ~~~ u.imm == 0)
    && (!w.x || w.imm == 0)
    && (!u.dA || decide (w.d.toNat < 16)) && (!u.aA || decide (w.a.toNat < 16))

/-- The instruction word of format R (R70, R71). -/
def RWord.word (w : RWord) (cls op : Nat) : W64 :=
  BitVec.ofNat 64 (cls * 2 ^ 60 + op * 2 ^ 54 + (if w.x then 2 ^ 53 else 0) + w.d.toNat * 2 ^ 48 + w.a.toNat * 2 ^ 43
    + w.b.toNat * 2 ^ 38 + w.m.toNat * 2 ^ 32 + w.imm.toNat)

/-- The bytes an instruction occupies (R70, R73). -/
def RWord.size (w : RWord) : Nat := if w.x then 16 else 8

/-- sext(IMM). -/
def RWord.simm (w : RWord) : W64 := w.imm.signExtend 64

/-- The immediate of an instruction that may take an extension word (R73). -/
def RWord.immediate (w : RWord) : W64 := if w.x then w.ext else w.simm

/-- The use of a scalar instruction marked "b" (R84): with M[0] = 0 it names s[b] and takes no immediate; with M[0] = 1
the immediate replaces s[b]. -/
def RWord.useB (w : RWord) (u : RUse) : RUse :=
  if w.m.getLsbD 0 then { u with m := 1, imm := BitVec.allOnes 32, ext := .optional } else { u with b := true, m := 1 }

/-- The value of operand b of such an instruction. -/
def RWord.valueB (w : RWord) (x : TileState) : W64 := if w.m.getLsbD 0 then w.immediate else x.readS w.b.toFin

def RWord.sd (w : RWord) : Fin 32 := w.d.toFin
def RWord.sa (w : RWord) : Fin 32 := w.a.toFin
def RWord.sb (w : RWord) : Fin 32 := w.b.toFin
def RWord.ad (w : RWord) : Fin 16 := Fin.ofNat 16 w.d.toNat
def RWord.aa (w : RWord) : Fin 16 := Fin.ofNat 16 w.a.toNat

/-- The fields an instruction of format P uses (R71, R91). -/
structure PUse where
  acc : Bool := false
  fmt : Bool := false
  aa : Bool := false
  sb : Bool := false
  mode : Bool := false
  fin : Bool := false
  deriving DecidableEq, Repr

/-- Whether a format code lies in a list of codes. -/
def fmtIn (c : BitVec 4) (l : List Nat) : Bool := l.contains c.toNat

/-- Whether a format code names an MX format. -/
def mxCode (c : BitVec 4) : Bool := decide (5 ≤ c.toNat) && decide (c.toNat ≤ 9)

/-- R72 and R92 for format P: an MX format requires the extension word, whose bits [63:22] are reserved; every other
form takes none. The press accepts codes 1-11 (R91). -/
def PWord.legal (w : PWord) (u : PUse) : Bool :=
  (u.acc || w.acc == 0) && (u.aa || w.aa == 0) && (u.sb || w.sb == 0) && (u.mode || !w.mode) && (u.fin || !w.fin)
    && (w.rsv == 0)
    && (if u.fmt then decide (1 ≤ w.fmt.toNat) && decide (w.fmt.toNat ≤ 11) else w.fmt == 0)
    && (if u.fmt && mxCode w.fmt then w.x && decide (w.ext.toNat < 2 ^ 22) else !w.x)

def PWord.word (w : PWord) (cls op : Nat) : W64 :=
  BitVec.ofNat 64 (cls * 2 ^ 60 + op * 2 ^ 54 + (if w.x then 2 ^ 53 else 0) + w.acc.toNat * 2 ^ 51 + w.fmt.toNat * 2 ^ 47
    + w.aa.toNat * 2 ^ 43 + w.sb.toNat * 2 ^ 38 + (if w.mode then 2 ^ 37 else 0) + (if w.fin then 2 ^ 36 else 0)
    + w.rsv.toNat)

def PWord.size (w : PWord) : Nat := if w.x then 16 else 8

/-- The fields an instruction of format I uses (R71, R96): format codes and rounding modes it accepts, the bits of OPX
it uses, and whether an MX format takes an extension word. -/
structure IUse where
  td : Bool := false
  ta : Bool := false
  tb : Bool := false
  tc : Bool := false
  pg : Bool := false
  ax : Bool := false
  rm : List Nat := [0]
  satc : Bool := false
  fmt : List Nat := [0]
  sr : Bool := false
  ar : Bool := false
  opx : BitVec 21 := 0
  extMx : Bool := false
  deriving DecidableEq, Repr

/-- R72 for format I. The extension word of TLD and TST is as in R92. -/
def IWord.legal (w : IWord) (u : IUse) : Bool :=
  (u.td || w.td == 0) && (u.ta || w.ta == 0) && (u.tb || w.tb == 0) && (u.tc || w.tc == 0) && (u.pg || w.pg == 0)
    && (u.ax || !w.ax) && u.rm.contains w.rm.toNat && (u.satc || !w.satc) && fmtIn w.fmt u.fmt
    && (u.sr || w.sr == 0) && (u.ar || w.ar == 0) && (w.opx &&& ~~~ u.opx == 0)
    && (if u.extMx && mxCode w.fmt then w.x && decide (w.ext.toNat < 2 ^ 22) else !w.x)

def IWord.word (w : IWord) (cls op : Nat) : W64 :=
  BitVec.ofNat 64 (cls * 2 ^ 60 + op * 2 ^ 54 + (if w.x then 2 ^ 53 else 0) + w.td.toNat * 2 ^ 50 + w.ta.toNat * 2 ^ 47
    + w.tb.toNat * 2 ^ 44 + w.tc.toNat * 2 ^ 41 + w.pg.toNat * 2 ^ 38 + (if w.ax then 2 ^ 37 else 0) + w.rm.toNat * 2 ^ 35
    + (if w.satc then 2 ^ 34 else 0) + w.fmt.toNat * 2 ^ 30 + w.sr.toNat * 2 ^ 25 + w.ar.toNat * 2 ^ 21 + w.opx.toNat)

def IWord.size (w : IWord) : Nat := if w.x then 16 else 8
def IWord.dt (w : IWord) : Fin 8 := w.td.toFin
def IWord.at (w : IWord) : Fin 8 := w.ta.toFin
def IWord.bt (w : IWord) : Fin 8 := w.tb.toFin
def IWord.ct (w : IWord) : Fin 8 := w.tc.toFin
def IWord.gp (w : IWord) : Fin 8 := w.pg.toFin
def IWord.rmode (w : IWord) : Rm := (Rm.ofCode w.rm.toNat).getD .rne
def IWord.format (w : IWord) : Fmt := (Fmt.ofCode w.fmt.toNat).getD .fp32

end Sys2Proof
end

