-- ==== Sys2Proof/Machine/TileOps.lean ====
section
/-! DEFINITION. Issuing an instruction on a tile (R75-R77), raising an exception (R109-R111), the loop end (R83), and asking
for a halt (R113). -/

namespace Sys2Proof.Machine

/-- The tile can issue: it runs, no halt waits, STRICT.CHECK holds nothing back, it is not in reset and its clock
runs. -/
def State.tileReady (s : State) (t : Tile) : Bool :=
  let x := s.tile t
  s.flag (.seqCtl t) Fld.seqCtlRun && x.halting.isNone && x.hold.isNone && !x.inReset && !s.clocksStopped

def State.pc (s : State) (t : Tile) : W64 := s.reg (.seqPc t)

/-- A PC from which the fetch raises FETCH (R68). -/
def badPc (pc : W64) : Bool := decide (pc.toNat % 8 ≠ 0) || decide (pc.toNat ≥ reamLimit)

/-! ### Press work (R125-R139) -/

/-- The tile's repair record in force (R147). -/
def State.repairRow (s : State) (t : Tile) : Option Nat :=
  if s.flag (.pressRepair t) Fld.pressRepairValid then some (s.fld (.pressRepair t) Fld.pressRepairRow) else none

/-- The instruction buffer holds 512 lines of 64 bytes (R68). -/
def ibufLines : Nat := 512

/-- Whether a stream in the press or waiting for it uses a bank. -/
def TileState.usesBank (x : TileState) (a : Fin 4) : Bool :=
  x.press.any (fun j => j.acc = a) || x.pressQueue.any (fun e => match e with
    | .stream j => decide (j.acc = a)
    | _ => false)

/-- Whether a stream is in the press or waits for it. -/
def TileState.streams (x : TileState) : Bool := (List.finRange 4).any x.usesBank

/-- Whether a load is in progress or waits. -/
def TileState.loads (x : TileState) : Bool :=
  x.loading || x.pressQueue.any (fun e => match e with
    | .wld _ _ _ => true
    | _ => false)

/-- The press tags that no work of the press keeps busy (R126, R135). -/
def TileState.idlePressTags (x : TileState) : W64 :=
  let bit (i : Nat) (busy : Bool) : W64 := if busy then 0 else bit64 i
  (List.finRange 4).foldl (fun m a => m ||| bit (tagAcc a) (x.usesBank a)) 0
    ||| bit tagShadow x.loads ||| bit tagPress x.streams

/-- The array steps from the entry of a row to its departure (R134). -/
def State.arrayDepth (s : State) (t : Tile) : Nat := if (s.repairRow t).isSome then 257 else 256

/-- Clear the tags of press work that has ended; the steps in which an array empties count as the rows before them do, but for
those that have been counted (R135, R154). -/
def State.settlePress (s : State) (t : Tile) : State :=
  let x := s.tile t
  let s := s.setReg (.scoreboard t) (s.reg (.scoreboard t) &&& ~~~ x.idlePressTags)
  if x.press.isEmpty && x.inArray then
    (s.updTile t (fun y => { y with inArray := false, gap := 0 })).bump (.pressSteps t) Fld.pressStepsCount
      (s.arrayDepth t - x.gap)
  else s

/-- The press accepts no further row and abandons what has not entered the array and the loads that have not begun
(R139). -/
def TileState.abandonPress (x : TileState) : TileState :=
  let cut (j : StreamJob) : StreamJob := if j.entered < j.rows then { j with rows := j.entered, cut := true } else j
  { x with pressQueue := [], press := (x.press.map cut).filter (fun j =>
    decide (j.done < j.rows) || (j.strict && (!j.cut || !j.staged.isEmpty))) }

/-- The couch slot that CPOP takes, or waits for (R97). -/
def TileState.oldestSlot (x : TileState) : Nat := (x.couch.head?.map CouchTile.slot).getD x.couchNext

/-- Ask for a halt that TILE_HALT completes (R113). The press of a halting tile does not freeze, and for every kind but
HALT, which waits for its work (R81), it abandons rows (R139). -/
def State.requestHalt (s : State) (t : Tile) (h : Halting) : State :=
  (s.updTile t (fun x => { (if h.kind = 1 then x else x.abandonPress) with
    halting := some h, frozen := false, cpopWait := false })).settlePress t

/-- Take an exception at instruction address `pc` (R109, R110): the EXC registers are written and the tile waits to
halt with kind EXCEPTION. -/
def State.raiseAt (s : State) (t : Tile) (pc : W64) (cause : Nat) (info : W64) : State :=
  let s := s.setReg (.excCause t) (BitVec.ofNat 64 cause)
  let s := s.setReg (.excPc t) pc
  let s := s.setReg (.excInfo t) info
  s.requestHalt t ⟨2, cause, 0, pc, info⟩

def State.raise (s : State) (t : Tile) (cause : Nat) (info : W64) : State := s.raiseAt t (s.pc t) cause info

/-- The loop end (R83): of the active counters, most recently started first, whose end is the next address. -/
def loopEnd : List LoopCounter → W64 → List LoopCounter × W64
  | [], next => ([], next)
  | l :: ls, next =>
    if l.lend = next then
      if l.lc.toNat > 1 then ({ l with lc := l.lc - 1 } :: ls, l.lstart) else loopEnd ls next
    else
      let (rest, n) := loopEnd ls next
      (l :: rest, n)

/-- Continue at `next`, after the loop ends. -/
def State.advance (s : State) (t : Tile) (next : W64) : State :=
  let (ls, n) := loopEnd (s.tile t).loops next
  (s.updTile t (fun x => { x with loops := ls })).setReg (.seqPc t) n

/-- What an instruction needs to issue. `tags` are the tags it waits for (R77); `full` says that its queue is full (R75)
or that it waits for another reason; `grant` marks the instructions that need an energy grant (R77, R104); `exc` is the
lowest-coded condition among its own operands (R111). -/
structure Issue where
  legal : Bool
  word : W64
  size : Nat
  tags : List Nat := []
  full : Bool := false
  grant : Bool := false
  exc : Option (Nat × W64) := none
  deriving DecidableEq, Repr

/-- How an attempt to issue ends. -/
inductive Attempt where
  | stalls
  | raises (cause : Nat) (info : W64)
  | issues
  deriving DecidableEq, Repr

/-- Whether the instruction issues now, waits, or raises an exception, the lowest code first (R68, R72, R77, R104,
R111). -/
def State.attempt (s : State) (t : Tile) (i : Issue) : Attempt :=
  if !s.tileReady t then .stalls
  else if badPc (s.pc t) then .raises 1 (s.pc t)
  else if !i.legal then .raises 2 i.word
  else if i.tags.any (s.tagBusy t) then .stalls
  else if i.grant && s.tagBusy t tagGrant then .stalls
  else if i.full then .stalls
  else
    let noGrant := i.grant && (s.tile t).energySection.isNone
    match i.exc with
    | some (c, info) => if noGrant && decide (5 < c) then .raises 5 0 else .raises c info
    | none => if noGrant then .raises 5 0 else .issues

/-- Attempt an instruction whose effect is `eff` and whose next address is `target` (none: the next in sequence). -/
def State.issueTo (s : State) (t : Tile) (i : Issue) (target : Option W64) (eff : State → State) : State :=
  match s.attempt t i with
  | .stalls => s
  | .raises c info => s.raise t c info
  | .issues => (eff s).advance t (target.getD (s.pc t + BitVec.ofNat 64 i.size))

def State.issue (s : State) (t : Tile) (i : Issue) (eff : State → State) : State := s.issueTo t i none eff

/-- A halt with kind MACHINE_CHECK for an uncorrectable error in data the tile read, with the failing vat offset
(R113, R114, R189). -/
def State.machineCheck (s : State) (t : Tile) (off : Nat) : State :=
  s.requestHalt t ⟨4, 0, 0, s.pc t, BitVec.ofNat 64 off⟩

end Sys2Proof.Machine
end

