-- ==== Sys2Proof/Machine/Dma.lean ====
section
/-! DEFINITION. DMA and prefetch (R88-R90, R199-R216): descriptors, their validation, the six kinds of transfer, the twin
stream of R412, completion and late failure. -/

namespace Sys2Proof.Machine

/-! ### The instructions -/

def dmaIssue (op : Nat) (w : RWord) (u : RUse) (tags : List Nat) (full : Bool) (exc : Option (Nat × W64)) : Issue :=
  { legal := w.legal u, word := w.word 2 op, size := w.size, tags := tags, full := full, grant := true, exc := exc }

/-- VAT_RANGE of R89: not a multiple of 32, or not within the vat. -/
def descRange (off : W64) : Option (Nat × W64) :=
  if off.toNat % 32 ≠ 0 ∨ off.toNat ≥ vatSize then some (4, off) else none

/-- R88, R89 dma: the descriptor at a[a] joins the DMA queue under tag IMM[4:0]. -/
def execDma (t : Tile) (w : RWord) (s : State) : Host.Outcome State Fault Refusal :=
  let x := s.tile t
  let off := x.readA w.aa
  let tag : Fin 32 := Fin.ofNat 32 w.imm.toNat
  let i := dmaIssue 0x00 w { a := true, aA := true, imm := 0x1F } [tagDma tag] (decide (x.dmaQueue.length ≥ 32))
    (descRange off)
  .next (s.issue t i (fun s' =>
    (s'.updTile t (fun y => { y with dmaQueue := y.dmaQueue ++ [⟨tag, off.toNat⟩] })).busyTag t (tagDma tag)))

/-- The hint of a PREF that its folio's cache accepts: own folio, ream range, a length that is neither zero nor all ones,
trimmed to 16 MiB and to the range (R90, R200). -/
def State.hintOf (s : State) (t : Tile) (a len : W64) : Option (Nat × Nat) :=
  let off := a.toNat % 2 ^ 46
  if a.toNat / 2 ^ 50 ≠ s.chip ∨ a.toNat / 2 ^ 46 % 16 ≠ (tileFolio t).val ∨ off ≥ reamLimit ∨ len = 0
    ∨ len = BitVec.allOnes 64 then none
  else some (off, min (min len.toNat 0x1000000) (reamLimit - off))

/-- R88, R90, R200 pref. It raises NO_GRANT as every command of its class does (R77, R104; DESIGN CHOICE, log 231), and nothing else. -/
def execPref (t : Tile) (w : RWord) (s : State) : Host.Outcome State Fault Refusal :=
  let x := s.tile t
  let f := tileFolio t
  let i := dmaIssue 0x01 w { a := true, aA := true, b := true } [] false none
  .next (s.issue t i (fun s' =>
    match s'.hintOf t (x.readA w.aa) (x.readS w.sb) with
    | none => s'
    | some h =>
      let c := s'.cache f
      if s'.flag (.fcCtl f) Fld.fcCtlHintEn = false then s'
      else if c.hints.length ≥ 64 then s'.bump (.fcHintsDropped f) Fld.fcHintsDroppedCount 1
      else s'.setCache f { c with hints := c.hints ++ [h] }))

/-! ### Descriptors -/

def descOf (w0 w1 w2 w3 : Nat) : Desc where
  length := bitsOf w0 31 0
  kind := bitsOf w0 39 32
  srcBuf := bitsOf w0 47 40
  dstBuf := bitsOf w0 55 48
  srcFmt := bitsOf w0 59 56
  dstFmt := bitsOf w0 63 60
  srcOff := bitsOf w1 39 0
  srcPitch := bitsOf w1 63 40
  dstOff := bitsOf w2 39 0
  dstPitch := bitsOf w2 63 40
  count := bitsOf w3 23 0
  rm := bitsOf w3 25 24
  satc := bitsOf w3 26 26 = 1
  wbits := bitsOf w3 34 28
  idxOff := bitsOf w3 57 36
  reservedBits := bitsOf w3 27 27 ≠ 0 || bitsOf w3 35 35 ≠ 0 || bitsOf w3 63 58 ≠ 0

def Desc.skew (d : Desc) : Bool := d.kind = 3 || d.kind = 4
def Desc.fill (d : Desc) : Bool := d.kind = 5
/-- The kinds that take an index list (R205), and those that index their source rows. -/
def Desc.indexed (d : Desc) : Bool := d.kind = 1 || d.kind = 2 || d.kind = 4
def Desc.gathers (d : Desc) : Bool := d.kind = 1 || d.kind = 4

/-- Whether the transfer converts elements (R208). FILL does not, whatever DST_FMT holds (DEDUCED, log 36). -/
def Desc.converts (d : Desc) : Bool := !d.fill && decide (d.srcFmt ≠ d.dstFmt)

def fmtWidth (code : Nat) : Nat := ((Fmt.ofCode code).map Fmt.width).getD 8

/-- The bytes of a destination row (R208). -/
def Desc.rowOut (d : Desc) : Nat :=
  if d.converts then d.length * fmtWidth d.dstFmt / fmtWidth d.srcFmt else d.length

/-- L of a skewed line (R210). -/
def Desc.line (d : Desc) : Nat := 16 * d.wbits

/-- The entry of the buffer table that a descriptor names, as the engine reads it; entry 0 is the tile's own vat
(R201, R204). -/
def State.bufView (s : State) (t : Tile) (e : Nat) : BufView :=
  let f := tileFolio t
  let i : Fin 256 := Fin.ofNat 256 e
  if e = 0 then
    ⟨s.chip * 2 ^ 50 + f.val * 2 ^ 46 + vatBase + tileNum t * vatSize, vatSize, true, true, true, 1⟩
  else
    ⟨64 * s.fld (.bufBase f i) Fld.bufBaseAddr, s.fld (.bufSize f i) Fld.bufSizeBytes,
     s.flag (.bufCtl f i) Fld.bufCtlValid, s.flag (.bufCtl f i) Fld.bufCtlRead, s.flag (.bufCtl f i) Fld.bufCtlWrite,
     s.fld (.bufCtl f i) Fld.bufCtlCache⟩

def padIndex : Nat := 0xFFFFFFFF

/-- The rows' numbers in the addressing of one side: the indexes that are no pads, or 0 to COUNT - 1. -/
def rowNumbers (useIdx : Bool) (idx : List Nat) (count : Nat) : Option (Nat × Nat) :=
  let real := if useIdx then idx.filter (fun k => decide (k ≠ padIndex)) else if count = 0 then [] else [0, count - 1]
  match real with
  | [] => none
  | k :: ks => some (ks.foldl min k, ks.foldl max k)

/-- The byte span of rows, none when no byte moves. -/
def rowSpan (nums : Option (Nat × Nat)) (off pitch n : Nat) : Option (Nat × Nat) :=
  match nums with
  | none => none
  | some (lo, hi) => if n = 0 then none else some (off + lo * pitch, off + hi * pitch + n)

def beyond (span : Option (Nat × Nat)) (limit : Nat) : Bool :=
  match span with
  | some p => decide (limit < p.2)
  | none => false

/-- The vat that holds a global address. -/
def vatOf (g : Nat) : Option (Nat × Nat) :=
  let off := g % 2 ^ 46
  if g / 2 ^ 46 % 16 < 8 ∧ vatBase ≤ off ∧ off < vatBase + 24 * vatSize
  then some (g / 2 ^ 46, (off - vatBase) / vatSize) else none

/-- The span written by a skewed transfer, as offsets of the vat; one that wraps spans the whole vat (DESIGN CHOICE, log 37). -/
def skewSpan (d : Desc) (repaired : Bool) : Option (Nat × Nat) :=
  if d.count = 0 then none
  else
    let start := (d.dstOff + d.dstPitch * d.line) % vatSize
    let n := (d.count + 127 + (if repaired then 1 else 0)) * d.line
    if start + n ≤ vatSize then some (start, start + n) else some (0, vatSize)

def convFormats : List Nat := [0, 1, 2, 3, 4, 10, 12]

/-- The status of a descriptor at fetch: the lowest code of the checks that fail, 0 for none (R205-R214). Formats that are equal and
reserved are no pair that R208 allows (DESIGN CHOICE, log 176); a skewed line that would begin beyond the vat is out of bounds
(DESIGN CHOICE, log 177). The row length of the BOUND test is taken for formats or lengths that R208 does not allow too (DESIGN
CHOICE, log 236). -/
def validate (d : Desc) (src dst : BufView) (idx : Option (List Nat)) (repaired : Bool) : Nat :=
  let unused := (!d.indexed && decide (d.idxOff ≠ 0)) || (!d.skew && decide (d.wbits ≠ 0))
    || (d.fill && (decide (d.srcBuf ≠ 0) || decide (d.srcOff ≠ 0) || decide (d.srcPitch ≠ 0) || decide (d.srcFmt ≠ 0)))
  let formatsOk :=
    if d.fill then true
    else if d.srcFmt = d.dstFmt then decide (d.srcFmt ≤ 12)
    else convFormats.contains d.srcFmt && convFormats.contains d.dstFmt
      && decide (d.length % (fmtWidth d.srcFmt / 8) = 0)
  let rows := idx.getD []
  let srcSpan := if d.fill then none else rowSpan (rowNumbers d.gathers rows d.count) d.srcOff d.srcPitch d.length
  let dstSpan :=
    if d.skew || decide (d.length = 0) then none
    else rowSpan (rowNumbers (d.kind = 2) rows d.count) d.dstOff d.dstPitch (if formatsOk then d.rowOut else max 1 d.rowOut)
  let badSkew := d.skew && (decide (d.dstBuf ≠ 0) || !([4, 6, 8, 12, 16, 24, 32, 64].contains d.wbits)
    || !formatsOk || decide (d.rowOut ≠ d.line) || decide (d.dstPitch + d.count > 2 ^ 24))
  let written : Option (Nat × Nat) :=
    if d.skew then (skewSpan d repaired).map (fun p => (dst.addr + p.1, dst.addr + p.2))
    else dstSpan.map (fun p => (dst.addr + p.1, dst.addr + p.2))
  let overlap : Bool :=
    match srcSpan, written with
    | some a, some b =>
      let a := (src.addr + a.1, src.addr + a.2)
      (vatOf a.1).isSome && decide (vatOf a.1 = vatOf b.1) && decide (a.1 < b.2) && decide (b.1 < a.2)
    | _, _ => false
  if d.kind > 5 ∨ d.reservedBits = true ∨ unused = true ∨ d.rm = 3
    ∨ (d.converts = false ∧ (d.rm ≠ 0 ∨ d.satc = true)) then 1
  else if d.length = 2 ^ 32 - 1 ∨ d.count = 2 ^ 24 - 1 ∨ d.srcPitch = 2 ^ 24 - 1
    ∨ (d.skew = false ∧ d.dstPitch = 2 ^ 24 - 1) then 2
  else if (d.fill = false ∧ src.valid = false) ∨ dst.valid = false then 3
  else if (d.fill = false ∧ src.read = false) ∨ dst.write = false then 4
  else if beyond srcSpan src.bytes ∨ beyond dstSpan dst.bytes ∨ (d.skew = true ∧ d.count ≠ 0 ∧ d.dstOff ≥ vatSize) then 5
  else if formatsOk = false then 6
  else if badSkew = true then 7
  else if d.indexed = true ∧ idx.isNone = true then 8
  else if overlap = true then 9
  else 0

/-- Change what the queue entries that a tile posted still wait for (R108). -/
def State.updAfter (s : State) (p : Tile → Bool) (g : List (Fin 32) → List (Fin 32)) : State :=
  { s with groups := s.groups.map (fun e => (e.1, { e.2 with queue := e.2.queue.map (fun q =>
      if p q.tile then { q with after := g q.after } else q) })) }

/-- A transfer of a tile is visible, or has ended: the entries that R108 holds for it wait for it no longer. -/
def State.transferSeen (s : State) (t : Tile) (tag : Fin 32) : State :=
  s.updAfter (fun u => decide (u = t)) (fun l => l.filter (fun k => decide (k ≠ tag)))

/-- End a transfer with a status: the tag clears, with its error mark and status unless OK (R78, R213, R215), and no posted entry
waits for it any longer (R108). -/
def State.endTransfer (s : State) (t : Tile) (tag : Fin 32) (off status bytes : Nat) : State :=
  let s := s.transferSeen t tag
  if status = 0 then (s.clearTag t (tagDma tag)).bump (.dmaBytes t) Fld.dmaBytesCount bytes
  else
    let s := s.clearTagError t (tagDma tag)
    let s := s.updTile t (fun x => { x with dmaStatus := Store.set id x.dmaStatus tag.val status })
    let s := s.bump (.dmaRejects t) Fld.dmaRejectsCount 1
    s.setReg (.dmaLastReject t) (BitVec.ofNat 64 (status + tag.val * 2 ^ 8 + off * 2 ^ 32))

/-- The index list of a descriptor; none where it does not lie in the vat or is misaligned (R209, R214). -/
def State.indexList (s : State) (t : Tile) (d : Desc) : Option (List Nat) :=
  if !d.indexed then some []
  else if d.idxOff % 4 ≠ 0 ∨ d.idxOff + 4 * d.count > vatSize then none
  else some ((List.range d.count).map (fun i => s.vatReadLe t (d.idxOff + 4 * i) 4))

/-- R211, R213: the engine takes the oldest descriptor, reads it and its index list, and validates it. -/
def doDescriptorFetch (t : Tile) (s : State) : State :=
  let x := s.tile t
  match x.dmaQueue with
  | [] => s
  | r :: rest =>
    if x.xfers.length ≥ 8 ∨ x.inReset = true ∨ s.clocksStopped = true then s
    else
      let s := s.updTile t (fun y => { y with dmaQueue := rest })
      let (s, bad) := s.vatScan t r.off 32
      if bad.isSome then s.endTransfer t r.tag r.off 0x0C 0
      else
        let w (i : Nat) := s.vatReadLe t (r.off + 8 * i) 8
        let d := descOf (w 0) (w 1) (w 2) (w 3)
        let idx := s.indexList t d
        let (s, bad) := if d.indexed && idx.isSome then s.vatScan t d.idxOff (4 * d.count) else (s, none)
        let src := s.bufView t d.srcBuf
        let dst := s.bufView t d.dstBuf
        let status := validate d src dst idx (s.flag (.pressRepair t) Fld.pressRepairValid)
        if status ≠ 0 then s.endTransfer t r.tag r.off status 0
        else if bad.isSome then s.endTransfer t r.tag r.off 0x0C 0
        else
          let none' := d.count = 0 ∨ (d.length = 0 ∧ d.skew = false)
          let xf : Xfer :=
            { tag := r.tag, off := r.off, desc := d, src := src, dst := dst, idx := idx.getD [], row := 0, part := 0,
              loaded := none, asked := false, finished := decide none', status := 0, bytes := 0, flags := 0,
              seed := (s.reg (.srSeed t)).setWidth 32, step := s.reg (.srStep t) }
          s.updTile t (fun y => { y with xfers := y.xfers ++ [xf] })

def execDescriptorFetch (t : Tile) (s : State) : Host.Outcome State Fault Refusal := .next (doDescriptorFetch t s)

/-! ### Moving rows -/

/-- What a global address names for a tile's engine. -/
inductive Place where
  | vat (t : Tile) (off : Nat)
  | ream (off : Nat)
  | far (chip die off : Nat)
  | nowhere
  deriving DecidableEq, Repr

def State.place (s : State) (t : Tile) (g : Nat) : Place :=
  let chip := g / 2 ^ 50
  let die := g / 2 ^ 46 % 16
  let off := g % 2 ^ 46
  if chip ≠ s.chip ∨ die ≠ (tileFolio t).val then .far chip die off
  else if off < reamLimit then .ream off
  else if off < vatBase + 24 * vatSize then
    .vat (Fin.ofNat 192 (die * 24 + (off - vatBase) / vatSize)) ((off - vatBase) % vatSize)
  else .nowhere

/-- The source bytes that move at once: a multiple of every element size, whose converted form a transaction can hold
(DESIGN CHOICE, log 34). -/
def dmaPiece : Nat := 16384

/-- The index of the current row where the kind uses the list. -/
def Xfer.index (x : Xfer) : Nat := if x.desc.indexed then x.idx.getD x.row padIndex else x.row

/-- Whether the row is a pad (R209). -/
def Xfer.isPad (x : Xfer) : Bool := x.desc.indexed && decide (x.index = padIndex)

/-- The address of the current source piece. -/
def Xfer.srcAddr (x : Xfer) : Nat :=
  let row := if x.desc.gathers then x.index else x.row
  x.src.addr + x.desc.srcOff + row * x.desc.srcPitch + x.part

/-- The destination bytes of `n` source bytes. -/
def Desc.outLen (d : Desc) (n : Nat) : Nat :=
  if d.converts then n * fmtWidth d.dstFmt / fmtWidth d.srcFmt else n

/-- The address of the current destination piece, for the kinds that do not skew. -/
def Xfer.dstAddr (x : Xfer) : Nat :=
  let row := if x.desc.kind = 2 then x.index else x.row
  x.dst.addr + x.desc.dstOff + row * x.desc.dstPitch + x.desc.outLen x.part

/-- The bytes from an address to the next multiple of 4 MiB, where one vat ends and the next begins (R18). -/
def toEdge (g : Nat) : Nat := vatSize - g % vatSize

/-- The source bytes of the current piece: no more than `dmaPiece`, and, but for a skewed row, no further than the next edge on
either side, in whole elements where the transfer converts. -/
def Xfer.pieceLen (x : Xfer) : Nat :=
  let d := x.desc
  let left := min dmaPiece (d.length - x.part)
  if d.skew then left
  else
    let ws := if d.converts then fmtWidth d.srcFmt / 8 else 1
    let wd := if d.converts then fmtWidth d.dstFmt / 8 else 1
    let src := if d.fill then left else toEdge x.srcAddr / ws * ws
    min left (max ws (min src (toEdge x.dstAddr / wd * ws)))

/-- Cut `n` bytes at an address at the edges of 4 MiB. -/
def segments (g : Nat) : Nat → Nat → List (Nat × Nat)
  | 0, _ => []
  | k + 1, n => if n = 0 then [] else (g, min n (toEdge g)) :: segments (g + min n (toEdge g)) k (n - min n (toEdge g))

/-- The destination bit address of element `e` of the current piece, as an offset (R56); of a skewed row, that of the byte at
which R130 places it with the repair term omitted, wrapped at the end of the vat (R208). -/
def Xfer.elemAddr (x : Xfer) (t : Tile) (e : Nat) : Nat :=
  let w := fmtWidth x.desc.dstFmt
  if x.desc.skew then
    let bit := e * w
    let line := x.desc.dstOff + (x.desc.dstPitch + x.row + bit / x.desc.wbits) * x.desc.line
    8 * (vatBase + tileNum t * vatSize + (line + bit / 8) % vatSize) + bit % 8
  else 8 * (x.dstAddr % 2 ^ 46) + e * w

/-- The piece as the destination receives it, with the flags of its conversions (R208). -/
def Xfer.convert (x : Xfer) (t : Tile) (bs : List Byte) : List Byte × Flags :=
  if !x.desc.converts then (bs, 0)
  else
    match Fmt.ofCode x.desc.srcFmt, Fmt.ofCode x.desc.dstFmt, Rm.ofCode x.desc.rm with
    | some a, some b, some rm =>
      let wa := a.width / 8
      let es := (List.range (bs.length / wa)).map (fun e =>
        let draw := if rm = .sr then srFor a.width b.width x.seed x.step (x.elemAddr t e) else 0
        convertCode a.elem b.elem rm x.desc.satc draw (leNat ((bs.drop (e * wa)).take wa)))
      (es.flatMap (fun c => leBytes (b.width / 8) c.1), es.foldl (fun f c => f ||| c.2) 0)
    | _, _, _ => (bs, 0)

def State.setXfer (s : State) (t : Tile) (x : Xfer) : State :=
  s.updTile t (fun y => { y with xfers := y.xfers.map (fun k => if k.tag = x.tag then x else k) })

/-- The ream operation header of R233 with its data. -/
def memRequest (off op len : Nat) (data : List Byte) : List Byte :=
  leBytes 8 (off + op * 2 ^ 46) ++ leBytes 8 len ++ data

/-- Whether the engine has an outstanding store to a 256-byte block (R276). -/
def State.blockPending (s : State) (t : Tile) (chip die off n : Nat) : Bool :=
  s.net.txns.any (fun k =>
    match k.user, k.cells with
    | .dma u _, c :: _ =>
      let w := leNat ((payloadBytes c.payload).take 8)
      let len := leNat (((payloadBytes c.payload).drop 8).take 8)
      decide (u = t) && decide (opCode (BitVec.ofNat 64 w) = 1) && decide (k.dstChip = chip) && decide (k.dstDie = die)
        && rangesMeet (off / 256 * 256) ((off % 256 + n + 255) / 256 * 256) (w % 2 ^ 46) len
    | _, _ => false)

/-- How a step of a transfer ends. -/
inductive Moved where
  | on (s : State) (x : Xfer)
  | waits (s : State) (x : Xfer)
  | fails (s : State) (x : Xfer) (status : Nat)
  deriving DecidableEq, Repr

/-- An access to another tile's vat starts that tile's domain (R39, R193). -/
def State.wakeVat (s : State) (t u : Tile) : State := if u = t then s else s.wake (.tile u)

/-- Whether a local access to a piece waits for the bias of one of its pages (R451). -/
def State.localWaits (s : State) (t : Tile) (segs : List (Nat × Nat)) : Bool :=
  segs.any (fun p =>
    match s.place t p.1 with
    | .ream off => s.biasWaits (tileFolio t) off p.2
    | _ => false)

/-- Read bytes of the folio's vats and ream: the status of R214, 0 for none, and the bytes. -/
def State.localRead (s : State) (t : Tile) (policy : Nat) : List (Nat × Nat) → State × Nat × List Byte
  | [] => (s, 0, [])
  | p :: ps =>
    let (s, st, bs) : State × Nat × List Byte :=
      match s.place t p.1 with
      | .vat u off =>
        if (s.tile u).inReset then (s, 0x0A, [])
        else
          match (s.wakeVat t u).vatScan u off p.2 with
          | (s, some _) => (s, 0x0C, [])
          | (s, none) => (s, 0, s.vatRead u off p.2)
      | .ream off =>
        match s.folioRead (tileFolio t) (.dma t) policy off p.2 with
        | (s, none) => (s, 0x0C, [])
        | (s, some bs) => (s, 0, bs)
      | _ => (s, 0x0A, [])
    if st ≠ 0 then (s, st, [])
    else
      let (s, st, rest) := s.localRead t policy ps
      (s, st, bs ++ rest)

/-- Write bytes of the folio's vats and ream: the status. -/
def State.localWrite (s : State) (t : Tile) : List (Nat × Nat) → List Byte → State × Nat
  | [], _ => (s, 0)
  | p :: ps, bs =>
    let (s, st) : State × Nat :=
      match s.place t p.1 with
      | .vat u off =>
        if (s.tile u).inReset then (s, 0x0A)
        else
          match (s.wakeVat t u).vatWrite u off (bs.take p.2) with
          | (s, some _) => (s, 0x0C)
          | (s, none) => (s, 0)
      | .ream off => (s.folioWrite (tileFolio t) (some t) off (bs.take p.2), 0)
      | _ => (s, 0x0A)
    if st ≠ 0 then (s, st) else s.localWrite t ps (bs.drop p.2)

/-- The bytes of the reply buffer that a transfer holds: of a far read whose destination is not a vat of the folio (R212; DESIGN
CHOICE, log 235). -/
def State.replyUse (s : State) (t : Tile) (x : Xfer) : Nat :=
  match s.place t x.srcAddr, s.place t x.dstAddr with
  | .far _ _ _, .vat _ _ => 0
  | .far _ _ _, _ => if x.desc.skew || x.desc.fill then 0 else x.pieceLen
  | _, _ => 0

/-- Whether the 32 KiB reply buffer has room for the reply to a transfer's next read (R212). -/
def State.replyRoom (s : State) (t : Tile) (x : Xfer) : Bool :=
  let others := (s.tile t).xfers.filter (fun k => decide (k.tag ≠ x.tag) && !k.finished && (k.asked || k.loaded.isSome))
  decide ((others.map (s.replyUse t)).foldl (· + ·) 0 + s.replyUse t x ≤ 32768)

/-- Read the current piece. -/
def State.loadPiece (s : State) (t : Tile) (x : Xfer) : Moved :=
  let n := x.pieceLen
  if x.desc.fill || x.isPad then
    .on s { x with loaded := some (List.replicate (if x.desc.skew then x.desc.line else x.desc.outLen n) 0) }
  else
    match s.place t x.srcAddr with
    | .far chip die off =>
      if !s.replyRoom t x then .waits s x
      else
        match s.request (folioDie (tileFolio t)) (tileNode t) (.dma t x.tag) (BitVec.ofNat 12 (s.tile t).job) chip die 2 1
            (memRequest off 0 n []) with
        | some s => .waits s { x with asked := true }
        | none => .waits s x
    | _ =>
      let segs := segments x.srcAddr 2 n
      if s.localWaits t segs then .waits s x
      else
        match s.localRead t x.src.policy segs with
        | (s, 0, bs) =>
          let (bs, fl) := x.convert t bs
          .on s { x with loaded := some bs, flags := x.flags ||| fl }
        | (s, st, _) => .fails s x st

/-- The vat line that takes word k of stream row i (R130, R210). -/
def dmaLine (s : State) (t : Tile) (i k : Nat) : Nat :=
  let repaired := s.flag (.pressRepair t) Fld.pressRepairValid && decide (s.fld (.pressRepair t) Fld.pressRepairRow ≤ k)
  if repaired then i + k + 1 else i + k

/-- Write the bits of one word into the vat and no other bit (R210). -/
def State.vatPutBits (s : State) (t : Tile) (bit w v : Nat) : State :=
  let first := bit / 8
  let n := (bit % 8 + w + 7) / 8
  let old := leNat ((List.range n).map (fun i => s.mem.read (vatAddr t (first + i))))
  let lo := 2 ^ (bit % 8)
  let new := old % lo + v * lo + old / (lo * 2 ^ w) * (lo * 2 ^ w)
  s.vatPut t first (leBytes n new)

/-- Write a row in the skewed layout (R210). -/
def State.skewRow (s : State) (t : Tile) (x : Xfer) (bs : List Byte) : State × Option Nat :=
  let d := x.desc
  let v := leNat bs
  let bits (k : Nat) := 8 * (d.dstOff + dmaLine s t (d.dstPitch + x.row) k * d.line) + k * d.wbits
  (List.range 128).foldl (fun acc k =>
    match acc.2 with
    | some _ => acc
    | none =>
      let b := bits k
      let n := (b % 8 + d.wbits + 7) / 8
      -- error marks are met as by any write of the touched bytes
      let old := acc.1.vatRead t (b / 8) n
      match acc.1.vatWrite t (b / 8) old with
      | (s, some e) => (s, some e)
      | (s, none) => (s.vatPutBits t b d.wbits (v / 2 ^ (k * d.wbits) % 2 ^ d.wbits), none)) (s, none)

/-- The twin engine that a destination vat selects (R412). -/
def twinDst (s : State) (t : Tile) (g : Nat) : Option Nat :=
  let die := g / 2 ^ 46 % 16
  let off := g % 2 ^ 46
  if g / 2 ^ 50 = s.chip ∧ die = ((tileFolio t).val ^^^ 1) ∧ vatBase + tileNum t * vatSize ≤ off
    ∧ off < vatBase + (tileNum t + 1) * vatSize then some (off - vatBase - tileNum t * vatSize) else none

/-- Cut data into blocks of 256 bytes with their offsets. -/
def twinBlocks (off : Nat) : Nat → List Byte → List (Nat × List Byte)
  | 0, _ => []
  | n + 1, bs => if bs.length ≤ 256 then [(off, bs)] else (off, bs.take 256) :: twinBlocks (off + 256) n (bs.drop 256)

def State.twin (s : State) (f : Folio) : List TwinBlock := Store.get (fun _ => []) s.twins f
def State.setTwin (s : State) (f : Folio) (l : List TwinBlock) : State :=
  { s with twins := Store.set (fun k => k.val) s.twins f l }

/-- The twin link's state register of a folio. -/
def twinStatusOf (f : Folio) : Reg := .twinStatus (Fin.ofNat 4 (f.val / 2))

/-- Step past the piece that has been written. -/
def Xfer.past (x : Xfer) (wrote : Nat) : Xfer :=
  let part := x.part + x.pieceLen
  let rowDone := decide (part ≥ x.desc.length)
  let row := if rowDone then x.row + 1 else x.row
  { x with loaded := none, asked := false, bytes := x.bytes + wrote, part := if rowDone then 0 else part, row := row,
           finished := decide (row ≥ x.desc.count) }

/-- A write of the tile has left it (R106, R279). -/
def State.departs (s : State) (t : Tile) : State := s.updTile t (fun y => { y with lastDepart := s.tenseNow })

/-- Write the loaded piece. -/
def State.storePiece (s : State) (t : Tile) (x : Xfer) (bs : List Byte) : Moved :=
  let n := bs.length
  if x.desc.skew then
    match s.skewRow t x bs with
    | (s, some _) => .fails s x 0x0C
    | (s, none) => .on (s.departs t) (x.past n)
  else
    match twinDst s t x.dstAddr, s.place t x.dstAddr with
    | some off, _ =>
      let st := s.fld (twinStatusOf (tileFolio t)) Fld.twinStatusState
      if st = 3 then .fails s x 0x0B
      else if st ≠ 2 then .waits s x
      else
        let blocks := (twinBlocks off (n / 256 + 1) bs).map (fun b => (⟨t, x.tag, b.1, b.2⟩ : TwinBlock))
        if (s.twin (tileFolio t)).length + blocks.length > 256 then .waits s x
        else .waits ((s.setTwin (tileFolio t) (s.twin (tileFolio t) ++ blocks)).departs t) { x with asked := true }
    | none, .far chip die off =>
      if s.blockPending t chip die off n then .waits s x
      else
        match s.request (folioDie (tileFolio t)) (tileNode t) (.dma t x.tag) (BitVec.ofNat 12 (s.tile t).job) chip die 2 1
            (memRequest off 1 n bs) with
        | some s => .waits s { x with asked := true }
        | none => .waits s x
    | none, _ =>
      let segs := segments x.dstAddr 2 n
      if s.localWaits t segs then .waits s x
      else
        match s.localWrite t segs bs with
        | (s, 0) => .on (s.departs t) (x.past n)
        | (s, st) => .fails s x st

/-- The status of a failed answer (R214): UNCORRECTABLE for a NAK of that status, else REMOTE_NAK; REMOTE_TIMEOUT. -/
def answerStatus : Answer → Nat
  | .reply _ => 0
  | .nak 0x09 => 0x0C
  | .nak _ => 0x0A
  | .timeout => 0x0B

/-- Whether the twin engine has confirmed every block of a transfer. -/
def State.twinDone (s : State) (t : Tile) (x : Xfer) : Bool :=
  !(s.twin (tileFolio t)).any (fun b => b.tile = t && b.tag = x.tag)

/-- One step of a transfer: take an answer, read a piece, or write the piece that was read. -/
def State.moveStep (s : State) (t : Tile) (x : Xfer) : Moved :=
  let user := TxnUser.dma t x.tag
  match x.loaded with
  | none =>
    if x.desc.kind = 2 && x.isPad then .on s (x.past 0)
    else if !x.asked then s.loadPiece t x
    else
      match s.takeDone user with
      | none => .waits s x
      | some (.reply bs, s) =>
        let (bs, fl) := x.convert t bs
        .on s { x with loaded := some bs, asked := false, flags := x.flags ||| fl }
      | some (a, s) => .fails s x (answerStatus a)
  | some bs =>
    if !x.asked then s.storePiece t x bs
    else if (twinDst s t x.dstAddr).isSome && !x.desc.skew then
      if s.fld (twinStatusOf (tileFolio t)) Fld.twinStatusState = 3 then .fails s x 0x0B
      else if s.twinDone t x then .on s (x.past bs.length) else .waits s x
    else
      match s.takeDone user with
      | none => .waits s x
      | some (.reply _, s) => .on s (x.past bs.length)
      | some (a, s) => .fails s x (answerStatus a)

/-- The bytes that a row would have received: zeros, or its source as this chip holds it, converted. None: the source lies on
another chip, whose bytes this device does not know (log 227). -/
def State.newRow (s : State) (t : Tile) (x : Xfer) (r : Nat) : Option (List Byte) :=
  let y := { x with row := r, part := 0 }
  let die := y.srcAddr / 2 ^ 46 % 16
  if x.desc.fill || y.isPad then some (List.replicate (if x.desc.skew then x.desc.line else x.desc.rowOut) 0)
  else if y.srcAddr / 2 ^ 50 = s.chip ∧ die < 8 then
    some (y.convert t ((List.range x.desc.length).map (fun i => s.mem.read (dieAddr die (y.srcAddr % 2 ^ 46 + i))))).1
  else none

/-- A place of an unspecified mixture: what it holds, or what it would have received (R215). -/
def mixed {α : Type} (draw index : Nat) (old new : α) : α := if Config.mixedKeeps draw index then old else new

/-- The mixture in the bits of one word of a skewed row. -/
def State.mixWord (s : State) (t : Tile) (draw bit w new : Nat) : State :=
  s.vatPutBits t bit w (mixed draw bit (s.vatBits t bit w) new)

/-- Leave the mixture in the destination bytes of the device that a transfer covers (R215). -/
def State.mixDestination (s : State) (t : Tile) (x : Xfer) : State :=
  let d := x.desc
  let k := s.free
  let s := s.draw
  if d.skew then
    (List.range d.count).foldl (fun s r =>
      let row := (s.newRow t x r).map leNat
      (List.range 128).foldl (fun s j =>
        let bit := 8 * (d.dstOff + dmaLine s t (d.dstPitch + r) j * d.line) + j * d.wbits
        let new := match row with
          | some v => v / 2 ^ (j * d.wbits)
          | none => leNat ((List.range 8).map (fun i => Config.mixedByte k (bit + i)))
        s.mixWord t k bit d.wbits (new % 2 ^ d.wbits)) s) s
  else
    let rows := (List.range d.count).filter (fun r => !(decide (d.kind = 2) && decide (x.idx.getD r padIndex = padIndex)))
    let start (r : Nat) := x.dst.addr + d.dstOff + (if d.kind = 2 then x.idx.getD r 0 else r) * d.dstPitch
    rows.foldl (fun s r =>
      let g := start r
      let die := g / 2 ^ 46 % 16
      let off := g % 2 ^ 46
      if g / 2 ^ 50 = s.chip ∧ die < 8 ∧ off < vatBase + 24 * vatSize
        ∧ s.regionBlocks (Fin.ofNat 8 die) off d.rowOut = false then
        let row := s.newRow t x r
        let new (i : Nat) : Byte := match row with
          | some bs => bs.getD i 0
          | none => Config.mixedByte k (g + i)
        { s with mem := s.mem.writeBytes (dieAddr die off) ((List.range d.rowOut).map (fun i =>
          mixed k (g + i) (s.mem.read (dieAddr die off + i)) (new i))) }
      else s) s

/-- A transfer fails late: it issues nothing more, its blocks on the twin stream are abandoned, and status 0x0C stops the step
(R215). -/
def State.failXfer (s : State) (t : Tile) (x : Xfer) (st : Nat) : State :=
  let s := if st = 0x0C then s.stopStep else s
  let s := s.setTwin (tileFolio t) ((s.twin (tileFolio t)).filter (fun b => !(b.tile = t && b.tag = x.tag)))
  (s.mixDestination t x).setXfer t { x with finished := true, status := st, loaded := none, asked := false }

/-- Run a transfer until it waits or ends; `n` bounds the steps. -/
def State.moveLoop (s : State) (t : Tile) (x : Xfer) : Nat → State
  | 0 => s.setXfer t x
  | n + 1 =>
    if x.finished then s.setXfer t x
    else
      match s.moveStep t x with
      | .on s x => s.moveLoop t x n
      | .waits s x => s.setXfer t x
      | .fails s x st => s.failXfer t x st

/-- The steps a transfer can take: two for each piece. -/
def Desc.moveSteps (d : Desc) : Nat := 2 * d.count * (d.length / dmaPiece + d.length / 2 ^ 18 + 8) + 2

/-- Move the rows of a transfer of one kind (R206, R207). -/
def moveRows (kind : Nat) (t : Tile) (tag : Fin 32) (s : State) : State :=
  match (s.tile t).xfers.find? (fun x => x.tag = tag) with
  | none => s
  | some x =>
    if x.desc.kind ≠ kind ∨ x.finished = true ∨ (s.tile t).inReset = true ∨ s.clocksStopped = true then s
    else s.moveLoop t x x.desc.moveSteps

def doDmaCopy (t : Tile) (tag : Fin 32) (s : State) : State := moveRows 0 t tag s
def doDmaGather (t : Tile) (tag : Fin 32) (s : State) : State := moveRows 1 t tag s
def doDmaScatter (t : Tile) (tag : Fin 32) (s : State) : State := moveRows 2 t tag s
def doDmaSkew (t : Tile) (tag : Fin 32) (s : State) : State := moveRows 3 t tag s
def doDmaSkewGather (t : Tile) (tag : Fin 32) (s : State) : State := moveRows 4 t tag s
def doDmaFill (t : Tile) (tag : Fin 32) (s : State) : State := moveRows 5 t tag s

def execDmaCopy (t : Tile) (tag : Fin 32) (s : State) : Host.Outcome State Fault Refusal := .next (doDmaCopy t tag s)
def execDmaGather (t : Tile) (tag : Fin 32) (s : State) : Host.Outcome State Fault Refusal := .next (doDmaGather t tag s)
def execDmaScatter (t : Tile) (tag : Fin 32) (s : State) : Host.Outcome State Fault Refusal := .next (doDmaScatter t tag s)
def execDmaSkew (t : Tile) (tag : Fin 32) (s : State) : Host.Outcome State Fault Refusal := .next (doDmaSkew t tag s)
def execDmaSkewGather (t : Tile) (tag : Fin 32) (s : State) : Host.Outcome State Fault Refusal :=
  .next (doDmaSkewGather t tag s)
def execDmaFill (t : Tile) (tag : Fin 32) (s : State) : Host.Outcome State Fault Refusal := .next (doDmaFill t tag s)

/-- R211, R215: a transfer whose rows have all moved, or which failed and has nothing outstanding, completes. Its flags
are in NUM_STATUS by then (R208). -/
def doDmaComplete (t : Tile) (tag : Fin 32) (s : State) : State :=
  match (s.tile t).xfers.find? (fun x => x.tag = tag) with
  | none => s
  | some x =>
    if x.finished = false ∨ s.waits (.dma t tag) = true ∨ (s.tile t).inReset = true ∨ s.clocksStopped = true then s
    else
      let s := s.updTile t (fun y => { y with xfers := y.xfers.filter (fun k => k.tag ≠ tag) })
      (s.setFlags t x.flags).endTransfer t tag x.off x.status x.bytes

def execDmaComplete (t : Tile) (tag : Fin 32) (s : State) : Host.Outcome State Fault Refusal := .next (doDmaComplete t tag s)

/-! ### The vat scrubber and the twin stream -/

/-- R190: the scrubber reads the next 32-byte granule in ascending order and treats errors by R189. -/
def doVatScrub (t : Tile) (s : State) : State :=
  let x := s.tile t
  if x.inReset ∨ s.clocksStopped = true then s
  else
    let g := x.scrub
    let (s, _) := s.vatScan t (32 * g) 32
    s.updTile t (fun y => { y with scrub := (g + 1) % 131072 })

def execVatScrub (t : Tile) (s : State) : Host.Outcome State Fault Refusal := .next (doVatScrub t s)

/-- The block on the twin link: 256 bytes of data, zeros beyond its own, and the trailer of CRC-32C over what goes before it and after,
the sequence number, the tile index and the flags (R412; log 219). -/
def TwinBlock.bytes (b : TwinBlock) (seq : Nat) (flags : Byte) : List Byte :=
  let data := (b.data ++ leBytes 256 0).take 256
  let rest := leBytes 2 seq ++ leBytes 1 (tileNum b.tile) ++ [flags]
  data ++ leBytes 4 (crc32c (data ++ rest)).toNat ++ rest

/-- R412: the first block of a folio's twin stream reaches the paired folio. One whose CRC passes is written and
confirmed; the other is asked for again and counted. A tile that has been served goes behind the others, so they share the
link in turn, and each tile's blocks keep their order. -/
def doTwinBlock (f : Folio) (good : Bool) (s : State) : State :=
  match s.twin f with
  | [] => s
  | b :: rest =>
    if s.fld (twinStatusOf f) Fld.twinStatusState ≠ 2 ∨ s.clocksStopped = true then s
    else
    let seq := Store.get (fun _ => 0) s.optics.twinSeq f
    let s := s.draw.emit (.twin f (b.bytes seq (Config.twinFlags s.free)))
    if !good then s.bump (.twinErrors (Fin.ofNat 4 (f.val / 2))) Fld.twinErrorsResends 1
    else
      let s := { s with optics := { s.optics with twinSeq := Store.set (fun k => k.val) s.optics.twinSeq f ((seq + 1) % 2 ^ 16) } }
      let u : Tile := Fin.ofNat 192 ((f.val ^^^ 1) * 24 + tileNum b.tile)
      let s := s.setTwin f (rest.filter (fun k => decide (k.tile ≠ b.tile)) ++ rest.filter (fun k => decide (k.tile = b.tile)))
      let fails (s : State) (st : Nat) : State :=
        match (s.tile b.tile).xfers.find? (fun x => x.tag = b.tag) with
        | some x => s.failXfer b.tile x st
        | none => s
      if (s.tile u).inReset then fails s 0x0A
      else
        match (s.wake (.tile u)).vatWrite u b.off b.data with
        | (s, some _) => fails s 0x0C
        | (s, none) => s

def execTwinBlock (f : Folio) (good : Bool) (s : State) : Host.Outcome State Fault Refusal := .next (doTwinBlock f good s)

end Sys2Proof.Machine
end

