-- ==== Sys2Proof/Machine/Commands.lean ====
section
/-! DEFINITION. Engine command queues (R242-R247), the engine commands (R244, R245) and the optimizer updates
(R248-R250). -/

namespace Sys2Proof.Machine

/-! ### Records -/

/-- The fields of a command record (R244). -/
structure Cmd where
  code : Nat
  region : Fin 256
  srcFmt : Nat
  dstFmt : Nat
  rm : Nat
  satc : Bool
  flags : Nat
  count : Nat
  src : Nat
  dst : Nat
  rowBytes : Nat
  pitch : Nat
  aux : Nat
  seed : W32
  step : W64
  cplOff : Nat
  cplTag : Nat
  reservedBits : Bool
  deriving DecidableEq, Repr

def cmdOf (ws : List W64) : Cmd :=
  let w (i : Nat) : Nat := (ws.getD i 0).toNat
  { code := w 0 % 2 ^ 8
    region := Fin.ofNat 256 (w 0 / 2 ^ 8)
    srcFmt := bitsOf (w 0) 19 16
    dstFmt := bitsOf (w 0) 23 20
    rm := bitsOf (w 0) 25 24
    satc := (w 0).testBit 26
    flags := bitsOf (w 0) 31 27
    count := w 0 / 2 ^ 32
    src := w 1 % 2 ^ 46
    dst := w 2 % 2 ^ 46
    rowBytes := w 3 % 2 ^ 32
    pitch := w 3 / 2 ^ 32
    aux := w 4 % 2 ^ 46
    seed := BitVec.ofNat 32 (w 5)
    step := ws.getD 6 0
    cplOff := w 7 % 2 ^ 46
    cplTag := w 7 / 2 ^ 48
    reservedBits := decide (w 1 ≥ 2 ^ 46) || decide (w 2 ≥ 2 ^ 46) || decide (w 4 ≥ 2 ^ 46) || decide (w 5 ≥ 2 ^ 32)
      || decide (bitsOf (w 7) 47 46 ≠ 0) }

/-- The fields that a command uses (R244, R248); every other field must be zero. An unused AUX_OFF, format or rounding
field of a form counts as not used. -/
structure CmdUse where
  region : Bool := false
  srcFmt : Bool := false
  dstFmt : Bool := false
  rounds : Bool := false
  flags : Nat := 0
  count : Bool := false
  src : Bool := false
  dst : Bool := false
  rows : Bool := false
  pitch : Bool := false
  aux : Bool := false
  deriving DecidableEq, Repr

def isMxCode (c : Nat) : Bool := decide (5 ≤ c) && decide (c ≤ 9)

def cmdUse (c : Cmd) : Option CmdUse :=
  match c.code with
  | 0x01 => some { srcFmt := true, dstFmt := true, rounds := true, count := true, src := true, dst := true,
                   aux := isMxCode c.srcFmt || isMxCode c.dstFmt }
  | 0x02 => some { count := true, src := true, dst := true, rows := true, pitch := true, aux := true }
  | 0x03 => some { count := true, src := true, dst := true, rows := true, pitch := true, aux := true }
  | 0x04 => some { count := true, src := true, dst := true, rows := true, pitch := true, aux := true, flags := 1,
                   srcFmt := c.flags.testBit 0 }
  | 0x05 => some { count := true, src := true, dst := true, rows := true, pitch := true, aux := true, flags := 2 }
  | 0x08 => some { region := true, count := true, dst := true, dstFmt := true, aux := true, flags := 1 }
  | 0x09 => some { region := true, rounds := true }
  | 0x0A => some { region := true }
  | 0x10 => some { count := true, aux := true, srcFmt := true, dstFmt := c.flags.testBit 1, rounds := c.flags.testBit 1,
                   flags := 7 }
  | 0x11 => some { count := true, aux := true, srcFmt := true, dstFmt := c.flags.testBit 1, rounds := c.flags.testBit 1,
                   flags := 6 }
  | 0x12 => some { count := true, aux := true, srcFmt := true, dstFmt := c.flags.testBit 1, rounds := c.flags.testBit 1,
                   flags := 6 }
  | _ => none

/-- BAD_FIELD of a record (R236, R244): a reserved code, a reserved or unused field that is not zero, RM 3, or a COUNT,
ROW_BYTES or PITCH of all ones (R13). -/
def Cmd.badField (c : Cmd) : Bool :=
  match cmdUse c with
  | none => true
  | some u =>
    c.reservedBits || (!u.region && decide (c.region.val ≠ 0)) || (!u.srcFmt && decide (c.srcFmt ≠ 0))
      || (!u.dstFmt && decide (c.dstFmt ≠ 0))
      || (!u.rounds && (decide (c.rm ≠ 0) || c.satc || decide (c.seed ≠ 0) || decide (c.step ≠ 0)))
      || decide (c.flags ||| u.flags ≠ u.flags) || (!u.count && decide (c.count ≠ 0)) || (!u.src && decide (c.src ≠ 0))
      || (!u.dst && decide (c.dst ≠ 0)) || (!u.rows && decide (c.rowBytes ≠ 0)) || (!u.pitch && decide (c.pitch ≠ 0))
      || (!u.aux && decide (c.aux ≠ 0)) || decide (c.rm = 3) || decide (c.count = 2 ^ 32 - 1)
      || decide (c.rowBytes = 2 ^ 32 - 1) || decide (c.pitch = 2 ^ 32 - 1)

/-- What a command answers (R247). -/
structure CmdEnd where
  status : Nat
  flags : Flags
  result : Nat
  count : Nat
  deriving DecidableEq, Repr

def CmdEnd.fail (st : Nat) : CmdEnd := ⟨st, 0, 0, 0⟩

/-! ### Arrays -/

/-- RANGE, OVERLAP and REGION_BUSY of the arrays that a command reads and writes (R236, R241), each an offset and a
length. `pairs` says that written arrays may not overlap one another either. -/
def arrayErrors (s : State) (f : Folio) (reads writes : List (Nat × Nat)) (pairs : Bool) : List (Bool × Nat) :=
  let meets (a b : Nat × Nat) : Bool := rangesMeet a.1 a.2 b.1 b.2 && decide (a.2 ≠ 0) && decide (b.2 ≠ 0)
  let indexed := writes.zipIdx
  [((reads ++ writes).any (fun a => decide (a.1 + a.2 > reamLimit)), 2),
   (writes.any (fun a => reads.any (meets a))
     || (pairs && indexed.any (fun a => indexed.any (fun b => decide (a.2 < b.2) && meets a.1 b.1))), 7),
   (writes.any (fun a => decide (a.2 ≠ 0) && s.regionBlocks f a.1 a.2), 6)]

/-- Bits packed into bytes, the last byte's upper bits taken from `rest`. -/
def packCodes (w : Nat) (codes : List Nat) (rest : Nat) : List Byte :=
  let bits := codes.length * w
  let v := (codes.zipIdx).foldl (fun a c => a + c.1 % 2 ^ w * 2 ^ (c.2 * w)) 0
  let n := (bits + 7) / 8
  leBytes n (v + (if bits % 8 = 0 then 0 else rest / 2 ^ (bits % 8) * 2 ^ bits))

def codesOf (w n : Nat) (bs : List Byte) : List Nat :=
  let v := leNat bs
  (List.range n).map (fun i => v / 2 ^ (i * w) % 2 ^ w)

/-- Consecutive groups of 32. -/
def blocks32 {α : Type} : Nat → List α → List (List α)
  | 0, _ => []
  | n + 1, l => l.take 32 :: blocks32 n (l.drop 32)

/-! ### CONVERT -/

/-- The converted codes, the scale bytes of an MX destination and the flags (R47, R54, R55). An MX block is formed from the exact
source values, without a rounding to FP32 in between (DESIGN CHOICE, log 178). -/
def convertAll (a b : Fmt) (rm : Rm) (satc : Bool) (r : Nat → Nat) (codes : List Nat) (scales : List Byte) :
    List Nat × List Nat × Flags :=
  let vals := codes.zipIdx.map (fun c =>
    if a.isMx then mxValue a.elem (scales.getD (c.2 / 32) 0).toNat c.1 else a.elem.decode c.1)
  let snan := codes.foldl (fun fl c => fl ||| (a.elem.decode c).snanFlag) 0
  if b.isMx then
    let es := (blocks32 (vals.length / 32) vals).zipIdx.map (fun g =>
      mxConvert b.elem rm (fun i => r (32 * g.2 + i)) g.1)
    (es.flatMap (fun e => e.2.1), es.map (fun e => e.1), es.foldl (fun fl e => fl ||| e.2.2) snan)
  else
    let es := vals.zipIdx.map (fun v => b.elem.encode rm satc (r v.2) v.1)
    (es.map (·.1), [], es.foldl (fun fl e => fl ||| e.2) snan)

/-- Write arrays one after another until one meets an uncorrectable error: the bytes written, and whether there was one. -/
def State.writeArrays (s : State) (f : Folio) (done : Nat) : List (Nat × List Byte) → State × Nat × Bool
  | [] => (s, done, false)
  | p :: ps =>
    match s.engWrite f p.1 p.2 with
    | (s, true) => (s, done, true)
    | (s, false) => s.writeArrays f (done + p.2.length) ps

/-- CONVERT (R244, R246). Stochastic rounding to a format that is not narrower is not refused (R53; DESIGN CHOICE, log 228). -/
def runConvert (s : State) (f : Folio) (c : Cmd) : State × CmdEnd :=
  let mx := isMxCode c.srcFmt || isMxCode c.dstFmt
  let badFmt := decide (c.srcFmt > 12) || decide (c.dstFmt > 12) || (isMxCode c.srcFmt && isMxCode c.dstFmt)
  let bytes (code : Nat) : Nat := match Fmt.ofCode code with
    | some e => (c.count * e.width + 7) / 8
    | none => min 1 c.count
  let scale := (c.aux, c.count / 32)
  let st := lowestStatus ((mx && decide (c.count % 32 ≠ 0), 3) :: (badFmt, 4)
    :: arrayErrors s f ((c.src, bytes c.srcFmt) :: (if isMxCode c.srcFmt then [scale] else []))
      ((c.dst, bytes c.dstFmt) :: (if isMxCode c.dstFmt then [scale] else [])) true)
  match st, Fmt.ofCode c.srcFmt, Fmt.ofCode c.dstFmt, Rm.ofCode c.rm with
  | 0, some a, some b, some rm =>
    match s.engRead f c.src (bytes c.srcFmt) with
    | (s, none) => (s, .fail 9)
    | (s, some bs) =>
      match (if a.isMx then s.engRead f scale.1 scale.2 else (s, some [])) with
      | (s, none) => (s, .fail 9)
      | (s, some sc) =>
        let r (i : Nat) : Nat := if rm = .sr then srFor a.width b.width c.seed c.step (8 * c.dst + i * b.width) else 0
        let (codes, scales, fl) := convertAll a b rm c.satc r (codesOf a.width c.count bs) sc
        let ndst := bytes c.dstFmt
        let last := leNat (s.readMem (reamAddr f (c.dst + ndst - 1)) 1)
        match (if b.isMx then s.engWrite f c.aux (scales.map (fun x => BitVec.ofNat 8 x)) else (s, false)) with
        | (s, true) => (s, ⟨9, fl, 0, 0⟩)
        | (s, false) =>
          let (s, done, bad) := s.writeArrays f 0 (pieces c.dst (ndst / 256 + 2) (packCodes b.width codes last))
          if bad then (s, ⟨9, fl, 0, 8 * done / b.width⟩) else (s, ⟨0, fl, 0, c.count⟩)
  | st, _, _, _ => (s, .fail (if st = 0 then 4 else st))

/-! ### Rows -/

/-- Copy rows: each an optional source offset (none: zeros) and a destination offset. The rows copied, and whether an
uncorrectable error stopped it. -/
def State.copyRows (s : State) (f : Folio) (n done : Nat) : List (Option Nat × Nat) → State × Nat × Bool
  | [] => (s, done, false)
  | p :: ps =>
    match (match p.1 with
      | some a => s.engRead f a n
      | none => (s, some (List.replicate n 0))) with
    | (s, none) => (s, done, true)
    | (s, some bs) =>
      match s.engWrite f p.2 bs with
      | (s, true) => (s, done, true)
      | (s, false) => s.copyRows f n (done + 1) ps

/-- The end of a command whose list, mask or block cannot be read: UNCORRECTABLE, or a lower code of the arrays that are known
without it (R236). -/
def unreadable (s : State) (f : Folio) (reads writes : List (Nat × Nat)) (pairs : Bool) : CmdEnd :=
  .fail (lowestStatus ((true, 9) :: arrayErrors s f reads writes pairs))

/-- GATHER and SCATTER (R244). An array is the bytes that the command touches. A stopped command reports the rows of its list
before the one that failed (R247). -/
def runIndexed (gather : Bool) (s : State) (f : Folio) (c : Cmd) : State × CmdEnd :=
  let n := c.rowBytes
  let list := (c.aux, 4 * c.count)
  let line (r : Nat) : Nat := (if gather then c.dst else c.src) + r * n
  let lin := (line 0, c.count * n)
  if c.aux + 4 * c.count > reamLimit then (s, .fail 2)
  else
    match s.engRead f c.aux (4 * c.count) with
    | (s, none) => (s, unreadable s f (if gather then [list] else [list, lin]) (if gather then [lin] else []) gather)
    | (s, some bs) =>
      let idx := (elements 4 bs).map leNat
      let spot (x : Nat) : Nat := (if gather then c.src else c.dst) + x * c.pitch
      let real := (idx.filter (fun x => decide (x ≠ padIndex))).map (fun x => (spot x, n))
      let st := lowestStatus (if gather then arrayErrors s f (list :: real) [lin] true
        else arrayErrors s f [list, lin] real false)
      if st ≠ 0 then (s, .fail st)
      else
        let rows : List (Option Nat × Nat) := idx.zipIdx.map (fun p =>
          if gather then (if p.1 = padIndex then none else some (spot p.1), line p.2) else (some (line p.2), spot p.1))
        let moves := (rows.zip idx).filter (fun p => gather || decide (p.2 ≠ padIndex))
        let (s, done, bad) := s.copyRows f n 0 (moves.map (·.1))
        let reached := ((idx.zipIdx.filter (fun p => gather || decide (p.1 ≠ padIndex))).map (·.2)).getD done c.count
        if bad then (s, ⟨9, 0, 0, reached⟩) else (s, ⟨0, 0, 0, c.count⟩)

/-- Whether a row has a non-zero element (R244). -/
def rowActive (e : Fmt) (bs : List Byte) : Bool :=
  (codesOf e.width (8 * bs.length / e.width) bs).any (fun c => !(e.elem.decode c).isZero)

/-- Mask bits of rows, read or computed. None: an uncorrectable error. -/
def State.rowMask (s : State) (f : Folio) (c : Cmd) : List Nat → State × Option (List Bool)
  | [] => (s, some [])
  | r :: rs =>
    match s.engRead f (c.src + r * c.pitch) c.rowBytes with
    | (s, none) => (s, none)
    | (s, some bs) =>
      match s.rowMask f c rs with
      | (s, none) => (s, none)
      | (s, some m) => (s, some (rowActive ((Fmt.ofCode c.srcFmt).getD .fp32) bs :: m))

def readMask (s : State) (f : Folio) (c : Cmd) : State × Option (List Bool) :=
  match s.engRead f c.aux ((c.count + 7) / 8) with
  | (s, none) => (s, none)
  | (s, some bs) => (s, some ((codesOf 1 c.count bs).map (fun b => decide (b = 1))))

/-- The active rows of a mask. -/
def activeRows (m : List Bool) : List Nat := (m.zipIdx.filter (·.1)).map (·.2)

/-- ELIDE (R244). A stopped command reports the rows written, and the rows of the mask before the one that failed. -/
def runElide (s : State) (f : Folio) (c : Cmd) : State × CmdEnd :=
  let build := c.flags.testBit 0
  let mask := (c.aux, (c.count + 7) / 8)
  let rows := (List.range c.count).map (fun r => (c.src + r * c.pitch, c.rowBytes))
  let reads := if build then rows else mask :: rows
  let writes := if build then [mask] else []
  let st := lowestStatus ((build && decide (c.srcFmt > 12), 4) :: arrayErrors s f reads writes true)
  if st ≠ 0 then (s, .fail st)
  else
    match (if build then s.rowMask f c (List.range c.count) else readMask s f c) with
    | (s, none) => (s, unreadable s f reads writes true)
    | (s, some m) =>
      let act := activeRows m
      let st := lowestStatus (arrayErrors s f reads ((c.dst, act.length * c.rowBytes) :: writes) true)
      if st ≠ 0 then (s, .fail st)
      else
        let last := leNat (s.readMem (reamAddr f (c.aux + mask.2 - 1)) 1)
        match (if build then s.engWrite f c.aux (packCodes 1 (m.map (fun b => if b then 1 else 0)) last) else (s, false)) with
        | (s, true) => (s, .fail 9)
        | (s, false) =>
          let (s, done, bad) := s.copyRows f c.rowBytes 0 (act.zipIdx.map (fun p =>
            (some (c.src + p.1 * c.pitch), c.dst + p.2 * c.rowBytes)))
          if bad then (s, ⟨9, 0, done, act.getD done c.count⟩) else (s, ⟨0, 0, act.length, c.count⟩)

/-- RESTORE (R244). A stopped command reports the rows of the mask before the one that failed. -/
def runRestore (s : State) (f : Folio) (c : Cmd) : State × CmdEnd :=
  let zero := c.flags.testBit 1
  let mask := (c.aux, (c.count + 7) / 8)
  let dst (r : Nat) : Nat := c.dst + r * c.pitch
  let known := if zero then (List.range c.count).map (fun r => (dst r, c.rowBytes)) else []
  let st := lowestStatus (arrayErrors s f [mask] known false)
  if st ≠ 0 then (s, .fail st)
  else
    match readMask s f c with
    | (s, none) => (s, unreadable s f [mask] known false)
    | (s, some m) =>
      let act := activeRows m
      let hit := (m.zipIdx.filter (fun p => p.1 || zero)).map (·.2)
      let st := lowestStatus (arrayErrors s f [mask, (c.src, act.length * c.rowBytes)]
        (hit.map (fun r => (dst r, c.rowBytes))) false)
      if st ≠ 0 then (s, .fail st)
      else
        let (s, done, bad) := s.copyRows f c.rowBytes 0 (hit.map (fun r =>
          (if m.getD r false then some (c.src + (act.filter (fun k => decide (k < r))).length * c.rowBytes) else none, dst r)))
        if bad then (s, ⟨9, 0, 0, hit.getD done c.count⟩) else (s, ⟨0, 0, 0, c.count⟩)

/-! ### Regions -/

/-- Write clear slots (R238). -/
def State.clearSlots (s : State) (f : Folio) (off : Nat) : Nat → State × Bool
  | 0 => (s, false)
  | n + 1 =>
    match s.engWrite f off (accSlot LongAcc.clear) with
    | (s, true) => (s, true)
    | (s, false) => s.clearSlots f (off + 64) n

/-- REGION_OPEN (R244, R245). The region becomes OPEN when the completion record is written; its registers are set
then. It processes no element (DESIGN CHOICE, log 237). -/
def runRegionOpen (s : State) (f : Folio) (c : Cmd) : State × CmdEnd :=
  let ok := [0, 1, 2, 3, 4, 10, 12].contains c.dstFmt
  let w := fmtBytes c.dstFmt
  let preserve := c.flags.testBit 0
  let st := lowestStatus
    [(ok && (decide (c.dst + c.count * w > reamLimit) || decide (c.aux + 64 * c.count > reamLimit)), 2),
     (decide (c.aux % 64 ≠ 0), 3), (!ok, 4), (decide (s.fld (.regionState f c.region) Fld.regionStateState ≠ 0), 5),
     (!preserve && decide (c.count ≠ 0) && s.regionBlocks f c.aux (64 * c.count), 6),
     (ok && decide (c.count ≠ 0) && rangesMeet c.dst (c.count * w) c.aux (64 * c.count), 7)]
  if st ≠ 0 then (s, .fail st)
  else if preserve then (s, ⟨0, 0, 0, 0⟩)
  else
    match s.clearSlots f c.aux c.count with
    | (s, true) => (s, .fail 9)
    | (s, false) => (s, ⟨0, 0, 0, 0⟩)

/-- Round the slots from element `j` on into the target (R60, R245): the state, the elements written, the slots at the count limit
among them, the flags, and whether an uncorrectable error stopped it. -/
def State.finalSlots (s : State) (f : Folio) (c : Cmd) (fmt : Fmt) (target slot : Nat) :
    Nat → Nat → Nat → Flags → State × Nat × Nat × Flags × Bool
  | 0, j, hits, fl => (s, j, hits, fl, false)
  | n + 1, j, hits, fl =>
    match s.engRead f (slot + 64 * j) 64 with
    | (s, none) => (s, j, hits, fl, true)
    | (s, some bs) =>
      let a := slotAcc bs
      let w := fmtBytes fmt.code
      let rm := (Rm.ofCode c.rm).getD .rne
      let r := if rm = .sr then srDraw c.seed c.step (BitVec.ofNat 64 (8 * (target + j * w))) else 0
      let (code, g) := a.read fmt.elem rm c.satc r
      match s.engWrite f (target + j * w) (leBytes w code) with
      | (s, true) => (s, j, hits, fl ||| g, true)
      | (s, false) => s.finalSlots f c fmt target slot n (j + 1) (if a.count ≥ 2 ^ 42 then hits + 1 else hits) (fl ||| g)

/-- REGION_FINAL (R245): the ACC operations that are complete at the engines are applied; the region is FINALIZING while the
targets are written, then CLOSED, after an uncorrectable error too. A stopped command reports the elements written and the slots at
the limit among them (DESIGN CHOICE, log 63). -/
def runRegionFinal (s : State) (f : Folio) (c : Cmd) : State × CmdEnd :=
  let r := c.region
  if s.fld (.regionState f r) Fld.regionStateState ≠ 1 then (s, .fail 5)
  else
    let count := s.fld (.regionCount f r) Fld.regionCountCount
    let s := s.settleOps f (s.regionSlotOff f r) (64 * count)
    let s := s.setFld (.regionState f r) Fld.regionStateState 2
    let fmt := (Fmt.ofCode (s.fld (.regionCount f r) Fld.regionCountFmt)).getD .fp32
    let (s, done, hits, fl, bad) := s.finalSlots f c fmt (s.fld (.regionTarget f r) Fld.regionTargetOffset)
      (s.regionSlotOff f r) count 0 0 0
    let s := s.setFld (.regionState f r) Fld.regionStateState 0
    (s, ⟨if bad then 9 else 0, fl, hits, done⟩)

/-- REGION_ABANDON (R244, R245). -/
def runRegionAbandon (s : State) (f : Folio) (c : Cmd) : State × CmdEnd :=
  if s.fld (.regionState f c.region) Fld.regionStateState ≠ 1 then (s, .fail 5)
  else (s.setFld (.regionState f c.region) Fld.regionStateState 0, ⟨0, 0, 0, 0⟩)

/-! ### Optimizer updates -/

/-- The parameter block of R248: five offsets and ten FP32 constants, and whether its reserved bits are zero. -/
structure OptBlock where
  w : Nat
  g : Nat
  m : Nat
  v : Nat
  copy : Nat
  k : List W32
  clean : Bool
  deriving DecidableEq, Repr

def optBlock (sgdm : Bool) (bs : List Byte) : OptBlock :=
  let o (i : Nat) : Nat := leNat ((bs.drop (8 * i)).take 8)
  { w := o 0 % 2 ^ 46
    g := o 1 % 2 ^ 46
    m := o 2 % 2 ^ 46
    v := o 3 % 2 ^ 46
    copy := o 4 % 2 ^ 46
    k := (List.range 10).map (fun i => BitVec.ofNat 32 (leNat ((bs.drop (40 + 4 * i)).take 4)))
    clean := (bs.drop 80).all (fun b => decide (b = 0))
      && [o 0, o 1, o 2, o 4].all (fun x => decide (x < 2 ^ 46)) && (sgdm || decide (o 3 < 2 ^ 46)) }

/-- One element's update (R249): the new weight, moments and the flags. -/
def optStep (code : Nat) (nesterov : Bool) (k : List W32) (grad w m v : W32) : W32 × W32 × W32 × Flags :=
  let c (i : Nat) : W32 := k.getD i 0
  let lr := c 0
  let beta1 := c 1
  let wd := c 6
  let rm := Rm.rne
  let (g0, f0) := f32Mul rm grad (c 7)
  if code = 0x10 then
    let (g, f1) := f32Fma rm wd w g0
    let (m', f2) := f32Fma rm beta1 m g
    let (u, f3) := if nesterov then f32Fma rm beta1 m' g else (m', 0)
    let (w', f4) := f32Fma rm (lr ^^^ 0x80000000) u w
    (w', m', v, f0 ||| f1 ||| f2 ||| f3 ||| f4)
  else
    let (g, f1) := if code = 0x11 then f32Fma rm wd w g0 else (g0, 0)
    let (a, f2) := f32Mul rm (c 2) g
    let (m', f3) := f32Fma rm beta1 m a
    let (b, f4) := f32Mul rm (c 4) g
    let (t, f5) := f32Mul rm b g
    let (v', f6) := f32Fma rm (c 3) v t
    let (d0, f7) := f32Mul rm v' (c 9)
    let (d1, f8) := f32Sqrt rm d0
    let (d, f9) := f32Add rm d1 (c 5)
    let (n, f10) := f32Mul rm m' (c 8)
    let (u0, f11) := f32DivFull rm n d
    let (u, f12) := if code = 0x12 then f32Fma rm wd w u0 else (u0, 0)
    let (w', f13) := f32Fma rm (lr ^^^ 0x80000000) u w
    (w', m', v', f0 ||| f1 ||| f2 ||| f3 ||| f4 ||| f5 ||| f6 ||| f7 ||| f8 ||| f9 ||| f10 ||| f11 ||| f12 ||| f13)

/-- Update elements from `i` on (R249, R250): the state, the flags, the elements skipped, those done, and whether an
uncorrectable error stopped it. -/
def State.optElements (s : State) (f : Folio) (c : Cmd) (b : OptBlock) : Nat → Nat → Flags → Nat →
    State × Flags × Nat × Nat × Bool
  | 0, i, fl, skips => (s, fl, skips, i, false)
  | n + 1, i, fl, skips =>
    let gf := (Fmt.ofCode c.srcFmt).getD .fp32
    let gw := fmtBytes c.srcFmt
    match s.engRead f (b.g + i * gw) gw with
    | (s, none) => (s, fl, skips, i, true)
    | (s, some gb) =>
      let gv := gf.elem.decode (leNat gb)
      if c.flags.testBit 2 && (gv.isNaN || gv.isInf) then s.optElements f c b n (i + 1) fl (skips + 1)
      else
        match s.engRead f (b.w + 4 * i) 4 with
        | (s, none) => (s, fl, skips, i, true)
        | (s, some wb) =>
          match s.engRead f (b.m + 4 * i) 4 with
          | (s, none) => (s, fl, skips, i, true)
          | (s, some mb) =>
            match (if c.code = 0x10 then (s, some []) else s.engRead f (b.v + 4 * i) 4) with
            | (s, none) => (s, fl, skips, i, true)
            | (s, some vb) =>
              let word (bs : List Byte) : W32 := BitVec.ofNat 32 (leNat bs)
              let (w', m', v', g) := optStep c.code (c.flags.testBit 0) b.k ((toF32 .rne gv).1) (word wb) (word mb) (word vb)
              let fl := fl ||| g ||| gv.snanFlag
              let cf := (Fmt.ofCode c.dstFmt).getD .bf16
              let cw := fmtBytes c.dstFmt
              let rm := (Rm.ofCode c.rm).getD .rne
              let r := if rm = .sr then srDraw c.seed c.step (BitVec.ofNat 64 (8 * (b.copy + i * cw))) else 0
              let (code, h) := if c.flags.testBit 1 then cf.elem.encode rm c.satc r (ofF32 w') else (0, 0)
              let writes : List (Nat × List Byte) :=
                [(b.w + 4 * i, leBytes 4 w'.toNat), (b.m + 4 * i, leBytes 4 m'.toNat)]
                  ++ (if c.code = 0x10 then [] else [(b.v + 4 * i, leBytes 4 v'.toNat)])
                  ++ (if c.flags.testBit 1 then [(b.copy + i * cw, leBytes cw code)] else [])
              match s.writeArrays f 0 writes with
              | (s, _, true) => (s, fl ||| h, skips, i, true)
              | (s, _, false) => s.optElements f c b n (i + 1) (fl ||| h) skips

/-- An optimizer command whose arrays begin `skip` elements further on (R372). -/
def OptBlock.skip (b : OptBlock) (c : Cmd) (skip : Nat) : OptBlock :=
  { b with
    w := b.w + 4 * skip, g := b.g + fmtBytes c.srcFmt * skip, m := b.m + 4 * skip, v := b.v + 4 * skip,
    copy := b.copy + fmtBytes c.dstFmt * skip }

/-- SGDM, ADAM and ADAMW with their parameter block at AUX_OFF (R248-R250), from element `skip` on. -/
def runOptimizerAt (s : State) (f : Folio) (c : Cmd) (skip : Nat) : State × CmdEnd :=
  let sgdm := decide (c.code = 0x10)
  let copy := c.flags.testBit 1
  let badG := decide (c.srcFmt > 1)
  let badC := copy && !([1, 2, 3, 4].contains c.dstFmt)
  if c.aux + 128 > reamLimit then (s, .fail 2)
  else
    match s.engRead f c.aux 128 with
    | (s, none) => (s, .fail (if badG || badC then 4 else 9))
    | (s, some bs) =>
      let b := (optBlock sgdm bs).skip c skip
      let gw := fmtBytes c.srcFmt
      let cw := fmtBytes c.dstFmt
      let n := c.count
      let writes : List (Nat × Nat) := [(b.w, 4 * n), (b.m, 4 * n)] ++ (if sgdm then [] else [(b.v, 4 * n)])
        ++ (if copy && !badC then [(b.copy, cw * n)] else [])
      let reads : List (Nat × Nat) := (c.aux, 128) :: (if badG then [] else [(b.g, gw * n)])
      let align := decide (b.w % 4 ≠ 0) || decide (b.m % 4 ≠ 0) || (!sgdm && decide (b.v % 4 ≠ 0))
        || (!badG && decide (b.g % gw ≠ 0)) || (copy && !badC && decide (b.copy % cw ≠ 0))
      let st := lowestStatus ([(!b.clean, 1), (align, 3), (badG || badC, 4)] ++ arrayErrors s f reads writes true)
      if st ≠ 0 then (s, .fail st)
      else
        let (s, fl, skips, done, bad) := s.optElements f c b n 0 0 0
        (s, ⟨if bad then 9 else 0, fl, skips, done⟩)

def runOptimizer (s : State) (f : Folio) (c : Cmd) : State × CmdEnd := runOptimizerAt s f c 0

/-- Carry out a command whose fields are valid. -/
def runCmd (s : State) (f : Folio) (c : Cmd) : State × CmdEnd :=
  match c.code with
  | 0x01 => runConvert s f c
  | 0x02 => runIndexed true s f c
  | 0x03 => runIndexed false s f c
  | 0x04 => runElide s f c
  | 0x05 => runRestore s f c
  | 0x08 => runRegionOpen s f c
  | 0x09 => runRegionFinal s f c
  | 0x0A => runRegionAbandon s f c
  | 0x10 | 0x11 | 0x12 => runOptimizer s f c
  | _ => (s, .fail 1)

/-! ### Queues -/

def ecqKey (f : Folio) (q : Ecq) : Nat := f.val * 16 + q.val
def State.ecq (s : State) (f : Folio) (q : Ecq) : EcqState := Store.get (fun _ => ⟨0, false, none⟩) s.ecqs (ecqKey f q)
def State.setEcq (s : State) (f : Folio) (q : Ecq) (e : EcqState) : State :=
  { s with ecqs := Store.put id (fun _ => ⟨0, false, none⟩) s.ecqs (ecqKey f q) e }

/-- Stop a queue on an error (R242). -/
def State.ecqStop (s : State) (f : Folio) (q : Ecq) (code : Nat) : State :=
  ((s.setFlag (.ecqCtl f q) Fld.ecqCtlEnable false).setFlag (.ecqCtl f q) Fld.ecqCtlError true).setFld (.ecqCtl f q)
    Fld.ecqCtlErrorCode code

/-- Notice the tail word: it is read, once no bias change holds its page (R451), and checked against the ring size (R242). -/
def State.ecqNotice (s : State) (f : Folio) (q : Ecq) : State :=
  if s.biasWaits f (8 * s.fld (.ecqTailAddr f q) Fld.ecqTailAddrAddr) 8 then s.setEcq f q { s.ecq f q with unread := true }
  else
    match s.engRead f (8 * s.fld (.ecqTailAddr f q) Fld.ecqTailAddrAddr) 8 with
    | (s, none) => s.ecqStop f q 2
    | (s, some bs) =>
      let tail := leNat bs % 2 ^ 32
      let s := s.setEcq f q { s.ecq f q with tail := tail, unread := false }
      if (tail + 2 ^ 32 - s.fld (.ecqHead f q) Fld.ecqHeadIndex) % 2 ^ 32 > 2 ^ s.fld (.ecqSize f q) Fld.ecqSizeLog2 then
        s.ecqStop f q 1
      else s

/-- Setting ENABLE: HEAD becomes 0, and a command that still runs completes without advancing it. The tail counts as 0
until a write of the tail word is noticed (DEDUCED from R242, log 60). -/
def State.ecqEnable (s : State) (f : Folio) (q : Ecq) : State :=
  let e := s.ecq f q
  let s := s.setFlag (.ecqCtl f q) Fld.ecqCtlEnable true
  let s := s.setFld (.ecqHead f q) Fld.ecqHeadIndex 0
  s.setEcq f q { e with tail := 0, unread := false, run := e.run.map (fun r => { r with stale := true }) }

/-- Writing RESUME while ENABLE and ERROR are 0: the queue restarts at HEAD and reads the tail word afresh. -/
def State.ecqResume (s : State) (f : Folio) (q : Ecq) : State :=
  (s.setFlag (.ecqCtl f q) Fld.ecqCtlEnable true).ecqNotice f q

/-- Whether the engines of a folio work: its clocks run and it is not in reset. -/
def State.enginesUp (s : State) (f : Folio) : Bool := !s.clocksStopped && !s.downDies.contains (folioDie f)

/-- R242: a write to the tail word is noticed. -/
def execEcqTailWrite (f : Folio) (q : Ecq) (s : State) : Host.Outcome State Fault Refusal :=
  .next (if s.enginesUp f && s.flag (.ecqCtl f q) Fld.ecqCtlEnable then s.ecqNotice f q else s)

/-- Whether CPL_OFF cannot take a completion record (R242). -/
def badCpl (s : State) (f : Folio) (c : Cmd) : Bool :=
  decide (c.cplOff + 32 > reamLimit) || decide (c.cplOff % 32 ≠ 0) || s.regionBlocks f c.cplOff 32

/-- R242, R246: the record at HEAD is read and its fields checked. -/
def doEcqRecordFetch (f : Folio) (q : Ecq) (s : State) : State :=
  let e := s.ecq f q
  let head := s.fld (.ecqHead f q) Fld.ecqHeadIndex
  if s.enginesUp f = false ∨ s.flag (.ecqCtl f q) Fld.ecqCtlEnable = false ∨ e.run.isSome = true then s
  else if e.unread then s.ecqNotice f q
  else if e.tail = head then s
  else
    let off := 64 * s.fld (.ecqBase f q) Fld.ecqBaseAddr + head % 2 ^ s.fld (.ecqSize f q) Fld.ecqSizeLog2 * 64
    if s.biasWaits f off 64 then s
    else
      match s.engRead f off 64 with
      | (s, none) => s.ecqStop f q 2
      | (s, some bs) =>
        let ws := (elements 8 bs).map (fun b => BitVec.ofNat 64 (leNat b))
        let c := cmdOf ws
        if badCpl s f c then s.ecqStop f q 3
        else
          let bad := c.badField
          s.setEcq f q { e with run := some ⟨ws, head, bad, if bad then 1 else 0, 0, 0, 0, false⟩ }

def execEcqRecordFetch (f : Folio) (q : Ecq) (s : State) : Host.Outcome State Fault Refusal :=
  .next (doEcqRecordFetch f q s)

/-- Carry out the queue's command where its code is `code`. It waits while the bias of a page of its folio changes
(R451). -/
def State.runQueue (s : State) (f : Folio) (q : Ecq) (code : Nat) : State :=
  match (s.ecq f q).run with
  | none => s
  | some r =>
    let c := cmdOf r.words
    if r.done ∨ c.code ≠ code ∨ s.enginesUp f = false ∨ s.biasWaits f 0 reamLimit = true then s
    else
      let (s, e) := runCmd s f c
      s.setEcq f q { s.ecq f q with
        run := some { r with done := true, status := e.status, flags := e.flags, result := e.result, count := e.count } }

def execConvert (f : Folio) (q : Ecq) (s : State) : Host.Outcome State Fault Refusal := .next (s.runQueue f q 0x01)
def execEngGather (f : Folio) (q : Ecq) (s : State) : Host.Outcome State Fault Refusal := .next (s.runQueue f q 0x02)
def execEngScatter (f : Folio) (q : Ecq) (s : State) : Host.Outcome State Fault Refusal := .next (s.runQueue f q 0x03)
def execEngElide (f : Folio) (q : Ecq) (s : State) : Host.Outcome State Fault Refusal := .next (s.runQueue f q 0x04)
def execEngRestore (f : Folio) (q : Ecq) (s : State) : Host.Outcome State Fault Refusal := .next (s.runQueue f q 0x05)
def execRegionOpen (f : Folio) (q : Ecq) (s : State) : Host.Outcome State Fault Refusal := .next (s.runQueue f q 0x08)
def execRegionFinal (f : Folio) (q : Ecq) (s : State) : Host.Outcome State Fault Refusal := .next (s.runQueue f q 0x09)
def execRegionAbandon (f : Folio) (q : Ecq) (s : State) : Host.Outcome State Fault Refusal := .next (s.runQueue f q 0x0A)
def execSgdm (f : Folio) (q : Ecq) (s : State) : Host.Outcome State Fault Refusal := .next (s.runQueue f q 0x10)
def execAdam (f : Folio) (q : Ecq) (s : State) : Host.Outcome State Fault Refusal := .next (s.runQueue f q 0x11)
def execAdamw (f : Folio) (q : Ecq) (s : State) : Host.Outcome State Fault Refusal := .next (s.runQueue f q 0x12)

/-- The completion record of R247. -/
def cmdRecord (s : State) (c : Cmd) (r : EcqRun) : List Byte :=
  leBytes 2 c.cplTag ++ leBytes 1 r.status ++ leBytes 1 (r.flags.toNat % 32) ++ leBytes 4 0 ++ leBytes 8 r.result
    ++ leBytes 8 r.count ++ leBytes 8 s.tenseNow

/-- The region that a REGION_OPEN opens with its completion (R245). -/
def State.openRegion (s : State) (f : Folio) (q : Ecq) (c : Cmd) : State :=
  let r := c.region
  let s := s.setReg (.regionTarget f r) (BitVec.ofNat 64 c.dst)
  let s := s.setReg (.regionCount f r) (BitVec.ofNat 64 (c.count + c.dstFmt * 2 ^ 32))
  let s := s.setFld (.regionSlot f r) Fld.regionSlotAddr (c.aux / 64)
  (s.setFld (.regionState f r) Fld.regionStateState 1).setFld (.regionState f r) Fld.regionStateQueue q.val

/-- R242, R245, R247: the completion record of a command that has been carried out is written, and HEAD advances. -/
def doEngineCommandComplete (f : Folio) (q : Ecq) (s : State) : State :=
  match (s.ecq f q).run with
  | none => s
  | some r =>
    if !r.done || !s.enginesUp f || s.biasWaits f (cmdOf r.words).cplOff 32 then s
    else
      let c := cmdOf r.words
      let rec' := cmdRecord s c r
      let (s, bad) := s.engWrite f c.cplOff rec'
      let s := if c.code = 0x08 ∧ r.status = 0 then s.openRegion f q c else s
      let s := s.setEcq f q { s.ecq f q with run := none }
      let s := s.bump (.ecqDone f q) Fld.ecqDoneCount 1
      let s := if r.status ≠ 0 then s.bump (.engCmds f) Fld.engCmdsCount 1 else s
      let s := if r.stale then s else s.setFld (.ecqHead f q) Fld.ecqHeadIndex ((r.index + 1) % 2 ^ 32)
      if bad then s.ecqStop f q 4
      else if s.flag (.ecqCtl f q) Fld.ecqCtlEvent then s.postEvent f 2 q.val rec' else s

def execEngineCommandComplete (f : Folio) (q : Ecq) (s : State) : Host.Outcome State Fault Refusal :=
  .next (doEngineCommandComplete f q s)

end Sys2Proof.Machine
end

