-- ==== Sys2Proof/Machine/Tense.lean ====
section
/-! DEFINITION. Tense (R258-R273): markers, lock states, the root's roles, and the quiesce. -/

namespace Sys2Proof.Machine

def State.updTense (s : State) (f : TenseRec → TenseRec) : State := { s with tense := f s.tense }

/-! ### Markers (R262) -/

/-- The bytes of a block, byte 0 in bits [7:0]. -/
def blockBytes (n : Nat) {w : Nat} (m : BitVec w) : List Byte := (List.range n).map (fun i => m.extractLsb' (8 * i) 8)

/-- A field of a block in bits from bit 0 of byte 0 (R5). -/
def blockField {w : Nat} (m : BitVec w) (lo width : Nat) : Nat := m.toNat / 2 ^ lo % 2 ^ width

/-- Whether a marker's CRC and reserved bits are right. -/
def markerGood (m : BitVec 256) : Bool :=
  decide ((crc16 (blockBytes 30 m)).toNat = blockField m 240 16) && decide (blockField m 68 4 = 0)
    && decide (blockField m 102 2 = 0) && decide (blockField m 196 4 = 0) && decide (blockField m 232 8 = 0)

def State.tenseState (s : State) : Nat := s.fld .tenseStatus Fld.tenseStatusState

/-- The step of every group has seen the device UNLOCKED (R380). -/
def State.markSteps (s : State) : State := { s with groups := s.groups.map (fun e => (e.1, { e.2 with unlocked := true })) }

/-- Change TENSE_STATUS.STATE; a step in which UNLOCKED begins or ends has been UNLOCKED at some point (R380). -/
def State.setTenseState (s : State) (v : Nat) : State :=
  (if v = 5 ∨ s.tenseState = 5 then s.markSteps else s).setFld .tenseStatus Fld.tenseStatusState v
/-- The port that the device follows; 0x7F none. -/
def State.parent (s : State) : Nat := s.fld .tenseStatus Fld.tenseStatusParent
def State.setParent (s : State) (p : Nat) : State := s.setFld .tenseStatus Fld.tenseStatusParent p
def State.tenseEnabled (s : State) : Bool := s.flag .tenseCtl Fld.tenseCtlEnable

def State.nbr (s : State) (p : Nat) : Option Nbr := Store.find? s.tense.nbrs p
def State.setNbr (s : State) (p : Nat) (n : Nbr) : State :=
  s.updTense (fun t => { t with nbrs := Store.set id t.nbrs p n })

def State.phyState (s : State) (p : Port) : Nat := s.fld (.portPhy p) Fld.portPhyState

/-- A port that its identity check refused (R393). -/
def State.refused (s : State) (p : Port) : Bool :=
  decide (s.phyState p = 2) && decide (1 ≤ s.fld (.portPhy p) Fld.portPhyFailReason)
    && decide (s.fld (.portPhy p) Fld.portPhyFailReason ≤ 4)

/-- Whether markers flow on a port: it is identified, live or in a lane fault and was not refused (R317, R395), or it is a
ring port whose bypass is open (R409, R410). -/
def State.carriesMarkers (s : State) (p : Nat) : Bool :=
  if p < 64 then
    let q : Port := Fin.ofNat 64 p
    [2, 3, 4].contains (s.phyState q) && !s.refused q
  else s.flag .ringStatus Fld.ringStatusBypassOpen

/-- R262: a marker that echoes one of TX_TENSE `tx`, which arrived `res` ago, both in sixteenths. -/
def State.markerBytes (s : State) (tx res : Nat) : List Byte :=
  let body := leBytes 8 s.tenseNow ++ leBytes 1 (s.tense16 % 16)
    ++ leBytes 1 (s.fld .tenseStatus Fld.tenseStatusDepth + 32 * s.tenseState)
    ++ leBytes 1 (s.fld .tenseStatus Fld.tenseStatusEpoch)
    ++ leBytes 2 (s.fld .tenseStatus Fld.tenseStatusRootChip) ++ leBytes 3 s.tense.tick
    ++ leBytes 8 (tx / 16) ++ leBytes 1 (tx % 16) ++ leBytes 4 res ++ leBytes 1 0
  body ++ leBytes 2 (crc16 body).toNat

/-- The marker that a port sends. -/
def State.markerOf (s : State) (p : Nat) : List Byte :=
  match s.nbr p with
  | some n => s.markerBytes n.tx (((s.tense16 : Int) - n.came) % 2 ^ 32).toNat
  | none => s.markerBytes 0 0

/-- The two dies of each felt link that is up, in the order of the links (R414). -/
def State.feltPairs (s : State) : List (Die × Die) :=
  ((List.finRange 10).flatMap (fun d => (List.finRange 10).map (fun e => (d, e)))).filter (fun p =>
    decide (p.1 < p.2) && s.feltUp p.1 p.2 && !s.downDies.contains p.1 && !s.downDies.contains p.2)

/-- The markers of the felt links. Every die reads the one counter (R259), so both ends of a link send the same marker; it
echoes the last round's as if that had arrived when it was sent (DESIGN CHOICE, log 179). -/
def State.feltMarkers (s : State) : State :=
  let m := match s.tense.feltRound with
    | some r => s.markerBytes r (s.tense16 - r)
    | none => s.markerBytes 0 0
  let s := s.feltPairs.foldl (fun s p =>
    let k := 66 + 2 * (feltIndex p.1 p.2).val
    (s.emit (.marker k m)).emit (.marker (k + 1) m)) s
  s.updTense (fun t => { t with feltRound := some s.tense16 })

/-- R262: every port and felt link that carries markers sends one, each microsecond; the root's count advances. -/
def doTenseMarkerSend (s : State) : State :=
  if s.clocksStopped || s.tense.sentAt.any (fun t => decide (s.now < t + 1000)) then s
  else
    let s := s.updTense (fun t => { t with sentAt := some s.now })
    let s := (List.range 66).foldl (fun s p => if s.carriesMarkers p then s.emit (.marker p (s.markerOf p)) else s) s
    let s := s.feltMarkers
    if s.tenseState = 6 then s.updTense (fun t => { t with tick := (t.tick + 1) % 2 ^ 24 }) else s

def execTenseMarkerSend (s : State) : Host.Outcome State Fault Refusal := .next (doTenseMarkerSend s)

/-! ### Neighbours -/

def Nbr.offset (n : Nbr) : Int := n.offsets.headD 0
/-- The average offset of the last 16 markers. -/
def Nbr.mean (n : Nbr) : Int := n.offsets.foldl (· + ·) 0 / (max 1 n.offsets.length : Nat)
/-- State 3 or 6. -/
def Nbr.locked (n : Nbr) : Bool := n.state = 3 || n.state = 6
/-- Four markers in succession are not missing (R268). -/
def State.fresh (s : State) (n : Nbr) : Bool := decide (s.now < n.lastAt + 4000)
/-- The epoch `e` is `own` or newer, in serial-number arithmetic (R261). -/
def epochOk (own e : Nat) : Bool := decide ((e + 256 - own) % 256 < 128)

/-- The usable ports of TENSE_PARENTS, in order: ACQUIRING is over a fabric port (R266). -/
def State.parents (s : State) : List Nat :=
  ((List.range 4).map (fun i => s.fld .tenseParents (Fld.tenseParents i))).filter (fun p => decide (p < 64))

/-- Whether an external port's neighbour may be taken as a parent (R260, R261, R269, R317, R393). -/
def State.qualifies (s : State) (p : Nat) : Bool :=
  match s.nbr p with
  | none => false
  | some n =>
    let q : Port := Fin.ofNat 64 p
    decide (p < 64) && s.fresh n && n.locked && decide (n.depth < 18)
      && epochOk (s.fld .tenseStatus Fld.tenseStatusEpoch) n.epoch
      && !s.flag (.portViol q) Fld.portViolQuarantined && !s.refused q

/-- The order of choice: lowest DEPTH, then the order in TENSE_PARENTS with unlisted ports last, then the port number. -/
def State.parentRank (s : State) (p : Nat) : Nat :=
  let depth := match s.nbr p with
    | some n => n.depth
    | none => 31
  let i := match s.parents.findIdx? (· = p) with
    | some i => i
    | none => 4
  (depth * 8 + i) * 64 + p

def State.bestParent (s : State) (l : List Nat) : Option Nat := leastBy s.parentRank l

/-- Step the counter; what was measured against it moves with it. -/
def State.stepTense (s : State) (d : Int) : State :=
  { s with
    tense16 := ((s.tense16 : Int) + d).toNat
    tense := { s.tense with
      feltRound := s.tense.feltRound.map (fun r => ((r : Int) + d).toNat)
      nbrs := s.tense.nbrs.map (fun e =>
        (e.1, { e.2 with came := e.2.came + d, offsets := e.2.offsets.map (fun o => o - d) })) } }

/-- Slew by `d` sixteenths at up to `rate`. -/
def State.startSlew (s : State) (d : Int) (rate : Nat) : State :=
  s.updTense (fun t => { t with slew := d * 1000000, slewRate := rate })

/-! ### Lock states (R266-R269) -/

def State.setWitness (s : State) (w : Option Nat) : State :=
  (s.updTense (fun t => { t with witness := w, bad := 0 })).setFlag .tenseStatus Fld.tenseStatusWitness w.isSome

/-- Follow a parent's marker: DEPTH and ROOT_CHIP, and while LOCKED ROOT_TICK (R260, R262). -/
def State.follow (s : State) (n : Nbr) : State :=
  let s := s.setFld .tenseStatus Fld.tenseStatusDepth (min 19 (n.depth + 1))
  let s := s.setFld .tenseStatus Fld.tenseStatusRootChip n.chip
  if s.tenseState = 3 then s.updTense (fun t => { t with tick := n.tick }) else s

def State.enterLocked (s : State) (n : Nbr) (w : Option Nat) : State :=
  let s := (s.setTenseState 3).follow n
  let s := s.setFld .tenseStatus Fld.tenseStatusEpoch n.epoch
  (s.updTense (fun t => { t with machine := true, former := none, good := 0, slew := 0 })).setWitness w

/-- Choose among the listed ports that qualify and are not the lost parent. -/
def State.choose (s : State) : State :=
  let l := s.parents.filter (fun p => s.qualifies p && decide (s.tense.former ≠ some p))
  (s.setParent ((s.bestParent l).getD 0x7F)).updTense (fun t => { t with good := 0 })

/-- The parent is lost (R268). -/
def State.enterHoldover (s : State) (former : Option Nat) : State :=
  let s := (s.setTenseState 4).setWitness none
  let s := s.bump .tenseLockLosses Fld.tenseLockLossesHoldovers 1
  (s.updTense (fun t => { t with former := former, holdoverAt := s.now, slew := 0 })).choose

/-- ACQUIRING without a candidate: choose another, or be FREE (R266). -/
def State.reacquire (s : State) : State :=
  let s := s.choose
  if s.parent = 0x7F then (s.setTenseState 0).startSlew 0 0 else s

/-- Neighbours on external ports other than `p` that are in state 3 or 6. -/
def State.otherLocked (s : State) (p : Nat) : List Nat :=
  (List.range 64).filter (fun q => q ≠ p && match s.nbr q with
    | some n => s.fresh n && n.locked
    | none => false)

/-- Whether the offset that a neighbour's last marker measured agrees with `o` to within 2 ns. -/
def State.agrees (s : State) (q : Nat) (o : Int) : Bool :=
  match s.nbr q with
  | some n => n.echoed && decide ((n.offset - o).natAbs ≤ 32)
  | none => false

/-- One more of the parent's markers within 0.5 ns; a marker that measured nothing breaks the row (R267). -/
def State.goodAfter (s : State) (n : Nbr) : Nat :=
  if n.echoed && decide (n.offset.natAbs ≤ 8) then s.tense.good + 1 else 0

/-- R267: count the parent's marker, and lock after 16 in succession with a witness that agrees, or without one where no
other neighbour is locked. -/
def State.tryLock (s : State) (p : Nat) (n : Nbr) : State :=
  let good := s.goodAfter n
  let s := s.updTense (fun t => { t with good := good })
  if good < 16 then s
  else
    let others := s.otherLocked p
    match s.bestParent (others.filter (fun q => s.agrees q n.offset)) with
    | some w => s.enterLocked n (some w)
    | none => if others = [] then s.enterLocked n none else s

/-- Whether an external port's neighbour may be the second of the two: locked, on a port that is neither quarantined nor refused
(R269). -/
def State.mayWitness (s : State) (p : Nat) : Bool :=
  match s.nbr p with
  | none => false
  | some n =>
    let q : Port := Fin.ofNat 64 p
    decide (p < 64) && s.fresh n && n.locked && !s.flag (.portViol q) Fld.portViolQuarantined && !s.refused q

/-- The pair of neighbours that an UNLOCKED device acquires from (R269): the first becomes the parent, which R260 and R261 bind. -/
def State.unlockedPair (s : State) : Option (Nat × Nat) :=
  let l := (List.range 64).filter s.qualifies
  let mate (p : Nat) : List Nat := match s.nbr p with
    | some n => (List.range 64).filter (fun q => q ≠ p && s.mayWitness q && n.echoed && s.agrees q n.offset)
    | none => []
  match s.bestParent (l.filter (fun p => !(mate p).isEmpty)) with
  | some p => (s.bestParent (mate p)).map (fun q => (p, q))
  | none => none

/-- Whether TENSE_NOW is held for a parent that is behind (R269). -/
def TenseRec.holds (t : TenseRec) : Bool := decide (t.slewRate ≥ 16000000) && decide (t.slew < 0)

/-- A correction while UNLOCKED; once TENSE_NOW is held, it is held until the parent's tense reaches it (R269). -/
def State.unlockedCorrect (s : State) (o : Int) : State :=
  if o > 0 then (s.stepTense o).startSlew 0 0
  else if -16000 ≤ o ∧ s.tense.holds = false then s.startSlew o 16000
  else s.startSlew o 16000000

/-- The device sees a newer EPOCH: it adopts it and chooses a parent again; a root yields to it, with an entry (R261). -/
def State.adoptEpoch (s : State) (n : Nbr) : State :=
  let st := s.tenseState
  let s := s.setFld .tenseStatus Fld.tenseStatusEpoch n.epoch
  let s := s.updTense (fun t => { t with heardTick := some (n.tick, s.now) })
  let s := if st = 6 ∨ s.flag .tenseCtl Fld.tenseCtlRoot = true
    then s.fault 0x0301 (8 + s.fld .tenseStatus Fld.tenseStatusPrimary) 0 n.epoch n.chip else s
  if st = 6 then
    ((s.setTenseState 2).updTense (fun t => { t with former := none })).reacquire
  else if st = 3 then
    let l := s.parents.filter s.qualifies
    if s.bestParent l = some s.parent then s else s.enterHoldover none
  else if st = 2 then s.reacquire
  else if st = 4 then s.choose
  else if st = 5 then (s.setParent 0x7F).updTense (fun t => { t with witness := none, good := 0 })
  else s

/-- The standby root notes the newest ROOT_TICK of the current EPOCH (R261). -/
def State.noteTick (s : State) (n : Nbr) : State :=
  if n.epoch ≠ s.fld .tenseStatus Fld.tenseStatusEpoch then s
  else
    match s.tense.heardTick with
    | none => s.updTense (fun t => { t with heardTick := some (n.tick, s.now) })
    | some (k, _) =>
      let d := (n.tick + 2 ^ 24 - k) % 2 ^ 24
      if 0 < d ∧ d < 2 ^ 23 then s.updTense (fun t => { t with heardTick := some (n.tick, s.now) }) else s

/-- Converge on the candidate parent: one step to its estimate at the first measurement since ENABLE, and slews after it
(R258, R266). -/
def State.converge (s : State) (n : Nbr) : State :=
  if n.echoed = false then s
  else if s.tense.aligned then s.startSlew n.offset 160000
  else ((s.stepTense n.offset).startSlew 0 0).updTense (fun t => { t with aligned := true })

/-- A marker in FREE or COARSE. The tense of RING_IN is stepped to only before the counter is machine time (R258, R266). -/
def State.markerFree (s : State) (p : Nat) (n : Nbr) : State :=
  if s.parents.contains p && s.qualifies p then
    let s := (s.setTenseState 2).setParent p
    (s.updTense (fun t => { t with good := 0, former := none })).converge n
  else if p = 64 then
    let ring := [1, 3, 6].contains n.state
    let d : Int := (n.tx : Int) - s.tense16
    if s.tenseState = 0 then
      if ring ∧ !(List.finRange 64).any s.portLiveBit then
        let s := ((s.setTenseState 1).setParent 64).follow n
        if s.tense.machine then s.startSlew d 160000 else (s.stepTense d).startSlew 0 0
      else s
    else if ring then (s.follow n).startSlew d 160000
    else ((s.setTenseState 0).setParent 0x7F).startSlew 0 0
  else s

/-- A marker in ACQUIRING. -/
def State.markerAcquiring (s : State) (p : Nat) (n : Nbr) : State :=
  if p ≠ s.parent then s
  else if s.qualifies p then (s.converge n).tryLock p n
  else s.reacquire

/-- A marker in LOCKED (R263, R267, R268). -/
def State.markerLocked (s : State) (p : Nat) (n : Nbr) : State :=
  if p = s.parent then
    if [3, 4, 6].contains n.state then
      let m := n.mean
      let s := (s.follow n).updTense (fun t => { t with trim := min 160 (max (-160) (m * 125 / 8)) })
      s.setFld .tenseOffset Fld.tenseOffsetOffset (m % 2 ^ 32).toNat
    else s.enterHoldover (some p)
  else
    match s.nbr s.parent with
    | none => s
    | some q =>
      if s.tense.witness = some p then
        if !n.locked then s.setWitness none
        else if !(n.echoed && q.echoed) then s
        else if (n.offset - q.offset).natAbs > 64 then
          let bad := s.tense.bad + 1
          let s := s.updTense (fun t => { t with bad := bad })
          if bad ≥ 16 then s.enterHoldover (some s.parent) else s
        else s.updTense (fun t => { t with bad := 0 })
      else if s.tense.witness = none ∧ p < 64 ∧ n.locked = true ∧ q.echoed = true ∧ s.agrees p q.offset = true
      then s.setWitness (some p)
      else s

/-- A marker in HOLDOVER (R268). -/
def State.markerHoldover (s : State) (p : Nat) (n : Nbr) : State :=
  let s := if s.parent ≠ 0x7F && s.qualifies s.parent then s else s.choose
  if p = s.parent then s.tryLock p n else s

/-- A marker in UNLOCKED (R269). -/
def State.markerUnlocked (s : State) (p : Nat) (n : Nbr) : State :=
  let keep := match s.nbr s.parent, s.tense.witness with
    | some q, some w => s.qualifies s.parent && s.mayWitness w && q.echoed && s.agrees w q.offset
    | _, _ => false
  let s :=
    if keep then s
    else
      let (a, b) := match s.unlockedPair with
        | some (a, b) => (a, some b)
        | none => (0x7F, none)
      (s.setParent a).updTense (fun t => { t with witness := b, good := 0 })
  if p = s.parent then
    let good := s.goodAfter n
    let s := s.updTense (fun t => { t with good := good })
    if good ≥ 16 then s.enterLocked n s.tense.witness
    else if n.echoed then s.unlockedCorrect n.offset else s
  else s

/-- R263: the neighbour's record after a marker. A marker that echoes none of ours brings no measurement (DEDUCED, log 105). -/
def State.hear (s : State) (p : Nat) (m : BitVec 256) : Nbr :=
  let old := s.nbr p
  let tx := blockField m 0 64 * 16 + blockField m 64 4
  let echo := blockField m 128 64 * 16 + blockField m 192 4
  let t4 : Int := s.tense16
  let asym : Int := if p < 64 then (BitVec.ofNat 16 (s.fld (.portAsym (Fin.ofNat 64 p)) Fld.portAsymAsym)).toInt else 0
  let round : Int := t4 - echo - blockField m 200 32
  let delay : Int := if echo = 0 then (match old with
    | some n => n.delay
    | none => 0) else (round - asym) / 2
  let offs := match old with
    | some n => n.offsets
    | none => []
  { lastAt := s.now, came := t4, tx, state := blockField m 77 3, depth := blockField m 72 5, epoch := blockField m 80 8
    chip := blockField m 88 14, tick := blockField m 104 24, delay
    offsets := if echo = 0 then offs else (((tx : Int) + delay - t4) :: offs).take 16
    echoed := decide (echo ≠ 0) }

/-- R263, R266-R269: a received marker. One that fails its CRC or carries reserved bits counts as missing. -/
def doTenseMarker (p : Fin 66) (m : BitVec 256) (s : State) : State :=
  if s.clocksStopped || !markerGood m || !s.carriesMarkers p.val then s
  else
    let n := s.hear p.val m
    let s := s.setNbr p.val n
    if !s.tenseEnabled then s
    else
      let own := s.fld .tenseStatus Fld.tenseStatusEpoch
      let s := if n.epoch ≠ own && epochOk own n.epoch then s.adoptEpoch n else s.noteTick n
      match s.tenseState with
      | 0 => s.markerFree p.val n
      | 1 => s.markerFree p.val n
      | 2 => s.markerAcquiring p.val n
      | 3 => s.markerLocked p.val n
      | 4 => s.markerHoldover p.val n
      | 5 => s.markerUnlocked p.val n
      | _ => s

def execTenseMarker (p : Fin 66) (m : BitVec 256) (s : State) : Host.Outcome State Fault Refusal :=
  .next (doTenseMarker p m s)

/-- R267, R268: four successive markers of a neighbour are missing. -/
def doMarkerTimeout (p : Fin 66) (s : State) : State :=
  match s.nbr p.val with
  | none => s
  | some n =>
    if s.fresh n || s.clocksStopped then s
    else
      let s := if s.tense.witness = some p.val then s.setWitness none else s
      if p.val ≠ s.parent then s
      else
        match s.tenseState with
        | 1 => ((s.setTenseState 0).setParent 0x7F).startSlew 0 0
        | 2 => s.reacquire
        | 3 => s.enterHoldover (some p.val)
        | 4 => s.choose
        | 5 => (s.setParent 0x7F).updTense (fun t => { t with witness := none, good := 0 })
        | _ => s

def execMarkerTimeout (p : Fin 66) (s : State) : Host.Outcome State Fault Refusal := .next (doMarkerTimeout p s)

/-- R269: 200 us of HOLDOVER without a qualified alternate. -/
def doHoldoverExpiry (s : State) : State :=
  if s.tenseState ≠ 4 ∨ s.now < s.tense.holdoverAt + 200000 then s
  else
    let former := s.tense.former.getD 0x7F
    let s := ((s.setTenseState 5).setParent 0x7F).setWitness none
    let s := s.bump .tenseLockLosses Fld.tenseLockLossesUnlocked 1
    let s := s.updTense (fun t => { t with good := 0, former := none })
    let s := (List.finRange 64).foldl (fun s g =>
      if s.collRuns g then s.updGroup g (fun v => { v with unlocked := true }) else s) s
    s.fault 0x0300 (8 + s.fld .tenseStatus Fld.tenseStatusPrimary) 0 former 0

def execHoldoverExpiry (s : State) : Host.Outcome State Fault Refusal := .next (doHoldoverExpiry s)

/-! ### The root (R260, R261) -/

/-- Become the root, the counter running on from the reference. -/
def State.becomeRoot (s : State) : State :=
  let s := ((s.setTenseState 6).setParent 0x7F).setWitness none
  let s := s.setFld .tenseStatus Fld.tenseStatusDepth 0
  let s := s.setFld .tenseStatus Fld.tenseStatusRootChip s.chip
  s.updTense (fun t => { t with tick := 0, trim := 0, slew := 0, aligned := true, machine := true, former := none, heardTick := none })

/-- R261: the standby root takes over when the newest ROOT_TICK has not advanced for 100 us. -/
def doRootTakeover (s : State) : State :=
  match s.tense.heardTick with
  | none => s
  | some (_, t) =>
    if s.tenseEnabled && s.flag .tenseCtl Fld.tenseCtlStandbyRoot && decide (s.tenseState ≠ 6)
        && decide (t + 100000 ≤ s.now) && !s.clocksStopped then
      s.becomeRoot.setFld .tenseStatus Fld.tenseStatusEpoch ((s.fld .tenseStatus Fld.tenseStatusEpoch + 1) % 256)
    else s

def execRootTakeover (s : State) : Host.Outcome State Fault Refusal := .next (doRootTakeover s)

/-- What a change of TENSE_CTL.ENABLE does (R260, R266). -/
def State.tenseEnableChange (s : State) (was : Bool) : State :=
  let now := s.tenseEnabled
  if now = was then s
  else
    let s := s.updTense (fun t => { TenseRec.reset with
      nbrs := t.nbrs, acc := t.acc, quiet := t.quiet, feltRound := t.feltRound, sentAt := t.sentAt })
    if !now then ((s.setTenseState 0).setParent 0x7F).setWitness none
    else if s.flag .tenseCtl Fld.tenseCtlRoot then
      s.becomeRoot.stepTense (16 * (s.reg .tenseRootInit).toNat - s.tense16)
    else s.setTenseState 0

/-! ### Checkpoints (R273, R286) -/

/-- A write of TENSE_QUIESCE.AT, once stored. -/
def State.quiesceWritten (s : State) : State :=
  let at' := (s.reg .tenseQuiesce).toNat
  (s.setFlag .tenseStatus Fld.tenseStatusQuiesced false).updTense
    (fun t => { t with quiet := decide (at' ≠ 0) && decide (at' ≤ s.tenseNow) })

/-- R273: TENSE_NOW reaches AT. -/
def doQuiesceAt (s : State) : State :=
  let at' := (s.reg .tenseQuiesce).toNat
  if at' ≠ 0 ∧ at' ≤ s.tenseNow then s.updTense (fun t => { t with quiet := true }) else s

def execQuiesceAt (s : State) : Host.Outcome State Fault Refusal := .next (doQuiesceAt s)

/-- Every engine command queue has HEAD equal to its tail. -/
def State.ecqsDrained (s : State) : Bool :=
  (List.finRange 8).all (fun f => (List.finRange 16).all (fun q =>
    decide (s.fld (.ecqHead f q) Fld.ecqHeadIndex = (s.ecq f q).tail)))

/-- R273: QUIESCED sets once every condition holds. -/
def doQuiesced (s : State) : State :=
  let at' := (s.reg .tenseQuiesce).toNat
  if at' ≠ 0 ∧ at' + s.boundNs 3 ≤ s.tenseNow ∧ s.net.txns = [] ∧ s.ecqsDrained = true
      ∧ (List.finRange 192).all (fun t => !s.flag (.seqCtl t) Fld.seqCtlRun) = true then
    s.setFlag .tenseStatus Fld.tenseStatusQuiesced true
  else s

def execQuiesced (s : State) : Host.Outcome State Fault Refusal := .next (doQuiesced s)

/-! ### The counter (R258, R263) -/

/-- Advance the counter by one ns of elapsed time: the reference with its trim, and the correction being slewed. -/
def State.tenseNs (s : State) : State :=
  let t := s.tense
  let lim : Int := t.slewRate
  let part := min lim (max (-lim) t.slew)
  let base : Int := 16000000 + (if t.holds then 0 else t.trim)
  let acc := t.acc + base + part
  { s with
    tense16 := ((s.tense16 : Int) + acc / 1000000).toNat
    tense := { t with acc := acc % 1000000, slew := t.slew - part } }

end Sys2Proof.Machine
end

