-- ==== Sys2Proof/Machine/Coll.lean ====
section
/-! DEFINITION. The collective engine: groups (R349-R352), arrival and exchange (R353-R355), queue entries (R356-R361),
reduce-scatter (R362-R365), chunk cells (R366-R368), all-gather (R369-R371), the fused update (R372), digests and commit
(R374, R375), and how a step ends (R376-R382). -/

namespace Sys2Proof.Machine

/-! ### Creation and its end -/

/-- The width of the narrowest reduce input, and the KiB of accumulators in each deckle (R352). -/
def State.minInBits (s : State) (g : Coll) : Nat := 32 / 2 ^ s.fld (.collCtl g) Fld.collCtlMinIn
def State.accumKib (s : State) (g : Coll) : Nat :=
  if s.flag (.collCtl g) Fld.collCtlRsEn then 2 * (65536 * 8 / s.minInBits g) * 48 / 1024 else 0

/-- The staging slots that the group needs, the bytes of one, and the slots that a tile's staging region holds (R352). -/
def State.stageNeed (s : State) (g : Coll) : Nat :=
  3 * (s.localCount g - 1 + (if s.ringLen g > 1 then 1 else 0))
def stageBytes : Nat := 65600
def State.stagePerTile (s : State) (g : Coll) : Nat := s.fld (.collStage g) Fld.collStageBytes / stageBytes

/-- Take the resources of R352, or return those that were taken. A slot of the origination store that a cell of the group still
holds goes over to the remainder (R336). -/
def State.reserve (s : State) (g : Coll) (take : Bool) : State :=
  let k := if take then s.accumKib g else (s.group g).heldKib
  let move (v n : Nat) : Nat := if take then v - n else v + n
  let s := s.setFld .collStore Fld.collStoreFreeKib (move (s.fld .collStore Fld.collStoreFreeKib) k)
  let s := s.setFld .collStore Fld.collStoreFreeKib1 (move (s.fld .collStore Fld.collStoreFreeKib1) k)
  let s := (List.finRange 2).foldl (fun s n =>
    let r := s.fld (.origStore n) Fld.origStoreReserved
    let s := s.setFld (.origStore n) Fld.origStoreReserved (if take then r + groupSlots else r - groupSlots)
    if take then s
    else s.updXbar n (fun x => { x with slots := x.slots.map (fun i => if i.group = some g then { i with group := none } else i) })) s
  s.updGroup g (fun v => { v with reserved := take, heldKib := if take then k else 0 })

/-- Creation fails (R350, R381). -/
def State.failGroup (s : State) (g : Coll) (reason : Nat) : State :=
  let s := s.setCollState g 5
  let s := s.setFld (.collStatus g) Fld.collStatusReason reason
  (s.leaveStep g).clearBarriers g true 5

/-- Whether a JOIN agrees with the device's own registers (R350). RING_POS is no part of it. -/
def State.joinAgrees (s : State) (g : Coll) (j : JoinMsg) : Bool :=
  decide (j.shape &&& 0xFFFFFF0007FFFFFF = s.reg (.collShape g) &&& 0xFFFFFF0007FFFFFF)
    && decide (j.features = s.fld (.collCtl g) Fld.collCtlFeatures)
    && decide (j.minIn = s.fld (.collCtl g) Fld.collCtlMinIn)

/-- JOINs held whose KEY no group of this device has, from a member whose own JOIN has not come, that agree with the group's
registers in all else: its JOINs, with another KEY (R350; DESIGN CHOICE, log 220). -/
def State.strangeJoins (s : State) (g : Coll) : List JoinMsg :=
  s.earlyJoins.filter (fun j => (s.allOthers g).contains j.chip && (List.finRange 64).all (fun k => decide (s.collKey k ≠ j.key))
    && !(s.group g).joins.any (fun k => k.chip = j.chip) && s.joinAgrees g j && decide (j.job = s.collJob g))

/-- R350: compare the JOIN messages held, send ROUND 1, enter ACTIVE. -/
def State.joinProgress (s : State) (g : Coll) : State :=
  if s.collState g ≠ 1 then s
  else
    let v := s.group g
    let others := s.allOthers g
    let mine := v.joins.filter (fun j => others.contains j.chip)
    let strange := s.strangeJoins g
    if mine.any (fun j => !s.joinAgrees g j) || !strange.isEmpty then
      ({ s with earlyJoins := s.earlyJoins.filter (fun j => !strange.contains j) }).failGroup g 1
    else
      let has (r : Nat) : Bool := others.all (fun c => mine.any (fun j => decide (j.chip = c) && decide (j.round = r)))
      let s :=
        if has 0 && !v.sentRound1 then
          (s.updGroup g (fun v => { v with sentRound1 := true })).tell g 0x08 others (s.joinData g 1)
        else s
      if has 0 && has 1 then s.setCollState g 2 else s

/-- Why creation fails on this device alone, the lowest reason (R350); 0 when it does not. A device that is no member of
the group it describes fails with reason 1 (DESIGN CHOICE, log 77). -/
def State.createReason (s : State) (g : Coll) : Nat :=
  let n := s.localCount g
  let isMember := (s.ringGroups g).contains s.machineGroup && (s.localMembers g).contains s.member
  let tiles := s.tileSet g
  let job := (s.collJob g).toNat
  let dup := (List.finRange 64).any (fun k => decide (k ≠ g) && decide (s.collState k ≠ 0)
    && decide (s.collKey k = s.collKey g))
  let jobBad := tiles.any (fun t => decide (s.allowed 0 (tileFolio t) ≠ job) || decide (s.allowed 1 (tileFolio t) ≠ job))
  let kib := s.accumKib g
  if !isMember ∨ n = 0 then 1
  else if s.fld (.collCtl g) Fld.collCtlFeatures ≥ 2 ^ 7 then 2
  else if s.stageNeed g > tiles.length * s.stagePerTile g then 3
  else if s.fld .collStore Fld.collStoreFreeKib < kib ∨ s.fld .collStore Fld.collStoreFreeKib1 < kib then 4
  else if (List.finRange 2).any (fun k => decide (s.origFree k < groupSlots)) then 5
  else if tiles.isEmpty || dup || jobBad then 7
  else 0

/-- R350: COLL_CTL.CREATE. The JOINs of ROUND 0 leave whether or not this device can join. -/
def State.createGroup (s : State) (g : Coll) : State :=
  if s.collState g ≠ 0 then s
  else
    let reason := s.createReason g
    let pos := (s.ringGroups g).findIdx (fun k => k = s.machineGroup)
    let s := s.setFld (.collShape g) Fld.collShapeRingPos (if pos < s.ringLen g then pos else 0)
    let s := (s.setCollState g 1).setFld (.collStatus g) Fld.collStatusReason 0
    let key := s.collKey g
    let early := s.earlyJoins.filter (fun j => decide (j.key = key) && decide (j.job = s.collJob g))
    let s := { s with earlyJoins := s.earlyJoins.filter (fun j => j.key ≠ key) }
    let s := s.updGroup g (fun v => { Group.reset with
      createdAt := s.now, joins := early, ended := v.ended, nextWork := v.nextWork })
    let s := s.tell g 0x08 (s.allOthers g) (s.joinData g 0)
    if reason ≠ 0 then s.failGroup g reason else (s.reserve g true).joinProgress g

/-- R351, R381: COLL_CTL.DESTROY. -/
def State.destroyGroup (s : State) (g : Coll) : State :=
  if s.collState g = 0 then s
  else
    let s := s.endEntries g (fun _ => true) (fun _ => 0x24)
    let s := if (s.group g).reserved then s.reserve g false else s
    let s := (s.leaveStage g).setReg (.collStatus g) 0
    let s := s.clearBarriers g true 0
    s.updGroup g (fun v => { Group.reset with ended := v.ended, nextWork := v.nextWork })

/-- R377: COLL_CTL.PREEMPT and COLL_CTL.RESUME. -/
def State.preemptGroup (s : State) (g : Coll) : State :=
  if s.collState g ≠ 2 then s
  else if (s.group g).exchange then s.updGroup g (fun v => { v with pausing := true })
  else s.setCollState g 3

def State.resumeGroup (s : State) (g : Coll) : State := if s.collState g = 3 then s.setCollState g 2 else s

/-- R350: the creation timeout. -/
def doCreateTimeout (g : Coll) (s : State) : State :=
  if s.collState g = 1 ∧ s.now ≥ (s.group g).createdAt + 1000000 * s.fld (.collTimeout g) Fld.collTimeoutCreateMs then
    s.failGroup g 6
  else s

/-! ### Entries -/

/-- Elements of a chunk, and the bytes between two chunks of a folio in an array of a format (R360). -/
def Entry.perChunk (e : Entry) : Nat := 524288 / max 1 (fmtWidth e.inFmt)
def Entry.span (e : Entry) (fmt : Nat) : Nat := (e.perChunk * fmtWidth fmt + 7) / 8

/-- The folio and offset of chunk `j` of an array (R360). -/
def chunkPlace (base span j : Nat) : Folio × Nat := (Fin.ofNat 8 j, base + j / 8 * span)

/-- The elements of chunk c below LENGTH (R361). -/
def Entry.validOf (e : Entry) (c : Nat) : Nat := min e.perChunk (e.length - c * e.perChunk)

/-- The entry signature (R367). -/
def Entry.sig (e : Entry) : Nat := (crc32c (leBytes 8 (e.word 0))).toNat % 2 ^ 16

def plainFormats : List Nat := [0, 1, 2, 3, 4, 10, 12]
def isIntCode (c : Nat) : Bool := decide (10 ≤ c) && decide (c ≤ 12)

/-- R357, R358: fields other than formats and arrays. -/
def Entry.malformed (e : Entry) (lastOp : Nat) : Bool :=
  let rs := decide (e.op = 1)
  let rsv := decide (e.word 0 / 2 ^ 20 % 16 ≠ 0) || [2, 3, 5].any (fun i => decide (e.word i ≥ 2 ^ 46))
    || decide (e.word 4 ≥ 2 ^ 40) || decide (e.word 6 ≥ 2 ^ 48)
    || (List.range 7).any (fun i => decide (e.word (9 + i) ≠ 0))
  let sr := decide (e.seed ≠ 0) || decide (e.srStep ≠ 0)
  !([1, 2].contains e.op) || rsv || decide (e.rm = 3) || decide (e.length = 2 ^ 40 - 1) || decide (e.redop = 3)
    || (rs && (decide (e.rm ≠ 0) || sr || (e.update && decide (e.redop ≠ 0)) || e.commit || e.follow))
    || (!rs && (decide (e.redop ≠ 0) || e.update || decide (e.updOff ≠ 0) || (e.follow && decide (lastOp ≠ 1))))

/-- R357: the formats. A reduce-scatter may round to INT4; the block formats have no place for their scales in a striped
array (R360), so it does not round to them (DEDUCED, log 84). -/
def Entry.badFormat (e : Entry) (minIn : Nat) : Bool :=
  if e.op = 1 then
    !plainFormats.contains e.inFmt || decide (fmtWidth e.inFmt < minIn) || !(plainFormats ++ [11]).contains e.outFmt
      || (isIntCode e.inFmt != isIntCode e.outFmt)
  else
    decide (e.inFmt > 12)
      || (decide (e.outFmt ≠ e.inFmt) && !(plainFormats.contains e.inFmt && plainFormats.contains e.outFmt))

/-- R357: CPL_ADDR. -/
def Entry.cplBad (e : Entry) (chip : Nat) : Bool :=
  let off := e.cplAddr % 2 ^ 46
  decide (e.cplAddr / 2 ^ 50 ≠ chip) || decide (e.cplAddr / 2 ^ 46 % 16 ≥ 8) || decide (off % 64 ≠ 0)
    || decide (off ≥ vatBase + 24 * vatSize)

/-- R357: an array or CPL_ADDR lies outside. -/
def State.entryRange (s : State) (g : Coll) (e : Entry) : Bool :=
  let cap := s.capChunks g
  let all := s.memberCount g * cap
  let past (base n span : Nat) : Bool := decide (base + (n - 1) / 8 * span + span > reamLimit)
  let rs := decide (e.op = 1)
  past e.src (if rs then all else cap) (e.span e.inFmt) || past e.dst (if rs then cap else all) (e.span e.outFmt)
    || e.cplBad s.chip

/-- R358: a feature outside FEATURES. -/
def State.entryFeature (s : State) (g : Coll) (e : Entry) : Bool :=
  let off (i : Nat) : Bool := !(s.fld (.collCtl g) Fld.collCtlFeatures).testBit i
  (decide (e.op = 1) && (off 0 || !s.flag (.collCtl g) Fld.collCtlRsEn)) || (decide (e.op = 2) && off 1)
    || (decide (s.ringLen g > 1) && off 2) || (e.update && off 3) || (e.follow && off 4)
    || (decide (e.redop ≠ 0) && off 5) || (decide (e.op = 2) && decide (e.outFmt ≠ e.inFmt) && off 6)

/-- The first status of R358 that a validation finds. -/
def State.entryStatus (s : State) (g : Coll) (e : Entry) : Nat :=
  let v := s.group g
  if e.malformed v.lastOp then 0x20
  else if e.badFormat (s.minInBits g) then 0x21
  else if s.entryRange g e then 0x22
  else if e.step ≠ s.currentStep g ∨ e.number ≠ v.nextEntry then 0x23
  else if s.collRuns g = false then 0x24
  else if s.entryFeature g e then 0x25
  else 0

/-- The entry that is to be validated: the head of the queue, or a FOLLOW entry behind a reduce-scatter that has
started (R358, R373). -/
def Group.candidate (v : Group) : Option Entry :=
  match v.queue with
  | [] => none
  | e :: rest =>
    if !e.valid then some e
    else
      match rest with
      | k :: _ => if e.started && decide (e.op = 1) && k.follow && !k.valid then some k else none
      | [] => none

/-! ### Arrival and exchange -/

/-- The later of two arrivals, the lower chip on a tie (R355). -/
def laterArrival (a b : ArriveMsg) : ArriveMsg :=
  if b.tense > a.tense ∨ (b.tense = a.tense ∧ b.chip < a.chip) then b else a

/-- The messages held of the current step that carry a sender's own arrival, or its group's summary. -/
def State.heardNow (s : State) (g : Coll) (summary : Bool) : List ArriveMsg :=
  (s.group g).heard.filter (fun a => decide (a.step = s.currentStep g) && decide (a.summary = summary))

/-- R355: send the summary, and note when every arrival is held. -/
def State.arriveProgress (s : State) (g : Coll) : State :=
  match (s.group g).arrival with
  | none => s
  | some a =>
    let heard := s.heardNow g false
    let sums := s.heardNow g true
    let peers := s.localPeers g
    if !(peers.all (fun c => heard.any (fun h => h.sender = c))) then s
    else
      let latest := (heard.filter (fun h => peers.contains h.sender)).foldl laterArrival a
      let s :=
        if (s.group g).summarySent then s
        else (s.updGroup g (fun v => { v with summarySent := true })).tell g 0x09 (s.counterparts g)
          (s.arriveData g { latest with summary := true, step := s.currentStep g })
      if (s.counterparts g).all (fun c => sums.any (fun h => h.sender = c)) && (s.group g).heldAt.isNone then
        s.updGroup g (fun v => { v with heldAt := some s.tenseNow })
      else s

/-- Arrive at a tense with a reason: the message goes to every local peer (R354). -/
def State.arrive (s : State) (g : Coll) (tense reason : Nat) : State :=
  let a : ArriveMsg := ⟨s.currentStep g, s.chip, tense, s.chip, reason, false⟩
  ((s.updGroup g (fun v => { v with arrival := some a })).tell g 0x09 (s.localPeers g) (s.arriveData g a)).arriveProgress g

/-- Entry 0 of the current step has been validated (R354). -/
def State.entryZero (s : State) (g : Coll) : Bool := decide ((s.group g).nextEntry > 0)

/-- R354: every tile has arrived and entry 0 has been validated. -/
def doDeviceArrival (g : Coll) (s : State) : State :=
  let v := s.group g
  if s.collRuns g = false ∨ v.arrival.isSome = true ∨ v.exchange = true ∨ s.arrivalReady g = false
    ∨ s.clocksStopped = true then s
  else
    let tense := v.readyAt.getD s.tenseNow
    let reason := if v.thermal then 1 else if v.capped then 2 else if tense > v.firstTense then 4 else 0
    s.arrive g tense reason

/-- R354: COLL_CTL.FORCE_ARRIVE. -/
def State.forceArrive (s : State) (g : Coll) : State :=
  let v := s.group g
  if s.collRuns g = false ∨ v.arrival.isSome = true ∨ v.exchange = true then s
  else s.arrive g s.tenseNow (s.fld (.collCtl g) Fld.collCtlArriveReason)

/-- R512, R513: examine the local arrivals and credit the member that is clearly latest. -/
def State.suspectCredit (s : State) (arrivals : List ArriveMsg) : State :=
  match arrivals with
  | [] => s
  | a :: rest =>
    if rest.isEmpty then s
    else
      let s := s.bump .suspectExch Fld.suspectExchCount 1
      let top := rest.foldl laterArrival a
      let second := ((arrivals.filter (fun k => k.chip ≠ top.chip)).map ArriveMsg.tense).foldl max 0
      if top.tense < second + s.fld .suspectCtl Fld.suspectCtlMarginNs then s
      else
        let m : Fin 16 := Fin.ofNat 16 top.chip
        let s := s.bump (.peerArrival m) Fld.peerArrivalLast 1
        let s := s.setFld (.peerArrival m) Fld.peerArrivalLastReason top.reason
        let s :=
          if top.reason = 0 then (s.bump (.peerArrival m) Fld.peerArrivalLastNone 1).bump (.peerArrival m) Fld.peerArrivalStreak 1
          else s.setFld (.peerArrival m) Fld.peerArrivalStreak 0
        let s := (List.finRange 16).foldl (fun s k =>
          if k = m then s else s.setFld (.peerArrival k) Fld.peerArrivalStreak 0) s
        if s.fld (.peerArrival m) Fld.peerArrivalStreak ≥ s.fld .suspectCtl Fld.suspectCtlStreakLimit then
          s.setReg .suspectMask (s.reg .suspectMask ||| bit64 m.val)
        else s

/-- R355, R270, R380: the exchange begins; a grant that is reduced from now on belongs to the next compute phase. An UNLOCKED
device begins on the last arrival or summary (R270). -/
def doExchangeStart (g : Coll) (s : State) : State :=
  let v := s.group g
  match v.heldAt, v.arrival with
  | some held, some a =>
    if s.collState g ≠ 2 ∨ v.exchange = true ∨ s.entryZero g = false ∨ s.clocksStopped = true
      ∨ (s.unlockedNow = false ∧ s.tenseNow < v.firstTense) then s
    else
      let heard := (s.heardNow g false).filter (fun h => (s.localPeers g).contains h.sender)
      let sums := (s.heardNow g true).filter (fun h => (s.counterparts g).contains h.sender)
      let last := (heard ++ sums).foldl laterArrival a
      let s := s.setReg (.collLastArrival g) (BitVec.ofNat 64
        (last.chip + last.reason * 2 ^ 16 + min (2 ^ 40 - 1) (last.tense - v.firstTense) * 2 ^ 24))
      let s := (s.tileSet g).foldl (fun s t =>
        if v.tilesNow.contains t && s.tagBusy t tagBarrier then s.clearTag t tagBarrier else s) s
      let s := s.updGroup g (fun v => { v with
        exchange := true, last := some last, late := decide (held > v.firstTense), tilesNow := [], thermal := false, capped := false,
        unlocked := v.unlocked || s.unlockedNow, heard := v.heard.filter (fun h => decide (h.step > s.currentStep g)) })
      if s.localCount g ≥ 2 then s.suspectCredit (a :: heard) else s
  | _, _ => s

/-- R378: the step timeout. It runs once entry 0 has been validated (R354). -/
def doStepTimeout (g : Coll) (s : State) : State :=
  let v := s.group g
  let start := max v.firstTense ((v.arrival.map ArriveMsg.tense).getD 0)
  if s.collRuns g = false ∨ s.entryZero g = false ∨ s.clocksStopped = true
    ∨ s.tenseNow < start + 1000 * s.fld (.collTimeout g) Fld.collTimeoutStepUs then s
  else s.faultGroup g 0x29 true

/-! ### Digests and commit -/

/-- R375: the step commits. Every chunk of the step is then written at every member, so an earlier entry that still waits for
acknowledgements completes too (R359). -/
def State.commitStep (s : State) (g : Coll) (e : Entry) (d : BitVec 256) : State :=
  let before := (s.group g).queue.filter (fun k => decide (k.step = e.step) && k.started && decide (k.number < e.number))
  let s := before.foldl (fun s k => s.endEntry g k 0 false 0) s
  let s := s.leaveStage g
  let s := s.bump (.collSteps g) Fld.collStepsCommitted 1
  let s := s.endEntry g e 0 true d
  let s := s.updGroup g Group.endStep
  let s := if (s.group g).pausing then (s.setCollState g 3).updGroup g (fun v => { v with pausing := false }) else s
  s

/-- R375: send the summary when every local digest is held, and end the step when every summary is. -/
def State.digestProgress (s : State) (g : Coll) : State :=
  let v := s.group g
  match v.digest, v.queue.find? (fun e => e.commit && e.started && decide (e.step = s.currentStep g)) with
  | some d, some e =>
    let mine := v.digests.filter (fun k => k.step = s.currentStep g)
    let locals := (mine.filter (fun k => !k.summary)).filter (fun k => (s.localPeers g).contains k.sender)
    let sums := (mine.filter (fun k => k.summary)).filter (fun k => (s.counterparts g).contains k.sender)
    let has (l : List DigestMsg) (c : Nat) : Bool := l.any (fun k => k.sender = c)
    if !(s.localPeers g).all (has locals) then s
    else
      let agree := locals.all (fun k => k.digest = d)
      let s :=
        if v.digestSummarySent then s
        else (s.updGroup g (fun v => { v with digestSummarySent := true })).tell g 0x0E (s.counterparts g)
          (s.digestData g d true agree)
      if !(s.counterparts g).all (has sums) then s
      else if agree && sums.all (fun k => k.agrees && decide (k.digest = d)) then s.commitStep g e d
      else s.groupError g 0x28 (some e.number) true
  | _, _ => s

/-- R374, R375: once every chunk of a COMMIT entry is written, the digest goes to the local peers. -/
def State.lastWritten (s : State) (g : Coll) (e : Entry) : State :=
  let v := s.group g
  if e.commit = true ∧ v.digest.isNone = true
    ∧ (v.written.filter (fun w => w.1 = e.number)).length ≥ s.memberCount g * s.capChunks g then
    let d := digestOf (v.hashes.flatMap (fun p => digestBytes p.2))
    let s := s.updGroup g (fun v => { v with digest := some d })
    (s.tell g 0x0E (s.localPeers g) (s.digestData g d false false)).digestProgress g
  else s.endDone g

/-! ### Chunks -/

/-- The chunk header of R367. -/
structure ChunkHeader where
  key : Nat
  step : Nat
  entry : Nat
  sig : Nat
  shard : Nat
  chunk : Nat
  rstep : Nat
  seg : Nat
  esc : Nat
  valid : Nat
  pad : Bool
  ovf : Bool
  deriving DecidableEq, Repr

def ChunkHeader.bytes (h : ChunkHeader) : List Byte :=
  leBytes 4 h.key ++ leBytes 4 h.step
    ++ leBytes 8 (h.entry % 2 ^ 8 + h.sig * 2 ^ 8 + h.shard % 2 ^ 14 * 2 ^ 24 + h.chunk % 2 ^ 24 * 2 ^ 38)
    ++ leBytes 8 (h.rstep % 2 ^ 10 + h.seg % 2 ^ 6 * 2 ^ 10 + h.esc % 2 ^ 16 * 2 ^ 16 + h.valid % 2 ^ 17 * 2 ^ 32
      + (if h.pad then 2 ^ 49 else 0) + (if h.ovf then 2 ^ 50 else 0))
    ++ leBytes 8 0

def chunkHeader (bs : List Byte) : ChunkHeader :=
  let w (i : Nat) : Nat := leNat ((bs.drop (8 * i)).take 8)
  { key := w 0 % 2 ^ 32, step := w 0 / 2 ^ 32, entry := w 1 % 2 ^ 8, sig := w 1 / 2 ^ 8 % 2 ^ 16,
    shard := w 1 / 2 ^ 24 % 2 ^ 14, chunk := w 1 / 2 ^ 38 % 2 ^ 24, rstep := w 2 % 2 ^ 10, seg := w 2 / 2 ^ 10 % 2 ^ 6,
    esc := w 2 / 2 ^ 16 % 2 ^ 16, valid := w 2 / 2 ^ 32 % 2 ^ 17, pad := (w 2).testBit 49, ovf := (w 2).testBit 50 }

/-- The elements of a chunk below its sender's LENGTH: VALID has 17 bits, and 131,072 elements of a 4-bit format, a full chunk,
are 0 in them without PAD (R367; DEDUCED, log 221). -/
def ChunkHeader.elems (h : ChunkHeader) : Nat := if !h.pad && h.valid = 0 then 2 ^ 17 else h.valid

/-- The data of a chunk transaction; none where its CRC differs (R367, R368). A PAD transaction has no data. -/
def chunkData (bs : List Byte) : Option (List Byte) :=
  let rest := bs.drop 32
  let data := rest.take (rest.length - 4)
  if (chunkHeader bs).pad then (if rest.length ≤ 4 ∧ leNat rest = 0 then some [] else none)
  else if rest.length ≥ 4 ∧ leNat (rest.drop data.length) = (crc32c data).toNat then some data
  else none

/-- The bytes of a chunk transaction. -/
def chunkBytes (h : ChunkHeader) (data : List Byte) : List Byte := h.bytes ++ data ++ leBytes 4 (crc32c data).toNat

def State.headerOf (s : State) (g : Coll) (e : Entry) : ChunkHeader :=
  { key := (s.collKey g).toNat, step := e.step, entry := e.number, sig := e.sig, shard := 0, chunk := 0, rstep := 0,
    seg := 0, esc := 0, valid := 0, pad := false, ovf := decide (e.overflow > 0) }

/-- The owner position of accumulation `x` at this device, and its shard for local rank `rank` (R362). -/
def State.ownerPos (s : State) (g : Coll) (x : Nat) : Nat :=
  let n := max 1 (s.ringLen g)
  (s.ringPos g + 2 * n - 1 - x % n) % n
def State.shardOf (s : State) (g : Coll) (rank x : Nat) : Nat := rank * s.ringLen g + s.ownerPos g x
def State.rank (s : State) (g : Coll) : Nat := s.localRank g s.member

/-! ### Accumulation -/

/-- Add a list to an accumulator's elements; one that the accumulator does not hold yet starts from the identity. -/
def mergeAcc {α β : Type} (f : α → β → α) (d : α) : List α → List β → List α
  | as, [] => as
  | [], b :: bs => f d b :: mergeAcc f d [] bs
  | a :: as, b :: bs => f a b :: mergeAcc f d as bs

/-- The same from element `i` on. -/
def mergeAt {α β : Type} (f : α → β → α) (d : α) (i : Nat) (as : List α) (bs : List β) : List α :=
  if bs.isEmpty then as else as.take i ++ List.replicate (i - as.length) d ++ mergeAcc f d (as.drop i) bs

/-- The running extremum (R163, R364), by REDOP and kind of format. -/
def extremum (redop : Nat) (int : Bool) (a b : W32) : W32 :=
  if int then
    if (redop = 1 ∧ b.toInt > a.toInt) ∨ (redop ≠ 1 ∧ b.toInt < a.toInt) then b else a
  else (f32MinMax (decide (redop = 1)) a b).1

/-- The identity of max and min (R361). -/
def extremumStart (redop : Nat) (int : Bool) : W32 :=
  match int, decide (redop = 1) with
  | true, true => 0x80000000
  | true, false => 0x7FFFFFFF
  | false, true => 0xFF800000
  | false, false => 0x7F800000

def Accum.fresh (x : Nat) : Accum := ⟨x, [], none, false, 0, false, [], [], false, false, 0, 0, []⟩

def Group.accum (v : Group) (x : Nat) : Accum := (v.accums.find? (fun a => a.x = x)).getD (Accum.fresh x)

def State.setAccum (s : State) (g : Coll) (a : Accum) : State :=
  s.updGroup g (fun v => { v with accums := v.accums.filter (fun k => k.x ≠ a.x) ++ [a] })

/-- The FP32 or INT32 bits of an element's code. -/
def wordOf (e : Elem) (c : Nat) : W32 := if e.isInt then BitVec.ofInt 32 (signedOf e.width c) else (toF32 .rne (e.decode c)).1

def Entry.elemIn (e : Entry) : Elem := ((Fmt.ofCode e.inFmt).map Fmt.elem).getD (Fmt.elem .fp32)
def Entry.elemOut (e : Entry) : Elem := ((Fmt.ofCode e.outFmt).map Fmt.elem).getD (Fmt.elem .fp32)

/-- Add elements of a contribution, from element `i` on (R364). -/
def Accum.merge (a : Accum) (e : Entry) (i : Nat) (codes : List Nat) : Accum :=
  if e.redop = 0 then
    { a with sum := mergeAt (fun x c => (LongAcc.add x (e.elemIn.decode c)).1) LongAcc.clear i a.sum codes }
  else
    let int := isIntCode e.inFmt
    let start := extremumStart e.redop int
    { a with
      ext := mergeAt (fun x c => extremum e.redop int x (wordOf e.elemIn c)) start i a.ext codes
      flags := if int then a.flags else codes.foldl (fun fl c => fl ||| (e.elemIn.decode c).snanFlag) a.flags }

/-- A contribution whose transaction is complete and valid. -/
def Accum.complete (a : Accum) (chip valid : Nat) (ovf : Bool) : Accum :=
  { a with came := a.came ++ [chip], valid := max a.valid valid, ovf := a.ovf || ovf }

/-- Add a whole contribution (R364). -/
def Accum.contribute (a : Accum) (e : Entry) (chip valid : Nat) (ovf : Bool) (data : List Byte) : Accum :=
  (a.merge e 0 (codesOf (fmtWidth e.inFmt) valid data)).complete chip valid ovf

/-- Add one cell of a contribution whose header is known, unless the record of its transaction says that it has been added
(R364, R367). -/
def Accum.addCell (e : Entry) (h : ChunkHeader) (a : Accum) (c : Cell) : Accum :=
  let key := (c.srcChip.toNat, c.tag.toNat, c.seq.toNat)
  if a.added.contains key then a
  else
    let w := fmtWidth e.inFmt
    let first := 64 * c.seq.toNat - 32
    let data := (if c.seq = 0 then c.data.drop 32 else c.data).take ((h.valid * w + 7) / 8 - first)
    { a.merge e (first * 8 / w) (codesOf w (data.length * 8 / w) data) with added := a.added ++ [key] }

/-- The values of a carry segment, and the segments of a carry chunk (R365). -/
def carryWords (sum : Bool) : Nat := if sum then 8192 else 16384
def segCount (sum : Bool) (valid esc : Nat) : Nat :=
  if valid = 0 then 1 else (valid + carryWords sum - 1) / carryWords sum + (esc + 1364) / 1365

/-- The data bytes of segment `k` (R365). -/
def segLength (sum : Bool) (valid esc k : Nat) : Nat :=
  let per := carryWords sum
  let words := (valid + per - 1) / per
  if k < words then (if sum then 8 else 4) * min per (valid - k * per) else 48 * min 1365 (esc - (k - words) * 1365)

def carryData (c : CarryIn) (sum : Bool) (records : Bool) : List Byte :=
  let words := (c.valid + carryWords sum - 1) / carryWords sum
  (List.range (segCount sum c.valid c.esc)).flatMap (fun k =>
    if decide (k < words) != records then ((c.segs.find? (fun p => p.1 = k)).map (·.2)).getD [] else [])

/-- The escape records of a carry: element and V (R365). -/
def escapeRecords (bs : List Byte) : List (Nat × BitVec 320) :=
  (elements 48 bs).map (fun r => (leNat (r.take 4), BitVec.ofNat 320 (leNat ((r.drop 8).take 40))))

/-- Apply a carry chunk whose segments are all in. None: an escape code has no record (R364, R365, R368). -/
def Accum.applyCarry (a : Accum) (e : Entry) (c : CarryIn) : Option Accum :=
  let sum := decide (e.redop = 0)
  let a := { a with carry := none, carried := true, valid := max a.valid c.valid }
  if c.valid = 0 then some a
  else if sum then
    let words := (elements 8 (carryData c true false)).map (fun b => decodeCarry (BitVec.ofNat 64 (leNat b)))
    let recs := escapeRecords (carryData c true true)
    let full (i : Nat) : Option (BitVec 320) := (recs.find? (fun r => r.1 = i)).map (·.2)
    if words.zipIdx.any (fun p => decide (p.1 = .escape) && (full p.2).isNone) then none
    else some { a with
      sum := mergeAcc (fun x p => (x.addCarry p.1 ((full p.2).getD 0)).1) LongAcc.clear a.sum words.zipIdx }
  else
    let words := (elements 4 (carryData c false false)).map (fun b => BitVec.ofNat 32 (leNat b))
    let int := isIntCode e.inFmt
    some { a with
      ext := mergeAcc (extremum e.redop int) (extremumStart e.redop int) a.ext words
      flags := if int then a.flags else words.foldl (fun fl w => fl ||| (ofF32 w).snanFlag) a.flags }

/-- Every addend of an accumulation is in (R362, R371). -/
def State.accumFull (s : State) (g : Coll) (a : Accum) : Bool :=
  decide (a.came.length = s.localCount g) && (a.carried || decide (a.x % max 1 (s.ringLen g) = 0))

/-! ### Destination writes -/

/-- Write the codes of a chunk at its place in an array (R360); sub-byte codes keep the rest of their last byte. True: an
uncorrectable error, which has stopped the step (R29). -/
def State.putCodes (s : State) (p : Folio × Nat) (w : Nat) (codes : List Nat) : State × Bool × List Byte :=
  let n := (codes.length * w + 7) / 8
  let last := leNat (s.readMem (reamAddr p.1 (p.2 + n - 1)) 1)
  let bs := packCodes w codes last
  let (s, bad) := s.engWrite p.1 p.2 bs
  (s, bad, bs)

/-- Write chunk `j` of an all-gather to this member's destination, converted where OUT_FMT differs (R357, R369), and hash
it (R374). -/
def State.writeChunk (s : State) (g : Coll) (e : Entry) (j valid : Nat) (ovf : Bool) (data : List Byte) : State × Bool :=
  let w := fmtWidth e.outFmt
  let p := chunkPlace e.dst (e.span e.outFmt) j
  let codes := codesOf (fmtWidth e.inFmt) valid data
  let rm := (Rm.ofCode e.rm).getD .rne
  let r (i : Nat) : Nat :=
    if rm = .sr then srFor (fmtWidth e.inFmt) w (BitVec.ofNat 32 e.seed) (BitVec.ofNat 64 e.srStep) (8 * p.2 + i * w) else 0
  let (out, fl) :=
    if e.outFmt = e.inFmt then (codes, (0 : Flags))
    else
      let es := codes.zipIdx.map (fun c => convertCode e.elemIn e.elemOut rm e.satc (r c.2) c.1)
      (es.map (·.1), es.foldl (fun f x => f ||| x.2) 0)
  let (s, bad, bs) := if valid = 0 then (s, false, []) else s.putCodes p w out
  if bad then (s, true)
  else
    let s := s.setEntry g e { e with flags := e.flags ||| fl, ovfAny := e.ovfAny || ovf }
    (s.updGroup g (fun v => { v with
      written := v.written ++ [(e.number, j)]
      hashes := if e.commit && decide (valid ≠ 0) then Store.set id v.hashes j (digestOf bs) else v.hashes }), false)

/-! ### Messages and chunks that arrive -/

/-- How the engine takes a whole transaction: applied (a reply of LENGTH 0), refused with a code, discarded without an answer,
staged (the reply follows when its slot is freed, R370), or early: its entry has yet to be validated (R358). -/
inductive Taken where
  | applied (s : State)
  | refused (code : Nat) (s : State)
  | discarded (s : State)
  | staged (s : State)
  | early
  deriving DecidableEq, Repr

def bytesNat (bs : List Byte) (off n : Nat) : Nat := leNat ((bs.drop off).take n)

/-- A chunk that failed R368: CHUNK_INVALID or MISMATCH, and the group error of R379. -/
def State.refuseChunk (s : State) (g : Coll) (code : Nat) (number : Nat) : Taken :=
  let s := s.bump (.collErrors g) Fld.collErrorsChunkInvalid 1
  .refused code (s.groupError g code (some number) true)

/-- The entry of the current step that a chunk names (R368). It need not have started here: another member may begin the
exchange earlier (DEDUCED from R271, log 79). A chunk moves no data before its entry is validated (R358). -/
def State.namedEntry (s : State) (g : Coll) (h : ChunkHeader) : Option Entry :=
  if h.step ≠ s.currentStep g then none
  else (s.group g).queue.find? (fun e => decide (e.number = h.entry) && decide (e.step = h.step))

/-- The same, where the chunk's type and signature fit it. -/
def State.chunkEntry (s : State) (g : Coll) (type : Nat) (h : ChunkHeader) : Option Entry :=
  (s.namedEntry g h).filter (fun e => decide (h.sig = e.sig) && decide (e.op = if type = 0x0C then 2 else 1))

/-- Common to the three chunk types: the CRC, the entry and its signature; then the type's own checks. -/
def State.takeChunk (s : State) (g : Coll) (op : Nat) (bs : List Byte)
    (f : ChunkHeader → Entry → List Byte → Taken) : Taken :=
  let h := chunkHeader bs
  match chunkData bs, s.namedEntry g h with
  | some data, some e =>
    if h.sig ≠ e.sig then s.refuseChunk g 0x26 h.entry
    else if e.op ≠ op then s.refuseChunk g 0x27 h.entry
    else if e.valid = false then .early
    else f h e data
  | _, _ => s.refuseChunk g 0x27 h.entry

/-- R363: an accumulation outside the window, or one of a reduce-scatter that is not this member's first: the cells are
discarded and counted. -/
def State.outsideWindow (s : State) (g : Coll) (e : Entry) (x cells : Nat) : Option Taken :=
  let v := s.group g
  if (s.rsEntry g).map Entry.number = some e.number ∧ v.base ≤ x ∧ x < v.base + 4 then none
  else some (.discarded (s.bump (.collErrors g) Fld.collErrorsWindow cells))

/-- The accumulation that a chunk names (R362). -/
def State.accumOf (s : State) (g : Coll) (h : ChunkHeader) : Nat := h.chunk * max 1 (s.ringLen g) + h.rstep

/-- Whether the header of a contribution fits the receiver's accumulation (R368). -/
def State.contribFits (s : State) (g : Coll) (e : Entry) (sender die : Nat) (h : ChunkHeader) : Bool :=
  let x := s.accumOf g h
  decide (h.rstep < max 1 (s.ringLen g)) && decide (h.chunk < s.capChunks g) && decide (h.shard = s.shardOf g (s.rank g) x)
    && decide (h.seg = 0) && decide (h.esc = 0) && decide (h.pad = decide (h.valid = 0)) && decide (h.valid ≤ e.perChunk)
    && decide (die = 8 + x % 2) && (s.localPeers g).contains sender && !((s.group g).accum x).came.contains sender

/-- R364, R368: a contribution; its cells that have not been added are. -/
def State.takeContrib (s : State) (g : Coll) (sender die : Nat) (cells : List Cell) : Taken :=
  s.takeChunk g 1 (cellsData cells) (fun h e data =>
    let x := s.accumOf g h
    match s.outsideWindow g e x cells.length with
    | some t => t
    | none =>
      if !(s.contribFits g e sender die h && decide (data.length = (h.valid * fmtWidth e.inFmt + 7) / 8)) then
        s.refuseChunk g 0x27 h.entry
      else
        let a := (cells.foldl (Accum.addCell e h) ((s.group g).accum x)).complete sender h.valid h.ovf
        .applied ((s.setAccum g a).setEntry g e { e with ovfAny := e.ovfAny || h.ovf }))

/-- R364, R365, R368: a carry segment. -/
def State.takeCarry (s : State) (g : Coll) (sender die cells : Nat) (bs : List Byte) : Taken :=
  s.takeChunk g 1 bs (fun h e data =>
    let n := max 1 (s.ringLen g)
    let x := h.chunk * n + h.rstep
    match s.outsideWindow g e x cells with
    | some t => t
    | none =>
      let a := (s.group g).accum x
      let sum := decide (e.redop = 0)
      let c := a.carry.getD ⟨h.valid, h.esc, []⟩
      let words := (h.valid + carryWords sum - 1) / carryWords sum
      let fits := decide (0 < h.rstep) && decide (h.rstep < n) && decide (h.chunk < s.capChunks g)
        && decide (h.shard = s.shardOf g (s.rank g) x) && decide (h.valid = c.valid) && decide (h.esc = c.esc)
        && decide (h.seg < segCount sum h.valid h.esc) && (sum || decide (h.esc = 0))
        && decide (h.pad = decide (h.valid = 0)) && decide (h.valid ≤ e.perChunk)
        && decide (data.length = (if h.valid = 0 then 0 else segLength sum h.valid h.esc h.seg)) && decide (die = 8 + x % 2)
        && decide (s.ringLen g > 1) && decide (sender = s.ringPrev g) && !a.carried
        && !c.segs.any (fun p => p.1 = h.seg)
      let badWord := sum && decide (h.seg < words) && (elements 8 data).any (fun b =>
        decide (decodeCarry (BitVec.ofNat 64 (leNat b)) = .invalid))
      if !fits || badWord then s.refuseChunk g 0x27 h.entry
      else
        let c := { c with segs := c.segs ++ [(h.seg, data)] }
        let a := { a with carry := some c, ovf := a.ovf || h.ovf }
        let done := if c.segs.length = segCount sum c.valid c.esc then a.applyCarry e c else some a
        match done with
        | none => s.refuseChunk g 0x27 h.entry
        | some a => .applied ((s.setAccum g a).setEntry g e { e with ovfAny := e.ovfAny || h.ovf }))

/-- The number of a sender in the staging layout: local peers by rank, then the ring predecessor (R370; DESIGN CHOICE, log 86). -/
def State.senderNumber (s : State) (g : Coll) (sender : Nat) : Option Nat :=
  if (s.localPeers g).contains sender then some ((s.localPeers g).findIdx (fun c => c = sender))
  else if s.ringLen g > 1 ∧ sender = s.ringPrev g then some (s.localCount g - 1)
  else none

/-- Place the cells of a chunk in a staging slot (R352, R370): slots go round-robin over the tiles of the set. -/
def State.stageWrite (s : State) (g : Coll) (slot : Nat) (bs : List Byte) : State :=
  let tiles := s.tileSet g
  match tiles[slot % max 1 tiles.length]? with
  | none => s
  | some t => (s.vatWrite t (64 * s.fld (.collStage g) Fld.collStageOff + slot / max 1 tiles.length * stageBytes) bs).1

/-- R368-R371: an all-gather chunk, which its slot holds. -/
def State.takeGather (s : State) (g : Coll) (sender die : Nat) (bs : List Byte) (o : Owed) : Taken :=
  s.takeChunk g 2 bs (fun h e data =>
    let n := max 1 (s.ringLen g)
    let cap := s.capChunks g
    let j := h.shard * cap + h.chunk
    let owner := h.shard % n
    let fromPrev := !(s.localPeers g).contains sender
    let rank := if fromPrev then s.rank g else s.localRank g (sender % 16)
    match s.senderNumber g sender with
    | none => s.refuseChunk g 0x27 h.entry
    | some k =>
      let slot := 3 * k + h.chunk % 3
      let fits := decide (h.shard < s.memberCount g) && decide (h.shard / n = rank)
        && !(fromPrev && decide (owner = s.ringPos g)) && decide (h.chunk < cap) && decide (h.rstep = 0)
        && decide (h.seg = 0) && decide (h.esc = 0) && decide (h.pad = decide (h.elems = 0))
        && decide (h.elems ≤ e.perChunk) && decide (data.length = (h.elems * fmtWidth e.inFmt + 7) / 8)
        && decide (die = 8 + j % 2) && !(s.group g).written.contains (e.number, j)
      if !fits then s.refuseChunk g 0x27 h.entry
      else
        let s := s.stageWrite g slot bs
        match s.writeChunk g e j h.elems h.ovf data with
        | (s, true) => .applied s
        | (s, false) =>
          let local' := fromPrev && decide (s.localCount g > 1)
          let ring := fromPrev && decide (owner ≠ (s.ringPos g + 1) % n)
          let outs := if local' || ring then [(⟨e.number, j, bs, local', ring, some slot⟩ : OutChunk)] else []
          let s := s.updGroup g (fun v => { v with
            stage := v.stage.filter (fun q => q.slot ≠ slot) ++ [⟨slot, 0, sender, o.cell.tag.toNat, some o⟩]
            outChunks := v.outChunks ++ outs })
          match (s.group g).queue.find? (fun q => decide (q.number = e.number) && decide (q.step = e.step)) with
          | some e => .staged (s.lastWritten g e)
          | none => .staged s)

/-- The JOIN that a transaction carries (R366). -/
def joinMsg (c : Cell) (bs : List Byte) : JoinMsg :=
  ⟨BitVec.ofNat 32 (bytesNat bs 0 4), c.srcChip.toNat, bytesNat bs 4 4, BitVec.ofNat 64 (bytesNat bs 8 8), bytesNat bs 16 8,
    bytesNat bs 24 8, c.job⟩

/-- R350: a JOIN. -/
def State.takeJoin (s : State) (g : Coll) (j : JoinMsg) : Taken :=
  .applied ((s.updGroup g (fun v => { v with joins := v.joins ++ [j] })).joinProgress g)

/-- R350, R366: a JOIN whose KEY names no group that is joining or active. It is held for its group's creation, or, with the JOB
of none of the groups whose registers have its KEY, denied. -/
def State.keepJoin (s : State) (j : JoinMsg) : Taken :=
  let named := (List.finRange 64).filter (fun g => decide (s.collKey g = j.key) && decide (s.collJob g ≠ 0))
  if !named.isEmpty && named.all (fun g => decide (s.collJob g ≠ j.job)) then .refused 0x49 s
  else .applied ((List.finRange 64).foldl (fun s g => if s.collState g = 1 then s.joinProgress g else s)
    { s with earlyJoins := s.earlyJoins ++ [j] })

/-- R355: an ARRIVE or a group summary. -/
def State.takeArrive (s : State) (g : Coll) (sender : Nat) (bs : List Byte) : Taken :=
  let a : ArriveMsg := ⟨bytesNat bs 4 4, sender, bytesNat bs 8 8, bytesNat bs 16 2, bytesNat bs 18 1, decide (bytesNat bs 19 1 % 2 = 1)⟩
  if a.step < s.currentStep g then .applied s
  else .applied ((s.updGroup g (fun v => { v with heard := v.heard ++ [a] })).arriveProgress g)

/-- R363: a CREDIT. -/
def State.takeCredit (s : State) (g : Coll) (sender : Nat) (bs : List Byte) : Taken :=
  let key := bytesNat bs 8 8 % 256 * 2 ^ 14 + sender
  let base := bytesNat bs 16 8
  if bytesNat bs 4 4 ≠ s.currentStep g then .applied s
  else .applied (s.updGroup g (fun v => { v with
    creditOf := Store.put id (fun _ => 0) v.creditOf key (max base (Store.get (fun _ => 0) v.creditOf key)) }))

/-- R375: a DIGEST or a summary. -/
def State.takeDigest (s : State) (g : Coll) (sender : Nat) (bs : List Byte) : Taken :=
  let fl := bytesNat bs 8 8
  let d : DigestMsg := ⟨bytesNat bs 4 4, sender, BitVec.ofNat 256 (beNat ((bs.drop 16).take 32)), fl.testBit 0, fl.testBit 1⟩
  if d.step ≠ s.currentStep g then .applied s
  else .applied ((s.updGroup g (fun v => { v with digests := v.digests ++ [d] })).digestProgress g)

/-- R378, R379: an ABORT. One of kind error ends the step only while something of it is outstanding. -/
def State.takeAbort (s : State) (g : Coll) (bs : List Byte) : Taken :=
  let v := s.group g
  let status := bytesNat bs 16 8
  if bytesNat bs 8 8 = 1 then .applied (s.faultGroup g 0x2A true)
  else
    let open' := v.queue.any (fun e => e.step = s.currentStep g) || v.arrival.isSome || !v.tilesNow.isEmpty
    if bytesNat bs 4 4 = s.currentStep g ∧ open' = true then .applied (s.groupError g status none true) else .applied s

/-- The group that a KEY names, among those that are JOINING, ACTIVE or PAUSED. -/
def State.groupOf (s : State) (key : Nat) : Option Coll :=
  (List.finRange 64).find? (fun g => decide ((s.collKey g).toNat = key) && (decide (s.collState g = 1) || s.collRuns g))

/-- A whole transaction of a known group, by its type. -/
def State.takeColl (s : State) (g : Coll) (type : Nat) (a : Assembly) (o : Owed) : Taken :=
  let bs := cellsData a.cells
  let sender := o.cell.srcChip.toNat
  let d := deckleDie o.deckle
  match type with
  | 0x08 => s.takeJoin g (joinMsg o.cell bs)
  | 0x09 => s.takeArrive g sender bs
  | 0x0A => s.takeContrib g sender d.val a.cells
  | 0x0B => s.takeCarry g sender d.val a.cells.length bs
  | 0x0C => s.takeGather g sender d.val bs o
  | 0x0D => s.takeCredit g sender bs
  | 0x0E => s.takeDigest g sender bs
  | _ => s.takeAbort g bs

/-- The engine takes a whole transaction and answers it; one whose entry has yet to be validated is kept (R358, R366). -/
def State.takeWhole (s : State) (g : Coll) (type : Nat) (a : Assembly) (o : Owed) : State :=
  match s.takeColl g type a o with
  | .applied s => s.answerOwed o (.reply [])
  | .refused code s => s.answerOwed o (.nak code)
  | .discarded s => s
  | .staged s => s
  | .early => s.updGroup g (fun v => { v with early := v.early.filter (fun k => !k.asm.is a.die o.cell) ++ [⟨type, a, o⟩] })

/-- Take the chunks that came before their entries were validated, and whose entries have been, or have ended since (R358, R368). -/
def State.takeEarly (s : State) (g : Coll) : State :=
  (s.group g).early.foldl (fun s k =>
    if (s.namedEntry g (chunkHeader (cellsData k.asm.cells))).any (fun e => !e.valid) then s
    else (s.updGroup g (fun v => { v with early := v.early.erase k })).takeWhole g k.type k.asm k.owed) s

/-- R358: an entry is validated; one that fails completes with its status. -/
def doEntryValidate (g : Coll) (s : State) : State :=
  match (s.group g).candidate with
  | none => s
  | some e =>
    if s.clocksStopped then s
    else
      let st := s.entryStatus g e
      if st ≠ 0 then (s.endEntry g e st false 0).takeEarly g
      else
        let s := s.setEntry g e { e with valid := true }
        let s := s.updGroup g (fun v => { v with
          nextEntry := v.nextEntry + 1, lastOp := e.op, firstTense := if e.number = 0 then e.tense else v.firstTense })
        (s.noteReady g).takeEarly g

/-- The header of the chunk transaction to which a cell belongs, once SEQ 0 is in (R367), with the group and entry it names. -/
def State.chunkOf (s : State) (type : Nat) (cells : List Cell) (job : BitVec 12) : Option (Coll × ChunkHeader × Entry) :=
  (cells.find? (fun c => c.seq = 0)).bind (fun z =>
    let h := chunkHeader z.data
    (s.groupOf h.key).bind (fun g =>
      if s.collJob g = job then (s.chunkEntry g type h).map (fun e => (g, h, e)) else none))

/-- The staging slot of a chunk (R370). -/
def State.slotOf (s : State) (g : Coll) (sender : Nat) (h : ChunkHeader) : Option Nat :=
  (s.senderNumber g sender).map (fun k => 3 * k + h.chunk % 3)

/-- A chunk cell that the engine discards as it arrives: one outside the window, which is counted (R363), or one whose staging
slot another chunk holds or whose own chunk stands there in WRITING (R370). -/
def State.discards (s : State) (d : Die) (type : Nat) (c : Cell) : Option State :=
  let held := ((s.net.assemblies.find? (fun a => a.is d c)).map Assembly.cells).getD []
  if c.isChunk = false ∨ s.net.dups.any (fun r => r.is d c) = true then none
  else
    match s.chunkOf type (c :: held) c.job with
    | none => none
    | some (g, h, e) =>
      if type = 0x0C then
        match s.slotOf g c.srcChip.toNat h with
        | none => none
        | some k =>
          if (s.group g).stage.any (fun q => decide (q.slot = k)
            && (decide (q.chip ≠ c.srcChip.toNat) || decide (q.tag ≠ c.tag.toNat) || q.owed.isSome)) then some s else none
      else
        match s.outsideWindow g e (s.accumOf g h) 1 with
        | some (.discarded s) => some s
        | _ => none

/-- The unit of R371 that a chunk's cells open: an accumulation becomes OPEN, with the cells of a contribution added as they arrive
(R364; those that come before SEQ 0 with it, log 222), and a staging slot ASSEMBLING (R370). -/
def State.openUnit (s : State) (d : Die) (type : Nat) (c : Cell) (a : Assembly) : State :=
  match (if c.isChunk then s.chunkOf type a.cells c.job else none) with
  | none => s
  | some (g, h, e) =>
    let sender := c.srcChip.toNat
    if type = 0x0C then
      match s.slotOf g sender h with
      | none => s
      | some k =>
        if (s.group g).stage.any (fun q => q.slot = k) then s
        else s.updGroup g (fun v => { v with stage := v.stage ++ [⟨k, 0, sender, c.tag.toNat, none⟩] })
    else if e.valid = false then s
    else
      let k := (s.group g).accum (s.accumOf g h)
      if type = 0x0A then
        (if s.contribFits g e sender d.val h then s.setAccum g (a.cells.foldl (Accum.addCell e h) k) else s)
      else s.setAccum g k

/-- A collective cell of a type arrives at a deckle (R295, R366). Job 0 reaches a deckle's control window only (R36). -/
def collArrive (type : Nat) (n : Deckle) (c : Cell) (s0 : State) : State :=
  let d := deckleDie n
  let s := s0.land (.die d) c
  if c.cls = 1 ∨ c.type.toNat ≠ type ∨ s.clocksStopped = true then s0
  else if s.downDies.contains d then s
  else
    let (s, ok) := (s.wake (.deckle n)).arriveAt d c
    if !ok then s
    else
      match (s.endpointCode d c).or (if c.job = 0 then some 0x49 else none) with
      | some code => s.refuseAt d code c
      | none =>
        match s.discards d type c with
        | some s => s
        | none =>
          match s.assemble d c with
          | .waits => s0
          | .dropped s => s
          | .refused code s => s.refuseAt d code c
          | .held s =>
            match s.net.assemblies.find? (fun a => a.is d c) with
            | some a => s.openUnit d type c a
            | none => s
          | .whole a s =>
            match s.net.dups.find? (fun r => r.is d c) with
            | some r => s.answerDuplicate d c r
            | none =>
              let stamp := s.earliest a
              let o : Owed := ⟨n, c, stamp.1, stamp.2⟩
              match s.groupOf (bytesNat (cellsData a.cells) 0 4) with
              | none =>
                if [0x0A, 0x0B, 0x0C].contains type then s.answerOwed o (.nak 0x27)
                else if type = 0x08 then
                  match s.keepJoin (joinMsg c (cellsData a.cells)) with
                  | .refused code s => s.answerOwed o (.nak code)
                  | .applied s => s.answerOwed o (.reply [])
                  | _ => s
                else s.answerOwed o (.reply [])
              | some g =>
                if c.job ≠ s.collJob g then s.answerOwed o (.nak 0x49)
                else (s.openUnit d type c a).takeWhole g type a o

/-! ### Starting entries -/

/-- Whether an entry may start now: the exchange has begun, for which entry 0 waits and no more; a later entry's EXCH_TENSE has
come, unless it has FOLLOW; and its tile's earlier transfers are visible (R108, R359, R373). -/
def State.mayStart (s : State) (g : Coll) (e : Entry) : Bool :=
  e.valid && !e.started && (s.group g).exchange && (decide (e.number = 0) || e.follow || decide (s.tenseNow ≥ e.tense))
    && e.after.isEmpty && decide (e.step = s.currentStep g) && !s.clocksStopped

/-- The check of a fused update's template (R372), on folio 0's copy: a status of R358, 0 for none. None: an
uncorrectable error. -/
def State.templateStatus (s : State) (g : Coll) (e : Entry) : State × Option Nat :=
  if e.updOff + 64 > reamLimit then (s, some 0x22) else
  match s.engRead 0 e.updOff 64 with
  | (s, none) => (s, none)
  | (s, some bs) =>
    let c := cmdOf ((elements 8 bs).map (fun b => BitVec.ofNat 64 (leNat b)))
    if !([0x10, 0x11, 0x12].contains c.code) || c.badField then (s, some 0x20)
    else if c.aux + 128 > reamLimit then (s, some 0x22)
    else
      match s.engRead 0 c.aux 128 with
      | (s, none) => (s, none)
      | (s, some ps) =>
        let b := optBlock (decide (c.code = 0x10)) ps
        let n := (s.capChunks g + 7) / 8 * e.perChunk
        let past (off w : Nat) : Bool := decide (off + n * w > reamLimit)
        if b.g ≠ e.dst ∨ b.clean = false then (s, some 0x20)
        else if c.srcFmt ≠ e.outFmt then (s, some 0x21)
        else if past b.w 4 || past b.g (fmtBytes c.srcFmt) || past b.m 4 || (decide (c.code ≠ 0x10) && past b.v 4)
          || (c.flags.testBit 1 && past b.copy (fmtBytes c.dstFmt)) then (s, some 0x22)
        else (s, some 0)

/-- The elements beyond the capacity that the member drops (R361): of every shard in a reduce-scatter, of its own in an
all-gather. -/
def State.overflowOf (s : State) (g : Coll) (e : Entry) : Nat :=
  (e.length - e.perChunk * s.capChunks g) * (if e.op = 1 then s.memberCount g else 1)

def State.startEntry (s : State) (g : Coll) (e : Entry) : State :=
  let o := s.overflowOf g e
  s.setEntry g e { e with started := true, overflow := o, ovfAny := e.ovfAny || decide (o > 0) }

/-- R362: the reduce-scatter at the head of the queue starts. -/
def doReduceScatter (g : Coll) (s : State) : State :=
  match (s.group g).queue with
  | e :: _ =>
    if e.op ≠ 1 ∨ s.mayStart g e = false then s
    else if e.update then
      match s.templateStatus g e with
      | (s, none) => s
      | (s, some 0) => s.startEntry g e
      | (s, some st) => s.endEntry g e st false 0
    else s.startEntry g e
  | [] => s

/-- R369, R373: the all-gather at the head of the queue starts, or the FOLLOW entry behind a started reduce-scatter. -/
def doAllGather (g : Coll) (s : State) : State :=
  match (s.group g).queue with
  | e :: rest =>
    if e.op = 2 then (if s.mayStart g e then s.startEntry g e else s)
    else
      match rest with
      | k :: _ =>
        if e.op = 1 ∧ e.started = true ∧ k.op = 2 ∧ k.follow = true ∧ s.mayStart g k = true
        then s.startEntry g k else s
      | [] => s
  | [] => s

/-! ### Sending -/

/-- R363: the next contribution to a local member, or to the device's own accumulation. -/
def State.sendContrib (s : State) (g : Coll) (chip : Nat) : State :=
  match s.rsEntry g with
  | none => s
  | some e =>
    let v := s.group g
    let own := decide (chip = s.chip)
    let x := Store.get (fun _ => 0) v.sentX chip
    let n := max 1 (s.ringLen g)
    let limit := if own then v.base else Store.get (fun _ => 0) v.creditOf (e.number * 2 ^ 14 + chip)
    if e.started = false ∨ (own = false ∧ (s.localPeers g).contains chip = false) ∨ x ≥ s.accumCount g ∨ x ≥ limit + 4 then s
    else
      let shard := s.shardOf g (s.localRank g (chip % 16)) x
      let c := x / n
      let valid := e.validOf c
      let p := chunkPlace e.src (e.span e.inFmt) (shard * s.capChunks g + c)
      match s.engRead p.1 p.2 ((valid * fmtWidth e.inFmt + 7) / 8) with
      | (s, none) => s
      | (s1, some data) =>
        let sent (s : State) : State := s.updGroup g (fun v => { v with sentX := Store.put id (fun _ => 0) v.sentX chip (x + 1) })
        let h := { s.headerOf g e with shard := shard, chunk := c, rstep := x % n, valid := valid, pad := decide (valid = 0) }
        if own then
          let a := (s1.group g).accum x
          sent (s1.setAccum g (a.contribute e chip valid h.ovf data))
        else
          match s1.collSend g s1.engineDeckle 0x0A chip (8 + x % 2) (.contrib e.number) (chunkBytes h data) with
          | some s2 => sent s2
          | none => s

/-- R363, R365: the next carry segment that the successor's window admits. -/
def State.sendCarry (s : State) (g : Coll) : State :=
  match s.rsEntry g with
  | none => s
  | some e =>
    let dest := s.ringNext g
    let limit := Store.get (fun _ => 0) (s.group g).creditOf (e.number * 2 ^ 14 + dest)
    match (s.group g).carries.find? (fun c => decide (c.x < limit + 4)) with
    | none => s
    | some c =>
      match s.collSend g s.engineDeckle 0x0B dest (8 + c.x % 2) (.carry e.number c.mine) c.data with
      | some s => s.updGroup g (fun v => { v with carries := v.carries.erase c })
      | none => s

/-- Whether chunk `c` of the own shard is ready at the owner (R373). -/
def State.chunkReady (s : State) (g : Coll) (e : Entry) (c : Nat) : Bool :=
  let n := max 1 (s.ringLen g)
  let x := c * n + n - 1
  !e.follow || (match s.rsEntry g with
    | none => true
    | some r => decide (r.number ≥ e.number) || decide ((s.group g).base > x)
        || (s.group g).accums.any (fun a => decide (a.x = x) && a.finished && !a.updating))

/-- R369: the owner copies the next chunk of its shard into its destination and makes it ready to be sent. -/
def State.copyOwn (s : State) (g : Coll) : State :=
  match (s.group g).queue.find? (fun e => decide (e.op = 2) && e.started && decide (e.step = s.currentStep g)) with
  | none => s
  | some e =>
    let c := (s.group g).ownChunk
    if c ≥ s.capChunks g ∨ s.chunkReady g e c = false then s
    else
      let shard := s.rank g * s.ringLen g + s.ringPos g
      let j := shard * s.capChunks g + c
      let valid := e.validOf c
      let p := chunkPlace e.src (e.span e.inFmt) c
      match s.engRead p.1 p.2 ((valid * fmtWidth e.inFmt + 7) / 8) with
      | (s, none) => s
      | (s, some data) =>
        match s.writeChunk g e j valid false data with
        | (s, true) => s
        | (s, false) =>
          let h := { s.headerOf g e with shard := shard, chunk := c, valid := valid, pad := decide (valid = 0) }
          let local' := decide (s.localCount g > 1)
          let ring := decide (s.ringLen g > 1)
          let outs := if local' || ring then [(⟨e.number, j, chunkBytes h data, local', ring, none⟩ : OutChunk)] else []
          let s := s.updGroup g (fun v => { v with ownChunk := c + 1, outChunks := v.outChunks ++ outs })
          match (s.group g).queue.find? (fun q => decide (q.number = e.number) && decide (q.step = e.step)) with
          | some e => s.lastWritten g e
          | none => s

/-- The die of a chunk (R369). -/
def OutChunk.die (o : OutChunk) : Nat := 8 + o.index % 2

/-- Count a copy of a chunk sent to a chip, and forget the chunk when nothing of it remains to be sent. -/
def State.chunkSent (s : State) (g : Coll) (o : OutChunk) (dest : List Nat) (ring : Bool) : State :=
  let o' := if ring then { o with toRing := false } else { o with toLocal := false }
  let keep := o'.toRing || o'.toLocal
  s.updGroup g (fun v => { v with
    outstanding := dest.foldl (fun m c => Store.put id (fun _ => 0) m c (Store.get (fun _ => 0) m c + 1)) v.outstanding
    stage := v.stage.map (fun q => if some q.slot = o.slot then { q with copies := q.copies + dest.length } else q)
    outChunks := if keep then v.outChunks.map (fun k => if k = o then o' else k) else v.outChunks.erase o })

/-- c mod 3 of a chunk (R370). -/
def State.third (s : State) (g : Coll) (o : OutChunk) : Nat := o.index % max 1 (s.capChunks g) % 3

/-- At most three chunks are outstanding to a receiver, each in a staging slot of its own there (R370). -/
def State.roomFor (s : State) (g : Coll) (o : OutChunk) (c : Nat) : Bool :=
  let v := s.group g
  let same (w : Work) : Bool := match w.kind with
    | .gather _ k _ => decide (w.peer = c) && decide (k = s.third g o)
    | _ => false
  decide (Store.get (fun _ => 0) v.outstanding c < 3) && v.works.all (fun w => !(v.ofStep w && same w))

/-- R369: the next chunk for the ring successor. -/
def State.sendForward (s : State) (g : Coll) : State :=
  let dest := s.ringNext g
  match (s.group g).outChunks.find? (fun o => o.toRing) with
  | none => s
  | some o =>
    if !s.roomFor g o dest then s
    else
      match s.collSend g s.engineDeckle 0x0C dest o.die (.gather o.entry (s.third g o) o.slot) o.data with
      | some s => s.chunkSent g o [dest] true
      | none => s

/-- Open one transaction per receiver of a multicast; none where a tag is missing. -/
def State.openCopies (s : State) (g : Coll) (d : Deckle) (o : OutChunk) : List Nat → Option (State × List (List Cell))
  | [] => some (s, [])
  | c :: cs =>
    let id := (s.group g).nextWork
    match s.openTxn (deckleDie d) (.coll g id) (s.collJob g) c o.die 3 0x0C o.data with
    | none => none
    | some (s, cells) =>
      let s := s.updGroup g (fun v => { v with nextWork := id + 1, works := v.works ++ [⟨id, c, .gather o.entry (s.third g o) o.slot⟩] })
      match s.openCopies g d o cs with
      | none => none
      | some (s, rest) => some (s, cells :: rest)

/-- R337, R369: the next chunk for the local peers, one multicast: each of its cells takes one slot of the origination
store. -/
def State.sendMulticast (s : State) (g : Coll) : State :=
  let dest := s.localPeers g
  match (s.group g).outChunks.find? (fun o => o.toLocal) with
  | none => s
  | some o =>
    if !dest.all (s.roomFor g o) then s
    else
      let n := s.engineDeckle
      match s.openCopies g n o dest with
      | none => s
      | some (s, copies) =>
        let count := (copies.map List.length).foldl max 0
        let s := (List.range count).foldl (fun s i => s.leaveDeckle n (copies.filterMap (fun l => l[i]?))) s
        s.chunkSent g o dest false

/-- R363, R369. -/
def doChunkSend (g : Coll) (k : SendKind) (s : State) : State :=
  if s.collRuns g = false ∨ s.clocksStopped = true then s
  else
    match k with
    | .contrib chip => s.sendContrib g chip.toNat
    | .carry => s.sendCarry g
    | .copy => s.copyOwn g
    | .multicast => s.sendMulticast g
    | .forward => s.sendForward g

/-! ### Finishing -/

/-- The carry segments of a finished accumulation (R365), for accumulation x + 1 at the successor. -/
def State.carrySegments (s : State) (g : Coll) (e : Entry) (a : Accum) : List OutCarry :=
  let n := max 1 (s.ringLen g)
  let sum := decide (e.redop = 0)
  let words := if sum then (a.sum.map (fun x => (encodeCarry x))) else []
  let escs := (a.sum.zip words).zipIdx.filter (fun p => decide (p.1.2 = carrySpecial 0))
  let wordBytes := if sum then words.flatMap (fun w => leBytes 8 w.toNat) else a.ext.flatMap (fun w => leBytes 4 w.toNat)
  let recBytes := if sum then escs.flatMap (fun p => leBytes 4 p.2 ++ leBytes 4 0 ++ leBytes 40 p.1.1.v.toNat) else []
  let esc := if sum then escs.length else 0
  let nw := (a.valid + carryWords sum - 1) / carryWords sum
  (List.range (segCount sum a.valid esc)).map (fun k =>
    let data := if a.valid = 0 then [] else if k < nw then (wordBytes.drop (k * 65536)).take (segLength sum a.valid esc k)
      else (recBytes.drop ((k - nw) * 1365 * 48)).take (segLength sum a.valid esc k)
    let h := { s.headerOf g e with
      shard := s.shardOf g (s.rank g) a.x, chunk := a.x / n, rstep := a.x % n + 1, seg := k, esc := esc, valid := a.valid,
      pad := decide (a.valid = 0), ovf := a.ovf }
    ⟨a.x + 1, a.x, chunkBytes h data⟩)

/-- The codes of the rounded result, and their flags (R60, R362, R364). -/
def Accum.result (a : Accum) (e : Entry) : List Nat × Flags :=
  let es :=
    if e.redop = 0 then a.sum.map (fun x => x.read e.elemOut .rne e.satc 0)
    else a.ext.map (fun w =>
      if isIntCode e.inFmt then e.elemOut.encode .rne e.satc 0 (Val.ofInt w.toInt)
      else e.elemOut.encode .rne e.satc 0 (ofF32 w))
  (es.map (·.1), es.foldl (fun f x => f ||| x.2) 0)

/-- R362, R364: accumulation `x` has every addend: its result is written, or its carry is made ready to be sent. -/
def doAccumulationFinish (g : Coll) (x : Nat) (s : State) : State :=
  match s.rsEntry g, (s.group g).accums.find? (fun a => a.x = x) with
  | some e, some a =>
    if a.finished = true ∨ s.accumFull g a = false ∨ e.started = false ∨ s.collRuns g = false ∨ s.clocksStopped = true then s
    else
      let n := max 1 (s.ringLen g)
      if x % n = n - 1 then
        let (codes, fl) := a.result e
        let (s, bad, _) := if a.valid = 0 then (s, false, []) else
          s.putCodes (chunkPlace e.dst (e.span e.outFmt) (x / n)) (fmtWidth e.outFmt) codes
        if bad then s
        else
          let s := s.setEntry g e { e with flags := e.flags ||| fl ||| a.flags }
          ((s.setAccum g { a with finished := true, updating := e.update }).advanceBase g).endDone g
      else
        let segs := s.carrySegments g e a
        let s := s.setEntry g e { e with flags := e.flags ||| a.flags }
        let s := s.setAccum g { a with finished := true, waiting := segs.length }
        s.updGroup g (fun v => { v with carries := v.carries ++ segs })
  | _, _ => s

/-- R372: the fused optimizer command of a chunk runs and completes. -/
def doFusedUpdateDone (g : Coll) (x : Nat) (s : State) : State :=
  match s.rsEntry g, (s.group g).accums.find? (fun a => a.x = x) with
  | some e, some a =>
    if a.updating = false ∨ s.collRuns g = false ∨ s.clocksStopped = true then s
    else
      let c := x / max 1 (s.ringLen g)
      let f : Folio := Fin.ofNat 8 c
      match s.engRead f e.updOff 64 with
      | (s, none) => s
      | (s, some bs) =>
        let k := cmdOf ((elements 8 bs).map (fun b => BitVec.ofNat 64 (leNat b)))
        let k := { k with count := a.valid }
        let (s, r) := if k.badField || !([0x10, 0x11, 0x12].contains k.code) then (s, CmdEnd.fail 1)
          else runOptimizerAt s f k (c / 8 * e.perChunk)
        if r.status = 0 then
          ((s.setAccum g { a with updating := false }).advanceBase g).endDone g
        else if r.status = 9 then s
        else s.groupError g 0x2C (some e.number) true
  | _, _ => s

/-- R370, R371: a staging slot whose chunk is written and whose copies are acknowledged is freed, and its chunk acknowledged
(DEDUCED, log 223). -/
def doStagingSlotFree (g : Coll) (slot : Nat) (s : State) : State :=
  let v := s.group g
  match v.stage.find? (fun q => q.slot = slot) with
  | none => s
  | some q =>
    match q.owed with
    | none => s
    | some o =>
      if q.copies ≠ 0 ∨ v.outChunks.any (fun o => o.slot = some slot) = true ∨ s.clocksStopped = true then s
      else ((s.updGroup g (fun v => { v with stage := v.stage.erase q })).answerOwed o (.reply [])).endDone g

/-! ### Completion -/

/-- The completion record of R382. -/
def Ended.record (r : Ended) : List Byte :=
  let e := r.entry
  let bits (l : List Bool) : Nat := (l.zipIdx.map (fun b => if b.1 then 2 ^ b.2 else 0)).foldl (· + ·) 0
  leBytes 2 e.cplTag ++ leBytes 1 r.status
    ++ leBytes 1 (bits [r.unlocked, r.late, decide (e.overflow > 0), e.ovfAny, r.committed]) ++ leBytes 1 (e.flags.toNat % 32)
    ++ leBytes 3 0 ++ leBytes 8 e.overflow ++ leBytes 4 r.steps ++ leBytes 2 r.last.chip ++ leBytes 1 r.last.reason
    ++ leBytes 1 0 ++ leBytes 8 r.last.tense ++ (if r.committed then digestBytes r.digest else List.replicate 32 0)

/-- Write bytes at a global address of this chip, in a folio's ream range or a vat. -/
def State.putLocal (s : State) (addr : Nat) (bs : List Byte) : State :=
  let f : Folio := Fin.ofNat 8 (addr / 2 ^ 46 % 16)
  let off := addr % 2 ^ 46
  if off < reamLimit then (s.engWrite f off bs).1
  else (s.vatWrite (Fin.ofNat 192 (f.val * 24 + (off - vatBase) / vatSize)) ((off - vatBase) % vatSize) bs).1

/-- R107, R382: the oldest completion record is written and clears its POST tag, with an error mark where the entry did
not complete OK (R78, R110). A record whose address the entry's validation refused is not written (DESIGN CHOICE, log 91). The
tag is cleared or marked whichever program posted the entry (DESIGN CHOICE, log 232). -/
def doCollectiveCompletion (g : Coll) (s : State) : State :=
  match (s.group g).ended with
  | [] => s
  | r :: rest =>
    if s.clocksStopped then s
    else
      let s := s.updGroup g (fun v => { v with ended := rest })
      let s := if r.entry.cplBad s.chip then s else s.putLocal r.entry.cplAddr r.record
      let t := r.entry.tile
      let tag := tagPost r.entry.post
      if r.status = 0 then s.clearTag t tag
      else (s.clearTagError t tag).updTile t (fun x => { x with
        postStatus := Store.put id (fun _ => 0) x.postStatus r.entry.post.val r.status })

/-! ### The commands -/

def execCreateTimeout (g : Coll) (s : State) : Host.Outcome State Fault Refusal := .next (doCreateTimeout g s)
def execEntryValidate (g : Coll) (s : State) : Host.Outcome State Fault Refusal := .next (doEntryValidate g s)
def execDeviceArrival (g : Coll) (s : State) : Host.Outcome State Fault Refusal := .next (doDeviceArrival g s)
def execExchangeStart (g : Coll) (s : State) : Host.Outcome State Fault Refusal := .next (doExchangeStart g s)
def execStepTimeout (g : Coll) (s : State) : Host.Outcome State Fault Refusal := .next (doStepTimeout g s)
def execReduceScatter (g : Coll) (s : State) : Host.Outcome State Fault Refusal := .next (doReduceScatter g s)
def execAllGather (g : Coll) (s : State) : Host.Outcome State Fault Refusal := .next (doAllGather g s)
def execChunkSend (g : Coll) (k : SendKind) (s : State) : Host.Outcome State Fault Refusal := .next (doChunkSend g k s)
def execAccumulationFinish (g : Coll) (x : Nat) (s : State) : Host.Outcome State Fault Refusal :=
  .next (doAccumulationFinish g x s)
def execFusedUpdateDone (g : Coll) (x : Nat) (s : State) : Host.Outcome State Fault Refusal := .next (doFusedUpdateDone g x s)
def execStagingSlotFree (g : Coll) (slot : Nat) (s : State) : Host.Outcome State Fault Refusal :=
  .next (doStagingSlotFree g slot s)
def execCollectiveCompletion (g : Coll) (s : State) : Host.Outcome State Fault Refusal := .next (doCollectiveCompletion g s)

/-- R350. -/
def execJoin (n : Deckle) (c : Cell) (s : State) : Host.Outcome State Fault Refusal := .next (collArrive 0x08 n c s)
/-- R354, R355. -/
def execArrive (n : Deckle) (c : Cell) (s : State) : Host.Outcome State Fault Refusal := .next (collArrive 0x09 n c s)
/-- R364, R366-R368. -/
def execContrib (n : Deckle) (c : Cell) (s : State) : Host.Outcome State Fault Refusal := .next (collArrive 0x0A n c s)
/-- R364-R368. -/
def execCarry (n : Deckle) (c : Cell) (s : State) : Host.Outcome State Fault Refusal := .next (collArrive 0x0B n c s)
/-- R367-R370. -/
def execGather (n : Deckle) (c : Cell) (s : State) : Host.Outcome State Fault Refusal := .next (collArrive 0x0C n c s)
/-- R363. -/
def execCredit (n : Deckle) (c : Cell) (s : State) : Host.Outcome State Fault Refusal := .next (collArrive 0x0D n c s)
/-- R375. -/
def execDigest (n : Deckle) (c : Cell) (s : State) : Host.Outcome State Fault Refusal := .next (collArrive 0x0E n c s)
/-- R378, R379. -/
def execAbort (n : Deckle) (c : Cell) (s : State) : Host.Outcome State Fault Refusal := .next (collArrive 0x0F n c s)

end Sys2Proof.Machine
end

