-- ==== Sys2Proof/Machine/Press.lean ====
section
/-! DEFINITION. The press: WLD, WSWAP, STREAM, the completion of a stream row with its check column, and the couch queue
(R91-R95, R112, R120-R152). Cycle offsets inside the press are timing and are left out (log 5). -/

namespace Sys2Proof.Machine

/-- K values per weight word: the MAC rate of the weight format (R49, R121). -/
def packing : Fmt → Nat
  | .bf16 | .fp16 => 1
  | .mx4 | .int4 => 4
  | _ => 2

/-- The lines by which the word for logical row k trails the stream row (R130). -/
def skewLine (repair : Option Nat) (i k : Nat) : Nat :=
  match repair with
  | some f => if k ≥ f then i + k + 1 else i + k
  | none => i + k

/-- Bytes of a line: 128 activation words of P values (R123). -/
def lineBytes (p w : Nat) : Nat := 16 * p * w

/-- The weight block in the vat at `base` (R124): word n of logical row k, and the scale bytes of an MX format. -/
def readBlock (s : State) (t : Tile) (f : Fmt) (base scaleOff : Nat) : WBlock :=
  let w := packing f * f.width
  { fmt := f
    words := Store.tabulate 0 (128 * 128) (fun i =>
      BitVec.ofNat 16 (s.vatBits t (8 * (base + i / 128 * 16 * w) + i % 128 * w) w))
    scales := if f.isMx then
        Store.tabulate 0 (128 * 4 * packing f) (fun i => s.mem.read (vatAddr t (scaleOff + i)))
      else [] }

/-- The value of the weight at K index kappa = k * P + m in column n, with its column's MX scale (R58, R124). -/
def WBlock.value (b : WBlock) (k m n : Nat) : Val :=
  let p := packing b.fmt
  let w := b.fmt.width
  let code := (Store.get (fun _ => 0) b.words (k * 128 + n)).toNat / 2 ^ (m * w) % 2 ^ w
  if b.fmt.isMx then
    mxValue b.fmt.elem (Store.get (fun _ => 0) b.scales (n * 4 * p + (k * p + m) / 32)).toNat code
  else b.fmt.elem.decode code

/-- The integer weight at the same place. -/
def WBlock.int (b : WBlock) (k m n : Nat) : Int :=
  let w := b.fmt.width
  signedOf w ((Store.get (fun _ => 0) b.words (k * 128 + n)).toNat / 2 ^ (m * w) % 2 ^ w)

/-- Round a non-negative exact value to FP32 toward +infinity. -/
def f32Up (v : Val) : W32 :=
  match v with
  | .fin _ m e =>
    if m = 0 then 0
    else
      let q := f32Spec.lsb m e
      let (n0, inexact) := roundAt .rz 0 m e q false
      let n := if inexact then n0 + 1 else n0
      if n * 2 ^ (q - f32Spec.qmin).toNat > f32Spec.maxUnits then 0x7F800000
      else BitVec.ofNat 32 ((q - f32Spec.qmin).toNat * 2 ^ 23 + n)
  | .inf _ => 0x7F800000
  | .nan _ => 0x7FC00000

/-- |v|. -/
def valAbs : Val → Val
  | .fin _ m e => .fin false m e
  | .inf _ => .inf false
  | .nan s => .nan s

/-- The check weight c of a position: the exact column sum rounded once with RNE; NaN when a weight is NaN or infinite
or the sum overflows (R142). -/
def checkC (b : WBlock) (k m : Nat) : W32 :=
  let vs := (List.range 128).map (fun n => b.value k m n)
  if vs.any (fun v => v.isNaN || v.isInf) then 0x7FC00000
  else
    let sum := vs.foldl (fun a v => (a.add v).1) Val.zero
    let c := (toF32 .rne sum).1
    if (ofF32 c).isInf then 0x7FC00000 else c

/-- The check weight g: the sum of magnitudes rounded once toward +infinity (R142). -/
def checkG (b : WBlock) (k m : Nat) : W32 :=
  f32Up ((List.range 128).foldl (fun a n => (a.add (valAbs (b.value k m n))).1) Val.zero)

/-- The exact integer check weight, modulo 2^32 (R142). -/
def checkCInt (b : WBlock) (k m : Nat) : W32 :=
  (List.range 128).foldl (fun a n => a + BitVec.ofInt 32 (b.int k m n)) 0

/-- The code of the activation value at K index k * P + m of a stream row (R130, R131). -/
def actCode (s : State) (t : Tile) (j : StreamJob) (row k m : Nat) : Nat :=
  let p := packing j.weights.fmt
  let w := j.fmt.width
  let line := skewLine (s.repairRow t) row k
  s.vatBits t (8 * (j.base + line * lineBytes p w) + (k * p + m) * w) w

/-- Whether a stream row reads the vat word of a mark: the press reads only the words that R130 gives the row (R131). -/
def rowTouches (s : State) (t : Tile) (j : StreamJob) (row : Nat) (e : Nat × Nat) : Bool :=
  let p := packing j.weights.fmt
  let w := j.fmt.width
  (List.range 128).any (fun k =>
    let bit := 8 * (j.base + skewLine (s.repairRow t) row k * lineBytes p w) + k * p * w
    markTouched t (bit / 8) ((bit % 8 + p * w + 7) / 8) e)

/-- That activation's value with its row's MX scale (R132). -/
def actValue (s : State) (t : Tile) (j : StreamJob) (row k m : Nat) : Val :=
  let p := packing j.weights.fmt
  let code := actCode s t j row k m
  if j.fmt.isMx then
    mxValue j.fmt.elem (s.mem.read (vatAddr t (j.scaleOff + row * 4 * p + (k * p + m) / 32))).toNat code
  else j.fmt.elem.decode code

/-- The K positions of a block in ascending order: logical row and place in the word. -/
def kPositions (p : Nat) : List (Nat × Nat) := (List.range (128 * p)).map (fun i => (i / p, i % p))

/-- One column's sum: products formed exactly, added one at a time in ascending K order with RNE, from -0 (R58, R133). -/
def columnSum (acts : List Val) (wts : List Val) : W32 × Flags :=
  (acts.zip wts).foldl (fun a aw =>
    let (prod, f) := aw.1.mul aw.2
    let (v, g) := (ofF32 a.1).add prod
    let (w, h) := toF32 .rne v
    (w, a.2 ||| f ||| g ||| h)) (0x80000000, 0)

/-- The magnitude sum of the check column, every operation rounded toward +infinity (R143). -/
def magnitudeSum (acts gs : List Val) : W32 :=
  (acts.zip gs).foldl (fun a ag =>
    f32Up ((ofF32 a).add (ofF32 (f32Up ((valAbs ag.1).mul ag.2).1))).1) 0

/-- An integer column's sum modulo 2^32 (R48). -/
def columnSumInt (acts wts : List Int) : W32 :=
  (acts.zip wts).foldl (fun a aw => a + BitVec.ofInt 32 (aw.1 * aw.2)) 0

/-- What one stream row brings to the bank: 128 sums, the check sum and the magnitude sum (R133, R143). -/
structure RowSums where
  sums : List W32
  c : W32
  m : W32
  flags : Flags
  deriving DecidableEq, Repr

def rowSums (s : State) (t : Tile) (j : StreamJob) (row : Nat) : RowSums :=
  let ks := kPositions (packing j.weights.fmt)
  if j.fmt.isInt then
    let acts := ks.map (fun km => signedOf j.fmt.width (actCode s t j row km.1 km.2))
    { sums := (List.range 128).map (fun n => columnSumInt acts (ks.map (fun km => j.weights.int km.1 km.2 n)))
      c := columnSumInt acts (ks.map (fun km => (checkCInt j.weights km.1 km.2).toInt))
      m := 0
      flags := 0 }
  else
    let acts := ks.map (fun km => actValue s t j row km.1 km.2)
    let cols := (List.range 128).map (fun n => columnSum acts (ks.map (fun km => j.weights.value km.1 km.2 n)))
    { sums := cols.map Prod.fst
      c := (columnSum acts (ks.map (fun km => ofF32 (checkC j.weights km.1 km.2)))).1
      m := magnitudeSum acts (ks.map (fun km => ofF32 (checkG j.weights km.1 km.2)))
      flags := cols.foldl (fun a c => a ||| c.2) 0 }

/-- The values of a bank row. -/
def bankRow (x : TileState) (acc : Fin 4) (row : Nat) : List W32 :=
  (List.range 128).map (fun n => gridAt (x.readAcc acc) row n)

def checkAt (x : TileState) (acc : Fin 4) (row : Nat) : CheckEntry :=
  Store.get (fun _ => ⟨0, 0, 0⟩) x.check (acc.val * 128 + row)

/-- The bank row and its hidden entry after an update: MODE 0 writes, MODE 1 adds with RNE or modulo 2^32 (R94, R133,
R143). -/
def updateRow (j : StreamJob) (old : List W32) (e : CheckEntry) (r : RowSums) : List W32 × CheckEntry × Flags :=
  if !j.add then (r.sums, ⟨r.c, r.m, 1⟩, r.flags)
  else if j.fmt.isInt then
    ((old.zip r.sums).map (fun p => p.1 + p.2), ⟨e.c + r.c, 0, min (e.b + 1) (2 ^ 24 - 1)⟩, r.flags)
  else
    let vs := (old.zip r.sums).map (fun p => f32Add .rne p.1 p.2)
    (vs.map Prod.fst, ⟨(f32Add .rne e.c r.c).1, f32Up ((ofF32 e.m).add (ofF32 r.m)).1, min (e.b + 1) (2 ^ 24 - 1)⟩,
      vs.foldl (fun a v => a ||| v.2) r.flags)

/-- The outcome of the check of one update (R144, R145): not checked, agrees, or misses with CHECK_LAST.RATIO. -/
inductive CheckResult where
  | skipped
  | agrees
  | misses (ratio : Nat)
  deriving DecidableEq, Repr

/-- A finite FP32 value in units of 2^-149. -/
def f32Units (w : W32) : Int :=
  match ofF32 w with
  | .fin n m e => Val.units n m e (-149)
  | _ => 0

/-- R144, R145. Both sides are taken in units of 2^-173; P is that of the stream's weights. -/
def checkUpdate (j : StreamJob) (vals : List W32) (e : CheckEntry) : CheckResult :=
  if j.fmt.isInt then
    if e.c - vals.foldl (fun a v => a + v) 0 = 0 then .agrees else .misses 0
  else if (e.c :: e.m :: vals).any (fun v => (ofF32 v).isNaN || (ofF32 v).isInf) then .skipped
  else
    let p := packing j.weights.fmt
    let r := (f32Units e.c - vals.foldl (fun a v => a + f32Units v) 0).natAbs * 2 ^ 24
    let b := (256 * p + 2 * e.b + 2) * (f32Units e.m).natAbs + p * e.b * 2 ^ 38
    if r > b then .misses (min 255 (Nat.log2 (r / b))) else .agrees

/-- Record the check of one update (R145). -/
def recordCheck (s : State) (t : Tile) (j : StreamJob) (row : Nat) (c : CheckResult) : State :=
  match c with
  | .skipped => s.bump (.checkSkipped t) Fld.checkSkippedCount 1
  | .agrees => s.bump (.checkRows t) Fld.checkRowsCount 1
  | .misses ratio =>
    let s := s.bump (.checkRows t) Fld.checkRowsCount 1
    let s := s.bump (.checkMiss t) Fld.checkMissCount 1
    let s := s.setFld (.checkLast t) Fld.checkLastRow row
    let s := s.setFld (.checkLast t) Fld.checkLastAcc j.acc.val
    s.setFld (.checkLast t) Fld.checkLastRatio (if j.fmt.isInt then 0 else ratio)

/-! ### Energy (R152), in units of 1/400 pJ -/

def productEnergy : Fmt → Nat
  | .bf16 | .fp16 => 200
  | .e4m3 | .e5m2 => 108
  | .mx8a | .mx8b => 116
  | .mx6a | .mx6b => 104
  | .mx4 => 60
  | .int8 => 80
  | .int4 => 44
  | _ => 0

/-- Whether a product is gated: one operand zero, the other finite (R140). -/
def gated (a w : Val) : Bool :=
  (a.isZero && !(w.isNaN || w.isInf)) || (w.isZero && !(a.isNaN || a.isInf))

/-- The energy of one array step, its line reads and the bank update (R152); the check cells gate as the others do
(R140). The first row carries the 128 further lines of the stream (DEDUCED, log 172). -/
def rowEnergy (s : State) (t : Tile) (j : StreamJob) (row : Nat) : Nat :=
  let p := packing j.weights.fmt
  let cost := max (productEnergy j.weights.fmt) (productEnergy j.fmt)
  let g := (kPositions p).foldl (fun a km =>
    let v := if j.fmt.isInt then Val.ofInt (signedOf j.fmt.width (actCode s t j row km.1 km.2))
      else actValue s t j row km.1 km.2
    let c := if j.fmt.isInt then Val.ofInt (checkCInt j.weights km.1 km.2).toInt
      else ofF32 (checkC j.weights km.1 km.2)
    a + (List.range 128).countP (fun n => gated v (j.weights.value km.1 km.2 n)) + (if gated v c then 1 else 0)) 0
  let lines := if row = 0 then 129 else 1
  (16512 * p - g) * cost + g * (20 / p) + lines * lineBytes p j.fmt.width * 100 + 52000

/-! ### The press queue (R75, R125-R129, R133, R137) -/

/-- Tile cycles per step of the array (R122). -/
def StreamJob.q (j : StreamJob) : Nat := packing j.weights.fmt / min (packing j.weights.fmt) (packing j.fmt)

/-- Whether the rows of every stream have entered the array and, where a stream's Q is not `q`, have left it (R127,
R137). -/
def TileState.rowsPast (x : TileState) (q : Nat) : Bool :=
  x.press.all (fun k => decide (k.rows ≤ k.entered) && (decide (k.q = q) || decide (k.rows ≤ k.done)))

/-- Whether the engine of the oldest entry is free (R125): a load follows the load before it (R126), a swap the rows of
every earlier stream (R127), and a stream the rows of the stream before it (R137). -/
def TileState.canStart (x : TileState) : PressEntry → Bool
  | .wld _ _ _ => !x.loading
  | .wswap => x.rowsPast 1
  | .stream j => x.rowsPast { j with weights := x.active }.q

/-- A load begins: the block and its scales are read into the shadow block (R126, R129). An uncorrectable word halts the
tile (R189). -/
def startLoad (t : Tile) (f : Fmt) (base scaleOff : Nat) (s : State) : State :=
  let n := 2048 * packing f * f.width
  let k := if f.isMx then 512 * packing f else 0
  let b := readBlock s t f base scaleOff
  let (s, bad) := s.vatScan t base n
  let (s, bad2) := if f.isMx then s.vatScan t scaleOff k else (s, none)
  let s := (s.updTile t (fun y => { y with shadow := b, loading := true })).charge t ((n + k) * 100 + 4200000)
  match bad <|> bad2 with
  | some e => s.machineCheck t e
  | none => s

/-- What an entry does when it starts (R95, R126, R127, R133). -/
def startEntry (t : Tile) (s : State) : PressEntry → State
  | .wld f base scaleOff => startLoad t f base scaleOff s
  | .wswap => s.updTile t (fun y => { y with active := y.shadow, shadow := y.active })
  | .stream j => s.updTile t (fun y => { y with press := y.press ++ [{ j with weights := y.active }] })

/-- Start up to `n` entries of the press queue, in order (R125). A frozen press starts none (R138). -/
def startEntries (t : Tile) : Nat → State → State
  | 0, s => s
  | n + 1, s =>
    let x := s.tile t
    match x.pressQueue with
    | [] => s
    | e :: rest =>
      if !x.frozen && x.canStart e then
        startEntries t n (startEntry t (s.updTile t (fun y => { y with pressQueue := rest })) e)
      else s

/-- Start the entries of the press queue that can start. -/
def pumpPress (t : Tile) (s : State) : State := startEntries t (s.tile t).pressQueue.length s

/-- The formats of the active and the shadow block once the waiting entries have started. -/
def formatsAfter : List PressEntry → Fmt × Fmt → Fmt × Fmt
  | [], fs => fs
  | .wld f _ _ :: rest, fs => formatsAfter rest (fs.1, f)
  | .wswap :: rest, fs => formatsAfter rest (fs.2, fs.1)
  | .stream _ :: rest, fs => formatsAfter rest fs

/-- The format of the weights that are active, in program order, for an instruction that issues now. -/
def TileState.issueFmt (x : TileState) : Fmt := (formatsAfter x.pressQueue (x.active.fmt, x.shadow.fmt)).1

/-! ### WLD, WSWAP, STREAM -/

def pressIssue (op : Nat) (w : PWord) (u : PUse) (x : TileState) (tags : List Nat) (exc : Option (Nat × W64)) : Issue :=
  { legal := w.legal u, word := w.word 3 op, size := w.size, tags := tags, grant := true,
    full := decide (x.pressQueue.length ≥ 8), exc := exc }

/-- A press instruction issues: its tags become busy (R76), its entry joins the press queue, and what can start does. -/
def enterPress (t : Tile) (i : Issue) (tags : List Nat) (e : PressEntry) (s : State) : State :=
  let s' := s.issue t i (fun s' =>
    tags.foldl (fun s k => s.busyTag t k) (s'.updTile t (fun y => { y with pressQueue := y.pressQueue ++ [e] })))
  if s.attempt t i = .issues then pumpPress t s' else s'

def pressAddr (w : PWord) (x : TileState) : W64 := x.readA w.aa.toFin

/-- VAT_RANGE for an operand or scale array that starts outside the vat (R91, R93). -/
def startRange (off scale : W64) : Option (Nat × W64) :=
  if off.toNat ≥ vatSize then some (4, off) else if scale.toNat ≥ vatSize then some (4, scale) else none

/-- The tags that an instruction waits for under STRICT.CHECK, which overlaps no load with a stream and no two streams
(R112). -/
def strictTags (s : State) (t : Tile) (tags : List Nat) : List Nat :=
  if s.flag (.strict t) Fld.strictCheck then tags else []

/-- R91, R126, R129 wld: SHADOW is busy until no load is in progress or waits. -/
def execWld (t : Tile) (w : PWord) (s : State) : Host.Outcome State Fault Refusal :=
  let x := s.tile t
  let a := pressAddr w x
  let f := (Fmt.ofCode w.fmt.toNat).getD .bf16
  let i := pressIssue 0x00 w { fmt := true, aa := true } x (strictTags s t [tagPress]) (startRange a (if w.x then w.ext else 0))
  .next (enterPress t i [tagShadow] (.wld f a.toNat w.ext.toNat) s)

/-- R126: the load in progress ends; a waiting load may begin. SHADOW clears when none follows. A frozen press advances no
load (R138). -/
def doWldLoadEnd (t : Tile) (s : State) : State :=
  if s.clocksStopped || (s.tile t).frozen || !(s.tile t).loading then s
  else
    let s := pumpPress t (s.updTile t (fun x => { x with loading := false }))
    if (s.tile t).loads then s else s.clearTag t tagShadow

def execWldLoadEnd (t : Tile) (s : State) : Host.Outcome State Fault Refusal := .next (doWldLoadEnd t s)

/-- R91, R95, R127, R128 wswap: the blocks change places behind the rows of every earlier stream; it waits to issue while
SHADOW is busy (R77). -/
def execWswap (t : Tile) (w : PWord) (s : State) : Host.Outcome State Fault Refusal :=
  .next (enterPress t (pressIssue 0x01 w {} (s.tile t) [tagShadow] none) [] .wswap s)

/-- The conditions of R93 and R146 on a STREAM's operands, the lowest code first. -/
def streamExc (s : State) (t : Tile) (w : PWord) : Option (Nat × W64) :=
  let x := s.tile t
  let n := x.readS w.sb.toFin
  let strict := s.flag (.strict t) Fld.strictCheck
  let f := (Fmt.ofCode w.fmt.toNat).getD .bf16
  if n.toNat = 0 ∨ n.toNat > 2 ^ 24 then some (3, n)
  else if n.toNat > 128 ∧ (w.mode || !w.fin || strict) then some (3, n)
  else if f.isInt ≠ x.issueFmt.isInt then some (3, w.word 3 0x02)
  else startRange (pressAddr w x) (if w.x then w.ext else 0)

/-- The stream that a STREAM asks for. -/
def streamJob (s : State) (t : Tile) (w : PWord) : StreamJob :=
  let x := s.tile t
  { acc := w.acc.toFin, fmt := (Fmt.ofCode w.fmt.toNat).getD .bf16, base := (pressAddr w x).toNat, scaleOff := w.ext.toNat,
    rows := (x.readS w.sb.toFin).toNat, add := w.mode, fin := w.fin, weights := WBlock.zero, done := 0,
    strict := s.flag (.strict t) Fld.strictCheck, staged := [], missed := none, pc := s.pc t }

/-- R91, R93, R94, R112 stream: ACC and PRESS are busy. With STRICT.CHECK = 1 the instruction holds issue, and SEQ_PC stays
on it, until its last row's check. -/
def execStream (t : Tile) (w : PWord) (s : State) : Host.Outcome State Fault Refusal :=
  let u : PUse := { acc := true, fmt := true, aa := true, sb := true, mode := true, fin := true }
  let j := streamJob s t w
  let i := pressIssue 0x02 w u (s.tile t) (strictTags s t [tagShadow, tagPress]) (streamExc s t w)
  let s' := enterPress t i [tagAcc j.acc, tagPress] (.stream j) s
  .next (if j.strict && decide (s.attempt t i = .issues) then
      (s'.setReg (.seqPc t) (s.pc t)).updTile t (fun y => { y with hold := some (s.pc t), loops := (s.tile t).loops })
    else s')

/-! ### Row completion -/

/-- The finished tile that stream rows 32q to 32q + n - 1 form, taken from their bank rows (R94). -/
def finishedRows (x : TileState) (acc : Fin 4) (q n : Nat) : Grid :=
  gridTab 32 (fun r c => if r < n then gridAt (x.readAcc acc) ((32 * q + r) % 128) c else 0)

/-- Set the bank rows of a finished tile to +0 and clear their hidden entries (R94, R143). -/
def clearBankRows (x : TileState) (acc : Fin 4) (q n : Nat) : TileState :=
  let inTile (row : Nat) : Bool := (List.range n).any (fun r => (32 * q + r) % 128 = row)
  let g := (x.readAcc acc).filter (fun e => !inTile (e.1 / 128))
  let c := x.check.filter (fun e => !(decide (e.1 / 128 = acc.val) && inTile (e.1 % 128)))
  { x.writeAcc acc g with check := c }

/-- Write a bank row and its hidden entry. -/
def writeBankRow (x : TileState) (acc : Fin 4) (row : Nat) (vals : List W32) (e : CheckEntry) : TileState :=
  let old := (x.readAcc acc).filter (fun p => p.1 / 128 ≠ row)
  let new := vals.zipIdx.filterMap (fun p => if p.1 = 0 then none else some (row * 128 + p.2, p.1))
  let g := old.filter (fun p => p.1 / 128 < row) ++ new ++ old.filter (fun p => p.1 / 128 > row)
  { x.writeAcc acc g with check := Store.set id x.check (acc.val * 128 + row) e }

/-- A finished tile enters the next couch slot, whose tag clears (R94, R134). -/
def pushCouch (s : State) (t : Tile) (g : Grid) : State :=
  let k := (s.tile t).couchNext
  (s.updTile t (fun x => { x with couch := x.couch ++ [⟨k, g⟩], couchNext := (k + 1) % 4 })).clearTag t (tagCouch k)

/-- Stream row `row` of a FIN stream completes a finished tile: the last of 32 consecutive rows, or the last row of a stream
that runs to completion (R94, R139). -/
def completesTile (j : StreamJob) (row : Nat) : Bool := j.fin && (row % 32 = 31 || (row + 1 = j.rows && !j.cut))

/-- Whether the press must freeze: the row would form a finished tile and all four slots hold tiles, on a tile that is
not halting (R138, R139). -/
def mustFreeze (x : TileState) (j : StreamJob) (row : Nat) : Bool :=
  !j.strict && completesTile j row && decide (x.couch.length ≥ 4) && x.halting.isNone

/-- Let the finished tile of a row leave the bank: into the couch queue, or discarded when a halting tile finds the
queue full (R94, R139). -/
def leaveBank (s : State) (t : Tile) (j : StreamJob) (row : Nat) : State :=
  if completesTile j row then
    let q := row / 32
    let n := row % 32 + 1
    let x := s.tile t
    let g := finishedRows x j.acc q n
    let s := s.setTile t (clearBankRows x j.acc q n)
    if x.couch.length ≥ 4 then s else pushCouch s t g
  else s

/-- Change the oldest stream of the press. -/
def State.updStream (s : State) (t : Tile) (f : StreamJob → StreamJob) : State :=
  s.updTile t (fun x => { x with press := match x.press with
    | [] => []
    | j :: rest => f j :: rest })

/-- The oldest stream has ended: it leaves the press, and its tags clear (R135). -/
def finishStream (s : State) (t : Tile) : State :=
  (s.updTile t (fun x => { x with press := x.press.tail })).settlePress t

/-- The finished tiles of a strict stream; one that a halt cut short forms none of a group of rows that it left incomplete (R139). -/
def strictTiles (j : StreamJob) : Nat := if j.fin then (if j.cut then j.rows / 32 else (j.rows + 31) / 32) else 0

/-- The last `n` finished tiles of a strict stream whose updates are in the bank leave for the couch queue one by one; the
press freezes while all four slots hold tiles, on a tile that is not halting (R138, R139, R146). -/
def flushTiles (t : Tile) : Nat → State → State
  | 0, s => finishStream s t
  | n + 1, s =>
    let x := s.tile t
    if decide (x.couch.length ≥ 4) && x.halting.isNone then s.updTile t (fun y => { y with frozen := true })
    else
      match x.press with
      | [] => s
      | j :: _ =>
        flushTiles t n ((leaveBank s t j (min (32 * j.tilesOut + 31) (j.rows - 1))).updStream t
          (fun k => { k with tilesOut := k.tilesOut + 1 }))

/-- The check of a strict stream's last row is decided (R112, R146). With no miss issue continues after the STREAM, a stop
that waits stops there (R115), and flags, bank rows and tiles are written, of a stream that a halt cut short those of the rows that
had entered (R139); otherwise they are discarded, and a miss raises CHECK_MISS, unless a halt already waits (DESIGN CHOICE, log
229). -/
def finishStrict (t : Tile) (j : StreamJob) (s : State) : State :=
  let s := s.updTile t (fun x => { x with hold := none })
  match j.missed with
    | some r =>
      let s := finishStream s t
      if (s.tile t).halting.isSome then s else s.raiseAt t j.pc 0x0A (BitVec.ofNat 64 r)
    | none =>
      let s := s.advance t (j.pc + (if j.fmt.isMx then 16 else 8))
      let next := s.pc t
      let s := s.updTile t (fun x => { x with halting := x.halting.map (fun h => { h with pc := next }) })
      let s := j.staged.foldl (fun s r => s.updTile t (fun x => writeBankRow x j.acc (r.row % 128) r.values r.check))
        (s.setFlags t j.flags)
      flushTiles t (strictTiles j) (s.updStream t (fun k => { k with staged := [] }))

/-- The bank row and hidden entry that the update of a row starts from: those a strict stream has staged, or the bank's. -/
def priorRow (x : TileState) (j : StreamJob) (row : Nat) : List W32 × CheckEntry :=
  match j.staged.find? (fun k => k.row % 128 = row % 128) with
  | some k => (k.values, k.check)
  | none => (bankRow x j.acc (row % 128), checkAt x j.acc (row % 128))

/-- A row of the oldest stream leaves the array: its sums update the bank row, or are staged, the update is checked, and a
completed tile leaves for the couch queue (R94, R133-R135, R143-R146). -/
def rowLeaves (t : Tile) (j : StreamJob) (r : RowSums) (s : State) : State :=
  let row := j.done
  let s := (s.charge t (rowEnergy s t j row)).bump (.pressSteps t) Fld.pressStepsCount 1
  let old := priorRow (s.tile t) j row
  let (vals, e, fl) := updateRow j old.1 old.2 r
  let res := checkUpdate j vals e
  let s := recordCheck s t j row res
  let last := decide (row + 1 = j.rows)
  if j.strict then
    let missed := match j.missed, res with
      | some r, _ => some r
      | none, .misses _ => some row
      | none, _ => none
    let j := { j with
      done := row + 1, staged := j.staged ++ [⟨row, vals, e⟩], missed := missed, flags := j.flags ||| fl }
    let s := s.updStream t (fun _ => j)
    if last then finishStrict t j s else s
  else
    let s := (s.setFlags t fl).updTile t (fun y => writeBankRow y j.acc (row % 128) vals e)
    let s := (leaveBank s t j row).updStream t (fun k => { k with done := row + 1 })
    if last then finishStream s t else s

/-- A row that read an uncorrectable word halts the tile with kind MACHINE_CHECK and updates nothing: what a stream leaves
behind a MACHINE_CHECK is not guaranteed (R115, R189). -/
def rowLost (t : Tile) (off : Nat) (s : State) : State :=
  let s := (s.updStream t (fun j => { j with cut := true })).machineCheck t off
  match (s.tile t).press with
  | [] => s
  | j :: _ =>
    let s := s.updStream t (fun k => { k with done := k.done + 1 })
    if j.done + 1 ≥ j.rows then finishStream s t else s

/-- The next row of the oldest stream leaves the array (R134); a row that would form a finished tile waits while the couch
queue is full (R138). Entries of the press queue that it held back then start. -/
def doStreamRowComplete (t : Tile) (s : State) : State :=
  let x := s.tile t
  if s.clocksStopped || x.inReset || x.frozen then s
  else match x.press with
    | [] => s
    | j :: _ =>
      if j.done ≥ j.rows then
        pumpPress t (if j.staged.isEmpty then flushTiles t (strictTiles j - j.tilesOut) s else finishStrict t j s)
      else if mustFreeze x j j.done then s.updTile t (fun y => { y with frozen := true })
      else
        let s := (s.updStream t (fun k => { k with entered := max k.entered (k.done + 1) })).updTile t
          (fun y => { y with inArray := true, gap := if j.entered < j.done + 1 then 0 else y.gap })
        let p := packing j.weights.fmt
        let (s0, bad) := s.vatReadMarks t (s.wordMarks (rowTouches s t j j.done))
        let (s0, bad2) := if j.fmt.isMx then s0.vatScan t (j.scaleOff + j.done * 4 * p) (4 * p) else (s0, none)
        pumpPress t (match bad <|> bad2 with
          | some e => rowLost t e s0
          | none => rowLeaves t j (rowSums s t j j.done) s0)

def execStreamRowComplete (t : Tile) (s : State) : Host.Outcome State Fault Refusal := .next (doStreamRowComplete t s)

/-- R138: the press resumes once a CPOP has emptied a slot. -/
def doPressResume (t : Tile) (s : State) : State :=
  if (s.tile t).frozen && decide ((s.tile t).couch.length < 4) then
    pumpPress t (s.updTile t (fun x => { x with frozen := false }))
  else s

def execPressResume (t : Tile) (s : State) : Host.Outcome State Fault Refusal := .next (doPressResume t s)

/-- The rows that enter the array in `k` cycles of a press that is not frozen (R122, R133). -/
def enterRows (k : Nat) : List StreamJob → List StreamJob
  | [] => []
  | j :: rest =>
    if j.entered < j.rows then
      { j with entered := min j.rows (j.entered + (j.phase + k) / j.q), phase := (j.phase + k) % j.q } :: rest
    else j :: enterRows k rest

/-- `k` cycles in which no row enters an array that holds rows: its steps count until the last row has left (R154). -/
def State.gapCycles (s : State) (t : Tile) (k : Nat) : State :=
  let x := s.tile t
  match x.press with
  | [] => s
  | j :: rest =>
    let gap := min (s.arrayDepth t) (x.gap + (j.phase + k) / j.q)
    (s.updTile t (fun y => { y with press := { j with phase := (j.phase + k) % j.q } :: rest, gap := gap })).bump (.pressSteps t)
      Fld.pressStepsCount (gap - x.gap)

/-- `k` cycles of a press: rows enter, or a frozen press counts its stalls (R133, R138). -/
def State.pressCycles (s : State) (t : Tile) (k : Nat) : State :=
  let x := s.tile t
  if x.frozen then s.bump (.pressStalls t) Fld.pressStallsCount k
  else if x.press.isEmpty then s
  else if x.press.any (fun j => decide (j.entered < j.rows)) then
    pumpPress t (s.updTile t (fun y => { y with
      press := enterRows k y.press, gap := 0, inArray := y.inArray || decide (0 < k) }))
  else pumpPress t (if x.inArray then s.gapCycles t k else s)

end Sys2Proof.Machine
end

