-- ==== Sys2Proof/Machine/Sync.lean ====
section
/-! DEFINITION. The synchronization instructions (R100-R106), POST (R107, R108), and how a tile halts, stops and resumes
(R113-R119). -/

namespace Sys2Proof.Machine

def syncIssue (op : Nat) (w : RWord) (u : RUse) : Issue :=
  { legal := w.legal u, word := w.word 5 op, size := w.size }

/-! ### Waiting on tags -/

/-- What SBWAIT raises for a marked tag (R101, R110). -/
def markCause (s : State) (t : Tile) (i : Nat) : Nat × W64 :=
  let x := s.tile t
  if i < 56 then (6, BitVec.ofNat 64 (i - 16 + Store.get (fun _ => 0) x.dmaStatus (i - 16) * 2 ^ 8))
  else if i < 60 then (7, BitVec.ofNat 64 (i - 56 + Store.get (fun _ => 0) x.postStatus (i - 56) * 2 ^ 8))
  else (0x0C, BitVec.ofNat 64 (x.barrierGroup + x.barrierState * 2 ^ 8))

/-- R100, R101 sbwait: waits until every masked tag is clear, then reports the lowest marked one and clears its mark. -/
def execSbwait (t : Tile) (w : RWord) (s : State) : Host.Outcome State Fault Refusal :=
  let mask := w.ext
  let busy := s.reg (.scoreboard t) &&& mask
  let hit := lowestTag (s.reg (.tagError t) &&& mask)
  let i := { syncIssue 0x00 w { ext := .required } with full := decide (busy ≠ 0), exc := hit.map (markCause s t) }
  match s.attempt t i, hit with
  | .raises c _, some k =>
    if c ≥ 6 then .next ((s.issue t i id).clearMark t k) else .next (s.issue t i id)
  | _, _ => .next (s.issue t i id)

/-- TENSE_UNLOCKED with TENSE_NOW (R102, R106). -/
def unlockedExc (s : State) : Option (Nat × W64) :=
  if s.tenseLocked then none else some (8, BitVec.ofNat 64 s.tenseNow)

/-- R100, R102 twait. -/
def execTwait (t : Tile) (w : RWord) (s : State) : Host.Outcome State Fault Refusal :=
  let v := ((s.tile t).readS w.sa).toNat
  let i := { syncIssue 0x01 w { d := true, a := true } with
    full := s.tenseLocked && decide (s.tenseNow < v), exc := unlockedExc s }
  .next (s.issue t i (fun s' => s'.updTile t (fun x => x.writeS w.sd (BitVec.ofNat 64 (s.tenseNow - v)))))

/-- R100, R103, R353 barr. -/
def execBarr (t : Tile) (w : RWord) (s : State) : Host.Outcome State Fault Refusal :=
  let g : Coll := Fin.ofNat 64 w.imm.toNat
  let i := { syncIssue 0x02 w { imm := 0x3F } with
    tags := [tagBarrier]
    exc := if s.collRuns g && s.inTileSet g t then none else some (3, w.word 5 0x02) }
  .next (s.issue t i (fun s' =>
    let s' := (s'.updTile t (fun x => { x with barrierGroup := g.val })).busyTag t tagBarrier
    let s' := s'.updGroup g (fun v =>
      if v.exchange then { v with tilesNext := v.tilesNext ++ [t] } else { v with tilesNow := v.tilesNow ++ [t] })
    s'.noteReady g))

/-! ### Energy sections -/

/-- A value that EGRANT refuses (R104). -/
def badEstimate (v : W64) : Bool := decide (v.toNat ≥ 2 ^ 40 - 1)

/-- R100, R104 egrant. ENERGY_GRANT brings the grant. -/
def execEgrant (t : Tile) (w : RWord) (s : State) : Host.Outcome State Fault Refusal :=
  let x := s.tile t
  let a := x.readS w.sa
  let b := x.readS w.sb
  let lowA := decide (w.sa.val ≤ w.sb.val)
  let exc : Option (Nat × W64) :=
    if badEstimate a && (lowA || !badEstimate b) then some (3, a)
    else if badEstimate b then some (3, b) else none
  let i := { syncIssue 0x03 w { a := true, b := true } with exc := exc }
  .next (s.issue t i (fun s' => s'.openSection t a.toNat b.toNat))

/-- R100, R104, R432 eend. -/
def execEend (t : Tile) (w : RWord) (s : State) : Host.Outcome State Fault Refusal :=
  .next (s.issue t (syncIssue 0x04 w {}) (fun s' => s'.closeSection t))

/-! ### Fences -/

/-- Whether a transfer writes the tile's own vat, which is all that tile scope waits for (R277). -/
def Xfer.ownVat (x : Xfer) (t : Tile) : Bool :=
  match vatOf x.dst.addr with
  | some (die, off) => die = (tileFolio t).val && off / vatSize = tileNum t
  | none => x.desc.skew

/-- Whether a write that the tile issued has not reached the point of a scope (R105, R277). A queued descriptor counts at
every scope: its destination is not known yet. -/
def State.writesPending (s : State) (t : Tile) (scope : Nat) : Bool :=
  let x := s.tile t
  x.infl.any (fun o => o.storesVat) || !x.dmaQueue.isEmpty
    || x.xfers.any (fun k => decide (scope ≠ 0) || k.ownVat t)

/-- R100, R105 fence. -/
def execFence (t : Tile) (w : RWord) (s : State) : Host.Outcome State Fault Refusal :=
  .next (s.issue t { syncIssue 0x05 w { m := 3 } with full := s.writesPending t (w.m.toNat % 4) } id)

/-- Whether a write of the tile has not left it: a descriptor that has not started, a transfer that has more to issue, or a
write's cells that have not passed the felt endpoint (R106, R279). -/
def State.writesUnsent (s : State) (t : Tile) : Bool :=
  let x := s.tile t
  let d := folioDie (tileFolio t)
  let mine (e : MeshCell) : Bool := decide (e.folio = tileFolio t) && decide (e.src = tileNode t)
    && ((s.txnOf d e.cell).map Txn.writes).getD false
  x.infl.any (fun o => o.storesVat) || !x.dmaQueue.isEmpty
    || x.xfers.any (fun k => !(k.finished || (k.asked && k.loaded.isSome && (k.past 0).finished)))
    || s.net.outbox.any mine || s.net.meshes.any mine || s.net.arrived.any mine

/-- R100, R106, R282 tfence: the earlier writes have left, and the bound of the scope has passed since the last. -/
def execTfence (t : Tile) (w : RWord) (s : State) : Host.Outcome State Fault Refusal :=
  let waits := s.writesUnsent t
    || decide (s.tenseNow < (s.tile t).lastDepart + s.boundNs (w.m.toNat % 4))
  .next (s.issue t { syncIssue 0x06 w { m := 3 } with full := s.tenseLocked && waits, exc := unlockedExc s } id)

/-! ### POST -/

/-- R107, R108 post: 128 bytes of the vat become the newest entry of the group's queue. -/
def execPost (t : Tile) (w : RWord) (s : State) : Host.Outcome State Fault Refusal :=
  let g : Coll := Fin.ofNat 64 w.imm.toNat
  let tag : Fin 4 := Fin.ofNat 4 (w.imm.toNat / 256)
  let x := s.tile t
  let off := x.readA w.aa
  let exc : Option (Nat × W64) :=
    if s.collState g = 0 then some (3, w.word 6 0x00)
    else if off.toNat % 64 ≠ 0 ∨ off.toNat ≥ vatSize then some (4, off) else none
  let i : Issue :=
    { legal := w.legal { a := true, aA := true, imm := 0x33F }, word := w.word 6 0x00, size := w.size,
      tags := [tagPost tag], full := exc.isNone && decide ((s.group g).queue.length ≥ 16), grant := true, exc := exc }
  if s.attempt t i = .issues then
    match s.vatScan t off.toNat 128 with
    | (s1, some e) => .next (s1.machineCheck t e)
    | (s1, none) =>
      let words := (List.range 16).map (fun k => BitVec.ofNat 64 (s.vatReadLe t (off.toNat + 8 * k) 8))
      let after := x.dmaQueue.map (fun d => d.tag) ++ x.xfers.map (fun d => d.tag)
      .next (s1.issue t i (fun s' =>
        ((s'.updGroup g (fun v => { v with queue := v.queue ++ [⟨words, t, tag, after, false, false, 0, false, 0⟩] })).countQueued
          g).busyTag t (tagPost tag)))
  else .next (s.issue t i id)

/-! ### Halting -/

/-- The tile leaves the launch that dispatched it (R457). -/
def State.leaveLaunch (s : State) (t : Tile) (bad : Bool) : State :=
  let l := (s.tile t).launch
  let s := s.updTile t (fun x => { x with launch := none, share := 0 })
  { s with host := { s.host with launches := s.host.launches.map (fun k =>
      if l = some k.id then
        { k with running := k.running.filter (fun u => u ≠ t), bad := if bad then k.bad ++ [t] else k.bad }
      else k) } }

/-- The 32-byte halt record of R114. -/
def haltRecord (s : State) (t : Tile) (h : Halting) : List Byte :=
  leBytes 2 t.val ++ leBytes 1 h.kind ++ leBytes 1 h.cause ++ leBytes 4 h.code.toNat ++ leBytes 8 h.pc.toNat
    ++ leBytes 8 h.info.toNat ++ leBytes 8 s.tenseNow

/-- Whether the tile's outstanding DMA, press and inflection operations have completed (R113). -/
def TileState.quiet (x : TileState) : Bool :=
  x.press.isEmpty && x.pressQueue.isEmpty && !x.loading && x.infl.isEmpty && x.dmaQueue.isEmpty && x.xfers.isEmpty

/-- Complete a halt (R81, R113-R115): once the outstanding operations have completed, the section closes, RUN clears, and
the halt record is written. -/
def doTileHalt (t : Tile) (s : State) : State :=
  match (s.tile t).halting with
  | none => s
  | some h =>
    if (s.tile t).quiet then
      let s := s.closeSection t
      let s := s.setFlag (.seqCtl t) Fld.seqCtlRun false
      let s := s.setFld (.seqCtl t) Fld.seqCtlHaltKind h.kind
      let s := if h.kind = 1 then s.setReg (.haltCode t) (h.code.setWidth 64) else s
      let s := s.updTile t (fun x => { x with halting := none, hold := none, cpopWait := false })
      let s := s.leaveLaunch t (decide (h.kind ≠ 1))
      s.postEvent (tileFolio t) 1 t.val (haltRecord s t h)
    else s

/-- A write of 1 to SEQ_CTL.STOP: a STOPPED halt (R115, R117). It also ends the wait of a HALT. -/
def State.stopTile (s : State) (t : Tile) : State :=
  if s.flag (.seqCtl t) Fld.seqCtlRun then
    match (s.tile t).halting with
    | none => s.requestHalt t ⟨3, 0, 0, s.pc t, 0⟩
    | some h => if h.kind = 1 then s.requestHalt t ⟨3, 0, 0, h.pc, 0⟩ else s
  else s

/-- A write of 1 to SEQ_CTL.START (R119): the tile resumes at SEQ_PC, or the write is ignored and `refuse` records it, where
HALT_KIND is not 1 to 3, whatever RUN is, or a dispatch to the tile has begun. -/
def State.startTile (s : State) (t : Tile) (refuse : State → State) : State :=
  let k := s.fld (.seqCtl t) Fld.seqCtlHaltKind
  if k < 1 ∨ 3 < k ∨ 0 < (s.tile t).dispatching then refuse s
  else if s.flag (.seqCtl t) Fld.seqCtlRun then s
  else (s.setFlag (.seqCtl t) Fld.seqCtlRun true).need (.tile t)

/-- R113. -/
def execTileHalt (t : Tile) (s : State) : Host.Outcome State Fault Refusal := .next (doTileHalt t s)

end Sys2Proof.Machine
end

