-- ==== Sys2Proof/Machine/Energy.lean ====
section
/-! DEFINITION. The energy account at work: windows (R420-R422, R428), grants (R425), the slew limit (R431), pulp (R432),
the exchange forecast (R433), operating points (R419), calibration and the cap loop (R429), and the sensors (R436-R440). -/

namespace Sys2Proof.Machine

/-! ### Windows -/

/-- The fixed reserves of R420 in uW. -/
def reservesUw : Nat := 1212800000

def weightOf (s : State) (f : Folio) : Nat := bitsOf (s.reg .energyCap).toNat (4 * f.val + 35) (4 * f.val + 32)

/-- A folio that takes part in the division of R422: what it wants, its weight, and what it has been given. -/
structure FolioWant where
  folio : Folio
  want : Nat
  weight : Nat
  given : Nat
  deriving DecidableEq, Repr

/-- One pass of the division of R422: what is left goes by weight to the folios whose want is not met, at most what each
still wants. -/
def allocPass (pool : Nat) (shares : List FolioWant) : List FolioWant :=
  let left := pool - (shares.map FolioWant.given).foldl (· + ·) 0
  let wsum := ((shares.filter (fun e => decide (e.given < e.want))).map FolioWant.weight).foldl (· + ·) 0
  shares.map (fun e =>
    if e.given < e.want then { e with given := e.given + min (left * e.weight / max wsum 1) (e.want - e.given) } else e)

def allocPasses (pool : Nat) : Nat → List FolioWant → List FolioWant
  | 0, shares => shares
  | n + 1, shares => allocPasses pool n (allocPass pool shares)

/-- R422: eight passes, then what is left by weight. The value for every folio. -/
def allocate (pool : Nat) (want weight : Folio → Nat) : List (Folio × Nat) :=
  let shares := allocPasses pool 8 ((List.finRange 8).map (fun f => ⟨f, want f, weight f, 0⟩))
  let left := pool - (shares.map FolioWant.given).foldl (· + ·) 0
  let wall := (shares.map FolioWant.weight).foldl (· + ·) 0
  shares.map (fun e => (e.folio, e.given + left * e.weight / max wall 1))

/-- The overrun rule at the end of a window (R428). A section that still awaits its grant starts its part of the next window. -/
def State.overrun (s : State) (t : Tile) : State :=
  match (s.tile t).energySection with
  | some c =>
    match c.fraction with
    | some g =>
      let allow := s.allowance t c g
      let used := c.used
      let beyond := s.overAllowance t c
      let s := s.updTile t (fun x => { x with
        energySection := x.energySection.map (fun d => { d with metered := 0, since := s.now }) })
      if beyond then
        let s := s.bump (.folioCal (tileFolio t)) Fld.folioCalOverruns 1
        if s.flag .energyCtl Fld.energyCtlMeterEnforce then
          s.updTile t (fun x => { x with
            energySection := x.energySection.map (fun d => { d with limit := some (max 1 (g * allow / max used 1)) }) })
        else s
      else s
    | none => s.updTile t (fun x => { x with
        energySection := x.energySection.map (fun d => { d with metered := 0, since := s.now }) })
  | none => s

/-- The power in uW of an energy in 1/400 pJ over a time in ns. -/
def powerUw (e ns : Nat) : Nat := e * 1000 / (400 * max ns 1)

/-- The boundary fraction (R425): of the demand and the pulp at its full power, which counts against avail like a grant (R432). -/
def State.boundaryFraction (s : State) (f : Folio) : Nat :=
  let all := s.demand f + ((folioTiles f).map (fun t => match (s.tile t).pulp with
    | some p => p.now s.now
    | none => 0)).foldl (· + ·) 0
  if all ≤ s.avail f then 256 else max 1 (256 * s.avail f / max all 1)

/-- The boundary fractions of a folio (R425): every granted section with a request moves to one fraction. -/
def State.rescale (s : State) (f : Folio) : State :=
  let s := s.markPower f
  let dem := s.demand f
  let av := s.avail f
  let g := s.boundaryFraction f
  let s := s.setFld (.folioGrant f) Fld.folioGrantFraction g
  let s := s.setFld (.folioGrant f) Fld.folioGrantDemandDw (dem / 100000 % 2 ^ 20)
  let s := s.setFld (.folioGrant f) Fld.folioGrantAvailDw (av / 100000 % 2 ^ 20)
  let held := (folioTiles f).filter (fun t => (s.tile t).holds
    && ((s.tile t).energySection.any (fun c => decide (c.reqNJ ≠ 0))))
  let s := held.foldl (fun s t => s.updTile t (fun x => { x with target := g })) s
  let s := if g < 256 then held.foldl (fun s t => s.noteReduced t (decide (dem ≤ s.spare f))) s else s
  s.slewStep f

/-- Whether window n lies wholly inside a planned exchange (R433). -/
def State.forecastWindow (s : State) (n : Nat) : Bool :=
  let start := (s.reg .exchPlanStart).toNat
  let len := 1000 * s.fld .exchPlanShape Fld.exchPlanShapeLengthUs
  let period := 1000 * s.fld .exchPlanShape Fld.exchPlanShapePeriodUs
  let a := n * 50000
  if start = 0 ∨ a < start then false
  else
    let d := if period = 0 then a - start else (a - start) % period
    decide (d + 50000 ≤ len)

/-- The length of the run of forecast windows from window n, counted up to `k` windows. -/
def State.forecastRun (s : State) (n : Nat) : Nat → Nat
  | 0 => 0
  | k + 1 => if s.forecastWindow n then s.forecastRun (n + 1) k + 1 else 0

/-- The first window at or after n that is forecast. The place of a window in its period repeats after at most 50 periods, since
periods are whole us and windows 50 us. -/
def State.nextForecast (s : State) (n : Nat) : Option Nat :=
  let start := (s.reg .exchPlanStart).toNat
  let period := 1000 * s.fld .exchPlanShape Fld.exchPlanShapePeriodUs
  let up (t : Nat) := (t + 49999) / 50000
  let k := if period = 0 then 0 else (n * 50000 - start) / period
  (n :: up start :: (List.range 52).map (fun i => up (start + (k + i) * period))).find? (fun w =>
    decide (n ≤ w) && s.forecastWindow w)

/-- The most windows of a run: those of one exchange, or as many as RUN_WIN counts where one exchange follows on another. -/
def State.forecastMost (s : State) : Nat :=
  let len := s.fld .exchPlanShape Fld.exchPlanShapeLengthUs
  if s.fld .exchPlanShape Fld.exchPlanShapePeriodUs = len then 2 ^ 16 - 1 else min (2 ^ 16 - 1) (len / 50 + 1)

/-- EXCH_FORECAST (R433, R445). -/
def State.setForecast (s : State) (n : Nat) : State :=
  match s.nextForecast n with
  | none =>
    (s.setFld .exchForecast Fld.exchForecastNextWin 0).setFld .exchForecast Fld.exchForecastRunWin 0
  | some w =>
    (s.setFld .exchForecast Fld.exchForecastNextWin (w % 2 ^ 32)).setFld .exchForecast Fld.exchForecastRunWin
      (s.forecastRun w s.forecastMost)

/-- Bring the meter of u up to now (R429). -/
def State.settleLoads (s : State) : State :=
  s.updEnergy (fun e => { e with
    loadUse := (List.finRange 8).map (fun f =>
      (f, Store.get (fun _ => 0) e.loadUse f + Store.get (fun _ => 0) e.loads f * (s.now - e.loadAt)))
    loadAt := s.now })

/-- R272, R420-R422, R425, R428, R433 at a window boundary. `loads` is what each folio's meters read outside tile
sections and pulp over the window, in 0.1 W (R421), beside the loads that the spec prices or names: ream traffic that no section
originated, and restarts. A window begins once, when TENSE_NOW has reached its boundary. -/
def doEnergyWindow (loads : Vector (BitVec 20) 8) (s : State) : State :=
  let folios := List.finRange 8
  let n := s.tenseNow / 50000
  let last := (s.reg .energyWindow).toNat
  if n = last then s else
  -- the window that ends
  let s := if s.energy.granted && s.forecastWindow last then s.bump .exchForecast Fld.exchForecastPlanMisses 1 else s
  let s := s.setFlag .energyStatus Fld.energyStatusCapped s.energy.capped
  let s := (List.finRange 192).foldl (fun s t => s.overrun t) s
  let s := s.energy.closedOver.foldl (fun s k => s.bump (.folioCal k.1) Fld.folioCalOverruns k.2) s
  let u (f : Folio) : Nat :=
    if s.energy.metered.contains f then
        (loads.get f).toNat * 100000 + powerUw (Store.get (fun _ => 0) s.energy.uncontrolled f) 50000
      else pointIdleW (s.point f) * 1000000
  let s := folios.foldl (fun s f =>
    let e := ((folioTiles f).map (fun t => (s.tile t).winMeter)).foldl (· + ·) 0
    let p := powerUw e 50000
    let s := s.setFld (.folioPower f) Fld.folioPowerMeteredDw ((p + u f) / 100000 % 2 ^ 20)
    s.setFld (.folioPower f) Fld.folioPowerUncontrolledDw (u f / 100000 % 2 ^ 20)) s
  let s := (folios.foldl (fun s f => s.markPower f) s).updEnergy (fun e =>
    let use (f : Folio) : GrantUse := Store.get (fun _ => ⟨0, 0, 0⟩) e.use f
    { e with
      ratios := folios.map (fun f =>
        (f, (((use f).granted, (use f).requested) :: Store.get (fun _ => []) e.ratios f).take 20))
      use := folios.map (fun f => (f, ⟨s.now, 0, 0⟩)) })
  let s := (List.finRange 192).foldl (fun s t =>
    if (s.tile t).winMeter = 0 then s else s.updTile t (fun x => { x with winMeter := 0 })) s
  -- the window that begins
  let pool := ((s.fld .energyCap Fld.energyCapCapW * 1000000 : Int) - reservesUw + s.energy.correction).toNat
  let want (f : Folio) : Nat := u f + s.demand f
  -- during a takeover each arbiter reuses its last allotment (R494)
  let alloc := if s.mgmt.takeover.isSome then s.energy.alloc else allocate pool want (weightOf s)
  let s := s.settleLoads
  let s := s.updEnergy (fun e => { e with
    alloc := alloc
    loads := folios.map (fun f => (f, u f))
    uncontrolled := []
    closedOver := []
    metered := folios.filter (fun f => !s.downDies.contains (Fin.ofNat 10 f.val))
    capped := false
    granted := (List.finRange 192).any (fun t => (s.tile t).holds) })
  let s := s.setReg .energyWindow (BitVec.ofNat 64 n)
  let s := s.setFld .energyStatus Fld.energyStatusPoolW (pool / 1000000 % 2 ^ 16)
  let s := s.setForecast n
  folios.foldl (fun s f => s.rescale f) s

def execEnergyWindow (loads : Vector (BitVec 20) 8) (s : State) : Host.Outcome State Fault Refusal :=
  .next (doEnergyWindow loads s)

/-- R423, R425. -/
def execEnergyGrant (t : Tile) (s : State) : Host.Outcome State Fault Refusal :=
  .next (if s.tagBusy t tagGrant then s.grant t else s)

/-- R431: the next step of a folio whose fractions have not reached their targets. -/
def execSlewStep (f : Folio) (s : State) : Host.Outcome State Fault Refusal :=
  .next (if s.slewing f then s.slewStep f else s)

/-! ### Pulp -/

def Launch.word (l : Launch) (i : Nat) : Nat := (l.words.getD i 0).toNat
def Launch.start (l : Launch) : Nat := l.word 2
def Launch.envelopeW (l : Launch) : Nat := l.word 0 / 2 ^ 48 % 2 ^ 16
def Launch.job (l : Launch) : Nat := l.word 0 / 2 ^ 16 % 2 ^ 12
def Launch.program (l : Launch) : Nat := l.word 1 % 2 ^ 46
/-- The tiles of the packet's set (R456). -/
def Launch.tiles (l : Launch) : List Tile :=
  (List.finRange 192).filter (fun t => (l.word (3 + t.val / 64)).testBit (t.val % 64))

/-- R432: PULP_LEAD_US before the start tense of a queued packet, the idle tiles of its set start pulp. -/
def doPulpRampUp (q : HQueue) (index : BitVec 32) (s : State) : State :=
  match s.host.launches.find? (fun l => l.hq = q && l.index = index.toNat) with
  | none => s
  | some l =>
    let lead := 1000 * s.fld .energyCtl Fld.energyCtlPulpLeadUs
    if l.envelopeW = 0 ∨ l.start = 0 ∨ l.ramped = true ∨ l.parts = [] ∨ s.tenseNow + lead < l.start then s
    else
      let ramp := 1000 * s.fld .energyCtl Fld.energyCtlPulpRampUs
      let tiles := l.tiles
      let idle := tiles.filter (fun t => l.parts.contains (tileFolio t) && (s.tile t).energySection.isNone
        && !s.flag (.seqCtl t) Fld.seqCtlRun)
      let s := idle.foldl (fun s t =>
        let p := min (l.envelopeW * 1000000 / max tiles.length 1) (s.pulpMax (tileFolio t))
        s.updTile t (fun x => { x with pulp := some ⟨0, p, s.now, ramp⟩ })) s
      { s with host := { s.host with launches := s.host.launches.map (fun k =>
          if k.id = l.id then { k with ramped := true } else k) } }

def execPulpRampUp (q : HQueue) (index : BitVec 32) (s : State) : Host.Outcome State Fault Refusal :=
  .next (doPulpRampUp q index s)

/-- R432: pulp that has fallen to 0 ends, and the tile's domain is gated. -/
def doPulpRampEnd (t : Tile) (s : State) : State :=
  match (s.tile t).pulp with
  | some p =>
    if p.toUw = 0 ∧ p.start + p.len ≤ s.now then
      { s.updTile t (fun x => { x with pulp := none }) with
        clocks := s.clocks.filter (fun c => decide (c.domain ≠ .tile t)) }
    else s
  | none => s

def execPulpRampEnd (t : Tile) (s : State) : Host.Outcome State Fault Refusal := .next (doPulpRampEnd t s)

/-! ### Operating points -/

/-- The fastest point whose clock does not exceed max(0.80, theta * 1.90) GHz (R438). -/
def thermalPoint (theta : Nat) : Nat :=
  ((List.range 8).find? (fun p => decide (100 * pointMhz p ≤ max 80000 (theta * 1900)))).getD 7

def State.thermalLimit (s : State) (f : Folio) : Nat :=
  if s.thetaOf f < 100 then thermalPoint (s.thetaOf f) else 0

/-- Move a folio to a point, with the trim of that point (R434). -/
def State.setPoint (s : State) (f : Folio) (p : Nat) : State :=
  if p = s.point f then s
  else
    let s := s.setFld (.folioDvfs f) Fld.folioDvfsPoint p
    let s := s.setFld (.folioDvfs f) Fld.folioDvfsTrimMv (Store.get (fun _ => 0) s.energy.trims (8 * f.val + p))
    s.updEnergy (fun e => { e with bumps := Store.put (fun k => k.val) (fun _ => 0) e.bumps f 0 })

/-- Hold a point within FASTEST, the thermal limit and SLOWEST (R419); higher numbers are slower. -/
def State.clampPoint (s : State) (f : Folio) (p : Nat) : Nat :=
  let fast := max (s.fld (.folioDvfs f) Fld.folioDvfsFastest) (s.thermalLimit f)
  let slow := max (s.fld (.folioDvfs f) Fld.folioDvfsSlowest) (s.thermalLimit f)
  min (max p fast) slow

/-- A sentinel run has suspended a folio's reviews (R517). -/
def State.sentinelHolds (s : State) (f : Folio) : Bool :=
  s.mgmt.sentRuns.any (fun r => r.former.any (fun e => decide (e.1 = f)))

/-- With DVFS_EN 0 each folio runs at the fastest permitted point (R419), from bring-up step 8 on, but for a folio whose point a
sentinel run holds (R517). -/
def State.followPoint (s : State) (f : Folio) : State :=
  if s.flag .energyCtl Fld.energyCtlDvfsEn ∨ s.fld .devStatus Fld.devStatusState ≠ 1 ∨ s.sentinelHolds f = true then s
  else s.setPoint f (s.clampPoint f 0)

/-- The review of R419. F is the granted energy of the last 20 windows over the requested energy. -/
def reviewPoint (s : State) (f : Folio) : Nat :=
  let l : List (Nat × Nat) := Store.get (fun _ => []) s.energy.ratios f
  let g : Nat := (l.map (·.1)).foldl (· + ·) 0
  let r : Nat := (l.map (·.2)).foldl (· + ·) 0
  let p := s.point f
  if 100 * g < 85 * r then p + 1
  else if l.length = 20 ∧ l.all (fun k => decide (k.1 = k.2)) = true then p - 1
  else p

/-- R419, every 1 ms. -/
def doDvfsReview (s : State) : State :=
  if s.flag .energyCtl Fld.energyCtlDvfsEn = false ∨ s.fld .devStatus Fld.devStatusState ≠ 1 then s
  else (List.finRange 8).foldl (fun s f =>
    if s.sentinelHolds f then s else s.setPoint f (s.clampPoint f (reviewPoint s f))) s

def execDvfsReview (s : State) : Host.Outcome State Fault Refusal := .next (doDvfsReview s)

/-- R435: 10 mV more, and the trim of the point falls by 10 mV, down to 0. -/
def doMarginBump (f : Folio) (s : State) : State :=
  let trim := s.fld (.folioDvfs f) Fld.folioDvfsTrimMv
  let p := s.point f
  let s := s.setFld (.folioDvfs f) Fld.folioDvfsTrimMv (trim - 10)
  let s := s.updEnergy (fun e => { e with
    trims := Store.put id (fun _ => 0) e.trims (8 * f.val + p) (trim - 10)
    bumps := Store.put (fun k => k.val) (fun _ => 0) e.bumps f (Store.get (fun _ => 0) e.bumps f + (10 - trim)) })
  s.fault 0x0404 f.val 0 f.val p

def execMarginBump (f : Folio) (s : State) : Host.Outcome State Fault Refusal := .next (doMarginBump f s)

/-! ### Calibration and the cap loop -/

/-- 0.80 and 1.25 in 1/2^32. -/
def kLow : Nat := 2 ^ 32 * 4 / 5
def kHigh : Nat := 2 ^ 32 * 5 / 4

/-- Metered power of a folio in uW over the 100 us since the last calibration: its sections and pulp, and u over the same time
(R429). -/
def State.calMetered (s : State) (f : Folio) : Nat :=
  powerUw (((folioTiles f).map (fun t => (s.tile t).mcMeter)).foldl (· + ·) 0) 100000
    + Store.get (fun _ => 0) s.energy.loadUse f / 100000

/-- Calibrate k of a folio (R429): held while its rail's report is more than 300 us late. -/
def State.calibrate (s : State) (f : Folio) : State :=
  let at' := Store.get (fun _ => 0) s.energy.reportAt f.val
  let m := s.calMetered f
  if s.now > at' + 400000 ∨ m = 0 then s
  else
    let r : Int := (Store.get (fun _ => 0) s.energy.reports f.val * 1000 * 2 ^ 32 / m : Nat)
    let k : Int := s.kFactor f
    let k' := min kHigh (max kLow (k + (r - k) / 100).toNat)
    let edge (v : Nat) : Bool := v = kLow || v = kHigh
    let new := edge k' && !edge (s.kFactor f)
    let s := s.updEnergy (fun e => { e with factor := Store.set (fun x => x.val) e.factor f k' })
    let s := s.setFld (.folioCal f) Fld.folioCalFactor (k' / 2 ^ 20)
    if new then s.fault 0x0403 f.val 0 f.val (k' / 2 ^ 20) else s

/-- What a rail counts for in P_dev, in mW (R429). -/
def State.railMw (s : State) (r : Nat) : Nat :=
  if s.energy.lost.contains r then
    if r < 8 then s.calMetered (Fin.ofNat 8 r) * 5 / 4 / 1000 else Config.railMetered s.free r * 5 / 4
  else Store.get (fun _ => 0) s.energy.reports r

/-- R429 every 100 us: the reports that arrived, calibration, and the cap loop. A takeover reads the telemetry again and
resumes the account only when it is done (R494). -/
def doMcTick (reports : List (Fin 32 × BitVec 24)) (s : State) : State :=
  if s.mgmt.takeover.isSome then s
  else
  let s := s.updEnergy (fun e => { e with
    reports := reports.foldl (fun m p => Store.put id (fun _ => 0) m p.1.val p.2.toNat) e.reports
    reportAt := reports.foldl (fun m p => Store.put id (fun _ => 0) m p.1.val s.now) e.reportAt
    lost := e.lost.filter (fun r => !reports.any (fun p => decide (p.1.val = r))) })
  let s := if s.energy.lost = [] then s.setFlag .energyStatus Fld.energyStatusTelemetryLost false else s
  let s := s.settleLoads
  let s := (List.finRange 8).foldl (fun s f => s.calibrate f) s
  let s := s.setFlag .energyStatus Fld.energyStatusMeterDrift
    ((List.finRange 8).any (fun f => s.kFactor f = kLow || s.kFactor f = kHigh))
  let s := (List.finRange 8).foldl (fun s f =>
    s.setFld (.folioPower f) Fld.folioPowerRailDw (Store.get (fun _ => 0) s.energy.reports f.val / 100 % 2 ^ 20)) s
  let dev := ((List.range 32).map s.railMw).foldl (· + ·) 0
  let s := s.draw
  let cap : Int := (s.fld .energyCap Fld.energyCapCapW * 1000000 : Nat)
  let c := s.energy.correction + (cap - (dev * 1000 : Nat)) / 10
  let c := min 400000000 (max (-2000000000) c)
  let total := s.energy.totalUj + dev / 10
  let s := s.updEnergy (fun e => { e with correction := c, totalUj := total, loadUse := [] })
  let s := s.setFld .energyStatus Fld.energyStatusDeviceW (dev / 1000 % 2 ^ 16)
  let s := s.setFld .energyStatus Fld.energyStatusCorrectionW ((c / 1000000) % 2 ^ 16).toNat
  let s := s.setReg .energyTotal (BitVec.ofNat 64 (min (2 ^ 64 - 1) (total / 1000)))
  (List.finRange 192).foldl (fun s t =>
    if (s.tile t).mcMeter = 0 then s else s.updTile t (fun x => { x with mcMeter := 0 })) s

def execMcTick (reports : List (Fin 32 × BitVec 24)) (s : State) : Host.Outcome State Fault Refusal :=
  .next (doMcTick reports s)

/-- R429: 10 ms without a report of a rail. The entry names the folio of a folio rail, else the rail. -/
def doTelemetryLost (r : Fin 32) (s : State) : State :=
  if s.energy.lost.contains r.val ∨ s.now ≤ Store.get (fun _ => 0) s.energy.reportAt r.val + 10000000 then s
  else
    let s := s.updEnergy (fun e => { e with lost := e.lost ++ [r.val] })
    let s := s.setFlag .energyStatus Fld.energyStatusTelemetryLost true
    s.fault 0x0403 15 0 r.val (if r.val < 8 then s.fld (.folioCal (Fin.ofNat 8 r.val)) Fld.folioCalFactor else 0)

def execTelemetryLost (r : Fin 32) (s : State) : Host.Outcome State Fault Refusal := .next (doTelemetryLost r s)

/-! ### Sensors -/

def State.sensor (s : State) (i : Sensor) : SensorRec := Store.get (fun _ => SensorRec.reset) s.energy.sensors i.val

/-- Ream base sensors use the ream thresholds (R436). -/
def reamSensor (i : Sensor) : Bool := decide (768 ≤ i.val) && decide (i.val < 800)

/-- The engage and release thresholds in force, in 1/8 degrees (R437, R439). -/
def engageAt (i : Sensor) (r : SensorRec) : Int :=
  (if reamSensor i then 720 else 800) - (if r.fastUntil.isSome then 40 else 0)
def releaseAt (i : Sensor) (r : SensorRec) : Int :=
  (if reamSensor i then 696 else 776) - (if r.fastUntil.isSome then 40 else 0)
def warnSetAt (i : Sensor) : Int := if reamSensor i then 680 else 760
def warnClearAt (i : Sensor) : Int := if reamSensor i then 640 else 720
def tripAt (i : Sensor) : Int := if reamSensor i then 840 else 920

/-- theta of a sensor in percent (R438). -/
def SensorRec.theta (i : Sensor) (r : SensorRec) : Nat :=
  if r.engaged then
    let above := (r.past.headD 0) - engageAt i r
    100 - 8 * (min 10 (max 1 ((above + 7) / 8))).toNat
  else 100

/-- Whether a sensor bears on a folio (R438). -/
def sensorFolio (i : Nat) (f : Folio) : Bool :=
  if i < 768 then decide (i / 96 = f.val) else if i < 800 then decide ((i - 768) / 4 = f.val) else true

/-- theta[f] from every sensor. -/
def State.thetaFolio (s : State) (f : Folio) : Nat :=
  s.energy.sensors.foldl (fun m e =>
    if sensorFolio e.1 f then min m (SensorRec.theta (Fin.ofNat 818 e.1) e.2) else m) 100

/-- A signed 16-bit field value. -/
def field16 (v : Int) : Nat := (v % 65536).toNat

/-- THERMAL_STATUS, THERMAL_HOTTEST and ENERGY_STATUS.THROTTLED (R445). -/
def State.thermalRegs (s : State) : State :=
  let l := s.energy.sensors
  let hot (p : Nat → Bool) : Option (Nat × Int) := l.foldl (fun b e =>
    if p e.1 then
      match b with
      | some (i, v) => if e.2.past.headD 0 > v then some (e.1, e.2.past.headD 0) else some (i, v)
      | none => some (e.1, e.2.past.headD 0)
    else b) none
  let ream (i : Nat) : Bool := reamSensor (Fin.ofNat 818 i)
  let th := (List.finRange 8).foldl (fun m f => min m (s.thetaOf f)) 100
  let s := s.setFlag .thermalStatus Fld.thermalStatusWarnLogic (l.any (fun e => e.2.warned && !ream e.1))
  let s := s.setFlag .thermalStatus Fld.thermalStatusWarnReam (l.any (fun e => e.2.warned && ream e.1))
  let s := s.setFlag .thermalStatus Fld.thermalStatusThrottle (l.any (fun e => e.2.engaged))
  let s := s.setFlag .thermalStatus Fld.thermalStatusFastRise (l.any (fun e => e.2.fastUntil.isSome))
  let s := s.setFld .thermalStatus Fld.thermalStatusThetaMin (th * 256 / 100)
  let s := s.setFlag .energyStatus Fld.energyStatusThrottled (decide (th < 100))
  let s := match hot (fun i => !ream i) with
    | some (i, v) => (s.setFld .thermalStatus Fld.thermalStatusHotSensor i).setFld .thermalHottest
        Fld.thermalHottestLogicC (field16 v)
    | none => s
  match hot ream with
  | some (_, v) => s.setFld .thermalHottest Fld.thermalHottestReamC (field16 v)
  | none => s

/-- Evaluate the throttle of a sensor against its thresholds (R438), with the entry of an engagement (R440). -/
def State.throttle (s : State) (i : Sensor) : State :=
  let r := s.sensor i
  let t := r.past.headD 0
  let on := if r.engaged then decide (t > releaseAt i r) else decide (t > engageAt i r)
  let s := s.updEnergy (fun e => { e with sensors := Store.set id e.sensors i.val { r with engaged := on } })
  if on && !r.engaged then
    (s.bump .thermalEvents Fld.thermalEventsThrottles 1).fault 0x0400 15 i.val i.val (field16 t)
  else s

/-- Apply the theta of every folio: fractions are rescaled at once (R438), and the point where DVFS_EN is 0 (R419). -/
def State.applyTheta (s : State) : State :=
  let s := (List.finRange 8).foldl (fun s f =>
    let th := s.thetaFolio f
    if th = s.thetaOf f then s
    else
      let s := s.updEnergy (fun e => { e with theta := Store.put (fun k => k.val) (fun _ => 100) e.theta f th })
      (s.rescale f).followPoint f) s
  s.thermalRegs

/-- After a trip, whether every reading is at most 75 degrees, and since when (R442). -/
def State.watchCooling (s : State) : State :=
  let cool := s.energy.sensors.all (fun e => decide (e.2.past.headD 0 ≤ 600))
  s.updEnergy (fun e => { e with coolSince := if cool then some (e.coolSince.getD s.now) else none })

/-- R436-R440: a reading of a sensor, in 1/8 degrees. -/
def doSensorSample (i : Sensor) (reading : BitVec 16) (s : State) : State :=
  let t := reading.toInt
  let r := s.sensor i
  let fast := (r.past[9]?.map (fun p => decide (10 * (t - p) > 64))).getD false
  let start := fast && r.fastUntil.isNone
  let r' : SensorRec :=
    { r with past := (t :: r.past).take 1000, fastUntil := if fast then some (s.now + 10000000) else r.fastUntil }
  let warn := if r.warned then decide (t > warnClearAt i) else decide (t ≥ warnSetAt i)
  let s := s.updEnergy (fun e => { e with sensors := Store.set id e.sensors i.val { r' with warned := warn } })
  let s := if start then s.bump .thermalEvents Fld.thermalEventsFastRises 1 else s
  let peak := (BitVec.ofNat 16 (s.fld (.sensor i) Fld.sensorPeakC)).toInt
  let s := s.setFld (.sensor i) Fld.sensorNowC reading.toNat
  let s := if t > peak then s.setFld (.sensor i) Fld.sensorPeakC reading.toNat else s
  let s := if warn && !r.warned then
      (s.bump .thermalEvents Fld.thermalEventsWarnings 1).fault 0x0400 15 i.val i.val reading.toNat
    else s
  let s := if 768 ≤ i.val ∧ i.val < 800 then s.noteHot (Fin.ofNat 32 (i.val - 768)) else s
  ((s.throttle i).applyTheta).watchCooling

def execSensorSample (i : Sensor) (reading : BitVec 16) (s : State) : Host.Outcome State Fault Refusal :=
  .next (doSensorSample i reading s)

/-- R439: the lowered thresholds of a sensor are restored. -/
def doFastRiseEnd (i : Sensor) (s : State) : State :=
  let r := s.sensor i
  match r.fastUntil with
  | some u =>
    if u ≤ s.now then
      let s := s.updEnergy (fun e => { e with sensors := Store.set id e.sensors i.val { r with fastUntil := none } })
      (s.throttle i).applyTheta
    else s
  | none => s

def execFastRiseEnd (i : Sensor) (s : State) : Host.Outcome State Fault Refusal := .next (doFastRiseEnd i s)

end Sys2Proof.Machine
end

