-- ==== Sys2Proof/Machine/Optics.lean ====
section
/-! DEFINITION. The external ports (R341-R343, R388-R395), their lanes (R404-R408), the laser supply module (R396-R400),
ring tuning (R401-R403), the ring ports (R409, R410), the felt's comb sources (R387) and the twin link (R413). What the
device measures on light arrives in the operands of the commands. -/

namespace Sys2Proof.Machine

/-! ### Ports -/

def State.updOptics (s : State) (f : Optics → Optics) : State := { s with optics := f s.optics }
def State.port (s : State) (p : Port) : PortRec := Store.get (fun _ => PortRec.reset) s.optics.ports p
def State.setPort (s : State) (p : Port) (r : PortRec) : State :=
  s.updOptics (fun o => { o with ports := Store.set (fun k => k.val) o.ports p r })
def State.updPort (s : State) (p : Port) (f : PortRec → PortRec) : State := s.setPort p (f (s.port p))
def State.setPhy (s : State) (p : Port) (v : Nat) : State := s.setFld (.portPhy p) Fld.portPhyState v
def State.setFail (s : State) (p : Port) (v : Nat) : State := s.setFld (.portPhy p) Fld.portPhyFailReason v
/-- PORT_MODE of a port: 0 off, 1 fabric, 2 analysis (R338). -/
def State.portMode (s : State) (p : Port) : Nat := s.fld (.portMode (portDeckle p)) ⟨2 * (p.val % 32), 2⟩
def State.ready (s : State) : Bool := decide (s.fld .devStatus Fld.devStatusState = 1) && !s.clocksStopped
/-- A port of a deckle that is out of reset. -/
def State.portUp (s : State) (p : Port) : Bool := s.ready && !s.downDies.contains (deckleDie (portDeckle p))

/-- Move the cells queued for a core port that cannot send onto those that R303 now chooses, the oldest first. One that finds
no space waits and is moved later; one that R303 refuses is answered with its code. `moved` follows each move. -/
def State.requeueCore (s : State) (n : Deckle) (q : Fin 48) (moved : State → State) : State :=
  let old := fun (s : State) (h : Held) => s.setXbar n (((s.xbar n).drop h).unref h.slot)
  (((s.xbar n).queuedFor q).mergeSort (fun a b => decide (a.age ≤ b.age))).foldl (fun s h =>
    if h.cell.cls = 6 then s
    else
      match s.route n (decide (h.inp.val ≥ 40)) h.cell with
      | .refuse code => (old s h).refuseCell (deckleDie n) (deckleDie n).val feltNode code h.cell
      | r =>
        match s.coreOut n h.inp r with
        | none => s
        | some o =>
          let c := match r with
            | .port _ true => h.cell.withFlag 4
            | _ => h.cell
          if o = q then s
          else
            match s.enter n (.egress o) (s.markCe n { h with cell := c, out := some o }) with
            | some s' => moved s'
            | none => s) s

/-- R342: the cells queued for a lost port move onto alternates, and are counted. -/
def State.requeue (s : State) (p : Port) : State :=
  s.requeueCore (portDeckle p) (portCore p) (fun s => s.bump (.requeued (portDeckle p)) Fld.requeuedCount 1)

/-- R386: the cells queued for a folio whose felt link here is out of service travel through the other deckle. -/
def State.requeueFolio (s : State) (n : Deckle) (f : Folio) : State :=
  let q : Fin 48 := Fin.ofNat 48 (32 + f.val)
  if s.feltUp (deckleDie n) (folioDie f) || s.downDies.contains (folioDie f) || s.downDies.contains (deckleDie n)
    || ((s.xbar n).queuedFor q).isEmpty then s
  else s.requeueCore n q id

/-- The logical lane that a physical lane carries in a lane map register. -/
def State.laneOf (s : State) (r : Reg) (phys : Nat) : Option Nat :=
  (List.range 8).find? (fun l => s.fld r (Fld.laneMapTxPhys l) = phys)

def State.spareOf (s : State) (r : Reg) : Nat := s.fld r Fld.laneMapTxSpare

/-- Put a logical lane on a physical one; `spare` becomes the spare, 0xF none. -/
def State.mapLane (s : State) (r : Reg) (lane phys spare : Nat) : State :=
  (s.setFld r (Fld.laneMapTxPhys lane) phys).setFld r Fld.laneMapTxSpare spare

/-- The swap that a transmitter announced takes effect: the old physical lane becomes the spare (R404). -/
def State.endSwap (s : State) (p : Port) (w : Swap) : State :=
  let r := Reg.laneMapTx p
  let old := s.fld r (Fld.laneMapTxPhys w.lane)
  let s := s.updPort p (fun k => { k with txSwap := none })
  if s.spareOf r = w.phys then (s.mapLane r w.lane w.phys old).bump (.laneEvents p) Fld.laneEventsSwaps 1 else s

/-- A control block that carries flags and a lane command (R390). The credit fields of a block are those of the port's
counters. An announced swap takes effect at the end of its block (R404). -/
def State.controlBlock (s : State) (p : Port) (flags cmd at' : Nat) : State :=
  let l := s.linkCredit p
  let held := (s.xbar (portDeckle p)).held.filter (fun h => h.point = .ingress (portCore p))
  let free := 1920 - (held.filter (fun h => !h.res)).length
  let bulk := (held.filter (fun h => !h.res && decide (h.cell.cls = 5))).length
  let kept (k : Nat) : Nat := (held.filter (fun h => h.res && decide (resKind h.cell.cls.toNat h.cell.rank.toNat = k))).length
  let got (k : Nat) : Nat := Store.get (fun _ => 0) l.got k
  let sent (k : Nat) : Nat := Store.get (fun _ => 0) l.sent k
  let nib (f : Nat → Nat) : List Byte := (List.range 16).flatMap (fun i => leBytes 1 (f (2 * i) % 16 + 16 * (f (2 * i + 1) % 16)))
  let seq := (s.port p).seq
  let body := leBytes 1 0xB5 ++ leBytes 1 seq ++ leBytes 1 flags ++ leBytes 1 cmd ++ leBytes 1 at' ++ leBytes 3 0
    ++ nib (fun k => got k + (4 - kept k)) ++ leBytes 2 ((got 32 + free + bulk) % 65536) ++ leBytes 2 ((got 33 + free) % 65536)
    ++ nib sent ++ leBytes 2 (sent 32) ++ leBytes 2 (sent 33) ++ leBytes 12 0
  let s := (s.emit (.block p (body ++ leBytes 4 (crc32c body).toNat))).updPort p (fun r => { r with seq := (r.seq + 1) % 256 })
  match (s.port p).txSwap with
  | some w => if w.at' = seq then s.endSwap p w else s
  | none => s

/-- R393: the identity block that a port sends. -/
def State.identityBlock (s : State) (p : Port) : List Byte :=
  let n := portDeckle p
  let flag (f : Field) : Nat := s.fld (.routeCtl n) f
  let body := leBytes 1 0xB6 ++ leBytes 2 (s.chipOf n) ++ leBytes 1 p.val
    ++ leBytes 1 (flag Fld.routeCtlGroup16 + 2 * flag Fld.routeCtlIsolation)
    ++ leBytes 1 (flag Fld.routeCtlFwdVerMin + 16 * flag Fld.routeCtlFwdVerMax)
    ++ leBytes 1 (s.fld .identFw Fld.identFwLine) ++ leBytes 1 (s.fld .identFw Fld.identFwRelease)
    ++ leBytes 2 (s.fld (.portAsym p) Fld.portAsymSkew)
    ++ leBytes 1 (s.tenseState + 8 * s.fld .tenseStatus Fld.tenseStatusDepth) ++ leBytes 49 0
  body ++ leBytes 4 (crc32c body).toNat

/-- R341: a port declares loss, and sends the remote-fault indication. -/
def State.declareLoss (s : State) (p : Port) : State :=
  let n := portDeckle p
  let s := (s.setPortLive p false).setPhy p 5
  let s := s.setFlag (.portPhy p) Fld.portPhyRecal false
  let s := s.bump (.portLosses n) Fld.portLossesCount 1
  let s := s.fault 0x0200 (8 + n.val) p.val p.val (s.fld (.portViol p) Fld.portViolLastCode)
  let s := s.updPort p (fun r => { r with
    step := 0, downAt := s.now, identified := false, faultAt := none, swap := none, txSwap := none, recal := none, paused := false
    swept := none, rxCal := none })
  (s.controlBlock p 1 0 0).requeue p

/-- R341: no valid codeword for 1 us on a trained port. The timer does not run in a lane fault (R406). `words` are the
codewords that could not be corrected. -/
def doLossOfFrame (p : Port) (words : BitVec 16) (s : State) : State :=
  if s.clocksStopped then s
  else
    let s := s.bump (.fecUncorrected p) Fld.fecUncorrectedCount words.toNat
    if s.phyState p = 2 ∨ s.phyState p = 3 then s.declareLoss p else s

def execLossOfFrame (p : Port) (words : BitVec 16) (s : State) : Host.Outcome State Fault Refusal :=
  .next (doLossOfFrame p words s)

/-- R392: a port starts its bring-up, or its retry 100 ms after a failure or a loss. -/
def doPortBringup (p : Port) (s : State) : State :=
  let r := s.port p
  let st := s.phyState p
  let again := (st = 1 || st = 5) && decide (r.step = 0) && decide (r.downAt + 100000000 ≤ s.now)
  if s.portUp p && ((s.portMode p = 1 && (again || (st = 0 && decide (r.step = 0))))
      || (s.portMode p = 2 && st = 0 && decide (r.step = 0))) then
    let s := if s.portMode p = 1 then s.setPhy p 1 else s
    s.updPort p (fun r => { r with step := 1, since := s.now, identified := false })
  else s

def execPortBringup (p : Port) (s : State) : Host.Outcome State Fault Refusal := .next (doPortBringup p s)

/-- The felt endpoint sensor nearest a ring (R401, R416, R436): that of the ring's die; the ring ports are on DECKLE_0
(DEDUCED, log 114). -/
def ringSensor (r : Nat) : Sensor :=
  let die := if r < 1152 then 8 + r / 18 / 32 else if r < 7272 then (r - 1152) / 612 else 8
  Fin.ofNat 818 (808 + die)

/-- Entry i of a ring's heater table. -/
def State.heaterEntry (s : State) (r : Fin 7274) (i : Nat) : Nat :=
  bitsOf (s.reg (.heater r (Fin.ofNat 8 (i / 4)))).toNat (16 * (i % 4) + 15) (16 * (i % 4))

/-- A sensor's reading in 1/8 degrees. -/
def State.reading (s : State) (i : Sensor) : Int := (BitVec.ofNat 16 (s.fld (.sensor i) Fld.sensorNowC)).toInt

/-- R401: the heater code at a temperature in 1/8 degrees. Halves round up. -/
def State.heaterCode (s : State) (r : Fin 7274) (t : Int) : Nat :=
  let x := t - 200
  let i := (min 16 (max 0 (x / 40))).toNat
  let f := min 40 (max 0 (x - 40 * (i : Int)))
  let a : Int := s.heaterEntry r i
  let b : Int := s.heaterEntry r (i + 1)
  ((80 * a + 2 * f * (b - a) + 40) / 80).toNat

/-- The time of a bring-up step in ns (R392). -/
def stepLimit : Nat → Nat
  | 1 => 200000 | 2 => 18000000 | 3 => 500000 | 4 => 100000 | _ => 1000000

/-- Step 1 of R392: the heaters of a port's rings take their table codes (R401, R416). -/
def State.heatPort (s : State) (p : Port) : State :=
  (List.range 18).foldl (fun s j =>
    let r : Fin 7274 := Fin.ofNat 7274 (18 * p.val + j)
    s.updOptics (fun o => { o with codes := Store.set id o.codes r.val (s.heaterCode r (s.reading (ringSensor r.val))) })) s

/-- R392: the step of a port's bring-up passes within its time. `skew` is what step 3 measures: the transmit path delay minus the
receive path delay. An analysis port completes steps 1 and 2. -/
def doPortStepPass (p : Port) (skew : BitVec 16) (s : State) : State :=
  let r := s.port p
  if !s.portUp p || r.step = 0 || decide (r.step > 4) || decide (r.since + stepLimit r.step < s.now) then s
  else if s.portMode p = 2 ∧ r.step = 2 then (s.setPhy p 6).updPort p (fun r => { r with step := 0 })
  else
    let s := if r.step = 1 then s.heatPort p else s
    let s := if r.step = 3 then s.setFld (.portAsym p) Fld.portAsymSkew skew.toNat else s
    let s := s.updPort p (fun r => { r with step := r.step + 1, since := s.now })
    if r.step = 4 then s.emit (.block p (s.identityBlock p)) else s

def execPortStepPass (p : Port) (skew : BitVec 16) (s : State) : Host.Outcome State Fault Refusal :=
  .next (doPortStepPass p skew s)

/-- R392: a bring-up step fails: its time has passed, or the light or the far end is lost. The table gives step 1 no reason code. -/
def doPortStepTimeout (p : Port) (lost : Bool) (s : State) : State :=
  let r := s.port p
  if r.step = 0 ∨ r.step > 5 ∨ s.portUp p = false ∨ (lost = false ∧ s.now < r.since + stepLimit r.step) then s
  else
    let s := match r.step with
      | 1 => s
      | 2 | 3 => s.setFail p 5
      | 4 => s.setFail p 7
      | _ => s.setFail p 8
    s.updPort p (fun r => { r with step := 0, downAt := s.now })

def execPortStepTimeout (p : Port) (lost : Bool) (s : State) : Host.Outcome State Fault Refusal :=
  .next (doPortStepTimeout p lost s)

/-- The member that R30 expects at a port of the own group: `some none` at a global port, none at a free one. -/
def State.expects (s : State) (p : Port) : Option (Option Nat) :=
  let n := portDeckle p
  let q := p.val % 32
  let own := s.ownMember n
  let member (k : Nat) := if k < own then k else k + 1
  if s.flag (.routeCtl n) Fld.routeCtlGroup16 then
    if q < 15 then some (some (member q)) else if q < 31 then some none else none
  else if q < 14 then some (some (member (q / 2))) else if 15 ≤ q ∧ q < 31 then some none else none

/-- The reason for which a port refuses an identity block; 0 none (R393). -/
def State.identityCode (s : State) (p : Port) (b : BitVec 512) : Nat :=
  let n := portDeckle p
  let chip := blockField b 8 14
  let cabling := match s.expects p with
    | some (some m) => decide (chip ≠ s.ownGroup n * 16 + m)
    | some none => decide (chip / 16 = s.ownGroup n)
    | none => false
  if cabling then 1
  else if blockField b 33 1 ≠ s.fld (.routeCtl n) Fld.routeCtlIsolation then 2
  else if blockField b 32 1 ≠ s.fld (.routeCtl n) Fld.routeCtlGroup16 then 3
  else if blockField b 48 8 ≠ s.fld .identFw Fld.identFwLine then 4
  else 0

/-- Check an identity block at step 5, or again on a refused port. The first refusal for a reason is recorded. -/
def State.checkIdentity (s : State) (p : Port) (b : BitVec 512) : State :=
  let far := (BitVec.ofNat 16 (blockField b 64 16)).toInt
  let near := (BitVec.ofNat 16 (s.fld (.portAsym p) Fld.portAsymSkew)).toInt
  let s := s.setFld (.portPhy p) Fld.portPhyFarPort (blockField b 24 8)
  let s := s.setFld (.portPhy p) Fld.portPhyFarChip (blockField b 8 14)
  let s := s.setFld (.portAsym p) Fld.portAsymAsym ((near - far) % 65536).toNat
  let code := s.identityCode p b
  let noted := (s.port p).noted
  let s := (s.setPhy p 2).setFail p code
  let s := s.updPort p (fun r => { r with
    step := 6, identified := decide (code = 0), ident := b, checkedAt := s.now
    noted := if code = 0 then [] else if noted.contains code then noted else code :: noted })
  if code = 0 ∨ noted.contains code = true then s
  else s.fault 0x0201 (8 + (portDeckle p).val) p.val p.val (blockField b 8 14 + s.chipOf (portDeckle p) * 2 ^ 32)

/-- R393, R394: a received identity block. -/
def doIdentityBlock (p : Port) (b : BitVec 512) (s : State) : State :=
  let good := decide (blockField b 0 8 = 0xB6) && decide ((crc32c (blockBytes 60 b)).toNat = blockField b 480 32)
  if s.portUp p && good && ((s.port p).step = 5 || s.refused p) then s.checkIdentity p b else s

def execIdentityBlock (p : Port) (b : BitVec 512) (s : State) : Host.Outcome State Fault Refusal :=
  .next (doIdentityBlock p b s)

/-- R393: once a second a refused port sends its identity block again and repeats the checks. -/
def doIdentityRecheck (p : Port) (s : State) : State :=
  let r := s.port p
  if s.portUp p && s.refused p && decide (r.checkedAt + 1000000000 ≤ s.now) then
    (s.emit (.block p (s.identityBlock p))).checkIdentity p r.ident
  else s

def execIdentityRecheck (p : Port) (s : State) : Host.Outcome State Fault Refusal := .next (doIdentityRecheck p s)

/-- The full advertisement of an external port's ingress buffer (R330, R333). -/
def fullCredit : LinkCredit :=
  ⟨[], (List.range 32).map (fun k => (k, 4)) ++ [(32, 1920), (33, 1920)], []⟩

/-- R395, R343: an identified port is admitted, but not in test mode (R474); its credits are restored. -/
def doPortAdmission (p : Port) (s : State) : State :=
  if s.portUp p && decide (s.phyState p = 2) && (s.port p).identified && s.flag (.portAdmit p) Fld.portAdmitEnable
      && !s.flag (.portViol p) Fld.portViolQuarantined && s.portMode p = 1 && s.tenseLocked
      && decide (s.fld .devStatus Fld.devStatusMode ≠ 2) then
    ((s.setPhy p 3).setPortLive p true).setLinkCredit p fullCredit
  else s

def execPortAdmission (p : Port) (s : State) : Host.Outcome State Fault Refusal := .next (doPortAdmission p s)

/-- R395: what a write of PORT_ADMIT does once it is stored. -/
def State.portAdmitWritten (s : State) (p : Port) : State :=
  if s.flag (.portAdmit p) Fld.portAdmitEnable = false ∧ s.portLiveBit p = true then
    let s := s.setPortLive p false
    (if s.phyState p = 3 then s.setPhy p 2 else s).requeue p
  else s

/-- R338, R392: the mode of a port has changed. -/
def State.portModeChanged (s : State) (p : Port) : State :=
  (((s.setPortLive p false).setPhy p 0).setFail p 0).updPort p (fun r => { r with
    step := 0, identified := false, faultAt := none, swap := none, txSwap := none, recal := none, paused := false, swept := none
    rxCal := none })

/-- R317: a port is released from quarantine. -/
def State.releasePort (s : State) (p : Port) : State :=
  (s.setFlag (.portViol p) Fld.portViolQuarantined false).setFld (.portViol p) Fld.portViolCount 0

/-! ### Lanes -/

/-- Whether a port is trained: it exchanges blocks. -/
def State.trained (s : State) (p : Port) : Bool := s.portUp p && [2, 3, 4].contains (s.phyState p)

/-- R404: the transmitter announces that a logical lane moves onto the spare. One swap is in progress at a time. -/
def State.swapOut (s : State) (p : Port) (lane : Nat) : State :=
  let sp := s.spareOf (.laneMapTx p)
  let at' := ((s.port p).seq + 4) % 256
  if sp = 0xF ∨ (s.port p).txSwap.isSome = true then s
  else (s.controlBlock p 2 (lane + 16 * sp) at').updPort p (fun k => { k with txSwap := some ⟨at', lane, sp⟩ })

/-- R405, R406: LANE_REQ for a physical lane. A degraded lane is swapped out and calibrated; a lost one is left at once, without an
announcement, and is no spare. The block does not say which (log 217). -/
def State.laneRequest (s : State) (p : Port) (lane : Nat) : State :=
  let r := Reg.laneMapTx p
  let lost := Config.laneLost s.free
  let s := s.draw
  if lost then
    if s.spareOf r = 0xF then s
    else (s.mapLane r lane (s.spareOf r) 0xF).updPort p (fun k => { k with txSwap := none })
  else (s.swapOut p lane).updPort p (fun k => { k with recalDue := true })

/-- The control blocks of a ns: one every 63.75 ns (R389) on a trained port, the identity block at step 5 (R393), and the remote-fault
indication on a lost port (R341). -/
def State.blocksNs (s : State) : State :=
  if (s.now + 1) * 4 / 255 = s.now * 4 / 255 then s
  else (s.optics.ports.map Prod.fst).foldl (fun s p =>
    if !s.portUp p then s
    else if (s.port p).step = 5 then s.emit (.block p (s.identityBlock p))
    else if s.trained p then s.controlBlock p 0 0 0
    else if s.phyState p = 5 then s.controlBlock p 1 0 0
    else s) s

/-- The swap that a receiver awaits takes effect (R404). -/
def State.takeSwap (s : State) (p : Port) (w : Swap) : State :=
  let r := Reg.laneMapRx p
  let old := s.fld r (Fld.laneMapRxPhys w.lane)
  let s := s.updPort p (fun k => { k with swap := none })
  if old = w.phys ∨ w.lane ≥ 8 then s
  else (s.mapLane r w.lane w.phys old).bump (.laneEvents p) Fld.laneEventsSwaps 1

/-- R391, R341, R403-R406: a received control block. -/
def doControlBlock (p : Port) (b : BitVec 512) (s : State) : State :=
  let good := decide (blockField b 0 8 = 0xB5) && decide ((crc32c (blockBytes 60 b)).toNat = blockField b 480 32)
  if !s.trained p || !good then s
  else if blockField b 16 1 = 1 then s.declareLoss p
  else
    let lane := blockField b 24 4
    let phys := blockField b 28 4
    let grant := (List.range 32).map (fun e => (e, blockField b (64 + 4 * e) 4))
      ++ [(32, blockField b 192 16), (33, blockField b 208 16)]
    let got := (List.range 32).map (fun e => (e, blockField b (224 + 4 * e) 4))
      ++ [(32, blockField b 352 16), (33, blockField b 368 16)]
    let l := s.linkCredit p
    let s := s.setLinkCredit p ⟨l.sent, grant, got⟩
    let s := if blockField b 17 1 = 1 then s.updPort p (fun r => { r with swap := some ⟨blockField b 32 8, lane, phys⟩ }) else s
    let s := if blockField b 19 1 = 1 then s.updPort p (fun r => { r with rxCal := some phys }) else s
    let s := if blockField b 18 1 = 1 ∧ lane < 8 ∧ s.fld (.laneMapTx p) (Fld.laneMapTxPhys lane) = phys
      then s.laneRequest p lane else s
    match (s.port p).swap with
    | some w => if (blockField b 8 8 + 256 - w.at') % 256 < 128 then s.takeSwap p w else s
    | none => s

def execControlBlock (p : Port) (b : BitVec 512) (s : State) : Host.Outcome State Fault Refusal :=
  .next (doControlBlock p b s)

/-- The lanes of a felt link direction. -/
def State.feltDir (s : State) (k : Felt) (back : Bool) : FeltDir :=
  Store.get (fun _ => FeltDir.reset) s.optics.felt (2 * k.val + (if back then 1 else 0))

/-- Change them; SPARES shows the direction with fewer free spares (R415). -/
def State.setFeltDir (s : State) (k : Felt) (back : Bool) (d : FeltDir) : State :=
  let s := s.updOptics (fun o => { o with felt := Store.set id o.felt (2 * k.val + (if back then 1 else 0)) d })
  s.setFld (.feltLink k) Fld.feltLinkSpares (min (s.feltDir k true).spares.length (s.feltDir k false).spares.length)

/-- Felt lanes are lost (R386): a lane that carries data is a fault, and a spare takes it; a free spare is only lost. With no spare left
the link goes out of service. -/
def State.feltLanesLost (s : State) (k : Felt) (back : Bool) (lanes : List Nat) : State :=
  let d := s.feltDir k back
  let new := lanes.filter (fun l => !d.down.contains l)
  let left := d.spares.filter (fun l => !new.contains l)
  let hit := new.filter (fun l => !d.spares.contains l)
  if s.fld (.feltLink k) Fld.feltLinkState < 2 then s
  else
    let s := s.setFeltDir k back ⟨d.down ++ new, left.drop hit.length⟩
    if hit.isEmpty then s
    else
      let s := s.bump (.feltEvents k) Fld.feltEventsFaults hit.length
      s.setFld (.feltLink k) Fld.feltLinkState (if hit.length ≤ left.length then 3 else 0)

/-- The lanes of a mask. -/
def lanesOf (n w : Nat) : List Nat := (List.range w).filter n.testBit

/-- Physical lanes of a port are lost (R406, R407): the receiver takes the logical lane from the spare, or the port
declares loss. The loss of the spare lane itself leaves the port without a spare. -/
def State.portLanesLost (s : State) (p : Port) (lanes : Nat) : State :=
  let r := Reg.laneMapRx p
  let hit := (List.range 9).filter (fun l => lanes.testBit l && (s.laneOf r l).isSome)
  let sp := s.spareOf r
  let rec' := s.port p
  match hit with
  | [] => if sp < 9 ∧ lanes.testBit sp = true then s.setFld r Fld.laneMapRxSpare 0xF else s
  | l :: more =>
    let s := s.bump (.laneEvents p) Fld.laneEventsFaults 1
    if sp = 0xF then (s.setFail p 6).declareLoss p
    else if !more.isEmpty || lanes.testBit sp || (rec'.recal.isSome && !rec'.paused) || rec'.rxCal.isSome then
      s.declareLoss p
    else
      let lane := (s.laneOf r l).getD 0
      let s := ((s.mapLane r lane sp 0xF).setPhy p 4).updPort p (fun k => { k with faultAt := some s.now })
      s.controlBlock p 4 (lane + 16 * l) 0

/-- R406, R407, R386: a receiver finds lanes lost. -/
def doLaneFault (l : Link) (lanes : BitVec 34) (s : State) : State :=
  match l with
  | .port p => if s.trained p then s.portLanesLost p (lanes.toNat % 512) else s
  | .felt k back => if s.clocksStopped then s else s.feltLanesLost k back (lanesOf lanes.toNat 34)

def execLaneFault (l : Link) (lanes : BitVec 34) (s : State) : Host.Outcome State Fault Refusal :=
  .next (doLaneFault l lanes s)

/-- R406: codewords are valid again, after `words` that could not be corrected. -/
def doLaneFaultClear (l : Link) (words : BitVec 16) (s : State) : State :=
  match l with
  | .port p =>
    if s.phyState p = 4 then
      let s := s.bump (.fecUncorrected p) Fld.fecUncorrectedCount words.toNat
      (s.setPhy p (if s.portLiveBit p then 3 else 2)).updPort p (fun r => { r with faultAt := none })
    else s
  | .felt k _ => if s.fld (.feltLink k) Fld.feltLinkState = 3 then s.setFld (.feltLink k) Fld.feltLinkState 2 else s

def execLaneFaultClear (l : Link) (words : BitVec 16) (s : State) : Host.Outcome State Fault Refusal :=
  .next (doLaneFaultClear l words s)

/-- R407: codewords are not valid 20 us after the fault was detected. -/
def doLaneFaultTimeout (p : Port) (s : State) : State :=
  match (s.port p).faultAt with
  | some t => if s.phyState p = 4 ∧ t + 20000 ≤ s.now then s.declareLoss p else s
  | none => s

def execLaneFaultTimeout (p : Port) (s : State) : Host.Outcome State Fault Refusal := .next (doLaneFaultTimeout p s)

/-- R405: the symbols that a lane's receiver corrected in a millisecond. Above 1,280 it requests a swap; on a felt link
both ends are the device's own and the swap is made. -/
def doLaneDegraded (l : Link) (lane : Fin 34) (corrected : BitVec 24) (s : State) : State :=
  match l with
  | .port p =>
    if !s.trained p then s
    else
      let s := s.bump (.fecCorrected p) Fld.fecCorrectedCount corrected.toNat
      match s.laneOf (.laneMapRx p) lane.val with
      | some i => if corrected.toNat > 1280 then s.controlBlock p 4 (i + 16 * lane.val) 0 else s
      | none => s
  | .felt k back =>
    let d := s.feltDir k back
    match d.spares with
    | sp :: rest =>
      if corrected.toNat > 1280 ∧ s.fld (.feltLink k) Fld.feltLinkState ≥ 2 ∧ (d.down ++ d.spares).contains lane.val = false
          ∧ sp ≠ lane.val then
        (s.setFeltDir k back ⟨d.down, rest ++ [lane.val]⟩).bump (.feltEvents k) Fld.feltEventsSwaps 1
      else s
    | [] => s

def execLaneDegraded (l : Link) (lane : Fin 34) (corrected : BitVec 24) (s : State) : Host.Outcome State Fault Refusal :=
  .next (doLaneDegraded l lane corrected s)

/-! ### The laser supply module (R396-R400, R408) -/

def State.line (s : State) (l : Line) : LineRec := Store.get (fun _ => LineRec.reset) s.optics.lines l
def State.updLine (s : State) (l : Line) (f : LineRec → LineRec) : State :=
  s.updOptics (fun o => { o with lines := Store.set (fun k => k.val) o.lines l (f (s.line l)) })

def State.power (s : State) (l : Line) (f : Field) : Int := (BitVec.ofNat 16 (s.fld (.linePower l) f)).toInt
def State.lineState (s : State) (l : Line) : Nat := s.fld (.lineDrive l) Fld.lineDriveState

/-- The standby of a line has failed or fell short (R400). -/
def State.standbyFailed (s : State) (l : Line) : Bool := (s.fld .lsmStatus Fld.lsmStatusStandbyFailed).testBit l.val

/-- Set a bit of a mask field. -/
def State.setMaskBit (s : State) (r : Reg) (f : Field) (i : Nat) : State :=
  s.setFld r f (((BitVec.ofNat 64 (s.fld r f)) ||| bit64 i).toNat)

/-- R398, R399: the slow monitor reads the eight taps of a line, and the controller its drive currents over I3C. At
unchanged drive 1.5 dB below COMMISSION, or at 90 % of the maximum drive, the primary is due for changeover. -/
def doLinePowerUpdate (l : Line) (taps : Vector (BitVec 16) 8) (primary standby most : BitVec 16) (s : State) : State :=
  let v := taps.toList.map BitVec.toInt
  let mean : Int := v.foldl (· + ·) 0 / 8
  let low := v.foldl min (v.headD 0)
  let same := decide (s.fld (.lineDrive l) Fld.lineDrivePrimaryMa = primary.toNat)
  let s := s.setFld (.linePower l) Fld.linePowerPower (mean % 65536).toNat
  let s := s.setFld (.linePower l) Fld.linePowerMinFibre (low % 65536).toNat
  let s := s.setFld (.lineDrive l) Fld.lineDrivePrimaryMa primary.toNat
  let s := s.setFld (.lineDrive l) Fld.lineDriveStandbyMa standby.toNat
  let s := s.setFld (.lineDrive l) Fld.lineDriveMaxMa most.toNat
  let due := (same && decide (mean ≤ s.power l Fld.linePowerCommission - 150))
    || (decide (most ≠ 0) && decide (primary.toNat * 10 ≥ most.toNat * 9))
  if due && decide (s.lineState l = 0) && (s.line l).dueAt.isNone then
    (s.updLine l (fun r => { r with dueAt := some s.now })).fault 0x0203 15 l.val l.val (mean % 65536).toNat
  else s

def execLinePowerUpdate (l : Line) (taps : Vector (BitVec 16) 8) (primary standby most : BitVec 16) (s : State) :
    Host.Outcome State Fault Refusal := .next (doLinePowerUpdate l taps primary standby most s)

/-- Whether an exchange window of at least 1 ms begins now in the energy account's schedule (R399, R433). -/
def State.inExchange (s : State) : Bool :=
  let n := s.tenseNow / 50000
  s.forecastWindow n && decide (s.forecastRun n 20 ≥ 20)

/-- R399: a due changeover begins; the standby is switched on at its threshold current. -/
def doChangeover (l : Line) (threshold : BitVec 16) (s : State) : State :=
  match (s.line l).dueAt with
  | none => s
  | some t =>
    let wait := 1000000000 * s.fld .optCtl Fld.optCtlGapWaitS
    let low := decide (s.power l Fld.linePowerPower ≤ s.power l Fld.linePowerCommission - 300)
    if s.flag .optCtl Fld.optCtlChangeoverEn && (s.line l).ramp.isNone && decide (s.lineState l = 0) && !s.standbyFailed l
        && (s.inExchange || decide (t + wait ≤ s.now) || low) && !s.clocksStopped then
      let s := s.updLine l (fun r => { r with ramp := some 0, rampAt := s.now, level := s.power l Fld.linePowerPower })
      let s := (s.setFld (.lineDrive l) Fld.lineDriveState 1).setFld (.lineDrive l) Fld.lineDriveStandbyMa threshold.toNat
      (s.emit (.lsmDrive l true threshold.toNat)).emit (.lsmSwitch l true true)
    else s

def execChangeover (l : Line) (threshold : BitVec 16) (s : State) : Host.Outcome State Fault Refusal :=
  .next (doChangeover l threshold s)

/-- A recalibration of every ring on a line is scheduled (R399). -/
def State.scheduleAll (s : State) : State :=
  (List.finRange 64).foldl (fun s p => s.updPort p (fun r => { r with recalDue := true })) s

/-- R399, R400: one step of the ramp, 10 us after the one before: the drives that hold the summed power, and the power
measured. A standby at 90 % of its maximum that falls short holds both lasers on; a primary that fails leaves the standby
at full drive. After step 64 the primary is off, and 100 us later, once POWER has been checked against its level at the start, the
changeover is done; a standby that falls short then is marked (log 218). -/
def doChangeoverStep (l : Line) (primary standby power : BitVec 16) (primaryFailed : Bool) (s : State) : State :=
  let r := s.line l
  let most := s.fld (.lineDrive l) Fld.lineDriveMaxMa
  match r.ramp with
  | none => s
  | some k =>
    if s.clocksStopped = true ∨ s.now < r.rampAt + (if k < 64 then 10000 else 100000) then s
    else
      let s := s.setFld (.linePower l) Fld.linePowerPower power.toNat
      let done (s : State) : State :=
        (s.setFld (.lineDrive l) Fld.lineDriveState 2).setMaskBit .lsmStatus Fld.lsmStatusPrimaryFailed l.val
      let note (s : State) : State := s.fault 0x0203 15 l.val l.val power.toNat
      if k ≥ 64 then
        let short := decide (power.toInt < r.level - 25)
        let s := if short then s.setMaskBit .lsmStatus Fld.lsmStatusStandbyFailed l.val else s
        (note (s.updLine l (fun _ => LineRec.reset))).scheduleAll
      else if primaryFailed then
        let s := s.emit (.lsmDrive l true most)
        let s := (s.setFld (.lineDrive l) Fld.lineDrivePrimaryMa 0).setFld (.lineDrive l) Fld.lineDriveStandbyMa most
        (done s).updLine l (fun r => { r with ramp := some 64, rampAt := s.now })
      else
        let s := s.setFld (.lineDrive l) Fld.lineDrivePrimaryMa primary.toNat
        let s := s.setFld (.lineDrive l) Fld.lineDriveStandbyMa standby.toNat
        let s := (s.emit (.lsmDrive l false primary.toNat)).emit (.lsmDrive l true standby.toNat)
        if standby.toNat * 10 ≥ most * 9 ∧ power.toInt < r.level - 25 then
          let s := s.setMaskBit .lsmStatus Fld.lsmStatusStandbyFailed l.val
          note ((s.setFld (.lineDrive l) Fld.lineDriveState 0).updLine l (fun r => { r with ramp := none }))
        else if k = 63 then
          (done ((s.setFld (.lineDrive l) Fld.lineDrivePrimaryMa 0).emit (.lsmSwitch l false false))).updLine l
            (fun r => { r with ramp := some 64, rampAt := s.now })
        else s.updLine l (fun r => { r with ramp := some (k + 1), rampAt := s.now })

def execChangeoverStep (l : Line) (primary standby power : BitVec 16) (primaryFailed : Bool) (s : State) :
    Host.Outcome State Fault Refusal := .next (doChangeoverStep l primary standby power primaryFailed s)

/-- R398: the fast comparator: two consecutive samples of a line's eight taps all lie below COMMISSION - 6 dB. -/
def State.lineDark (s : State) (l : Line) (first second : Vector (BitVec 16) 8) : Bool :=
  (first.toList ++ second.toList).all (fun v => decide (v.toInt < s.power l Fld.linePowerCommission - 600))

/-- R398, R408: a line is lost. Every port moves the logical lane on it onto its spare, or loses its spare, and the
standby is switched on; a line that ran on its standby, or whose standby had failed, has lost both lasers. -/
def doLineLost (x : LineSense) (s : State) : State :=
  let l := x.line
  if s.clocksStopped || !s.lineDark l x.first x.second || (s.line l).recoverAt.isSome || s.lineState l = 3 then s
  else
    let s := (List.finRange 64).foldl (fun s p =>
      let r := Reg.laneMapTx p
      let sp := s.spareOf r
      match s.laneOf r l.val with
      | some lane => if sp = 0xF then s else s.mapLane r lane sp 0xF
      | none => if sp = l.val then s.setFld r Fld.laneMapTxSpare 0xF else s) s
    if s.lineState l = 2 ∨ s.standbyFailed l = true then
      ((s.setFld (.lineDrive l) Fld.lineDriveState 3).setMaskBit .lsmStatus Fld.lsmStatusStandbyFailed l.val).setMaskBit
        .lsmStatus Fld.lsmStatusPrimaryFailed l.val
    else
      let s := (s.setMaskBit .lsmStatus Fld.lsmStatusPrimaryFailed l.val).emit (.lsmSwitch l true true)
      s.updLine l (fun _ => { LineRec.reset with recoverAt := some s.now })

def execLineLost (l : LineSense) (s : State) : Host.Outcome State Fault Refusal := .next (doLineLost l s)

/-- R408: the standby has reached COMMISSION, 2 ms after the loss. The line's physical lane becomes the spare of every
port that has none, and is recalibrated. -/
def doLineRecoveryDone (l : Line) (standby : BitVec 16) (s : State) : State :=
  match (s.line l).recoverAt with
  | none => s
  | some t =>
    if s.clocksStopped = true ∨ s.now < t + 2000000 then s
    else
      let s := s.updLine l (fun _ => LineRec.reset)
      let s := (s.setFld (.lineDrive l) Fld.lineDriveState 2).setFld (.lineDrive l) Fld.lineDriveStandbyMa standby.toNat
      let s := s.emit (.lsmDrive l true standby.toNat)
      let s := s.setFld (.linePower l) Fld.linePowerPower (s.fld (.linePower l) Fld.linePowerCommission)
      (List.finRange 64).foldl (fun s p =>
        let r := Reg.laneMapTx p
        if s.spareOf r = 0xF ∧ (s.laneOf r l.val).isNone = true ∧ (s.fld r Fld.laneMapTxRetired).testBit l.val = false then
          (s.setFld r Fld.laneMapTxSpare l.val).updPort p (fun k => { k with recalDue := true })
        else s) s

def execLineRecoveryDone (l : Line) (standby : BitVec 16) (s : State) : Host.Outcome State Fault Refusal :=
  .next (doLineRecoveryDone l standby s)

/-- R387: a comb source of a die fails. A die that has lost both loses all of its felt links. -/
def doCombSourceFail (d : Die) (k : Fin 2) (s : State) : State :=
  let i := 2 * d.val + k.val
  if s.optics.combFailed.contains i then s
  else
    let s := s.updOptics (fun o => { o with combFailed := o.combFailed ++ [i] })
    let s := s.fault 0x0204 d.val 0 d.val k.val
    if s.optics.combFailed.contains (2 * d.val + 1 - k.val) then
      ((List.finRange 10).filter (fun e => e ≠ d)).foldl (fun s e =>
        s.setFld (.feltLink (feltIndex d e)) Fld.feltLinkState 0) s
    else s

def execCombSourceFail (d : Die) (k : Fin 2) (s : State) : Host.Outcome State Fault Refusal := .next (doCombSourceFail d k s)

/-! ### Ring tuning (R401-R403, R416) -/

/-- R401, every 10 us. -/
def doHeaterUpdate (r : Fin 7274) (s : State) : State :=
  if s.clocksStopped then s
  else s.updOptics (fun o => { o with codes := Store.set id o.codes r.val (s.heaterCode r (s.reading (ringSensor r.val))) })

def execHeaterUpdate (r : Fin 7274) (s : State) : Host.Outcome State Fault Refusal := .next (doHeaterUpdate r s)

def portSensor (p : Port) : Sensor := Fin.ofNat 818 (816 + p.val / 32)

/-- The conditions of R402 under which a recalibration runs. -/
def State.recalAllowed (s : State) (p : Port) : Bool :=
  let past := (s.sensor (portSensor p)).past
  let hi := past.foldl max (past.headD 0)
  let lo := past.foldl min (past.headD 0)
  decide (hi - lo < 8) && decide (s.spareOf (.laneMapTx p) ≠ 0xF) && decide (s.phyState p ≠ 4)
    && !(List.finRange 9).any (fun l => (s.line l).ramp.isSome)
    && decide (((List.finRange 64).filter (fun k => k ≠ p && portDeckle k = portDeckle p
        && (s.port k).recal.isSome && !(s.port k).paused)).length < s.fld .optCtl Fld.optCtlRecalMaxPorts)

/-- Whether a recalibration of a port is due (R402). -/
def State.recalIsDue (s : State) (p : Port) : Bool :=
  let r := s.port p
  r.recalDue || decide (r.recalAt + 60000000000 * s.fld .optCtl Fld.optCtlRecalPeriodMin ≤ s.now)
    || decide ((s.reading (portSensor p) - r.recalTemp).natAbs > 8 * s.fld .optCtl Fld.optCtlRecalDelta)

/-- R402: a due recalibration starts once its conditions hold, and one that is paused resumes with the swap that frees its
next lane. Where they stop holding, it pauses at the end of the lane it works on (doLaneCalibration). -/
def doRecalibration (p : Port) (s : State) : State :=
  if !s.trained p || !s.flag .optCtl Fld.optCtlRecalEn then s
  else
    match (s.port p).recal with
    | some k =>
      if (s.port p).paused && s.recalAllowed p then (s.updPort p (fun r => { r with paused := false })).swapOut p (k - 1) else s
    | none =>
      if s.recalIsDue p && s.recalAllowed p then
        (s.updPort p (fun r => { r with recal := some 0, paused := false, recalDue := false, retry := none })).setFlag
          (.portPhy p) Fld.portPhyRecal true
      else s

def execRecalibration (p : Port) (s : State) : Host.Outcome State Fault Refusal := .next (doRecalibration p s)

/-- The management controller saves a changed table to the flash store (R403). -/
def State.saveTable (s : State) (r : Fin 7274) : State :=
  let m := s.mgmt
  let h := (List.finRange 8).foldl (fun h w => Store.set id h (8 * r.val + w.val) (s.reg (.heater r w))) m.flash.heaters
  { s with mgmt := { m with flash := { m.flash with heaters := h } } }

/-- Add what a sweep found to all 18 entries of a ring's table, and record the tense and the temperature (R403, R416). -/
def State.adjustTable (s : State) (r : Fin 7274) (code : Nat) : State :=
  let t := s.reading (ringSensor r.val)
  let d : Int := (code : Int) - s.heaterCode r t
  let entry (i : Nat) : Nat := (min 4095 (max 0 ((s.heaterEntry r i : Int) + d))).toNat
  let word (w : Nat) : Nat := (List.range 4).foldl (fun v j => if 4 * w + j < 18 then v + entry (4 * w + j) * 2 ^ (16 * j) else v) 0
  let at' := (BitVec.ofNat 16 (t / 2 % 65536).toNat).toNat
  let s' := (List.range 5).foldl (fun k w =>
    k.setReg (.heater r (Fin.ofNat 8 w)) (BitVec.ofNat 64 (word w + if w = 4 then at' * 2 ^ 32 else 0))) s
  (s'.setReg (.heater r 5) (BitVec.ofNat 64 s.tenseNow)).saveTable r

/-- End a recalibration. -/
def State.endRecal (s : State) (p : Port) : State :=
  (s.updPort p (fun r => { r with
    recal := none, paused := false, swept := none, recalAt := s.now, recalTemp := s.reading (portSensor p) })).setFlag (.portPhy p)
    Fld.portPhyRecal false

/-- A lane that failed its check: it is swept again, or, the second time, retired (R403). -/
def State.laneFailed (s : State) (p : Port) (tx : Bool) (lane : Nat) : State :=
  let map := if tx then Reg.laneMapTx p else Reg.laneMapRx p
  if (s.port p).retry ≠ some lane then s.updPort p (fun k => { k with retry := some lane })
  else
    let s := s.setMaskBit map Fld.laneMapTxRetired lane
    let s := if s.spareOf map = lane then s.setFld map Fld.laneMapTxSpare 0xF else s
    let s := s.updPort p (fun k => { k with retry := none, rxCal := if tx then k.rxCal else none })
    (if tx then s.endRecal p else s).fault 0x0202 (8 + (portDeckle p).val) p.val p.val lane

/-- The ring of a port's lane: its modulator or its filter (R416). -/
def portRing (p : Port) (lane : Nat) (tx : Bool) : Fin 7274 := Fin.ofNat 7274 ((9 * p.val + lane) * 2 + (if tx then 0 else 1))

/-- R403 at the transmitter, which works on its spare lane. The sweep ends with a code, and RX_CAL goes to the receiver; then the check
ends, the table follows, and the next active lane is freed, unless R402's conditions have stopped holding. -/
def State.calibrateTx (s : State) (p : Port) (code errors : Nat) : State :=
  let r := s.port p
  let lane := s.spareOf (.laneMapTx p)
  match r.recal with
  | none => s
  | some k =>
    if r.paused || r.txSwap.isSome || decide (lane ≥ 9) then s
    else
      match r.swept with
      | none => (s.controlBlock p 8 (16 * lane) 0).updPort p (fun x => { x with swept := some code })
      | some found =>
        let s := s.updPort p (fun x => { x with swept := none })
        if errors > 64 then s.laneFailed p true lane
        else
          let s := (s.adjustTable (portRing p lane true) found).updPort p (fun x => { x with retry := none })
          let s := s.bump (.laneEvents p) Fld.laneEventsRecals 1
          if k ≥ 8 then s.endRecal p
          else
            let go := s.recalAllowed p
            let s := s.updPort p (fun x => { x with recal := some (k + 1), paused := !go })
            if go then s.swapOut p k else s

/-- R403 at the receiver, which works on the lane of RX_CAL. A lane that was lost, carries no logical lane and is sound again becomes
the spare (R408). -/
def State.calibrateRx (s : State) (p : Port) (code errors : Nat) : State :=
  let map := Reg.laneMapRx p
  match (s.port p).rxCal with
  | none => s
  | some lane =>
    if lane ≥ 9 then s
    else if errors > 64 then s.laneFailed p false lane
    else
      let s := (s.adjustTable (portRing p lane false) code).updPort p (fun k => { k with retry := none, rxCal := none })
      let s := s.bump (.laneEvents p) Fld.laneEventsRecals 1
      let idle := decide (s.spareOf map = 0xF) && (s.laneOf map lane).isNone && !(s.fld map Fld.laneMapRxRetired).testBit lane
      if idle then s.setFld map Fld.laneMapRxSpare lane else s

/-- R403: one end's work on a lane: what a sweep found, or how many errors the check counted. -/
def doLaneCalibration (p : Port) (tx : Bool) (code : BitVec 12) (errors : BitVec 32) (s : State) : State :=
  if !s.trained p then s
  else if tx then s.calibrateTx p code.toNat errors.toNat
  else s.calibrateRx p code.toNat errors.toNat

def execLaneCalibration (p : Port) (tx : Bool) (code : BitVec 12) (errors : BitVec 32) (s : State) :
    Host.Outcome State Fault Refusal := .next (doLaneCalibration p tx code errors s)

/-! ### The ring ports (R409, R410) -/

def State.bypassOpen (s : State) : Bool := s.flag .ringStatus Fld.ringStatusBypassOpen

/-- R409, each microsecond. -/
def doRingHelloSend (s : State) : State :=
  if s.bypassOpen && !s.clocksStopped then
    s.emit (.hello [s.chip, s.chip % 16, s.fld (.routeCtl 0) Fld.routeCtlGroup16, s.fld .identFw Fld.identFwRelease,
      s.tenseState, s.fld .tenseStatus Fld.tenseStatusDepth, s.fld .ringPeer Fld.ringPeerChip])
  else s

def execRingHelloSend (s : State) : Host.Outcome State Fault Refusal := .next (doRingHelloSend s)

/-- R409: a hello on RING_IN: the sender's chip, the chip it last heard, and whether the CRC is right. -/
def doRingHello (chip heard : BitVec 14) (good : Bool) (s : State) : State :=
  if s.bypassOpen && good && !s.clocksStopped then
    let s := s.setFlag .ringStatus Fld.ringStatusInLock true
    let s := s.setReg .ringPeer (BitVec.ofNat 64 (chip.toNat + 2 ^ 14 + heard.toNat * 2 ^ 16))
    s.updOptics (fun o => { o with helloAt := s.now })
  else s

def execRingHello (chip heard : BitVec 14) (good : Bool) (s : State) : Host.Outcome State Fault Refusal :=
  .next (doRingHello chip heard good s)

/-- Nothing is heard on RING_IN. -/
def State.ringSilent (s : State) : State :=
  (s.setFlag .ringStatus Fld.ringStatusInLock false).setFlag .ringPeer Fld.ringPeerValid false

/-- R409: hellos, sent each microsecond, stop arriving. -/
def doRingHelloLoss (s : State) : State := if s.optics.helloAt + 1000 < s.now then s.ringSilent else s

def execRingHelloLoss (s : State) : Host.Outcome State Fault Refusal := .next (doRingHelloLoss s)

/-- R410: the bypass opens once the resets are released and RING_OUT has light. -/
def doBypassOpen (light : Bool) (s : State) : State :=
  if light && s.mgmt.powered && !s.pinReset && !s.clocksStopped && !s.downDies.contains 8 then
    s.setFlag .ringStatus Fld.ringStatusBypassOpen true
  else s

def execBypassOpen (light : Bool) (s : State) : Host.Outcome State Fault Refusal := .next (doBypassOpen light s)

/-- The bypass closes (R410): the ring fibre passes the device by. -/
def State.closeBypass (s : State) : State := (s.setFlag .ringStatus Fld.ringStatusBypassOpen false).ringSilent

/-! ### The twin link (R413) -/

/-- A trained width: modules in bits [2:0] and x32 in bit 3. -/
def State.twinActive (s : State) (i : Pair) (w : BitVec 4) : State :=
  let s := s.setFld (.twinStatus i) Fld.twinStatusState 2
  let s := s.setFld (.twinStatus i) Fld.twinStatusModules (w.toNat % 8)
  s.setFlag (.twinStatus i) Fld.twinStatusHalf (w.getLsbD 3)

/-- The widths of an active link agree and have a module. -/
def twinAgree (a b : BitVec 4) : Bool := a == b && decide (1 ≤ a.toNat % 8) && decide (a.toNat % 8 ≤ 4)

/-- The lanes of a width, and a training that is limited to a width (R413). -/
def twinLanes (w : BitVec 4) : Nat := w.toNat % 8 * (if w.getLsbD 3 then 32 else 64)
def twinLimit (most w : BitVec 4) : BitVec 4 := if twinLanes w ≤ twinLanes most then w else most

def State.setDegraded (s : State) (i : Pair) (b : Bool) : State :=
  [2 * i.val, 2 * i.val + 1].foldl (fun s f => s.setFlag (.folioStatus (Fin.ofNat 8 f)) Fld.folioStatusDegraded b) s

/-- R413: the widths that the two adapters of a pair trained, and those of the second training where they differ, which is limited to
the lower of the first two. -/
def State.trainTwin (s : State) (i : Pair) (a b a2 b2 : BitVec 4) : State :=
  let s := s.bump (.twinStatus i) Fld.twinStatusRetrains 1
  if twinAgree a b then (s.twinActive i a).setDegraded i false
  else
    let s := s.bump (.twinStatus i) Fld.twinStatusRetrains 1
    let low := if twinLanes a ≤ twinLanes b then a else b
    let a2 := twinLimit low a2
    let b2 := twinLimit low b2
    if twinAgree a2 b2 then (s.twinActive i a2).setDegraded i false
    else
      let s := (s.setFld (.twinStatus i) Fld.twinStatusState 3).setDegraded i true
      let s := [2 * i.val, 2 * i.val + 1].foldl (fun s f => s.setTwin (Fin.ofNat 8 f) []) s
      s.fault 0x0205 (2 * i.val) 0 i.val (a2.toNat + 16 * b2.toNat)

def doTwinTraining (i : Pair) (a b a2 b2 : BitVec 4) (s : State) : State :=
  if s.fld (.twinStatus i) Fld.twinStatusState = 1 ∧ s.clocksStopped = false then s.trainTwin i a b a2 b2 else s

def execTwinTraining (i : Pair) (a b a2 b2 : BitVec 4) (s : State) : Host.Outcome State Fault Refusal :=
  .next (doTwinTraining i a b a2 b2 s)

end Sys2Proof.Machine
end

