-- ==== Sys2Proof/Machine/HostAttach.lean ====
section
/-! DEFINITION. The host attach: host queues and launches (R452-R459, R24, R69), feature negotiation (R460), bias changes
(R451), HDM decoders and CXL.mem (R447-R450), BAR index 2 (R537), and the apertures of the parser cores (R466, R467). -/

namespace Sys2Proof.Machine

def State.updHost (s : State) (f : HostSide → HostSide) : State := { s with host := f s.host }

/-! ### The link (R446, R473, R477) -/

/-- The CXL link trains to the width and speed that it negotiates. -/
def State.linkTrain (s : State) : State :=
  s.draw.updHost (fun h => { h with
    linkUp := true, linkWidth := [16, 8, 4].getD (Config.linkWidth s.free).val 16
    linkSpeed := [32, 16, 8].getD (Config.linkSpeed s.free).val 32 })

/-- Whether an access to configuration space is answered with Configuration Request Retry Status (R473): until the CXL rail is up. -/
def State.configRetry (s : State) : Bool := !s.energy.rails.contains 28

/-! ### Queues -/

def State.hqSize (s : State) (q : HQueue) : Nat := 2 ^ s.fld (.hqSqSize q) Fld.hqSqSizeLog2
def State.hqHead (s : State) (q : HQueue) : Nat := s.fld (.hqHead q) Fld.hqHeadIndex
def State.hqLocal (s : State) (q : HQueue) : Bool := s.flag (.hqCtl q) Fld.hqCtlLoc

/-- Whether a queue fetches: enabled and not stopped by an error (R454). -/
def State.hqRuns (s : State) (q : HQueue) : Bool := s.flag (.hqCtl q) Fld.hqCtlEnable && !s.host.stopped.contains q

/-- Where a global address of a LOC 1 queue lies: a folio's ream range on this chip (R452). -/
def State.hqPlace (s : State) (addr n : Nat) : Option (Folio × Nat) :=
  if addr / 2 ^ 50 = s.chip ∧ addr / 2 ^ 46 % 16 < 8 ∧ addr % 2 ^ 46 + n ≤ reamLimit then
    some (Fin.ofNat 8 (addr / 2 ^ 46 % 16), addr % 2 ^ 46)
  else none

/-- R454: a queue stops on an error; the event of a LOC 1 queue goes to the folio that VECTOR names (R468; DEDUCED, log 122). -/
def State.hqStop (s : State) (q : HQueue) (code : Nat) : State :=
  let s := (s.setFlag (.hqCtl q) Fld.hqCtlError true).setFld (.hqCtl q) Fld.hqCtlErrorCode code
  let s := s.updHost (fun h => { h with stopped := q :: h.stopped })
  let s := s.fault 0x0501 8 q.val q.val code
  if s.hqLocal q then
    s.postEvent (Fin.ofNat 8 (s.fld (.hqCtl q) Fld.hqCtlVector)) 4 q.val (leBytes 8 (s.reg (.hqCtl q)).toNat ++ leBytes 24 0)
  else s

/-- Whether a bias change holds the tail word of a LOC 1 queue (R451). -/
def State.tailWaits (s : State) (q : HQueue) : Bool :=
  s.hqLocal q && (match s.hqPlace (64 * s.fld (.hqTailAddr q) Fld.hqTailAddrAddr) 8 with
    | some (f, off) => s.biasWaits f off 8
    | none => false)

/-- Whether a bias change holds bytes of a ring of a LOC 1 queue (R451). -/
def State.ringWaits (s : State) (q : HQueue) (addr n : Nat) : Bool :=
  s.hqLocal q && (match s.hqPlace addr n with
    | some (f, off) => s.biasWaits f off n
    | none => false)

/-- The tail of a queue: the value that the host's line held, or the word in ream; none where the read fails. -/
def State.readTail (s : State) (q : HQueue) (line : BitVec 32) : State × Option Nat :=
  if s.hqLocal q then
    match s.hqPlace (64 * s.fld (.hqTailAddr q) Fld.hqTailAddrAddr) 8 with
    | none => (s, none)
    | some (f, off) =>
      match s.engRead f off 8 with
      | (s, none) => (s, none)
      | (s, some bs) => (s, some (leNat bs % 2 ^ 32))
  else (s, some line.toNat)

/-- A tail is seen: the queue stops where it lies beyond the ring (R453, R454). A tail word that waits is read at a later poll. -/
def State.seeTail (s : State) (q : HQueue) (line : BitVec 32) : State :=
  if s.tailWaits q then s
  else
    match s.readTail q line with
    | (s, none) => s.hqStop q 2
    | (s, some tail) =>
      let s := s.updHost (fun h => { h with tails := Store.put (fun k => k.val) (fun _ => 0) h.tails q tail })
      if (tail + 2 ^ 32 - s.hqHead q) % 2 ^ 32 > s.hqSize q then s.hqStop q 1 else s

def State.hqTail (s : State) (q : HQueue) : Nat := Store.get (fun _ => 0) s.host.tails q

/-- Setting ENABLE: HEAD becomes 0 and the tail is read (R453). -/
def State.hqEnable (s : State) (q : HQueue) (line : BitVec 32) : State :=
  let s := s.setFlag (.hqCtl q) Fld.hqCtlEnable true
  let s := s.setFld (.hqHead q) Fld.hqHeadIndex 0
  (s.updHost (fun h => { h with
    stopped := h.stopped.filter (fun k => k ≠ q), tails := Store.put (fun k => k.val) (fun _ => 0) h.tails q 0 })).seeTail q line

/-- R453: a snoop of the tail line, or a write of a LOC 1 queue's tail word, which counts no snoop. -/
def doHqTailSnoop (q : HQueue) (line : BitVec 32) (s : State) : State :=
  if s.hqRuns q = false ∨ s.clocksStopped = true ∨ s.tailWaits q = true then s
  else
    let s := if s.hqLocal q then s else s.bump (.hqStatus q) Fld.hqStatusSnoops 1
    s.seeTail q line

/-- R453: the poll of every enabled queue; `lines` holds the tails of the LOC 0 queues. -/
def doHqTailPoll (lines : Vector (BitVec 32) 64) (s : State) : State :=
  if s.now < s.host.lastPoll + 1000 * s.fld .hqGlobal Fld.hqGlobalPollUs ∨ s.clocksStopped = true then s
  else
    let s := s.updHost (fun h => { h with lastPoll := s.now })
    (List.finRange 64).foldl (fun s q =>
      if s.hqRuns q then
        let old := s.hqTail q
        let s := s.seeTail q (lines.toList.getD q.val 0)
        if s.hqTail q ≠ old then s.bump (.hqStatus q) Fld.hqStatusPollHits 1 else s
      else s) s

def State.hqLaunches (s : State) (q : HQueue) : List Launch := s.host.launches.filter (fun l => l.hq = q)

/-- Keep HQ_STATUS.INFLIGHT at the entries fetched and not completed. -/
def State.countInflight (s : State) (q : HQueue) : State := s.setFld (.hqStatus q) Fld.hqStatusInflight (s.hqLaunches q).length

/-- R454, R455: the next entry is fetched; `entry` is what CXL.cache returned for a LOC 0 queue, none for a failed
read. -/
def doHqEntryFetch (q : HQueue) (entry : Option (Vector W64 16)) (s : State) : State :=
  let head := s.hqHead q
  let size := s.hqSize q
  let mine := s.hqLaunches q
  if s.hqRuns q = false ∨ head = s.hqTail q ∨ mine.length ≥ 32 ∨ mine.any (fun l => !l.checked) = true
    ∨ mine.any (fun l => l.index % size = head % size) = true ∨ s.clocksStopped = true
    ∨ s.ringWaits q (64 * s.fld (.hqSqBase q) Fld.hqSqBaseAddr + head % size * 128) 128 = true then s
  else
    let (s, words) : State × Option (List W64) :=
      if s.hqLocal q then
        match s.hqPlace (64 * s.fld (.hqSqBase q) Fld.hqSqBaseAddr + head % size * 128) 128 with
        | none => (s, none)
        | some (f, off) =>
          match s.engRead f off 128 with
          | (s, none) => (s, none)
          | (s, some bs) => (s, some ((elements 8 bs).map (fun b => BitVec.ofNat 64 (leNat b))))
      else (s, entry.map Vector.toList)
    match words with
    | none => s.hqStop q 2
    | some ws =>
      let l : Launch := ⟨s.host.nextId, q, head, ws, false, [], [], [], 0, none, 0, false⟩
      let s := s.updHost (fun h => { h with launches := h.launches ++ [l], nextId := h.nextId + 1 })
      (s.setFld (.hqHead q) Fld.hqHeadIndex ((head + 1) % 2 ^ 32)).countInflight q

/-! ### Launches -/

def State.updLaunch (s : State) (id : Nat) (f : Launch → Launch) : State :=
  s.updHost (fun h => { h with launches := h.launches.map (fun l => if l.id = id then f l else l) })

def State.launchQueue (s : State) (f : Folio) : List Nat := Store.get (fun _ => []) s.host.queues f
def State.setLaunchQueue (s : State) (f : Folio) (l : List Nat) : State :=
  (s.updHost (fun h => { h with queues := Store.put (fun k => k.val) (fun _ => []) h.queues f l })).setFld
    (.folioStatus f) Fld.folioStatusLaunchDepth l.length

/-- The folios that a packet's tile set names. -/
def Launch.folios (l : Launch) : List Folio := (List.finRange 8).filter (fun f => l.tiles.any (fun t => tileFolio t = f))

/-- The first status of R459 that the check at fetch finds. -/
def State.launchStatus (s : State) (l : Launch) : Nat :=
  let w0 := l.word 0
  let folios := l.folios
  let job := l.job
  let rsv := decide (w0 % 2 ^ 8 ≠ 1) || decide (w0 / 2 ^ 9 % 2 ^ 7 ≠ 0) || decide (w0 / 2 ^ 28 % 16 ≠ 0)
    || decide (l.word 1 ≥ 2 ^ 46) || decide (l.word 6 ≠ 0) || decide (l.word 7 ≠ 0)
  if rsv then 0x01
  else if l.program % 8 ≠ 0 ∨ l.program ≥ reamLimit then 0x02
  else if l.tiles.isEmpty then 0x03
  else if job = 0 ∨ job = 0xFFF ∨ folios.any (fun f => decide (s.allowed 0 f ≠ job)) = true then 0x04
  else if l.tiles.any (fun t => !s.flag (.pressService t) Fld.pressServiceInService) then 0x05
  else if folios.any (fun f => s.flag (.folioStatus f) Fld.folioStatusDegraded) then 0x06
  else 0

/-- The oldest entry of a queue that has not been checked. -/
def State.unchecked (s : State) (q : HQueue) : Option Launch := (s.hqLaunches q).find? (fun l => !l.checked)

def Launch.kind (l : Launch) : Nat := l.word 0 % 2 ^ 8

/-- R455, R459: the entry is checked; a good one is split into parts, which enter all their launch queues in one step or
wait. A part for a folio in reset is aborted (R491). -/
def doLaunch (q : HQueue) (s : State) : State :=
  match s.unchecked q with
  | none => s
  | some l =>
    if l.kind = 0 ∨ s.clocksStopped = true then s
    else
      let st := s.launchStatus l
      if st ≠ 0 then s.updLaunch l.id (fun l => { l with checked := true, status := st, tense := s.tenseNow })
      else
        let folios := l.folios
        if folios.any (fun f => decide ((s.launchQueue f).length ≥ 64)) then s
        else
          let up := folios.filter (fun f => !s.downDies.contains (folioDie f))
          let s := s.updLaunch l.id (fun l =>
            { l with checked := true, parts := up, status := if up.length = folios.length then 0 else 0x09 })
          up.foldl (fun s f => s.setLaunchQueue f (s.launchQueue f ++ [l.id])) s

/-- What a tile takes at dispatch (R69); what the table does not name stays (R429, R431 and R432 run on). -/
def TileState.dispatched (x : TileState) (l : Launch) (share : Nat) : TileState :=
  { TileState.reset with
    s := (List.range 8).foldl (fun m i =>
      Store.put (fun k => k.val) (fun _ => 0) m (Fin.ofNat 32 (i + 1)) (BitVec.ofNat 64 (l.word (8 + i)))) []
    job := l.job, launch := some l.id, share := share, barrierGroup := x.barrierGroup, barrierState := x.barrierState,
    target := x.target, paceFrac := x.paceFrac, paceCount := x.paceCount, usMeter := x.usMeter,
    winMeter := x.winMeter, mcMeter := x.mcMeter, lastUsUw := x.lastUsUw, lastDepart := x.lastDepart, pulp := x.pulp,
    scrub := x.scrub, dispatching := 32 }

/-- The registers that a dispatch sets, the instruction buffer that it fills from the program's first line on, and the clock it
needs (R38, R68, R69). -/
def State.dispatchTile (s : State) (t : Tile) (l : Launch) (share : Nat) : State :=
  let first := l.program / 64 * 64
  let s := s.updTile t (fun x => { x.dispatched l share with image := some (first, first + 64 * ibufLines, s.mem) })
  let s := s.setReg (.seqPc t) (BitVec.ofNat 64 l.program)
  let s := s.setReg (.scoreboard t) 0xF000
  let s := [Reg.tagError t, .numStatus t, .strict t, .srSeed t, .srStep t].foldl (fun s r => s.setReg r 0) s
  (s.setFlag (.seqCtl t) Fld.seqCtlRun true).need (.tile t)

/-- Whether a tile can take a part: it has halted, and is not in reset (R24). -/
def State.tileFree (s : State) (t : Tile) : Bool :=
  !s.flag (.seqCtl t) Fld.seqCtlRun && (s.tile t).halting.isNone && !(s.tile t).inReset

/-- The part of a launch on a folio leaves its launch queue. -/
def State.dropPart (s : State) (f : Folio) (id : Nat) : State :=
  (s.setLaunchQueue f ((s.launchQueue f).filter (fun k => k ≠ id))).updLaunch id (fun l =>
    { l with parts := l.parts.filter (fun k => k ≠ f) })

/-- R24, R69, R459: the launch queue of a folio dispatches a part, or refuses it while the device holds no tense lock. An
earlier part of the queue that names one of its tiles goes first. -/
def doLaunchDispatch (f : Folio) (q : HQueue) (index : BitVec 32) (s : State) : State :=
  match s.host.launches.find? (fun l => l.hq = q && decide (l.index = index.toNat) && l.parts.contains f) with
  | none => s
  | some l =>
    let tiles := l.tiles.filter (fun t => tileFolio t = f)
    let earlier := (s.launchQueue f).takeWhile (fun k => k ≠ l.id)
    let behind := earlier.any (fun k =>
      match s.host.launches.find? (fun m => m.id = k) with
      | some m => m.tiles.any (fun t => tiles.contains t)
      | none => false)
    if s.tense.quiet = true ∨ behind = true ∨ s.downDies.contains (folioDie f) = true ∨ s.clocksStopped = true then s
    else if s.tenseLocked = false then
      let s := (s.dropPart f l.id).updLaunch l.id (fun l => { l with status := 0x07 })
      if l.tense = 0 then s.updLaunch l.id (fun l => { l with tense := s.tenseNow }) else s
    else if s.tenseNow < l.start ∨ tiles.all s.tileFree = false then s
    else
      let share := l.envelopeW * 1000000 * tiles.length / max 1 l.tiles.length
      let s := tiles.foldl (fun s t => s.dispatchTile t l share) s
      let late := if l.start ≠ 0 ∧ s.tenseNow > l.start then some (max (l.late.getD 0) (s.tenseNow - l.start)) else l.late
      (s.dropPart f l.id).updLaunch l.id (fun k => { k with
        running := k.running ++ tiles, late := late, tense := if k.tense = 0 then s.tenseNow else k.tense })

/-- The completion record of R458, with the first status of R459 that applies. -/
def State.launchRecord (s : State) (l : Launch) : List Byte :=
  let bad := l.bad
  let lowest := (bad.map (fun (t : Tile) => t.val)).foldl min 0xFFFF
  let st := if (l.status = 0 ∨ l.status = 0x09) ∧ bad ≠ [] then 0x08 else l.status
  leBytes 2 (l.word 0 / 2 ^ 32) ++ leBytes 1 st
    ++ leBytes 1 (1 - l.index / s.hqSize l.hq % 2 + (if l.late.isSome then 2 else 0)) ++ leBytes 4 l.index
    ++ leBytes 8 (l.late.getD 0) ++ leBytes 2 bad.length ++ leBytes 2 lowest ++ leBytes 4 0 ++ leBytes 8 l.tense

/-- The address of an entry's slot of the completion ring. -/
def State.cplAddr (s : State) (l : Launch) : Nat := 64 * s.fld (.hqCqBase l.hq) Fld.hqCqBaseAddr + l.index % s.hqSize l.hq * 32

/-- Write an entry's record to its slot of the completion ring, and tell the host or the folio's parser cores (R455,
R458, R468). -/
def State.completeEntry (s : State) (l : Launch) : State :=
  let q := l.hq
  let rec' := s.launchRecord l
  let addr := s.cplAddr l
  let vector := s.fld (.hqCtl q) Fld.hqCtlVector
  let s := (s.updHost (fun h => { h with launches := h.launches.filter (fun k => k.id ≠ l.id) })).countInflight q
  if s.hqLocal q then
    let s := match s.hqPlace addr 32 with
      | some (f, off) => s.folioWrite f none off rec'
      | none => s
    s.postEvent (Fin.ofNat 8 vector) 3 q.val rec'
  else
    let s := s.emit (.hostWrite addr rec')
    if (l.word 0).testBit 8 && s.feature 1 then s.emit (.msix vector) else s

/-- R456: a NOP entry completes with OK. -/
def doHqNop (q : HQueue) (s : State) : State :=
  match s.unchecked q with
  | none => s
  | some l =>
    if l.kind ≠ 0 ∨ s.clocksStopped = true ∨ s.ringWaits q (s.cplAddr l) 32 = true then s
    else s.completeEntry { l with tense := s.tenseNow }

/-- R457: every tile of the set has halted, or the packet was refused. -/
def doLaunchComplete (q : HQueue) (index : BitVec 32) (s : State) : State :=
  match s.host.launches.find? (fun l => l.hq = q && decide (l.index = index.toNat) && l.checked) with
  | none => s
  | some l =>
    if l.parts ≠ [] ∨ l.running ≠ [] ∨ s.clocksStopped = true ∨ s.ringWaits q (s.cplAddr l) 32 = true then s
    else s.completeEntry l

/-- Discard what a reset takes from the launches: parts on some folios, and tiles that run (R459). -/
def State.abortLaunches (s : State) (folio : Folio → Bool) (tile : Tile → Bool) : State :=
  let s := s.updHost (fun h => { h with
    launches := h.launches.map (fun l =>
      if l.parts.any folio || l.running.any tile then
        { l with
          parts := l.parts.filter (fun f => !folio f)
          running := l.running.filter (fun t => !tile t)
          status := if l.status = 0 then 0x09 else l.status }
      else l)
    queues := h.queues.filter (fun e => !folio e.1) })
  (List.finRange 8).foldl (fun s f => if folio f then s.setFld (.folioStatus f) Fld.folioStatusLaunchDepth 0 else s) s

/-! ### Feature negotiation, bias changes and decoders -/

/-- R460: FEAT_CTL.COMMIT while DONE is 0. -/
def State.featCommit (s : State) : State :=
  let s := (List.finRange 4).foldl (fun s w => s.setReg (.featEnabled w) (s.reg (.featDriver w) &&& s.reg (.featDevice w))) s
  s.setFlag .featCtl Fld.featCtlDone true

/-- The device accesses that are queued for some pages complete (R451). -/
def State.settlePages (s : State) (page count : Nat) : State :=
  (List.range count).foldl (fun s i => s.settleOps (Fin.ofNat 8 ((page + i) / 131072)) ((page + i) % 131072 * 2 ^ 21) (2 ^ 21)) s

/-- R451: BIAS_FLIP_CTL.GO. A request for host bias lets the accesses queued for its pages complete first. -/
def State.biasGo (s : State) : State :=
  let page := s.fld .biasFlipPage Fld.biasFlipPagePage
  let count := s.fld .biasFlipPage Fld.biasFlipPageCount
  let host := s.flag .biasFlipPage Fld.biasFlipPageHost
  if s.flag .biasFlipCtl Fld.biasFlipCtlBusy || decide (page + count > 2 ^ 20) then s.fault 0x0502 8 0 page count
  else
    let s := if host then s.settlePages page count else s
    let s := s.setFlag .biasFlipCtl Fld.biasFlipCtlBusy true
    let s := s.updHost (fun h => { h with flip := some (page, count, host) })
    if host then s else s.emit (.flush page count)

/-- R451, R253: the bias change completes: the folio caches drop the lines of pages that go to host bias. -/
def doBiasFlipDone (s : State) : State :=
  match s.host.flip with
  | none => s
  | some (page, count, host) =>
    if s.clocksStopped then s
    else
      let pages := (List.range count).map (fun i => page + i)
      let rest := s.hostPages.filter (fun p => !pages.contains p)
      let s := { s with hostPages := if host then rest ++ pages else rest }
      let s :=
        if host then
          (List.finRange 8).foldl (fun s f =>
            let c := s.cache f
            let keep := c.lines.filter (fun e => !pages.contains (f.val * 131072 + e.line / 2 ^ 15))
            if keep.length = c.lines.length then s else s.setCache f { c with lines := keep }) s
        else s
      let s := s.updHost (fun h => { h with flip := none })
      ((s.setFlag .biasFlipCtl Fld.biasFlipCtlBusy false).setFlag .biasFlipCtl Fld.biasFlipCtlDone true).postHeld

def State.decoder (s : State) (d : Fin 2) : Decoder := Store.get (fun _ => Decoder.reset) s.host.decoders d
def State.setDecoder (s : State) (d : Fin 2) (v : Decoder) : State :=
  s.updHost (fun h => { h with decoders := Store.put (fun k => k.val) (fun _ => Decoder.reset) h.decoders d v })

/-- R447: a decoder commit. Base, size and DPA skip are in units of 256 MiB; WAYS 0 encodes one way, and decoder 1 commits
only after decoder 0 (PRESUMED from CXL 2.0, log 130). -/
def doHdmCommit (d : Fin 2) (base size skip : BitVec 36) (ways : BitVec 4) (lock : Bool) (s : State) : State :=
  let unit := 2 ^ 28
  let other := s.decoder (1 - d)
  let start := skip.toNat * unit + (if d = 1 then other.dpa + other.size else 0)
  let n := size.toNat * unit
  let bad := decide (ways ≠ 0) || decide (start + n > 2 ^ 41) || (decide (d = 1) && !other.committed)
    || (other.committed && rangesMeet start n other.dpa other.size)
  if (s.decoder d).locked then s
  else if bad then s.setDecoder d { Decoder.reset with failed := true }
  else s.setDecoder d ⟨base.toNat * unit, n, start, true, false, lock⟩

/-! ### CXL.mem and BAR index 2 -/

/-- The DPA of a host physical address. -/
def State.dpaOf (s : State) (hpa : Nat) : Option Nat :=
  ((List.finRange 2).find? (fun d => (s.decoder d).committed && decide ((s.decoder d).base ≤ hpa)
    && decide (hpa < (s.decoder d).base + (s.decoder d).size))).map (fun d => (s.decoder d).dpa + (hpa - (s.decoder d).base))

/-- Where a CXL.mem access goes; none: it performs nothing and is recorded (R449). -/
def State.memPlace (s : State) (hpa : Nat) : Option (Folio × Nat) :=
  match s.dpaOf (hpa / 64 * 64) with
  | some dpa => if s.ready && decide (dpa < 2 ^ 41) then some (Fin.ofNat 8 (dpa / 2 ^ 38), dpa % 2 ^ 38) else none
  | none => none

def State.dropMem (s : State) (hpa : Nat) : State := s.fault 0x0500 8 0 ((s.dpaOf (hpa / 64 * 64)).getD hpa) 0

/-- R449, R450, R252. -/
def doCxlMemRead (hpa : W64) (s : State) : State :=
  if s.clocksStopped then s
  else
    match s.memPlace hpa.toNat with
    | none => (s.dropMem hpa.toNat).emit (.readData (List.replicate 64 0))
    | some (f, off) =>
      match s.hdmRead f off 64 with
      | (s, none) => ((s.updHost (fun h => { h with aer := true })).emit (.readData (List.replicate 64 0))).emit .aer
      | (s, some bs) => s.emit (.readData bs)

/-- Write bytes at a folio's engines for the host: one that R241 refuses is dropped, with the offset recorded (R449). -/
def State.hostStore (s : State) (f : Folio) (off : Nat) (bs : List Byte) : State :=
  if s.regionBlocks f off bs.length then s.fault 0x0500 8 0 off 0 else (s.hdmWrite f off bs).1

/-- R449, R252. -/
def doCxlMemWrite (hpa : W64) (data : Payload) (s : State) : State :=
  if s.clocksStopped then s
  else
    match s.memPlace hpa.toNat with
    | none => s.dropMem hpa.toNat
    | some (f, off) => s.hostStore f off (payloadBytes data)

/-- BAR index 2 in FOLIO_0's ream (R452). -/
def bar2Base : Nat := 0x3FFC000000

/-- R537. A read that meets an uncorrectable error completes with an error (DEDUCED from R222, log 131). -/
def doBar2Read (off : BitVec 26) (n : BitVec 13) (s : State) : State :=
  if s.clocksStopped then s
  else if s.ready = false ∨ off.toNat + n.toNat > 2 ^ 26 then s.emit .readError
  else
    match s.hdmRead 0 (bar2Base + off.toNat) n.toNat with
    | (s, none) => s.emit .readError
    | (s, some bs) => s.emit (.readData bs)

/-- The contiguous runs of enabled bytes, each with its first index. -/
def byteRuns : Nat → List (Byte × Bool) → List (Nat × List Byte)
  | _, [] => []
  | i, (b, true) :: rest =>
    match byteRuns (i + 1) rest with
    | (j, bs) :: more => if j = i + 1 then (i, b :: bs) :: more else (i, [b]) :: (j, bs) :: more
    | [] => [(i, [b])]
  | i, (_, false) :: rest => byteRuns (i + 1) rest

/-- R537: one STORE for each contiguous run. -/
def doBar2Write (off : BitVec 26) (data : List (Byte × Bool)) (s : State) : State :=
  if s.clocksStopped then s
  else if s.ready = false ∨ off.toNat + data.length > 2 ^ 26 then s.emit .readError
  else (byteRuns 0 data).foldl (fun s r => s.hostStore 0 (bar2Base + off.toNat + r.1) r.2) s

/-! ### Apertures and fences of the parser cores -/

def amoCode : Amo → Nat
  | .add => 0x08
  | .and => 0x09
  | .or => 0x0A
  | .xor => 0x0B
  | .min => 0x0C
  | .max => 0x0D
  | .minu => 0x0E
  | .maxu => 0x0F
  | .swap => 0x10

/-- Whether an operation reads: the bytes are output to the hart. -/
def opReads : HartOp → Bool
  | .load => true
  | .store _ => false
  | .amo _ _ => true
  | .lr => true
  | .sc _ _ => false

/-- Whether a hart waits for an aperture access. -/
def State.hartWaits (s : State) (f : Folio) (h : Fin 4) : Bool := s.waits (.hart f h)

/-- R466: an access of `2^size` bytes at a 40-bit offset in APERTURE_n; the reply or the access fault comes later, unless
the aperture or the allow-list refuses it at once. -/
def doApertureAccess (f : Folio) (h : Fin 4) (n : Fin 16) (off : BitVec 40) (size : Fin 4) (op : HartOp) (s : State) : State :=
  let len := 2 ^ size.val
  let addr := 2 ^ 55 + n.val * 2 ^ 40 + off.toNat
  let r := Reg.aperture f n
  let job := s.allowed 0 f
  let g := s.fld r Fld.apertureOffHi * 2 ^ 40 + off.toNat
  let plan : Option (Nat × List Byte) :=
    match op with
    | .load => some (0, [])
    | .store d => some (1, leBytes len d.toNat)
    | .amo a d => if size.val < 2 then none else some (amoCode a, leBytes len d.toNat)
    | .lr => none
    | .sc _ _ => none
  if s.hartWaits f h || s.clocksStopped || s.downDies.contains (folioDie f) then s
  else
    match plan with
    | none => s.hartFault f h addr
    | some (code, data) =>
      if s.flag r Fld.apertureValid = false ∨ job = 0 ∨ off.toNat % len ≠ 0 then s.hartFault f h addr
      else
        match (s.updHart f h (fun r => { r with access := some (addr, opReads op, code ≠ 0) })).request (folioDie f) parserNode
            (.hart f h) (BitVec.ofNat 12 job) (s.fld r Fld.apertureChip) (s.fld r Fld.apertureDie) 2 1 (memRequest g code len data) with
        | some s => s
        | none => s

/-- R467: a FENCE ends once the earlier accesses that its predecessor set (I, O, R, W in bits 3 to 0) names have ended: writes for O
and W, reads for I and R. An aperture access is the only one that is still under way when the hart's next command comes. -/
def doHartFence (f : Folio) (op : HartFenceOp) (s : State) : State :=
  let held := s.hartWaits f op.hart && (match (s.hart f op.hart).access with
    | some (_, reads, writes) =>
      (writes && (op.pred.getLsbD 2 || op.pred.getLsbD 0)) || (reads && (op.pred.getLsbD 3 || op.pred.getLsbD 1))
    | none => true)
  if held || s.clocksStopped then s else s.emit (.fenceDone f op.hart)

/-! ### The commands -/

def execHqTailSnoop (q : HQueue) (line : BitVec 32) (s : State) : Host.Outcome State Fault Refusal :=
  .next (doHqTailSnoop q line s)
def execHqTailPoll (lines : Vector (BitVec 32) 64) (s : State) : Host.Outcome State Fault Refusal :=
  .next (doHqTailPoll lines s)
def execHqEntryFetch (q : HQueue) (entry : Option (Vector W64 16)) (s : State) : Host.Outcome State Fault Refusal :=
  .next (doHqEntryFetch q entry s)
def execLaunch (q : HQueue) (s : State) : Host.Outcome State Fault Refusal := .next (doLaunch q s)
def execHqNop (q : HQueue) (s : State) : Host.Outcome State Fault Refusal := .next (doHqNop q s)
def execLaunchDispatch (f : Folio) (q : HQueue) (index : BitVec 32) (s : State) : Host.Outcome State Fault Refusal :=
  .next (doLaunchDispatch f q index s)
def execLaunchComplete (q : HQueue) (index : BitVec 32) (s : State) : Host.Outcome State Fault Refusal :=
  .next (doLaunchComplete q index s)
def execBiasFlipDone (s : State) : Host.Outcome State Fault Refusal := .next (doBiasFlipDone s)
def execHdmCommit (d : Fin 2) (base size skip : BitVec 36) (ways : BitVec 4) (lock : Bool) (s : State) :
    Host.Outcome State Fault Refusal := .next (doHdmCommit d base size skip ways lock s)
def execCxlMemRead (hpa : W64) (s : State) : Host.Outcome State Fault Refusal := .next (doCxlMemRead hpa s)
def execCxlMemWrite (hpa : W64) (data : Payload) (s : State) : Host.Outcome State Fault Refusal :=
  .next (doCxlMemWrite hpa data s)
def execBar2Read (off : BitVec 26) (n : BitVec 13) (s : State) : Host.Outcome State Fault Refusal := .next (doBar2Read off n s)
def execBar2Write (off : BitVec 26) (data : List (Byte × Bool)) (s : State) : Host.Outcome State Fault Refusal :=
  .next (doBar2Write off data s)
def execApertureAccess (f : Folio) (h : Fin 4) (n : Fin 16) (off : BitVec 40) (size : Fin 4) (op : HartOp) (s : State) :
    Host.Outcome State Fault Refusal := .next (doApertureAccess f h n off size op s)
def execHartFence (f : Folio) (op : HartFenceOp) (s : State) : Host.Outcome State Fault Refusal := .next (doHartFence f op s)

end Sys2Proof.Machine
end

