-- ==== Sys2Proof/Machine/Reset.lean ====
section
/-! DEFINITION. Resets (R490-R492), stops of the clocks (R441-R443, R550, R551), the management islands (R493-R495) and
the power of the device (R476, R549, R550). -/

namespace Sys2Proof.Machine

def State.updMgmt (s : State) (f : Mgmt → Mgmt) : State := { s with mgmt := f s.mgmt }

/-! ### Pins and status -/

def State.devState (s : State) : Nat := s.fld .devStatus Fld.devStatusState
def State.devMode (s : State) : Nat := s.fld .devStatus Fld.devStatusMode

/-- READY is high while STATE is READY, and low while VDD_IO (rail 29) is absent (R497, R552). -/
def State.readyPin (s : State) : Bool := decide (s.devState = 1) && s.energy.rails.contains 29

/-- ALERT_N is low while an entry that is not acknowledged has a severity at or above ALERT_LEVEL (R497, R500). True is
low. -/
def State.alertLow (s : State) : Bool :=
  let tail := s.fld .faultRingTail Fld.faultRingTailIndex
  let first := max (s.fld .faultRingAck Fld.faultRingAckIndex) (s.fld .faultRingHead Fld.faultRingHeadIndex)
  (List.range 4096).any (fun k =>
    decide (first + k < tail)
      && decide ((s.reg (.faultSlot (Fin.ofNat 4096 (first + k)) 1)).toNat % 4 ≥ s.fld .faultRingCtl Fld.faultRingCtlAlertLevel))

/-- DEV_STATUS.MODE with what follows it in the same cycle: a coolant loss stops the device in every mode but service
(R443, R445, R474). -/
def State.setMode (s : State) (m : Nat) : State :=
  (s.setFld .devStatus Fld.devStatusMode m).setFlag .coolantStatus Fld.coolantStatusStopArmed (decide (m ≠ 1))

def State.setStatus (s : State) (state step reason : Nat) : State :=
  let s := s.setFld .devStatus Fld.devStatusState state
  (s.setFld .devStatus Fld.devStatusStep step).setFld .devStatus Fld.devStatusReason reason

/-! ### Which registers a reset returns -/

/-- The tile whose reset returns a register (R154, R186, R218): PRESS_REPAIR and PRESS_SERVICE stay. -/
def tileOfReg : Reg → Option Tile
  | .seqCtl t | .seqPc t | .excCause t | .excPc t | .excInfo t | .numStatus t | .strict t | .srSeed t | .srStep t
  | .checkMiss t | .scoreboard t | .tagError t | .haltCode t | .checkRows t | .checkSkipped t | .checkLast t
  | .pressSteps t | .pressStalls t | .inflRows t | .inflFuncRows t | .inflEmpty t | .laneRangeLast t | .inflCouchWait t
  | .vatCorrected t | .vatUeLast t | .vatPortWait t | .dmaBytes t | .dmaRejects t | .dmaLastReject t => some t
  | _ => none

/-- The folio whose reset returns a register; FOLIO_STATUS is answered by DECKLE_0 (R533). -/
def folioOfReg : Reg → Option Folio
  | .bufBase f _ | .bufSize f _ | .bufCtl f _ | .fcCtl f | .fcHits f | .fcMisses f | .fcPrefIssued f | .fcPrefUsed f
  | .fcHintsDropped f | .fcCorrected f | .fcUeLast f | .ecqBase f _ | .ecqSize f _ | .ecqTailAddr f _ | .ecqHead f _
  | .ecqCtl f _ | .ecqDone f _ | .engOps f | .engNaks f | .engCmds f | .regionTarget f _ | .regionCount f _
  | .regionSlot f _ | .regionState f _ | .aperture f _ | .evqBase f | .evqSize f | .evqTail f | .evqHead f | .evqCtl f
  | .evqStatus f => some f
  | .xportRetx d | .xportTimeouts d | .xportNaksSent d | .xportNaksRcvd d | .xportLastNak d | .xportDuplicates d
  | .xportAssemblyDrops d | .xportOrphans d | .xportCrcDrops d | .xportNakSuppressed d =>
    if d.val < 8 then some (Fin.ofNat 8 d.val) else none
  | r => (tileOfReg r).map tileFolio

/-- The deckle whose reset returns a register (R319, R415): RETX_TIMER and the collective registers stay (R383). -/
def deckleOfReg : Reg → Option Deckle
  | .deckleId n | .switchCtl n | .switchStatus n | .allowList0 n | .allowList1 n | .portMode n | .xbarPushouts n
  | .xbarCutThrough n | .origStore n | .portLosses n | .requeued n | .mirrorCtl n _ | .mirrorSrc n _ | .mirrorValueLo n _
  | .mirrorValueHi n _ | .mirrorMaskLo n _ | .mirrorMaskHi n _ | .mirrorSent n _ | .mirrorDrops n _ | .routeCtl n
  | .memberValid n | .portLive n | .ceDepth n | .globalTable n _ => some n
  | .portViol p | .portViolLimit p | .portCrcDrops p | .portPhy p => some (portDeckle p)
  | .xportRetx d | .xportTimeouts d | .xportNaksSent d | .xportNaksRcvd d | .xportLastNak d | .xportDuplicates d
  | .xportAssemblyDrops d | .xportOrphans d | .xportCrcDrops d | .xportNakSuppressed d =>
    if d.val < 8 then none else some (Fin.ofNat 2 (d.val - 8))
  | _ => none

/-- The host-attach registers, which a CXL reset returns (R470). -/
def hostReg : Reg → Bool
  | .featDevice _ | .featDriver _ | .featEnabled _ | .featCtl | .hqGlobal | .biasFlipPage | .biasFlipCtl | .hqSqBase _
  | .hqSqSize _ | .hqTailAddr _ | .hqHead _ | .hqCqBase _ | .hqCtl _ | .hqStatus _ => true
  | _ => false

/-- The registers that the AON island holds across a whole-device reset (R444, R490, R502, R521). -/
def aonReg : Reg → Bool
  | .thermalEvents | .tripRecord | .marginStatus | .mcStatus | .faultRingTail | .faultRingHead | .faultRingLost
  | .faultRingCtl | .faultRingAck | .faultSlot _ _ | .scoreCtl | .scoreCe | .scoreRetry | .scoreRetrain | .scoreCrc
  | .scoreTotal => true
  | _ => false

/-! ### Whole-device reset -/

/-- The mask of what COOLANT_STATUS and DEBUG_STATUS keep: LOSSES and the level of the input; REJECTS. -/
def coolantKept : W64 := Fld.coolantStatusLosses.mask ||| Fld.coolantStatusCoolantOk.mask
def debugKept : W64 := Fld.debugStatusRejects.mask

/-- R490: everything returns to reset but what the AON island holds, a takeover between its islands with it, the fuses, the flash,
and the contents of memory, of which nothing is known. `hold` leaves the device in HOLD (R475). A stop that waits is logged (R501). -/
def State.wholeReset (s : State) (reason : Nat) (hold : Bool) : State :=
  let m := s.mgmt
  let r : State := { State.reset with
    regs := s.regs.filter (fun e => aonReg e.1)
    now := s.now
    free := s.free
    pending := s.pending
    out := s.out
    mem := ⟨s.mem.epoch + 1, []⟩
    spares := s.spares
    energy := { Energy.reset with
      trims := s.energy.trims, rails := s.energy.rails, coolantLow := s.energy.coolantLow }
    mgmt := { Mgmt.reset with
      fuses := m.fuses, flash := m.flash, powered := m.powered, failed := m.failed, perst := m.perst,
      resetLow := m.resetLow, takeover := m.takeover, decayHours := m.decayHours } }
  let r := r.setReg .coolantStatus ((s.reg .coolantStatus &&& coolantKept) ||| Fld.coolantStatusStopArmed.mask)
  let r := r.setReg .debugStatus (s.reg .debugStatus &&& debugKept)
  let r := r.setStatus (if hold then 2 else 0) 1 reason
  if m.unlogged then r.fault 0x0401 15 0 (s.reg .tripRecord).toNat 0 else r

/-! ### Domain resets -/

/-- Forget what a die has in the fabric (R490). -/
def State.clearDie (s : State) (d : Die) : State :=
  s.updNet (fun w => { w with
    txns := w.txns.filter (fun t => t.die ≠ d)
    cooling := w.cooling.filter (fun c => c.1 ≠ d)
    assemblies := w.assemblies.filter (fun a => a.die ≠ d)
    naked := w.naked.filter (fun a => a.die ≠ d)
    dups := w.dups.filter (fun a => a.die ≠ d) })

/-- The clock domains of a folio. -/
def domainInFolio (f : Folio) : Domain → Bool
  | .tile t => tileFolio t = f
  | .twin g | .cache g | .parser g | .mesh g => g = f
  | .reamBase m | .reamPhy m => m.val / 4 = f.val
  | _ => false

/-- The user of a transaction belongs to a folio. -/
def TxnUser.inFolio (f : Folio) : TxnUser → Bool
  | .dma t _ => tileFolio t = f
  | .hart g _ => g = f
  | _ => false

def folioPair (f : Folio) : Pair := Fin.ofNat 4 (f.val / 2)
def twinFolio (f : Folio) : Folio := Fin.ofNat 8 (if f.val % 2 = 0 then f.val + 1 else f.val - 1)
def folioReams (f : Folio) : List Ream := (List.range 4).map (fun q => Fin.ofNat 32 (4 * f.val + q))

/-- R490, R491: a folio enters reset. -/
def State.folioReset (s : State) (f : Folio) : State :=
  let s : State := s.abortLaunches (fun g => g = f) (fun t => tileFolio t = f)
  let s := s.resetRegs (fun r => folioOfReg r = some f)
  let s := (folioTiles f).foldl (fun s t => s.setTile t { TileState.reset with inReset := true }) s
  let s := s.updAfter (fun t => decide (tileFolio t = f)) (fun _ => [])
  let s := s.clearDie (folioDie f)
  let s := s.updNet (fun w => { w with
    outbox := w.outbox.filter (fun c => c.folio ≠ f)
    meshes := w.meshes.filter (fun c => c.folio ≠ f)
    arrived := w.arrived.filter (fun c => c.folio ≠ f)
    meshCredit := w.meshCredit.filter (fun e => e.1 / 1600 ≠ f.val)
    done := w.done.filter (fun d => !d.user.inFolio f)
    ready := w.ready.filter (fun o => o.folio ≠ f)
    harts := w.harts.filter (fun e => e.1 / 4 ≠ f.val)
    events := w.events.filter (fun e => e.folio ≠ f) })
  let s : State := { s with
    caches := Store.erase s.caches f
    twins := Store.erase s.twins f
    ecqs := s.ecqs.filter (fun e => e.1 / 16 ≠ f.val)
    clocks := s.clocks.filter (fun c => !domainInFolio f c.domain)
    downDies := s.downDies ++ [folioDie f] }
  let s := s.updEnergy (fun e => { e with metered := e.metered.filter (fun g => g ≠ f) })
  let s := (folioReams f).foldl (fun s m => s.setFlag (.reamStatus m) Fld.reamStatusSelfRefresh true) s
  let s := s.setFlag (.folioStatus f) Fld.folioStatusInReset true
  let s := if s.downDies.contains (folioDie (twinFolio f)) then
      s.updMgmt (fun m => { m with pairReset := folioPair f :: m.pairReset })
    else s
  if decide (s.fld (.twinStatus (folioPair f)) Fld.twinStatusState = 3) then s
  else s.setFld (.twinStatus (folioPair f)) Fld.twinStatusState 0

/-- A folio's reset ends: its reams leave self-refresh with their domains started (R227), and its twin link retrains, unless it is
held degraded (R413, R491). -/
def State.folioReleased (s : State) (f : Folio) : State :=
  let s := { s with
    tiles := s.tiles.filter (fun e => tileFolio e.1 ≠ f)
    downDies := s.downDies.filter (fun d => d ≠ folioDie f) }
  let s := (folioReams f).foldl (fun s m =>
    ((s.need (.reamPhy m)).need (.reamBase m)).setFlag (.reamStatus m) Fld.reamStatusSelfRefresh false) s
  let s := s.setFlag (.folioStatus f) Fld.folioStatusInReset false
  let i := folioPair f
  if s.downDies.contains (folioDie (twinFolio f)) then s
  else if s.fld (.twinStatus i) Fld.twinStatusState = 3 ∧ s.mgmt.pairReset.contains i = false then s
  else
    (s.updMgmt (fun m => { m with pairReset := m.pairReset.filter (fun k => k ≠ i) })).setFld (.twinStatus i)
      Fld.twinStatusState 1

/-- What a deckle's reset leaves of a port's record: whether test mode disabled the port (R474). -/
def PortRec.kept (r : PortRec) : PortRec := { PortRec.reset with testCleared := r.testCleared }

/-- R490, R378, R383, R259, R410: a deckle enters reset. -/
def State.deckleReset (s : State) (n : Deckle) : State :=
  let d := deckleDie n
  let s := { s with downDies := s.downDies ++ [d] }
  let s := (List.finRange 64).foldl (fun s g => s.faultGroup g 0x2D true) s
  let live := s.reg (.portLive n)
  let s := (s.resetRegs (fun r => deckleOfReg r = some n)).setReg (.portLive n) live
  let s := (List.finRange 64).foldl (fun s p => if portDeckle p = n then s.setPortLive p false else s) s
  let s := s.clearDie d
  let s := s.updNet (fun w => { w with
    flights := w.flights.filter (fun e =>
      match e.1 with
      | .die k => decide (k ≠ d)
      | .core m _ => decide (m ≠ n))
    xbar := Store.erase w.xbar n
    credit := w.credit.filter (fun e => portDeckle e.1 ≠ n) })
  let s := s.updOptics (fun o => { o with
    ports := (o.ports.map (fun e => if portDeckle e.1 = n then (e.1, e.2.kept) else e)).filter
      (fun e => decide (e.2 ≠ PortRec.reset)) })
  if n = 0 then (s.setFld .tenseStatus Fld.tenseStatusPrimary 1).closeBypass else s

/-- A deckle's reset ends: its unit of tense is primary again if it is DECKLE_0's (R259). -/
def State.deckleReleased (s : State) (n : Deckle) : State :=
  let s := { s with downDies := s.downDies.filter (fun d => d ≠ deckleDie n) }
  if n = 0 then s.setFld .tenseStatus Fld.tenseStatusPrimary 0 else s

/-- R490, R491: a tile enters reset; its program ends without a halt record. -/
def State.tileReset (s : State) (t : Tile) : State :=
  let s := s.resetRegs (fun r => tileOfReg r = some t)
  let s := s.updTile t (fun x => { TileState.reset with inReset := true, launch := x.launch, share := x.share })
  let s := s.updAfter (fun u => decide (u = t)) (fun _ => [])
  let mine (u : TxnUser) : Bool :=
    match u with
    | .dma k _ => decide (k = t)
    | _ => false
  let s := s.updNet (fun w => { w with
    txns := w.txns.filter (fun x => !mine x.user), done := w.done.filter (fun x => !mine x.user) })
  { s with clocks := s.clocks.filter (fun c => c.domain ≠ .tile t) }

/-- The tile's reset ends: its launch counts the tile as halted with kind STOPPED (R491). -/
def State.tileReleased (s : State) (t : Tile) : State :=
  (s.leaveLaunch t true).updTile t (fun x => { x with inReset := false })

/-- R490: a domain reset completes. -/
def doResetDone (d : ResetDomain) (s : State) : State :=
  if s.clocksStopped then s
  else
    match d with
    | .folio f => if s.downDies.contains (folioDie f) then s.folioReleased f else s
    | .deckle n => if s.downDies.contains (deckleDie n) then s.deckleReleased n else s
    | .tile t =>
      if (s.tile t).inReset && !s.downDies.contains (folioDie (tileFolio t)) then s.tileReleased t else s

/-- What a DEV_RESET value names (R503). `parts`: a field other than WHOLE or PROCEED is set. -/
structure ResetRequest where
  whole : Bool
  proceed : Bool
  folios : List Folio
  deckles : List Deckle
  tile : Option Tile
  parts : Bool
  deriving DecidableEq, Repr

/-- Whether a request names a domain whose reset is already running (R492). -/
def State.resetBusy (s : State) (r : ResetRequest) : Bool :=
  r.folios.any (fun f => s.downDies.contains (folioDie f)) || r.deckles.any (fun n => s.downDies.contains (deckleDie n))
    || (match r.tile with
        | some t => (s.tile t).inReset
        | none => false)

/-- R475, R490, R492: a keyed write of DEV_RESET. `refuse` is what the fault record of R492 does. A write that names both deckles, or
a domain whose reset is running, has no effect, WHOLE beside it included (log 209). A thermal trip's stop ends by R442 alone. -/
def State.devReset (s : State) (r : ResetRequest) (refuse : State → State) : State :=
  if s.devState = 1 then
    if r.deckles.length = 2 ∨ s.resetBusy r = true then refuse s
    else if r.whole || r.proceed then s.wholeReset 9 false
    else
      let s := r.folios.foldl State.folioReset s
      let s := r.deckles.foldl State.deckleReset s
      match r.tile with
      | some t => if (s.tile t).inReset then s else s.tileReset t
      | none => s
  else
    let s := if r.parts then refuse s else s
    if (r.whole || r.proceed) && !s.mgmt.tripped then s.wholeReset 9 false else s

/-- R552: this ns ends the 10 us of a low level on DEV_RESET_N, and the whole device resets (R497). The stop of a thermal trip ends by
R442 alone. -/
def State.resetDue (s : State) : Bool :=
  s.mgmt.powered && !s.mgmt.tripped && decide (s.mgmt.resetLow.map (· + 10000) = some (s.now + 1))

/-- R490, R497, R552: DEV_RESET_N changes its level. Once it has been low for 10 us the reset has run (State.resetDue) and lasts while it
is low; a pulse below 1 us is ignored, and what one between them does is a free value. -/
def doDevResetN (s : State) : State :=
  match s.mgmt.resetLow with
  | none => s.updMgmt (fun m => { m with resetLow := some s.now })
  | some t =>
    let s := s.updMgmt (fun m => { m with resetLow := none })
    if s.mgmt.powered = false ∨ s.now < t + 1000 ∨ t + 10000 ≤ s.now then s
    else if Config.resetPulse s.free && !s.mgmt.tripped then s.draw.wholeReset 9 false
    else s.draw

/-- R459: a CXL reset discards a packet: one whose tiles had not all halted completes with ABORTED, through its queue as it stands,
where the link or the ream still takes the record (log 214). -/
def State.abandonEntry (perst : Bool) (s : State) (l : Launch) : State :=
  let open' := !l.checked || !l.parts.isEmpty || !l.running.isEmpty
  if l.kind = 0 ∨ (s.hqLocal l.hq = false ∧ (perst = true ∨ s.host.linkUp = false)) then s
  else s.completeEntry { l with status := if open' ∧ l.status = 0 then 0x09 else l.status }

/-- R449, R459, R460, R470: PERST_N, or FLR and CXL reset, which leave the link up. Queues and launches are discarded. -/
def doCxlReset (perst : Bool) (s : State) : State :=
  let s := s.host.launches.foldl (State.abandonEntry perst) s
  let s := s.resetRegs hostReg
  let s := (List.finRange 8).foldl (fun s f => s.setLaunchQueue f []) s
  let s := (s.updHost (fun h =>
    if perst then { HostSide.reset with nextId := h.nextId, lastPoll := h.lastPoll }
    else { HostSide.reset with
      nextId := h.nextId, lastPoll := h.lastPoll, linkUp := h.linkUp, linkWidth := h.linkWidth, linkSpeed := h.linkSpeed
      aer := h.aer })).postHeld
  if perst then s.updMgmt (fun m => { m with perst := true }) else s

/-- R477, R449: PERST_N is released and the link comes up, once the CXL rail is on. -/
def doPerstNRelease (s : State) : State :=
  let s := s.updMgmt (fun m => { m with perst := false })
  if s.energy.rails.contains 28 then
    s.linkTrain.updHost (fun h => { h with memActive := decide (s.devState = 1) })
  else s

/-! ### Stops -/

/-- Every clock but the AON island's stops, and rails 0-29 are requested off (R441, R443, R551). -/
def State.stopAll (s : State) (reason : Nat) : State :=
  let s := { s with clocksStopped := true, clocks := s.clocks.filter (fun c => c.domain = Domain.island) }
  let s := s.updEnergy (fun e => { e with rails := e.rails.filter (fun r => 30 ≤ r.val) })
  let s := s.updHost (fun h => { h with linkUp := false })
  (s.setFld .devStatus Fld.devStatusState 2).setFld .devStatus Fld.devStatusReason reason

/-- TRIP_RECORD at a stop. -/
def State.recordStop (s : State) (coolant : Bool) : State :=
  let s := s.setFlag .tripRecord Fld.tripRecordValid true
  let s := s.setFlag .tripRecord Fld.tripRecordCoolant coolant
  (s.setFld .tripRecord Fld.tripRecordTenseMs (s.tenseNow / 2 ^ 20)).updMgmt (fun m => { m with unlogged := true })

/-- R441: a reading reaches its trip threshold. -/
def doThermalTrip (i : Sensor) (reading : BitVec 16) (s : State) : State :=
  if reading.toInt < tripAt i ∨ s.mgmt.tripped = true ∨ s.mgmt.powered = false then s
  else
    let s := s.bump .thermalEvents Fld.thermalEventsTrips 1
    let s := s.setFld .tripRecord Fld.tripRecordSensor i.val
    let s := s.setFld .tripRecord Fld.tripRecordReading reading.toNat
    let s := (s.recordStop false).updMgmt (fun m => { m with tripped := true, tripTime := s.now })
    (s.stopAll 2).updEnergy (fun e => { e with coolSince := none })

/-- R442: every reading has been at most 75 degrees for one second. -/
def doTripRestart (s : State) : State :=
  match s.energy.coolSince with
  | some t =>
    if s.mgmt.tripped = true ∧ t + 1000000000 ≤ s.now then
      (s.updMgmt (fun m => { m with tripped := false })).wholeReset 2 true
    else s
  | none => s

/-- R443: a sample of COOLANT_OK. -/
def doCoolantSample (ok : Bool) (s : State) : State :=
  if s.mgmt.powered = false then s
  else
    let low := if ok then 0 else min 3 (s.energy.coolantLow + 1)
    let s := (s.updEnergy (fun e => { e with coolantLow := low })).setFlag .coolantStatus Fld.coolantStatusCoolantOk ok
    if low ≠ 2 then s
    else
      let s := s.bump .coolantStatus Fld.coolantStatusLosses 1
      if s.flag .coolantStatus Fld.coolantStatusStopArmed = false then s.fault 0x0402 15 0 0 0
      else if s.clocksStopped then s
      else (s.recordStop true).stopAll 3

/-- What the management controller does about a rail fault (R551). -/
def State.railStop (s : State) (rail status : Nat) : State :=
  let s := s.fault 0x0405 15 0 rail status
  if s.mgmt.tripped then s else s.stopAll 6

/-- R551: a rail fault in service. During a takeover it waits. One in the 10 us sample of a trip is recorded beside it. -/
def doRailFault (r : Fin 30) (status : W16) (s : State) : State :=
  if (s.devState = 1 ∧ s.clocksStopped = false) ∨ (s.mgmt.tripped = true ∧ s.now < s.mgmt.tripTime + 10000) then
    match s.mgmt.takeover with
    | some k =>
      if k.rail.isSome then s
      else s.updMgmt (fun m => { m with takeover := some { k with rail := some (r.val, status.toNat) } })
    | none => s.railStop r.val status.toNat
  else s

/-! ### The management islands -/

/-- R494: the standby takes over, when it is ready. `watchdog`: the primary's watchdog expired; else three heartbeats are
missing. -/
def doMcHeartbeatLoss (watchdog : Bool) (s : State) : State :=
  if s.mgmt.powered = false ∨ s.mgmt.takeover.isSome = true ∨ s.flag .mcStatus Fld.mcStatusStandbyReady = false then s
  else
    let s := s.setFlag .mcStatus Fld.mcStatusStandbyReady false
    s.updMgmt (fun m => { m with
      failed := true
      takeover := some ⟨s.fld .mcStatus Fld.mcStatusActive, if watchdog then 1 else 0, [], 0, 0, none, s.regs⟩
      mbox := m.mbox.map (fun r => { r with carried := false }) })

/-- R495: both islands failed; a takeover between them goes no further. -/
def doDualWatchdog (s : State) : State :=
  if s.mgmt.powered then (s.updMgmt (fun m => { m with takeover := none })).wholeReset 8 false else s

/-- R494: the failed island passes self-check and becomes the standby. -/
def doIslandSelfCheck (passed : Bool) (s : State) : State :=
  if s.mgmt.failed && passed && s.mgmt.takeover.isNone then
    (s.updMgmt (fun m => { m with failed := false })).setFlag .mcStatus Fld.mcStatusStandbyReady true
  else s

/-! ### Power -/

/-- The rails by the steps 1 to 10 in which they come up (R549). -/
def railSteps : List (List (Fin 32)) :=
  [[31], [30], [29], [8, 9], [28], [26], [27], [10, 11, 12, 13, 14, 15, 16, 17], [18, 19, 20, 21, 22, 23, 24, 25],
    [0, 1, 2, 3, 4, 5, 6, 7]]

/-- R550: every rail is gone, the always-on rails too: only fuses and flash remain. -/
def State.powerLost (s : State) : State :=
  { State.reset with
    now := s.now, free := s.free, pending := s.pending, out := s.out, mem := ⟨s.mem.epoch + 1, []⟩, spares := s.spares,
    energy := { Energy.reset with trims := s.energy.trims, rails := [] },
    mgmt := { Mgmt.reset with
      fuses := s.mgmt.fuses, flash := s.mgmt.flash, powered := false, perst := s.mgmt.perst,
      resetLow := s.mgmt.resetLow } }

/-- The rails that are up by the steps in which they go, the last step's first (R550). -/
def railsDown (rails : List (Fin 32)) : List (List (Fin 32)) :=
  (railSteps.reverse.map (fun step => step.filter rails.contains)).filter (fun step => !step.isEmpty)

/-- R550: the clocks stop, the rails go in reverse step order, the always-on rails last, and the device is without power. -/
def doLossOfPower (s : State) : State :=
  ((railsDown s.energy.rails).foldl (fun s step => s.emit (.railsOff step)) s).powerLost

/-- R476, R549: the always-on rails become good. -/
def doPowerOn (s : State) : State :=
  if s.mgmt.powered then s
  else
    ((s.updMgmt (fun m => { m with powered := true })).updEnergy (fun e => { e with rails := [30, 31] })).setStatus 0 1 1

/-! ### The commands -/

def execPowerOn (s : State) : Host.Outcome State Fault Refusal := .next (doPowerOn s)
def execDevResetN (s : State) : Host.Outcome State Fault Refusal := .next (doDevResetN s)
def execResetDone (d : ResetDomain) (s : State) : Host.Outcome State Fault Refusal := .next (doResetDone d s)
def execCxlReset (perst : Bool) (s : State) : Host.Outcome State Fault Refusal := .next (doCxlReset perst s)
def execPerstNRelease (s : State) : Host.Outcome State Fault Refusal := .next (doPerstNRelease s)
def execThermalTrip (i : Sensor) (reading : BitVec 16) (s : State) : Host.Outcome State Fault Refusal :=
  .next (doThermalTrip i reading s)
def execTripRestart (s : State) : Host.Outcome State Fault Refusal := .next (doTripRestart s)
def execCoolantSample (ok : Bool) (s : State) : Host.Outcome State Fault Refusal := .next (doCoolantSample ok s)
def execRailFault (r : Fin 30) (status : W16) (s : State) : Host.Outcome State Fault Refusal := .next (doRailFault r status s)
def execMcHeartbeatLoss (watchdog : Bool) (s : State) : Host.Outcome State Fault Refusal :=
  .next (doMcHeartbeatLoss watchdog s)
def execDualWatchdog (s : State) : Host.Outcome State Fault Refusal := .next (doDualWatchdog s)
def execIslandSelfCheck (passed : Bool) (s : State) : Host.Outcome State Fault Refusal := .next (doIslandSelfCheck passed s)
def execLossOfPower (s : State) : Host.Outcome State Fault Refusal := .next (doLossOfPower s)

end Sys2Proof.Machine
end

