-- ==== Sys2Proof/Machine/Boot.lean ====
section
/-! DEFINITION. The quires (R480-R482), recovery (R484), and the bring-up sequence (R477-R479). -/

namespace Sys2Proof.Machine

/-! ### Quires -/

def bytesAt (bs : List Byte) (off n : Nat) : Nat := leNat ((bs.drop off).take n)

/-- The quire that a 256-byte header and an image make, with the first check of R480 that its bytes fail. -/
def quireOf (bs : List Byte) : Quire :=
  let hdr := bs.take 256
  let len := bytesAt hdr 8 4
  let image := (bs.drop 256).take len
  let key := (hdr.drop 56).take 64
  let slot := bytesAt hdr 20 1
  let head := hdr.length = 256 && decide (bytesAt hdr 0 4 = 0x51554952)
    && decide ((crc32c (hdr.take 252)).toNat = bytesAt hdr 252 4) && decide (bytesAt hdr 21 3 = 0)
    && (((hdr.drop 184).take 68).all (fun b => b = 0)) && decide (len ≤ 0x03FFFF00)
  let keyed := decide (slot < 4) && decide (digestOf key = Config.keyHash slot)
    && ecdsaVerify key ((hdr.drop 120).take 64) (hdr.take 56)
  let whole := decide (image.length = len) && decide ((crc32c image).toNat = bytesAt hdr 16 4)
    && decide (sha256 image = (hdr.drop 24).take 32)
  { seq := bytesAt hdr 4 4, line := bytesAt hdr 12 1, release := bytesAt hdr 13 1, patch := bytesAt hdr 14 1,
    svn := bytesAt hdr 15 1, slot := slot, sets := Config.matchedSets image, digest := BitVec.ofNat 256 (beNat ((hdr.drop 24).take 32)),
    check := if !head then 1 else if !keyed then 2 else if !whole then 3 else 0 }

/-- The first check of R480 that a quire fails under the fuses: 0 none, 1 header, 2 key or signature, 3 CRC or digest,
4 SVN, as RECOVERY_CTL.RESULT numbers them (R503). -/
def Fuses.check (u : Fuses) (q : Quire) : Nat :=
  if q.check = 1 ∨ q.line ≠ 1 ∨ q.svn > 63 then 1
  else if q.check = 2 ∨ u.revoked.contains q.slot = true then 2
  else if q.svn < u.minSvn then 4
  else q.check

/-- Whether SEQ a is newer than SEQ b (R481). -/
def seqNewer (a b : Nat) : Bool :=
  let d := (a + 2 ^ 32 - b) % 2 ^ 32
  decide (1 ≤ d) && decide (d < 2 ^ 31)

/-- The quire that mask ROM boots (R481); true is quire B. -/
def Mgmt.boots (m : Mgmt) : Option (Bool × Quire) :=
  let a := m.flash.quireA
  let b := m.flash.quireB
  let okA := decide (m.fuses.check a = 0)
  let okB := decide (m.fuses.check b = 0)
  if okA && !(okB && seqNewer b.seq a.seq) then some (false, a)
  else if okB then some (true, b)
  else none

def Mgmt.setQuire (m : Mgmt) (b : Bool) (q : Quire) : Mgmt :=
  { m with flash := if b then { m.flash with quireB := q } else { m.flash with quireA := q } }

/-! ### Measurements (R487) -/

/-- The measurement of an index. -/
def State.measurement (s : State) (i : Nat) : Option (List Byte) :=
  match i with
  | 1 => some (digestBytes Config.romDigest)
  | 2 => s.mgmt.booted.map (fun b => digestBytes b.2.digest ++ leBytes 1 b.2.svn)
  | 3 =>
    let sets := match s.mgmt.booted with
      | some b => b.2.sets
      | none => []
    some (sha256 (Config.matchedBytes sets ++ leBytes 8 (s.reg .dieRev0).toNat ++ leBytes 8 (s.reg .dieRev1).toNat))
  | 4 =>
    let mask := s.mgmt.fuses.revoked.foldl (fun m k => m ||| 2 ^ k) 0
    some (sha256 (leBytes 1 mask ++ leBytes 1 s.mgmt.fuses.minSvn ++ leBytes 1 (s.fld .debugStatus Fld.debugStatusLevel)))
  | 5 => s.mgmt.lsmDigest.map digestBytes
  | _ => none

/-- A measurement block: index, DMTF format, size, a raw bit stream of a kind, its size and value. -/
def State.measBlock (s : State) (i : Nat) : List Byte :=
  match s.measurement i with
  | none => []
  | some v =>
    let kind := if i = 1 then 0 else if i = 2 then 1 else 3
    leBytes 1 i ++ leBytes 1 1 ++ leBytes 2 (v.length + 3) ++ leBytes 1 (0x80 + kind) ++ leBytes 2 v.length ++ v

def State.measIndexes (s : State) : List Nat := [1, 2, 3, 4, 5].filter (fun i => (s.measurement i).isSome)

/-- The firmware issues the alias certificate with the measurements as they are now (R486). -/
def State.issueAlias (s : State) : State :=
  if s.mgmt.booted.isSome then s.updMgmt (fun m => { m with certMeas := s.measIndexes.flatMap s.measBlock }) else s

/-! ### Bring-up -/

/-- The sequence holds the device (R475, R501). -/
def State.bootHold (s : State) (reason step : Nat) : State :=
  (s.setStatus 2 step reason).fault 0x0603 15 0 reason step

/-- Step 2: the quires are checked and one boots (R480, R481, R503). -/
def State.bootFirmware (s : State) : State × Bool :=
  let m := s.mgmt
  let note (s : State) (k : Nat) (q : Quire) : State :=
    if m.fuses.check q = 0 then s else s.fault 0x0600 15 0 k (m.fuses.check q)
  let s := note (note s 0 m.flash.quireA) 1 m.flash.quireB
  let s := s.setReg .identSerial Config.serial
  let s := s.setFlag .mcStatus Fld.mcStatusStandbyReady (!m.failed)
  match m.boots with
  | none => ((s.bootHold 4 2).setMode 3, false)
  | some (b, q) =>
    let w := q.line + q.release * 2 ^ 8 + q.patch * 2 ^ 16 + (if b then 2 ^ 24 else 0) + q.seq * 2 ^ 32
    ((s.setReg .identFw (BitVec.ofNat 64 w)).updMgmt (fun m => { m with booted := some (b, q) }), true)

/-- The rails that have come up when a rail does not report power good: those of the earlier steps, and the others of its own step,
which are requested with it (R549). -/
def railsUp (fail : Option (Fin 30)) : List (Fin 32) :=
  match fail with
  | none => railSteps.flatten
  | some r =>
    let k := railSteps.findIdx (fun l => l.any (fun x => decide (x.val = r.val)))
    (railSteps.take (k + 1)).flatten.filter (fun x => decide (x.val ≠ r.val))

/-- Step 3: the rails come up step by step, to the step in which one fails; the CXL link follows (R477, R549). -/
def State.bootRails (s : State) (fail : Option (Fin 30)) : State × Bool :=
  let s := s.updEnergy (fun e => { e with rails := railsUp fail })
  if fail.isSome then (s.bootHold 6 3, false)
  else
    let s := s.need .cxl
    (if s.mgmt.perst then s else s.linkTrain, true)

/-- Step 4: the revisions found are looked up in the matched-set table of the booted firmware (R478, R503). -/
def State.bootDies (s : State) (b : Boot) : State × Bool :=
  let folio := (List.range 8).foldl (fun v f => v + ((b.folioRev.toList.getD f 0).toNat) * 2 ^ (8 * f)) 0
  let d := b.deckleRev.toList
  let base := b.baseRev.toList
  let s := s.setReg .dieRev0 (BitVec.ofNat 64 folio)
  let s := s.setReg .dieRev1 (BitVec.ofNat 64
    ((d.getD 0 0).toNat + (d.getD 1 0).toNat * 2 ^ 8 + (base.getD 0 0).toNat * 2 ^ 16))
  let same (l : List Byte) : Bool := l.all (fun x => x == l.getD 0 0)
  let listed := match s.mgmt.booted with
    | some (_, q) => q.sets.contains (b.folioRev.toList.getD 0 0, d.getD 0 0, base.getD 0 0)
    | none => false
  if same b.folioRev.toList && same d && same base && listed then (s, true) else (s.bootHold 5 4, false)

/-- Step 5: the four folio pairs train; a degraded pair does not stop bring-up (R413). -/
def State.bootTwins (s : State) (b : Boot) : State :=
  (List.finRange 4).foldl (fun s i =>
    let w := (b.twins.get i).toList
    let s := (s.need (.ucie (Fin.ofNat 8 (2 * i.val)))).need (.ucie (Fin.ofNat 8 (2 * i.val + 1)))
    s.trainTwin i (w.getD 0 0) (w.getD 1 0) (w.getD 2 0) (w.getD 3 0)) s

/-- Step 6: the felt and the laser module (R386, R387, R416, R396-R400). -/
def State.bootFelt (s : State) (b : Boot) : State × Bool :=
  if b.feltFail then (s.bootHold 7 6, false)
  else
    let s := (List.finRange 10).foldl (fun s d => s.need (.felt d)) s
    let s := (List.finRange 45).foldl (fun s k =>
      (s.setFld (.feltLink k) Fld.feltLinkState 2).setFld (.feltLink k) Fld.feltLinkSpares 2) s
    let s := s.mgmt.flash.heaters.foldl (fun s e =>
      s.setReg (.heater (Fin.ofNat 7274 (e.1 / 8)) (Fin.ofNat 8 e.1)) e.2) s
    let s := (List.finRange 9).foldl (fun s l =>
      s.setFld (.linePower l) Fld.linePowerCommission (Store.get (fun _ => 0) s.mgmt.flash.commission l)) s
    let s := s.updMgmt (fun m => { m with lsmDigest := b.lsmDigest })
    match b.drives with
    | none => (s, true)
    | some v =>
      let s := s.setFlag .lsmStatus Fld.lsmStatusPresent true
      ((List.finRange 9).foldl (fun s l =>
        let (p, k, m) := v.get l
        let s := s.setFld (.lineDrive l) Fld.lineDrivePrimaryMa p.toNat
        let s := s.setFld (.lineDrive l) Fld.lineDriveStandbyMa k.toNat
        s.setFld (.lineDrive l) Fld.lineDriveMaxMa m.toNat) s, true)

/-- Step 7: the reams train; rows with recorded uncorrectable errors are spared (R219, R226). -/
def State.bootReams (s : State) (b : Boot) : State × Bool :=
  if b.reamFail then (s.bootHold 7 7, false)
  else
    let s := (List.finRange 32).foldl (fun s m =>
      let s := (s.need (.reamPhy m)).need (.reamBase m)
      let s := s.setFlag (.reamStatus m) Fld.reamStatusTrained true
      let s := s.setFld (.reamStatus m) Fld.reamStatusLanesSpared (b.lanes.get m).val
      let banks := s.spares.filter (fun e => decide (e.1 / 2048 = m.val))
      let s := s.setFld (.reamSpares m) Fld.reamSparesUsed ((banks.map (fun e => e.2)).foldl (· + ·) 0)
      s.setFlag (.reamSpares m) Fld.reamSparesExhausted (banks.any (fun e => decide (e.2 ≥ 16)))) s
    let rows := s.mgmt.flash.rows
    let s := s.updMgmt (fun m => { m with flash := { m.flash with rows := [] } })
    (rows.foldl (fun s r => s.spareRow (reamLoc r.1 r.2)) s, true)

/-- Self-test of a tile and its repair record (R148, R150, R154, R479). Row 128 is the spare: a fault in it alone needs no
record; beside a fused record it is REASON 3, beside a field record the tile stays in service (DESIGN CHOICE, log 233). -/
def State.bootTile (s : State) (t : Tile) (rows : List Nat) (wide : Bool) : State :=
  let fused := Store.find? s.mgmt.fuses.repairs t
  let reason :=
    if rows.length ≥ 2 then 2
    else if fused.isSome && rows.any (fun r => fused ≠ some r) then 3
    else if wide then 4
    else 0
  let s := match fused, rows with
    | none, [r] =>
      if r = 128 then s
      else s.updMgmt (fun m => { m with
        flash := { m.flash with repairs := Store.set (fun k => k.val) m.flash.repairs t r } })
    | _, _ => s
  let field := Store.find? s.mgmt.flash.repairs t
  let s := match fused, field with
    | some r, _ => s.setReg (.pressRepair t) (BitVec.ofNat 64 (r + 2 ^ 7))
    | none, some r => s.setReg (.pressRepair t) (BitVec.ofNat 64 (r + 2 ^ 7 + 2 ^ 8))
    | none, none => s.setReg (.pressRepair t) 0
  s.setReg (.pressService t) (BitVec.ofNat 64 (if reason = 0 then 1 else 2 * reason))

/-- A step of bring-up starts a domain that does its work and then stands idle, to be gated as R39 says (R476; log 211). -/
def State.bootNeed (s : State) (d : Domain) : State :=
  { s with clocks := s.clocks.filter (fun c => c.domain ≠ d) ++ [⟨d, s.now, true⟩] }

/-- Step 8: operating points and self-test (R419, R549). -/
def State.bootTiles (s : State) (b : Boot) : State :=
  let s := (List.finRange 8).foldl (fun s f => s.setPoint f (s.clampPoint f 0)) s
  let s := (List.finRange 192).foldl (fun s t =>
    let s := s.bootNeed (.tile t)
    match b.tests.find? (fun e => e.tile = t) with
    | some e => s.bootTile t (e.rows.eraseDups.map (fun r => r.val)) e.wide
    | none => s.bootTile t [] false) s
  (List.finRange 8).foldl (fun s f =>
    s.setFld (.folioStatus f) Fld.folioStatusInService
      ((folioTiles f).filter (fun t => s.flag (.pressService t) Fld.pressServiceInService)).length) s

/-- The trim that characterization sets (R434), in 5 mV steps. -/
def trimOf (point lowest : Nat) : Nat := min 40 (pointMv point - lowest - 20) / 5 * 5

/-- Whether characterization is due (R434). -/
def State.charDue (s : State) : Bool :=
  !s.mgmt.flash.characterized || decide (s.fld .marginStatus Fld.marginStatusPoweredHours
    ≥ s.fld .marginStatus Fld.marginStatusCharHours + 1000)

/-- Step 9: voltage margins, when they are due (R434). -/
def State.bootMargins (s : State) (b : Boot) : State :=
  let s :=
    if s.charDue then
      let trims := (List.finRange 8).flatMap (fun f => (List.finRange 8).map (fun p =>
        (8 * f.val + p.val, trimOf p.val ((b.minMv.get f).get p).toNat)))
      let s := s.updEnergy (fun e => { e with trims := trims.filter (fun e => e.2 ≠ 0) })
      let s := s.setFld .marginStatus Fld.marginStatusCharHours (s.fld .marginStatus Fld.marginStatusPoweredHours)
      s.updMgmt (fun m => { m with flash := { m.flash with characterized := true } })
    else s
  (List.finRange 8).foldl (fun s f =>
    s.setFld (.folioDvfs f) Fld.folioDvfsTrimMv (Store.get (fun _ => 0) s.energy.trims (8 * f.val + s.point f))) s

/-- Step 10: k of each folio from its rail report under 400 W of pulp, for which its tiles run (R429, R476). -/
def State.bootMeters (s : State) (b : Boot) : State :=
  (List.finRange 8).foldl (fun s f =>
    let s := (folioTiles f).foldl (fun s t => s.bootNeed (.tile t)) s
    let metered := 400000 + 1000 * pointIdleW (s.point f)
    let k := min kHigh (max kLow ((b.railMw.get f).toNat * 2 ^ 32 / metered))
    let s := s.updEnergy (fun e => { e with factor := Store.set (fun x => x.val) e.factor f k })
    let s := s.setFld (.folioCal f) Fld.folioCalFactor (k / 2 ^ 20)
    if k = kLow ∨ k = kHigh then
      (s.setFlag .energyStatus Fld.energyStatusMeterDrift true).fault 0x0403 f.val 0 f.val (k / 2 ^ 20)
    else s) s

/-- Step 11: ready (R449, R474, R475). -/
def State.bootReady (s : State) : State :=
  (((s.setStatus 1 11 0).setMode 1).updHost (fun h => { h with memActive := true }))

/-- R477: the eleven steps, in order, up to READY or a hold. -/
def State.bootSteps (s : State) (b : Boot) : State :=
  match s.bootFirmware with
  | (s, false) => s
  | (s, true) =>
    match s.bootRails b.railFail with
    | (s, false) => s
    | (s, true) =>
      match s.bootDies b with
      | (s, false) => s
      | (s, true) =>
        match (s.bootTwins b).bootFelt b with
        | (s, false) => s
        | (s, true) =>
          match s.bootReams b with
          | (s, false) => s
          | (s, true) =>
            let s := ((s.bootTiles b).bootMargins b).bootMeters b
            (s.setReg .bootTime (b.ms.setWidth 64)).bootReady

/-- R477, R486: bring-up runs once the reset is over, and the firmware issues the alias certificate. -/
def doBringup (b : Boot) (s : State) : State :=
  if s.devState ≠ 0 ∨ s.mgmt.powered = false ∨ s.clocksStopped = true ∨ s.pinReset = true then s
  else (s.bootSteps b).issueAlias

/-! ### Recovery (R484) -/

/-- RECOVERY_CTL.START. -/
def State.recoveryStart (s : State) : State := s.updMgmt (fun m => { m with staging := [] })

/-- RECOVERY_DATA: 8 bytes more, up to 64 MiB. -/
def State.recoveryData (s : State) (v : W64) : State :=
  if s.mgmt.staging.length + 8 > 64 * 2 ^ 20 then s
  else s.updMgmt (fun m => { m with staging := m.staging ++ leBytes 8 v.toNat })

/-- RECOVERY_CTL.COMMIT: the staged quire is checked; the flash is written when the commit is done. -/
def State.recoveryCommit (s : State) : State :=
  if s.mgmt.commit.isSome then s
  else
    let q := quireOf s.mgmt.staging
    (s.setFlag .recoveryCtl Fld.recoveryCtlBusy true).updMgmt (fun m => { m with commit := some (m.fuses.check q, q) })

/-- R484: the commit finishes. `flashOk`: the flash took what was written. -/
def doRecoveryCommitDone (flashOk : Bool) (s : State) : State :=
  match s.mgmt.commit with
  | none => s
  | some (r, q) =>
    let result := if r ≠ 0 then r else if flashOk then 0 else 5
    let s := (s.setFlag .recoveryCtl Fld.recoveryCtlBusy false).setFlag .recoveryCtl Fld.recoveryCtlDone true
    let s := (s.setFld .recoveryCtl Fld.recoveryCtlResult result).updMgmt (fun m => { m with commit := none })
    if result = 0 then (s.updMgmt (fun m => m.setQuire false q)).wholeReset 9 false else s

/-! ### The commands -/

def execBringup (b : Boot) (s : State) : Host.Outcome State Fault Refusal := .next (doBringup b s)
def execRecoveryCommitDone (flashOk : Bool) (s : State) : Host.Outcome State Fault Refusal :=
  .next (doRecoveryCommitDone flashOk s)

end Sys2Proof.Machine
end

