-- ==== Sys2Proof/Machine/Mailbox.lean ====
section
/-! DEFINITION. The mailbox (R498, R499, R515, R535), debug unlocking (R488, R489), and the commands it carries. -/

namespace Sys2Proof.Machine

/-! ### Running a command -/

/-- Whether the command engine can work for a path: BAR index 0 answers when the device is ready, the I3C bus whenever
firmware runs, and the reams are needed by the sentinel commands (R473, R496). A command that reaches ream memory waits while
a bias change runs (R451). -/
def State.mboxUp (s : State) (i3c : Bool) (code : Nat) : Bool :=
  let local' := i3c && decide (code < 0x10)
  s.mgmt.booted.isSome && s.mgmt.takeover.isNone && (s.ready || local') && (s.host.flip.isNone || local')

/-- MBOX_RESULT while a command runs (R535). -/
def State.mboxBusy (s : State) (code : Nat) (i3c : Bool) : State :=
  let s := s.setFlag .mboxResult Fld.mboxResultBusy true
  (s.setFld .mboxResult Fld.mboxResultLastCmd code).setFlag .mboxResult Fld.mboxResultSource i3c

/-- A write of MBOX_CMD while no command runs (R498). -/
def State.mboxWrite (s : State) (code : Nat) : State :=
  let args := (List.finRange 4).map (fun w => (s.reg (.mboxArg w)).toNat)
  (s.updMgmt (fun m => { m with mbox := some ⟨code, args, [], [], false, false, 0⟩ })).mboxBusy code false

/-- A command that came over I3C and finds the engine busy, or a takeover under way, waits its turn (R498). -/
def State.mboxQueue (s : State) (r : MboxRun) : State := s.updMgmt (fun m => { m with queued := m.queued ++ [r] })

/-- The next command that waits takes the free engine. -/
def State.mboxNext (s : State) : State :=
  match s.mgmt.mbox, s.mgmt.queued with
  | none, r :: rest => (s.updMgmt (fun m => { m with mbox := some r, queued := rest })).mboxBusy r.code true
  | _, _ => s

/-- The command with a code that is to be carried out now. `.bar`: the one that the engine holds, which BAR index 0 started, or which
came over I3C and waited, or which a takeover runs again from its start (R530). `.i3c`: one that arrives over I3C, which waits where
the engine is busy. -/
def State.mboxTake (s : State) (via : Via) (code : Nat) : State × Option MboxRun :=
  match via with
  | .bar =>
    match s.mgmt.mbox with
    | some r => (s, if s.mboxUp r.i3c code && decide (r.code = code) && !r.carried then some r else none)
    | none => (s, none)
  | .i3c args data =>
    let r : MboxRun := ⟨code, args.toList.map BitVec.toNat, data, [], true, false, 0⟩
    if s.mgmt.booted.isNone || (!s.ready && decide (0x10 ≤ code)) then (s, none)
    else if s.mgmt.mbox.isNone && s.mboxUp true code then (s.mboxBusy code true, some r)
    else if s.mgmt.mbox.isNone && s.mgmt.takeover.isNone then ((s.mboxQueue r).mboxNext, none)
    else (s.mboxQueue r, none)

def MboxRun.arg (r : MboxRun) (i : Nat) : Nat := r.args.getD i 0

/-- The command has been carried out: its status, and what it leaves for its end. -/
def State.mboxEnd (s : State) (r : MboxRun) (status : Nat) (data : List Byte) : State :=
  s.updMgmt (fun m => { m with mbox := some { r with carried := true, status := status, result := data } })

/-- The data of a command: FOLIO_0 ream bytes, or the message body (R496, R498); or the status that ends it. -/
def State.mboxRead (s : State) (r : MboxRun) (off n : Nat) : State × (Nat ⊕ List Byte) :=
  if r.i3c then (s, if r.data.length < n then .inl 3 else .inr (r.data.take n))
  else if off + n > reamLimit then (s, .inl 3)
  else
    match s.engRead 0 off n with
    | (s, some bs) => (s, .inr bs)
    | (s, none) => (s.draw, .inl (Config.mboxReadStatus s.free).toNat)

/-- Deliver a result to FOLIO_0 ream bytes, or in the I3C reply. -/
def State.mboxGive (s : State) (r : MboxRun) (off : Nat) (bs : List Byte) : State :=
  if r.i3c then s.mboxEnd r 0 bs
  else if off + bs.length > reamLimit then s.mboxEnd r 3 []
  else
    match s.engWrite 0 off bs with
    | (s, false) => s.mboxEnd r 0 []
    | (s, true) => s.draw.mboxEnd r (Config.mboxReadStatus s.free).toNat []

/-! ### Firmware (R482, R483) -/

/-- FW_UPDATE: the quire that did not boot is erased, and holds the new one when the command is done. The data are the
256-byte header and the image; the header carries the running SEQ + 1. -/
def doFwUpdate (via : Via) (flashOk : Bool) (s : State) : State :=
  match s.mboxTake via 0x01, s.mgmt.booted with
  | (s, some r), some (b, run) =>
    if s.mgmt.updated then s.mboxEnd r 8 []
    else
      match s.mboxRead r (r.arg 0) (r.arg 1) with
      | (s, .inl st) => s.mboxEnd r st []
      | (s, .inr bs) =>
        let q := quireOf bs
        let s := s.updMgmt (fun m => m.setQuire (!b) Quire.erased)
        if q.seq ≠ (run.seq + 1) % 2 ^ 32 ∨ s.mgmt.fuses.check q ≠ 0 then s.mboxEnd r 4 []
        else if flashOk then s.mboxEnd r 0 bs else s.mboxEnd r 5 []
  | (s, _), _ => s

/-- SVN_COMMIT: MIN_SVN rises to the SVN of the running quire. -/
def doSvnCommit (via : Via) (s : State) : State :=
  match s.mboxTake via 0x02, s.mgmt.booted with
  | (s, some r), some (_, q) =>
    (s.updMgmt (fun m => { m with fuses := { m.fuses with minSvn := max m.fuses.minSvn q.svn } })).mboxEnd r 0 []
  | (s, _), _ => s

/-! ### Debug (R488, R489) -/

/-- A new challenge: the serial number and a fresh nonce. -/
def State.newChallenge (s : State) : State × List Byte :=
  let nonce := (List.range 32).map (Config.nonceByte s.free)
  (s.draw.updMgmt (fun m => { m with nonce := some nonce }), leBytes 8 Config.serial.toNat ++ nonce)

/-- Whether a 176-byte token is good, apart from the lockout (R489). -/
def State.tokenGood (s : State) (tok : List Byte) : Bool :=
  let slot := bytesAt tok 41 1
  let key := (tok.drop 48).take 64
  decide (tok.length = 176) && decide (bytesAt tok 0 8 = Config.serial.toNat) && decide (s.mgmt.nonce = some ((tok.drop 8).take 32))
    && (decide (bytesAt tok 40 1 = 1) || decide (bytesAt tok 40 1 = 2)) && decide (bytesAt tok 42 6 = 0)
    && decide (slot < 4) && !s.mgmt.fuses.revoked.contains slot && decide (digestOf key = Config.keyHash slot)
    && ecdsaVerify key ((tok.drop 112).take 64) (tok.take 112)

/-- Take a token: the status with which its command ends. The alias key is derived and certified again with the new level. -/
def State.takeToken (s : State) (tok : List Byte) : State × Nat :=
  if s.mgmt.rejects ≥ 3 then (s, 7)
  else if s.tokenGood tok then
    let level := bytesAt tok 40 1
    (((s.setFld .debugStatus Fld.debugStatusLevel level).fault 0x0602 15 0 level (bytesAt tok 41 1)).issueAlias, 0)
  else
    let s := s.updMgmt (fun m => { m with rejects := m.rejects + 1 })
    (s.setFld .debugStatus Fld.debugStatusRejects (s.counted .debugStatus Fld.debugStatusRejects 1), 6)

def doDebugChallenge (via : Via) (s : State) : State :=
  match s.mboxTake via 0x03 with
  | (s, none) => s
  | (s, some r) =>
    if r.i3c = false ∧ r.arg 0 + 40 > reamLimit then s.mboxEnd r 3 []
    else
      let (s, bs) := s.newChallenge
      s.mboxGive r (r.arg 0) bs

def doDebugToken (via : Via) (s : State) : State :=
  match s.mboxTake via 0x04 with
  | (s, none) => s
  | (s, some r) =>
    match s.mboxRead r (r.arg 0) 176 with
    | (s, .inl st) => s.mboxEnd r st []
    | (s, .inr tok) =>
      let (s, st) := s.takeToken tok
      s.mboxEnd r st []

/-- The JTAG port works while VDD_IO is up (R552). -/
def State.jtagUp (s : State) : Bool := s.mgmt.booted.isSome && s.energy.rails.contains 29

/-- What the JTAG port can offer: the instructions of IEEE 1149.1, the two unlock instructions, and what the debug levels open. -/
inductive JtagUse where
  | idcode
  | bypass
  | sample
  | extest
  | unlockChal
  | unlockToken
  | trace
  | readScan
  | halt
  | fullScan
  deriving DecidableEq, Repr

/-- The debug level from which a use is open: halting is that of the management and parser cores (R488, R489). -/
def JtagUse.level : JtagUse → Nat
  | .idcode | .bypass | .sample | .extest | .unlockChal | .unlockToken => 0
  | .trace | .readScan => 1
  | .halt | .fullScan => 2

/-- Whether the JTAG port offers a use (R488, R489, R552). -/
def State.jtagOffers (s : State) (u : JtagUse) : Bool :=
  s.jtagUp && decide (u.level ≤ s.fld .debugStatus Fld.debugStatusLevel)

def doUnlockChal (s : State) : State :=
  if s.jtagOffers .unlockChal then
    let (s, bs) := s.newChallenge
    s.emit (.message bs)
  else s

def doUnlockToken (tok : Vector Byte 176) (s : State) : State := if s.jtagOffers .unlockToken then (s.takeToken tok.toList).1 else s

/-! ### Sentinel commands (R515, R516) -/

def State.sentinel (s : State) (k : Fin 8) : Option Sentinel := Store.find? s.mgmt.sentinels k

def State.setSentinel (s : State) (k : Fin 8) (v : Sentinel) : State :=
  let s := s.updMgmt (fun m => { m with sentinels := Store.set (fun i => i.val) m.sentinels k v })
  let bits (p : Sentinel → Bool) : Nat := s.mgmt.sentinels.foldl (fun n e => if p e.2 then n + 2 ^ e.1.val else n) 0
  (s.setFld .sentStatus Fld.sentStatusLoaded (bits (fun _ => true))).setFld .sentStatus Fld.sentStatusEnabled
    (bits (fun v => decide (v.every ≠ 0)))

/-- The descriptor of R516; none where SENT_LOAD completes with RANGE. -/
def sentinelOf (bs : List Byte) : Option Sentinel :=
  let set := bytesAt bs 8 24
  let tiles := (List.finRange 192).filter (fun t => set.testBit t.val)
  let out := bytesAt bs 64 8
  let n := bytesAt bs 72 4
  let budget := bytesAt bs 76 4
  let ring := bytesAt bs 80 8
  let log2 := bytesAt bs 88 1
  let top := tiles.foldl (fun m t => max m (t.val + 1)) 0
  if bytesAt bs 89 7 ≠ 0 ∨ set = 0 ∨ n = 0 ∨ n > 65536 ∨ budget = 0 ∨ budget > 850 ∨ bytesAt bs 0 8 ≥ reamLimit
      ∨ out + top * n > reamLimit ∨ log2 < 4 ∨ log2 > 12 ∨ ring % 32 ≠ 0 ∨ ring + 2 ^ log2 * 32 > reamLimit then none
  else some
    { program := bytesAt bs 0 8, tiles := tiles, expect := BitVec.ofNat 256 (beNat ((bs.drop 32).take 32)), outOff := out,
      outBytes := n, budgetUs := budget, ringOff := ring, ringLog2 := log2,
      args := (List.range 4).map (fun i => BitVec.ofNat 64 (bytesAt bs (96 + 8 * i) 8)),
      every := 0, since := 0, seen := 0, once := false, point := 0 }

def doSentLoad (via : Via) (s : State) : State :=
  match s.mboxTake via 0x10 with
  | (s, none) => s
  | (s, some r) =>
    if r.arg 1 > 7 then s.mboxEnd r 3 []
    else
      match s.mboxRead r (r.arg 0) 128 with
      | (s, .inl st) => s.mboxEnd r st []
      | (s, .inr bs) =>
        let k : Fin 8 := Fin.ofNat 8 (r.arg 1)
        match sentinelOf bs with
        | none => s.mboxEnd r 3 []
        | some v =>
          let v := match s.sentinel k with
            | some old => { v with every := old.every, seen := old.seen }
            | none => v
          (s.setSentinel k v).mboxEnd r 0 []

/-- Change the loaded slots of a mask. -/
def State.sentMask (s : State) (mask : Nat) (f : Sentinel → Sentinel) : State :=
  (List.finRange 8).foldl (fun s k =>
    match s.sentinel k with
    | some v => if mask.testBit k.val then s.setSentinel k (f v) else s
    | none => s) s

def doSentEnable (via : Via) (s : State) : State :=
  match s.mboxTake via 0x11 with
  | (s, none) => s
  | (s, some r) =>
    let n := r.arg 1
    if n = 0 ∨ n > 65535 ∨ r.arg 0 > 255 then s.mboxEnd r 3 []
    else (s.sentMask (r.arg 0) (fun v => { v with every := n, since := 0 })).mboxEnd r 0 []

def doSentDisable (via : Via) (s : State) : State :=
  match s.mboxTake via 0x12 with
  | (s, none) => s
  | (s, some r) =>
    if r.arg 0 > 255 then s.mboxEnd r 3 []
    else (s.sentMask (r.arg 0) (fun v => { v with every := 0, once := false })).mboxEnd r 0 []

def doSentRun (via : Via) (s : State) : State :=
  match s.mboxTake via 0x13 with
  | (s, none) => s
  | (s, some r) =>
    if r.arg 0 > 7 then s.mboxEnd r 3 []
    else (s.sentMask (2 ^ r.arg 0) (fun v => { v with once := true })).mboxEnd r 0 []

/-- HASH: SHA-256 of a folio ream range. -/
def doHash (via : Via) (s : State) : State :=
  match s.mboxTake via 0x14 with
  | (s, none) => s
  | (s, some r) =>
    let n := r.arg 2
    if r.arg 0 > 7 ∨ n = 0 ∨ n = 2 ^ 64 - 1 ∨ r.arg 1 + n > reamLimit ∨ (r.i3c = false ∧ r.arg 3 + 32 > reamLimit) then
      s.mboxEnd r 3 []
    else
      match s.engRead (Fin.ofNat 8 (r.arg 0)) (r.arg 1) n with
      | (s, none) => s.draw.mboxEnd r (Config.mboxReadStatus s.free).toNat []
      | (s, some bs) => s.mboxGive r (r.arg 3) (sha256 bs)

/-- SENT_RUN lasts until the run it asked for is over (R515). -/
def State.sentPending (s : State) (r : MboxRun) : Bool :=
  let k : Fin 8 := Fin.ofNat 8 (r.arg 0)
  decide (r.code = 0x13) && decide (r.status = 0)
    && ((s.sentinel k).any (fun v => v.once) || s.mgmt.sentRuns.any (fun x => decide (x.slot = k)))

/-! ### Reserved codes and completion -/

def mboxCodes : List Nat := [0x01, 0x02, 0x03, 0x04, 0x10, 0x11, 0x12, 0x13, 0x14]

/-- R499: a reserved code completes with BAD_COMMAND. -/
def doMboxBadCommand (via : Via) (code : Byte) (s : State) : State :=
  if mboxCodes.contains code.toNat then s
  else
    match s.mboxTake via code.toNat with
    | (s, none) => s
    | (s, some r) => s.mboxEnd r 2 []

/-- R498, R535: the command that was carried out finishes, and the next one that waits takes the engine. A written update waits for
its reset (R482). -/
def doMboxCommandDone (s : State) : State :=
  match s.mgmt.mbox with
  | none => s
  | some r =>
    if r.carried = false ∨ s.mgmt.takeover.isSome = true ∨ s.sentPending r = true then s
    else
      let s := s.setFld .mboxResult Fld.mboxResultStatus r.status
      let s := (s.setFlag .mboxResult Fld.mboxResultBusy false).setFlag .mboxResult Fld.mboxResultDone true
      let s := s.updMgmt (fun m => { m with mbox := none })
      let s := match r.code, r.status, s.mgmt.booted with
        | 1, 0, some (b, _) => s.updMgmt (fun m => { m.setQuire (!b) (quireOf r.result) with updated := true })
        | _, _, _ => s
      let s := if r.i3c then s.emit (.message (leBytes 1 r.status ++ (if r.code = 1 then [] else r.result))) else s
      s.mboxNext

/-! ### The commands -/

def execFwUpdate (via : Via) (flashOk : Bool) (s : State) : Host.Outcome State Fault Refusal :=
  .next (doFwUpdate via flashOk s)
def execSvnCommit (via : Via) (s : State) : Host.Outcome State Fault Refusal := .next (doSvnCommit via s)
def execDebugChallenge (via : Via) (s : State) : Host.Outcome State Fault Refusal := .next (doDebugChallenge via s)
def execDebugToken (via : Via) (s : State) : Host.Outcome State Fault Refusal := .next (doDebugToken via s)
def execUnlockChal (s : State) : Host.Outcome State Fault Refusal := .next (doUnlockChal s)
def execUnlockToken (tok : Vector Byte 176) (s : State) : Host.Outcome State Fault Refusal := .next (doUnlockToken tok s)
def execSentLoad (via : Via) (s : State) : Host.Outcome State Fault Refusal := .next (doSentLoad via s)
def execSentEnable (via : Via) (s : State) : Host.Outcome State Fault Refusal := .next (doSentEnable via s)
def execSentDisable (via : Via) (s : State) : Host.Outcome State Fault Refusal := .next (doSentDisable via s)
def execSentRun (via : Via) (s : State) : Host.Outcome State Fault Refusal := .next (doSentRun via s)
def execHash (via : Via) (s : State) : Host.Outcome State Fault Refusal := .next (doHash via s)
def execMboxBadCommand (via : Via) (code : Byte) (s : State) : Host.Outcome State Fault Refusal :=
  .next (doMboxBadCommand via code s)
def execMboxCommandDone (s : State) : Host.Outcome State Fault Refusal := .next (doMboxCommandDone s)

end Sys2Proof.Machine
end

