-- ==== Sys2Proof/Machine/Fleet.lean ====
section
/-! DEFINITION. Scores over time (R514), powered hours (R434), and the sentinel runs (R517, R518). -/

namespace Sys2Proof.Machine

/-! ### Scores -/

def scoreRegs : List Reg := [.scoreCe, .scoreRetry, .scoreRetrain, .scoreCrc]

/-- SCORE_CLEAR (R522). -/
def State.clearScores (s : State) : State := (scoreRegs.foldl (fun s r => s.setReg r 0) s).scoreSum

/-- R514: every HALF_LIFE_H powered hours every score is halved, rounded down. -/
def doScoreDecay (s : State) : State :=
  let h := s.fld .scoreCtl Fld.scoreCtlHalfLifeH
  if h = 0 ∨ s.mgmt.decayHours < h then s
  else
    let s := scoreRegs.foldl (fun s r => s.setFld r Fld.scoreCeScore (s.fld r Fld.scoreCeScore / 2)) s
    (s.updMgmt (fun m => { m with decayHours := m.decayHours - h })).scoreSum

/-- R434, R514: one powered hour more; hours without decay do not count towards the next halving. -/
def doPoweredHour (s : State) : State :=
  if s.mgmt.powered then
    (s.bump .marginStatus Fld.marginStatusPoweredHours 1).updMgmt (fun m => { m with
      decayHours := if s.fld .scoreCtl Fld.scoreCtlHalfLifeH = 0 then 0 else m.decayHours + 1 })
  else s

/-! ### Sentinel runs -/

def Sentinel.folios (v : Sentinel) : List Folio :=
  (List.finRange 8).filter (fun f => v.tiles.any (fun t => tileFolio t = f))

/-- Whether a launch queue of some folios holds a part whose start tense falls before `t`; with `tiles`, a part that names
one of them. -/
def State.partBefore (s : State) (folios : List Folio) (tiles : Option (List Tile)) (t : Nat) : Bool :=
  s.host.launches.any (fun l =>
    decide (l.start < t) && l.parts.any (fun f => folios.contains f)
      && (match tiles with
          | none => true
          | some ts => l.tiles.any (fun k => ts.contains k && l.parts.contains (tileFolio k))))

/-- The next point of a slot's rotation that every folio of the set permits (R517). -/
def State.sentPoint (s : State) (v : Sentinel) : Option Nat :=
  ((List.range 8).map (fun i => (v.point + i) % 8)).find? (fun p =>
    v.folios.all (fun f =>
      decide (s.fld (.folioDvfs f) Fld.folioDvfsFastest ≤ p) && decide (p ≤ s.fld (.folioDvfs f) Fld.folioDvfsSlowest)
        && decide (s.thermalLimit f ≤ p)))

/-- The dispatch of a sentinel's program to a tile: s1-s4 hold its arguments, and it carries no job (R69, R516). -/
def State.dispatchSentinel (s : State) (t : Tile) (v : Sentinel) : State :=
  let l : Launch := ⟨0, 0, 0, [0, BitVec.ofNat 64 v.program, 0, 0, 0, 0, 0, 0] ++ v.args, true, [], [], [], 0, none, 0, false⟩
  (s.dispatchTile t l 0).updTile t (fun x => { x with launch := none })

/-- The runs in progress that hold a folio of a slot's set. -/
def State.runsOn (s : State) (v : Sentinel) : List SentRun :=
  s.mgmt.sentRuns.filter (fun r => r.former.any (fun e => v.folios.contains e.1))

/-- Step 2 of R517: the point of a run, and the folios that it moves with their former points. A folio that another run holds stays at
that run's point (log 212). -/
def State.sentMove (s : State) (v : Sentinel) : Nat × List (Folio × Nat) :=
  let held := s.runsOn v
  let now := match held with
    | r :: _ => r.point
    | [] => (s.sentPoint v).getD (s.point (tileFolio (v.tiles.headD 0)))
  (now, v.folios.map (fun f =>
    (f, ((held.flatMap (fun r => r.former)).find? (fun e => e.1 = f)).elim (s.point f) (fun e => e.2))))

/-- R517: 50 us after the start of a forecast run of at least 20 windows, an enabled slot that is due starts, when the run
is eligible for it. A slot looks at a run once; a run that SENT_RUN asked for counts among the eligible ones too. -/
def doSentinelStart (k : Fin 8) (s : State) : State :=
  match s.sentinel k with
  | none => s
  | some v =>
    let w := s.tenseNow / 50000
    let n := w - 1
    let len := s.forecastRun n 4096
    if s.ready = false ∨ w = 0 ∨ s.forecastWindow n = false ∨ (0 < n ∧ s.forecastWindow (n - 1) = true) ∨ len < 20
        ∨ v.seen = n + 1 ∨ (v.every = 0 ∧ v.once = false) then s
    else
      let v := { v with seen := n + 1 }
      let start := n * 50000
      let stop := min (start + 50000 + 1000 * v.budgetUs) ((n + len) * 50000 - 100000)
      let eligible := v.tiles.all s.tileFree && !s.partBefore v.folios none (stop + 20000)
      if !eligible then (s.setSentinel k v).bump .sentStops Fld.sentStopsSkipped 1
      else if v.once = false ∧ v.since + 1 < v.every then s.setSentinel k { v with since := v.since + 1 }
      else
        let (now, former) := s.sentMove v
        let free := v.folios.filter (fun f => !s.sentinelHolds f)
        let s : State := if (s.sentPoint v).isSome then free.foldl (fun s f => s.setPoint f now) s else s
        let s := s.setSentinel k { v with
          once := false, since := if v.since + 1 < v.every then v.since + 1 else 0, point := (now + 1) % 8 }
        let s := v.tiles.foldl (fun s t => s.dispatchSentinel t v) s
        let s := (s.setFlag .sentStatus Fld.sentStatusRunning true).bump .sentRuns Fld.sentRunsRuns 1
        s.updMgmt (fun m => { m with sentRuns := m.sentRuns ++ [⟨k, v, s.tenseNow, s.now, stop, now, former⟩] })

/-- The highest reading of a tile's four sensors since a time (R518), by their 10 us samples. -/
def State.peakSince (s : State) (t : Tile) (since : Nat) : Int :=
  let n := (s.now - since) / 10000 + 1
  (List.range 4).foldl (fun (m : Int) j =>
    ((s.sensor (Fin.ofNat 818 (4 * t.val + j))).past.take n).foldl max m) (s.reading (Fin.ofNat 818 (4 * t.val)))

/-- R517, R518: the output of a tile is hashed and its result record appended. `ran` says that the tile was running at the
stop. -/
def State.sentRecord (s : State) (r : SentRun) (t : Tile) (ran : Bool) : State :=
  let v := r.desc
  let (s, digest) : State × List Byte :=
    match s.engRead (tileFolio t) (v.outOff + t.val * v.outBytes) v.outBytes with
    | (s, some bs) => (s, sha256 bs)
    | (s, none) => (s.draw, (List.range 32).map (Config.mixedByte s.free))
  let kind := s.fld (.seqCtl t) Fld.seqCtlHaltKind
  let outcome := if ran then 2 else if kind ≠ 1 then 3 else if digest = digestBytes v.expect then 0 else 1
  let s := if outcome = 1 then s.bump .sentRuns Fld.sentRunsMismatches 1 else s
  let tail := s.fld .sentRingTail Fld.sentRingTailIndex
  let rec' := leBytes 2 t.val ++ leBytes 1 r.slot.val ++ leBytes 1 outcome ++ leBytes 1 r.point ++ leBytes 1 0
    ++ leBytes 2 (field16 (s.peakSince t r.since)) ++ leBytes 8 r.tense
    ++ leBytes 4 (s.fld (.checkMiss t) Fld.checkMissCount) ++ leBytes 4 0 ++ digest.take 8
  let s := (s.engWrite 0 (v.ringOff + tail % 2 ^ v.ringLog2 * 32) rec').1
  s.setFld .sentRingTail Fld.sentRingTailIndex ((tail + 1) % 2 ^ 32)

/-- R517: whether a run ends now: its stop tense has come, or a packet part for a tile of its set has arrived that starts before it. -/
def State.sentEnds (s : State) (r : SentRun) : Bool :=
  decide (r.stopAt ≤ s.tenseNow) || s.partBefore r.desc.folios (some r.desc.tiles) r.stopAt

/-- R517: the end of a run. A folio that another run holds keeps its point until that run ends. -/
def State.sentEnd (s : State) (r : SentRun) : State :=
  let runs := r.desc.tiles.filter (fun t => s.flag (.seqCtl t) Fld.seqCtlRun)
  let s := runs.foldl (fun s t => s.stopTile t) s
  let s := if runs.isEmpty then s else s.bump .sentStops Fld.sentStopsStopped 1
  let s := s.updMgmt (fun m => { m with sentRuns := m.sentRuns.filter (fun x => x.slot ≠ r.slot) })
  let s := (r.former.filter (fun e => !s.sentinelHolds e.1)).foldl (fun s e => s.setPoint e.1 e.2) s
  let s := r.desc.tiles.foldl (fun s t => s.sentRecord r t (runs.contains t)) s
  s.setFlag .sentStatus Fld.sentStatusRunning (!s.mgmt.sentRuns.isEmpty)

/-- R517: the runs that are over end. -/
def doSentinelStop (s : State) : State :=
  if s.clocksStopped then s else (s.mgmt.sentRuns.filter s.sentEnds).foldl State.sentEnd s

/-! ### The commands -/

def execScoreDecay (s : State) : Host.Outcome State Fault Refusal := .next (doScoreDecay s)
def execPoweredHour (s : State) : Host.Outcome State Fault Refusal := .next (doPoweredHour s)
def execSentinelStart (k : Fin 8) (s : State) : Host.Outcome State Fault Refusal := .next (doSentinelStart k s)
def execSentinelStop (s : State) : Host.Outcome State Fault Refusal := .next (doSentinelStop s)

end Sys2Proof.Machine
end

