-- ==== Sys2Proof/Machine/Access.lean ====
section
/-! DEFINITION. Register accesses (R7-R11, R462, R473-R475, R523-R530): what a write stores, refuses and starts, and what
a read returns. -/

namespace Sys2Proof.Machine

/-! ### The domain a register lives in -/

/-- The clock domain that an access starts (R39). No rule gives the domain of the twin-stream and felt-link registers: a pair's lie in
the twin-stream engine of its lower folio, a felt link's in the felt endpoint of its lower die (DESIGN CHOICE, log 230). -/
def regDomain : Reg → Domain
  | .pressRepair t | .pressService t => .tile t
  | .bufBase f _ | .bufSize f _ | .bufCtl f _ | .fcCtl f | .fcHits f | .fcMisses f | .fcPrefIssued f | .fcPrefUsed f
  | .fcHintsDropped f | .fcCorrected f | .fcUeLast f => .cache f
  | .ecqBase f _ | .ecqSize f _ | .ecqTailAddr f _ | .ecqHead f _ | .ecqCtl f _ | .ecqDone f _ | .engOps f | .engNaks f
  | .engCmds f | .regionTarget f _ | .regionCount f _ | .regionSlot f _ | .regionState f _ =>
    .reamBase (Fin.ofNat 32 (4 * f.val))
  | .aperture f _ | .evqBase f | .evqSize f | .evqTail f | .evqHead f | .evqCtl f | .evqStatus f => .parser f
  | .reamStatus m | .reamCorrected m | .reamUeLast m | .reamSpares m | .reamScrub m | .reamRefresh m | .reamHammer m =>
    .reamBase m
  | .tenseNow | .tenseCtl | .tenseStatus | .tenseRootInit | .tenseParents | .tenseOffset | .tenseLockLosses
  | .tenseLateDiscards | .tenseQuiesce | .tenseBound => .tense 0
  | .portPhy p | .laneMapTx p | .laneMapRx p | .fecCorrected p | .fecUncorrected p | .laneEvents p | .portAdmit p
  | .portAsym p => .port p
  | .collCtl _ | .collShape _ | .collKey _ | .collTiles0 _ | .collTiles1 _ | .collTiles2 _ | .collStage _ | .collTimeout _
  | .collStatus _ | .collSteps _ | .collLastArrival _ | .collErrors _ | .collStore | .ringTable _ _ | .retxTimer => .deckle 0
  | .xportRetx d | .xportTimeouts d | .xportNaksSent d | .xportNaksRcvd d | .xportLastNak d | .xportDuplicates d
  | .xportAssemblyDrops d | .xportOrphans d | .xportCrcDrops d | .xportNakSuppressed d => .felt d
  | .twinStatus i | .twinErrors i => .twin (Fin.ofNat 8 (2 * i.val))
  | .feltLink k | .feltEvents k => .felt (((List.finRange 10).find? (fun d =>
      (List.finRange 10).any (fun e => decide (d < e) && decide (feltIndex d e = k)))).getD 0)
  | r =>
    match tileOfReg r, deckleOfReg r with
    | some t, _ => .tile t
    | none, some n => .deckle n
    | none, none => if hostReg r then .cxl else .island

/-- The collective registers and RETX_TIMER, which both deckle windows address (R319, R383). -/
def sharedReg : Reg → Bool
  | .collCtl _ | .collShape _ | .collKey _ | .collTiles0 _ | .collTiles1 _ | .collTiles2 _ | .collStage _ | .collTimeout _
  | .collStatus _ | .collSteps _ | .collLastArrival _ | .collErrors _ | .collStore | .ringTable _ _ | .retxTimer => true
  | _ => false

/-- Whether the register that an offset reaches lies in a domain in reset (R526). -/
def State.regDown (s : State) (off : Nat) (r : Reg) : Bool :=
  (match tileOfReg r with
    | some t => (s.tile t).inReset
    | none => false)
    || (match folioOfReg r with
        | some f => s.downDies.contains (folioDie f)
        | none => false)
    || (match deckleOfReg r with
        | some n => s.downDies.contains (deckleDie n)
        | none => false)
    || (sharedReg r && s.downDies.contains (Fin.ofNat 10 (windowDie off)))

/-- Whether a register belongs to a feature that is not enabled (R461, R462). -/
def State.featureOff (s : State) (r : Reg) : Bool :=
  match r with
  | .hqGlobal | .hqSqBase _ | .hqSqSize _ | .hqTailAddr _ | .hqHead _ | .hqCqBase _ | .hqCtl _ | .hqStatus _ => !s.feature 0
  | .biasFlipPage | .biasFlipCtl => !s.feature 3
  | _ => false

/-! ### Reads -/

/-- What a register reads as (R7): TENSE_NOW is the counter, and DECKLE_ID.CHIP copies ROUTE_CTL.CHIP (R284, R534). -/
def State.readReg (s : State) (r : Reg) : W64 :=
  match r with
  | .tenseNow => BitVec.ofNat 64 s.tenseNow
  | .deckleId n => Fld.deckleIdChip.set (s.reg r) (s.chipOf n)
  | r => s.reg r

/-- The windows that a takeover freezes: energy and thermal, fault record and counters, mailbox (R530). -/
def heldWindow (off : Nat) : Bool :=
  (decide (0x100000 ≤ off) && decide (off < 0x200000)) || (decide (0x400000 ≤ off) && decide (off < 0x1000000))
    || (decide (0x7000000 ≤ off) && decide (off < 0x8000000))

/-- What a read at an offset sees: in those windows, during a takeover, the registers as last mirrored to the standby (R493, R530;
log 210). -/
def State.seen (s : State) (off : Nat) : State :=
  match s.mgmt.takeover with
  | some k => if heldWindow off then { s with regs := k.mirror } else s
  | none => s

/-- The 64-bit slot at an offset (R462, R525-R527, R530). -/
def State.readSlot (s : State) (off : Nat) : W64 :=
  match Reg.ofAddr off with
  | .reg r => if s.regDown off r || s.featureOff r then 0 else (s.seen off).readReg r
  | .blank => 0
  | .reserved => 0

/-- An aligned read of 64 or 32 bits (R11, R528). -/
def State.readWord (s : State) (off : Nat) (wide : Bool) : W64 :=
  let v := s.readSlot (off / 8 * 8)
  if wide then v else (v >>> (off % 8 * 8)) &&& 0xFFFFFFFF

/-- Before ready only the identity and status window answers (R11, R473). -/
def State.answers (s : State) (off : Nat) : Bool := s.ready || decide (off < 0x10000)

/-- What the vendor-defined messages of the management I3C bus read, while firmware runs: a register of the identity and status window,
or of the fault record ring (R496). -/
def State.i3cRead (s : State) (off : Nat) : Option W64 :=
  if s.mgmt.booted.isSome && (decide (off < 0x10000) || (decide (0x400000 ≤ off) && decide (off < 0x430000))) then
    some (s.readSlot (off / 8 * 8))
  else none

/-- An access starts the clock domain of what it reaches (R39). -/
def State.wakeReg (s : State) (off : Nat) : State :=
  match Reg.ofAddr off with
  | .reg r => if s.clocksStopped || s.regDown off r then s else s.wake (regDomain r)
  | .blank => s
  | .reserved => s

/-! ### Reserved encodings (R9) -/

def outside (lo hi v : Nat) : Bool := decide (v < lo) || decide (hi < v)

/-- The reserved values of single fields. -/
def reservedFields : Reg → List (Field × (Nat → Bool))
  | .bufCtl _ _ => [(Fld.bufCtlCache, fun v => decide (v = 3))]
  | .bufSize _ _ => [(Fld.bufSizeBytes, fun v => decide (v = 2 ^ 40 - 1))]
  | .ecqSize _ _ => [(Fld.ecqSizeLog2, outside 4 16)]
  | .tenseParents => (List.range 4).map (fun i => (Fld.tenseParents i, fun v => decide (65 < v) && decide (v ≠ 0xFF)))
  | .switchCtl _ => [(Fld.switchCtlTransitMax, outside 0 192)]
  | .allowList0 _ => (List.range 4).map (fun i => (Fld.allowList0 i, fun v => decide (v = 0xFFF)))
  | .allowList1 _ => (List.range 4).map (fun i => (Fld.allowList1 i, fun v => decide (v = 0xFFF)))
  | .portMode _ => (List.range 32).map (fun i => (Fld.portMode i, fun v => decide (v = 3)))
  | .mirrorCtl _ _ => [(Fld.mirrorCtlDir, fun v => decide (v = 3)), (Fld.mirrorCtlSampleN, fun v => decide (v = 0))]
  | .retxTimer => [(Fld.retxTimerMachineUs, outside 16 64)]
  | .collCtl _ =>
    [(Fld.collCtlArriveReason, outside 3 4), (Fld.collCtlJob, outside 1 0xFFE), (Fld.collCtlMinIn, outside 0 2)]
  | .collShape _ => [(Fld.collShapeRingLen, outside 1 1024), (Fld.collShapeCapChunks, outside 1 (2 ^ 24 - 2))]
  | .collStage _ => [(Fld.collStageBytes, fun v => decide (v = 2 ^ 22 - 1))]
  | .collTimeout _ =>
    [(Fld.collTimeoutStepUs, fun v => decide (v = 0)), (Fld.collTimeoutCreateMs, fun v => decide (v = 0))]
  | .optCtl =>
    [(Fld.optCtlRecalPeriodMin, fun v => decide (v = 0)), (Fld.optCtlRecalDelta, outside 1 20),
      (Fld.optCtlRecalMaxPorts, outside 1 32)]
  | .heater _ w =>
    (List.range (if w.val < 4 then 4 else if w.val = 4 then 2 else 0)).map (fun i =>
      (⟨16 * i + 12, 4⟩, fun v => decide (v ≠ 0)))
  | .energyCtl => [(Fld.energyCtlPulpRampUs, outside 20 100)]
  | .energyCap => (Fld.energyCapCapW, outside 3000 7600) :: (List.range 8).map (fun i =>
      (Fld.energyCapWeight i, fun v => decide (v = 0)))
  | .exchPlanShape => [(Fld.exchPlanShapeLengthUs, fun v => decide (v = 2 ^ 32 - 1))]
  | .hqGlobal => [(Fld.hqGlobalPollUs, outside 1 1000)]
  | .biasFlipPage => [(Fld.biasFlipPageCount, outside 1 1024)]
  | .hqSqSize _ => [(Fld.hqSqSizeLog2, outside 4 12)]
  | .aperture _ _ => [(Fld.apertureDie, outside 0 9)]
  | .evqSize _ => [(Fld.evqSizeLog2, outside 6 16)]
  | .evqCtl _ => [(Fld.evqCtlEiid, fun v => decide (v = 0))]
  | .suspectCtl => [(Fld.suspectCtlStreakLimit, fun v => decide (v = 0))]
  | _ => []

/-- R203: an entry of the buffer table that is valid and lies beyond a die's offset space. -/
def badBuffer (base size ctl : W64) : Bool :=
  let addr := 64 * Fld.bufBaseAddr.get base
  decide (Fld.bufCtlValid.get ctl = 1)
    && (decide (10 ≤ addr / 2 ^ 46 % 16) || decide (addr % 2 ^ 46 + Fld.bufSizeBytes.get size > 2 ^ 46))

/-- R321: GLOBAL_TABLE_g. -/
def badGlobal (v : W64) (g own : Nat) : Bool :=
  let gw := Fld.globalTableGwMembers.get v
  let valid := decide (Fld.globalTableValid.get v = 1)
  let via := decide (Fld.globalTableViaValid.get v = 1)
  let group := Fld.globalTableViaGroup.get v
  (valid && decide (gw = 0) && !via) || (via && decide (gw ≠ 0)) || (via && !valid)
    || (via && (decide (group = g) || decide (group = own)))

/-- R344: an entry of the allow-list that goes from one non-zero job to another. -/
def jobChanges (f : Nat → Field) (old new : W64) : Bool :=
  (List.range 4).any (fun i =>
    decide ((f i).get old ≠ 0) && decide ((f i).get new ≠ 0) && decide ((f i).get old ≠ (f i).get new))

/-- The reserved combinations of values that a register would hold (`new`), beside what it holds and what the device
holds. -/
def State.badCombination (s : State) (r : Reg) (old new : W64) : Bool :=
  match r with
  | .bufBase f e => badBuffer new (s.reg (.bufSize f e)) (s.reg (.bufCtl f e))
  | .bufSize f e => badBuffer (s.reg (.bufBase f e)) new (s.reg (.bufCtl f e))
  | .bufCtl f e => badBuffer (s.reg (.bufBase f e)) (s.reg (.bufSize f e)) new
  | .globalTable n g => badGlobal new g.val (s.ownGroup n)
  | .routeCtl n => (List.finRange 1024).any (fun g =>
      badGlobal (s.reg (.globalTable n g)) g.val (Fld.routeCtlChip.get new / 16)
        && !badGlobal (s.reg (.globalTable n g)) g.val (s.ownGroup n))
  | .allowList0 _ => jobChanges Fld.allowList0 old new
  | .allowList1 _ => jobChanges Fld.allowList1 old new
  | .mirrorCtl n _ =>
    decide (Fld.mirrorCtlEnable.get new = 1)
      && decide (s.portMode (portOf n (Fld.mirrorCtlDest.get new)) ≠ 2)
  | .collShape _ => !s.flag (.routeCtl 0) Fld.routeCtlGroup16 && decide (Fld.collShapeLocalMask.get new ≥ 2 ^ 8)
  | .collStage _ => decide (64 * Fld.collStageOff.get new + Fld.collStageBytes.get new > vatSize)
  | .energyCtl => decide (Fld.energyCtlPulpLeadUs.get new < Fld.energyCtlPulpRampUs.get new)
  | .exchPlanShape =>
    decide (Fld.exchPlanShapePeriodUs.get new ≠ 0)
      && decide (Fld.exchPlanShapePeriodUs.get new < Fld.exchPlanShapeLengthUs.get new)
  | .folioDvfs _ => decide (Fld.folioDvfsSlowest.get new < Fld.folioDvfsFastest.get new)
  | .evqHead f =>
    let d := (Fld.evqHeadIndex.get new + 2 ^ 32 - s.fld (.evqTail f) Fld.evqTailIndex) % 2 ^ 32
    decide (1 ≤ d) && decide (d < 2 ^ 31)
  | .hqCtl _ =>
    (decide (Fld.hqCtlEnable.get new = 1 ∧ Fld.hqCtlEnable.get old = 0)
        && !(s.flag .featCtl Fld.featCtlDone && s.feature 0))
      || (decide (Fld.hqCtlLoc.get new = 1) && !s.feature 2)
  | .faultRingAck => decide (s.fld .faultRingTail Fld.faultRingTailIndex < new.toNat)
  | _ => false

/-- The reserved combinations of a write's actions. -/
def badActions (r : Reg) (old new acts : W64) : Bool :=
  match r with
  | .seqCtl _ => decide (Fld.seqCtlStart.get acts = 1) && decide (Fld.seqCtlStop.get acts = 1)
  | .ecqCtl _ _ =>
    decide (Fld.ecqCtlResume.get acts = 1)
      && (decide (Fld.ecqCtlEnable.get old = 1) || decide (Fld.ecqCtlError.get old = 1)
        || decide (Fld.ecqCtlEnable.get new = 1))
  | _ => false

/-! ### Locks -/

/-- Whether a port is admitted (R319, R338). -/
def State.anyAdmitted (s : State) : Bool := (List.finRange 64).any s.portLiveBit

/-- A group's configuration is locked (R351). -/
def State.collLocked (s : State) (g : Coll) : Bool := decide (1 ≤ s.collState g) && decide (s.collState g ≤ 3)

/-- Writes that have no effect on any field of their register (R118, R257, R285, R319, R351, R460, R471, R472). -/
def State.lockedWrite (s : State) (r : Reg) (new : W64) : Bool :=
  match r with
  | .seqPc t | .strict t | .srSeed t | .srStep t => s.flag (.seqCtl t) Fld.seqCtlRun
  | .ecqBase f q | .ecqSize f q | .ecqTailAddr f q => s.flag (.ecqCtl f q) Fld.ecqCtlEnable
  | .evqBase f | .evqSize f => s.flag (.evqCtl f) Fld.evqCtlEnable
  | .tenseCtl =>
    s.flag .tenseCtl Fld.tenseCtlEnable
      && (decide (Fld.tenseCtlRoot.get new ≠ s.fld .tenseCtl Fld.tenseCtlRoot)
        || decide (Fld.tenseCtlStandbyRoot.get new ≠ s.fld .tenseCtl Fld.tenseCtlStandbyRoot))
  | .tenseRootInit => s.flag .tenseCtl Fld.tenseCtlEnable && decide (new ≠ s.reg .tenseRootInit)
  | .retxTimer => (List.finRange 64).any (fun g => decide (s.collState g ≠ 0))
  | .collShape g | .collKey g | .collTiles0 g | .collTiles1 g | .collTiles2 g | .collStage g | .ringTable g _ =>
    s.collLocked g
  | .featDriver _ => s.flag .featCtl Fld.featCtlDone
  | .hqSqBase q | .hqSqSize q | .hqTailAddr q | .hqCqBase q => s.flag (.hqCtl q) Fld.hqCtlEnable
  | _ => false

/-- The bits of a register that keep their values while its other fields take theirs (R319, R338, R351, R471). -/
def State.frozenBits (s : State) (r : Reg) : W64 :=
  match r with
  | .routeCtl _ =>
    if s.anyAdmitted then Fld.routeCtlIsolation.mask ||| Fld.routeCtlGroup16.mask ||| Fld.routeCtlChip.mask else 0
  | .portMode n =>
    (List.range 32).foldl (fun m i => if s.portLiveBit (portOf n i) then m ||| (Fld.portMode i).mask else m) 0
  | .collCtl g =>
    if s.collLocked g then
      Fld.collCtlJob.mask ||| Fld.collCtlRsEn.mask ||| Fld.collCtlMinIn.mask ||| Fld.collCtlFeatures.mask
    else 0
  | .hqCtl q => if s.flag (.hqCtl q) Fld.hqCtlEnable then Fld.hqCtlLoc.mask else 0
  | _ => 0

/-- Whether a write is recorded for the bits that keep their values: where it would change one, and for ROUTE_CTL whenever it
reaches one (R319; log 155). -/
def keptRecorded (r : Reg) (want new frozen half : W64) : Bool :=
  decide (want ≠ new) ||
    match r with
    | .routeCtl _ => decide (frozen &&& half ≠ 0)
    | _ => false

/-! ### What a write does beyond storing -/

/-- R338, R392: the ports whose mode changed. -/
def State.modesWritten (s : State) (n : Deckle) (old : W64) : State :=
  (List.range 32).foldl (fun s i =>
    if (Fld.portMode i).get old = (Fld.portMode i).get (s.reg (.portMode n)) then s
    else s.portModeChanged (portOf n i)) s

/-- Follow a change of a register's RW bits from `old`. -/
def State.stored (s : State) (r : Reg) (old : W64) (line : BitVec 32) : State :=
  match r with
  | .energyCtl => (List.finRange 8).foldl State.followPoint s
  | .folioDvfs f => s.followPoint f
  | .exchPlanStart | .exchPlanShape => s.setForecast (s.reg .energyWindow).toNat
  | .reamRefresh m => s.setFlag (.reamStatus m) Fld.reamStatusHot (s.reamHot m)
  | .scoreCtl => s.scoreSum
  | .linePower l =>
    s.updMgmt (fun m => { m with flash := { m.flash with
      commission := Store.put (fun k => k.val) (fun _ => 0) m.flash.commission l
        (s.fld (.linePower l) Fld.linePowerCommission) } })
  | .tenseCtl => s.tenseEnableChange (decide (Fld.tenseCtlEnable.get old = 1))
  | .tenseQuiesce => s.quiesceWritten
  | .retxTimer =>
    s.setFld .tenseBound Fld.tenseBoundMachineUs (2 * s.fld .retxTimer Fld.retxTimerMachineUs + 8)
  | .portAdmit p => s.portAdmitWritten p
  | .portMode n => s.modesWritten n old
  | .hqCtl q =>
    if s.flag (.hqCtl q) Fld.hqCtlEnable && decide (Fld.hqCtlEnable.get old = 0) then s.hqEnable q line else s
  | .ecqCtl f q =>
    if s.flag (.ecqCtl f q) Fld.ecqCtlEnable && decide (Fld.ecqCtlEnable.get old = 0) then s.ecqEnable f q else s
  | _ => s

/-- Ports that test mode disabled are enabled again (R474). -/
def State.leaveTest (s : State) : State :=
  let s := (List.finRange 64).foldl (fun s p =>
    if (s.port p).testCleared then
      let s := s.updPort p (fun r => { r with testCleared := false })
      if s.portMode p = 1 then s.setFlag (.portAdmit p) Fld.portAdmitEnable true else s
    else s) s
  s.setMode 1

/-- Every port is disabled (R395, R474). -/
def State.enterTest (s : State) : State :=
  let s := (List.finRange 64).foldl (fun s p =>
    if s.flag (.portAdmit p) Fld.portAdmitEnable then
      let s := s.updPort p (fun r => { r with testCleared := true })
      (s.setFlag (.portAdmit p) Fld.portAdmitEnable false).portAdmitWritten p
    else s) s
  s.setMode 2

/-- R474: a request of MODE_CTL. -/
def State.modeRequest (s : State) (req : Nat) (refuse : State → State) : State :=
  if req = 1 ∧ s.devMode = 2 ∧ s.devState = 1 then s.leaveTest
  else if req = 2 ∧ s.devMode = 1 ∧ s.devState = 1
      ∧ (List.finRange 64).all (fun g => s.collState g = 0) = true
      ∧ (List.finRange 64).all (fun q => !s.flag (.hqCtl q) Fld.hqCtlEnable) = true then s.enterTest
  else refuse s

/-- What a value written to DEV_RESET asks for (R503); a TILE_INDEX that the write does not carry, or above 191, names no
tile. -/
def resetRequest (acts half : W64) : ResetRequest where
  whole := decide (Fld.devResetWhole.get acts = 1)
  proceed := decide (Fld.devResetProceed.get acts = 1)
  folios := (List.finRange 8).filter (fun f => (Fld.devResetFolios.get acts).testBit f.val)
  deckles := (List.finRange 2).filter (fun n => (Fld.devResetDeckles.get acts).testBit n.val)
  tile :=
    if Fld.devResetTile.get acts = 1 ∧ half = BitVec.allOnes 64 ∧ Fld.devResetTileIndex.get acts < 192 then
      some (Fin.ofNat 192 (Fld.devResetTileIndex.get acts))
    else none
  parts := decide (Fld.devResetFolios.get acts ≠ 0) || decide (Fld.devResetDeckles.get acts ≠ 0) || decide (Fld.devResetTile.get acts = 1)

/-- The actions of WO fields (R7). `acts` holds the bits of the WO fields that lie wholly in what is written, `half` the
bits that are written; `refuse` records a write without effect. -/
def State.actions (s : State) (r : Reg) (acts half : W64) (refuse : State → State) : State :=
  let on (f : Field) : Bool := decide (f.get acts = 1)
  match r with
  | .seqCtl t =>
    let s := if on Fld.seqCtlStart then s.startTile t refuse else s
    if on Fld.seqCtlStop then s.stopTile t else s
  | .ecqCtl f q => if on Fld.ecqCtlResume then s.ecqResume f q else s
  | .collCtl g =>
    let s := if on Fld.collCtlCreate then s.createGroup g else s
    let s := if on Fld.collCtlDestroy then s.destroyGroup g else s
    let s := if on Fld.collCtlPreempt then s.preemptGroup g else s
    let s := if on Fld.collCtlResume then s.resumeGroup g else s
    if on Fld.collCtlForceArrive then s.forceArrive g else s
  | .sensor i => if on Fld.sensorPeakClr then s.setFld r Fld.sensorPeakC (s.fld (.sensor i) Fld.sensorNowC) else s
  | .featCtl =>
    if on Fld.featCtlCommit then (if s.flag .featCtl Fld.featCtlDone then refuse s else s.featCommit) else s
  | .biasFlipCtl => if on Fld.biasFlipCtlGo then s.biasGo else s
  | .devReset =>
    if Fld.devResetKey.get acts = 0xA5 then s.devReset (resetRequest acts half) refuse else s
  | .modeCtl => if half.getLsbD 0 then s.modeRequest (Fld.modeCtlRequest.get acts) refuse else s
  | .recoveryCtl =>
    let s := if on Fld.recoveryCtlStart then s.recoveryStart else s
    if on Fld.recoveryCtlCommit then s.recoveryCommit else s
  | .recoveryData => if half = BitVec.allOnes 64 then s.recoveryData acts else s
  | .scoreClear => if on Fld.scoreClearClear then s.clearScores else s
  | .mboxCmd =>
    if half.getLsbD 0 = false then s
    else if s.flag .mboxResult Fld.mboxResultBusy then refuse s
    else s.mboxWrite (Fld.mboxCmdCmd.get acts)
  | _ => s

/-- The bits of the fields of one access code that lie wholly in `half` (R528). -/
def wholeFields (r : Reg) (a : Access) (half : W64) : W64 :=
  r.fields.foldl (fun m p => if p.2 = a ∧ p.1.mask &&& half = p.1.mask then m ||| p.1.mask else m) 0

/-- Writing 1 to QUARANTINED releases the port; only the host and fabric-management software can (R21, R317). -/
def mayRelease : Src → Bool
  | .host => true
  | .cell _ _ => true
  | .island => false
  | .hart _ _ => false

/-- What the W1C bits written as 1 do. -/
def State.clears (s : State) (src : Src) (r : Reg) (bits : W64) : State :=
  if bits = 0 then s
  else
    match r with
    | .portViol p => if mayRelease src then s.releasePort p else s
    | r => s.setReg r (s.reg r &&& ~~~ bits)

/-- A write that reaches a register (R7, R9, R528): `v` is the 64-bit value in place, `half` the bits that are written. -/
def State.writeReg (s : State) (src : Src) (r : Reg) (v half : W64) (line : BitVec 32) (record : Nat → State → State) :
    State :=
  let old := s.reg r
  let rw := r.maskOf .rw &&& half
  let want := (old &&& ~~~ rw) ||| (v &&& rw)
  let frozen := s.frozenBits r
  let new := (want &&& ~~~ frozen) ||| (old &&& frozen)
  let acts := v &&& wholeFields r .wo half
  let w1c := v &&& wholeFields r .w1c half
  if (reservedFields r).any (fun e => decide (e.1.mask &&& half ≠ 0) && e.2 (e.1.get new)) || s.badCombination r old new
      || badActions r old new acts then record 0x0001 s
  else if decide (rw ≠ 0) && s.lockedWrite r want then record 0x0003 s
  else
    let s := if keptRecorded r want new frozen half then record 0x0003 s else s
    let s := (s.setReg r new).clears src r w1c
    let s := if rw = 0 then s else s.stored r old line
    s.actions r acts half (record 0x0003)

/-! ### The access -/

/-- A write that arrives during a takeover waits, up to 256 of them (R530). -/
def State.holdWrite (s : State) (k : Takeover) (h : HeldWrite) : State :=
  s.updMgmt (fun m => { m with takeover := some (
    if k.held.length < 256 then { k with held := k.held ++ [h] }
    else { k with dropped := k.dropped + 1, firstOff := if k.dropped = 0 then h.off else k.firstOff }) })

/-- Whether a register accepts writes in the device's mode: in recovery mode only the recovery registers do, beside
DEV_RESET (R474, R475), and they do in no other mode (R484). -/
def State.modeAccepts (s : State) (r : Reg) : Bool :=
  match r with
  | .recoveryCtl | .recoveryData => decide (s.devMode = 3)
  | .devReset => true
  | _ => decide (s.devMode ≠ 3)

/-- The bits that a write reaches (R528). -/
def writtenBits (off : Nat) (wide : Bool) : W64 :=
  if wide then BitVec.allOnes 64 else 0xFFFFFFFF#64 <<< (off % 8 * 8)

/-- An aligned write of 64 or 32 bits at a BAR index 0 offset (R11, R462, R525-R528). `line` is the tail that the device
reads for a LOC 0 queue that the write enables (R453). -/
def State.writeOff (s : State) (src : Src) (off : Nat) (wide : Bool) (v : W64) (line : BitVec 32) : State :=
  let half := writtenBits off wide
  let v := if wide then v else v &&& 0xFFFFFFFF
  let place := if wide then v else v <<< (off % 8 * 8)
  let record (code : Nat) (s : State) : State := s.regFault code off v.toNat
  match Reg.ofAddr (off / 8 * 8) with
  | .reserved => record 0x0004 s
  | .blank => s
  | .reg r =>
    if s.regDown off r then record 0x0005 s
    else
      let s := s.wakeReg (off / 8 * 8)
      if s.modeAccepts r = false then (if r = .modeCtl then record 0x0003 s else s)
      else if s.featureOff r && !(s.badCombination r (s.reg r) place) then record 0x0003 s
      else s.writeReg src r place half line record

/-- R11: an access of another size, or misaligned. -/
def State.badSize (s : State) (off size : Nat) (write : Bool) : State :=
  if s.answers off = false then (if write then s else s.emit .readError)
  else
    let s := s.regFault 0x0002 off size
    if write then s else s.emit (.readData (List.replicate size 0))

/-- Whether R21 and R22 keep the management plane from a register of the control and data planes once the device is ready: those of
the host-attach, tense, folio, deckle, felt and ream windows, but for PORT_ADMIT, the heater tables, the line drives, the lane maps
and a write to SEQ_CTL that only stops. -/
def islandBarred (off : Nat) (v : W64) : Bool :=
  let plane := (decide (0x10000 ≤ off) && decide (off < 0x100000)) || (decide (0x200000 ≤ off) && decide (off < 0x400000))
    || (decide (0x1000000 ≤ off) && decide (off < 0x7000000))
  plane && (match Reg.ofAddr (off / 8 * 8) with
    | .reg r =>
      match r with
      | .portAdmit _ | .heater _ _ | .lineDrive _ | .laneMapTx _ | .laneMapRx _ => false
      | .seqCtl _ => decide (v ≠ Fld.seqCtlStop.mask)
      | _ => true
    | _ => true)

/-- A write to BAR index 0 (R11, R21, R529, R530). -/
def State.access (s : State) (src : Src) (off : Nat) (wide : Bool) (v : W64) (line : BitVec 32) : State :=
  let size := if wide then 8 else 4
  if s.mgmt.powered = false then s
  else if off % size ≠ 0 then s.badSize off size true
  else if s.answers off = false then s
  else if src = .island ∧ s.ready = true ∧ islandBarred off v = true then s
  else
    match s.mgmt.takeover with
    | some k => if heldWindow off then s.holdWrite k ⟨src, off, wide, v⟩ else s.writeOff src off wide v line
    | none => s.writeOff src off wide v line

/-- A write of 64 bits to a register by its name. -/
def State.writeNamed (s : State) (src : Src) (r : Reg) (v : W64) : State := s.access src r.addr true v 0

/-! ### The takeover ends (R494, R530, R551) -/

/-- R494, R530, R551: the new active island completes the takeover. -/
def doTakeoverDone (s : State) : State :=
  match s.mgmt.takeover with
  | none => s
  | some k =>
    let s := s.updMgmt (fun m => { m with takeover := none })
    let s := s.setFld .mcStatus Fld.mcStatusActive (1 - k.former)
    let s := (s.bump .mcStatus Fld.mcStatusTakeovers 1).fault 0x0601 15 0 k.former k.cause
    let s := k.held.foldl (fun s h => s.access h.src h.off h.wide h.value 0) s
    let s := if k.dropped = 0 then s else s.fault 0x0006 15 0 k.dropped k.firstOff
    let s := match k.rail with
      | some (rail, status) => s.railStop rail status
      | none => s
    s.mboxNext

/-! ### The commands -/

def execRegisterWrite (src : Src) (off : BitVec 27) (wide : Bool) (value : W64) (line : BitVec 32) (s : State) :
    Host.Outcome State Fault Refusal := .next (s.access src off.toNat wide value line)

/-- R11. An access of 4 or 8 bytes that is aligned is none of these. -/
def doBadSizeAccess (off : BitVec 27) (size : Nat) (write : Bool) (s : State) : State :=
  if s.mgmt.powered = false ∨ ((size = 4 ∨ size = 8) ∧ off.toNat % size = 0) then s else s.badSize off.toNat size write

def execBadSizeAccess (off : BitVec 27) (size : Nat) (write : Bool) (s : State) : Host.Outcome State Fault Refusal :=
  .next (doBadSizeAccess off size write s)

def execTakeoverDone (s : State) : Host.Outcome State Fault Refusal := .next (doTakeoverDone s)

/-- A keyed value of DEV_RESET. -/
def resetValueOf (whole proceed : Bool) (folios : BitVec 8) (deckles : BitVec 2) (tile : Option Byte) : W64 :=
  let b (c : Bool) (n : Nat) : Nat := if c then 2 ^ n else 0
  BitVec.ofNat 64 (0xA5 + b whole 8 + b proceed 9 + folios.toNat * 2 ^ 16 + deckles.toNat * 2 ^ 24
    + (match tile with
      | some i => 2 ^ 26 + i.toNat * 2 ^ 32
      | none => 0))

def execDevResetWhole (src : Src) (s : State) : Host.Outcome State Fault Refusal :=
  .next (s.writeNamed src .devReset (resetValueOf true false 0 0 none))
def execDevResetProceed (src : Src) (s : State) : Host.Outcome State Fault Refusal :=
  .next (s.writeNamed src .devReset (resetValueOf false true 0 0 none))
def execFolioReset (src : Src) (folios : BitVec 8) (s : State) : Host.Outcome State Fault Refusal :=
  .next (s.writeNamed src .devReset (resetValueOf false false folios 0 none))
def execDeckleReset (src : Src) (deckles : BitVec 2) (s : State) : Host.Outcome State Fault Refusal :=
  .next (s.writeNamed src .devReset (resetValueOf false false 0 deckles none))
def execTileReset (src : Src) (index : Byte) (s : State) : Host.Outcome State Fault Refusal :=
  .next (s.writeNamed src .devReset (resetValueOf false false 0 0 (some index)))
def execModeCtlService (src : Src) (s : State) : Host.Outcome State Fault Refusal := .next (s.writeNamed src .modeCtl 1)
def execModeCtlTest (src : Src) (s : State) : Host.Outcome State Fault Refusal := .next (s.writeNamed src .modeCtl 2)
def execRecoveryStart (src : Src) (s : State) : Host.Outcome State Fault Refusal := .next (s.writeNamed src .recoveryCtl 1)
def execRecoveryData (src : Src) (data : W64) (s : State) : Host.Outcome State Fault Refusal :=
  .next (s.writeNamed src .recoveryData data)
def execRecoveryCommit (src : Src) (s : State) : Host.Outcome State Fault Refusal := .next (s.writeNamed src .recoveryCtl 2)
def execFaultRingAck (src : Src) (index : W64) (s : State) : Host.Outcome State Fault Refusal :=
  .next (s.writeNamed src .faultRingAck index)
def execSeqCtlStart (src : Src) (t : Tile) (s : State) : Host.Outcome State Fault Refusal :=
  .next (s.writeNamed src (.seqCtl t) 2)
def execSeqCtlStop (src : Src) (t : Tile) (s : State) : Host.Outcome State Fault Refusal :=
  .next (s.writeNamed src (.seqCtl t) 4)
def execTenseEnable (src : Src) (ctl : BitVec 3) (s : State) : Host.Outcome State Fault Refusal :=
  .next (s.writeNamed src .tenseCtl (ctl.setWidth 64))
def execTenseQuiesceWrite (src : Src) (tense : W64) (s : State) : Host.Outcome State Fault Refusal :=
  .next (s.writeNamed src .tenseQuiesce tense)
/-- A write of ECQ_CTL without RESUME. -/
def execEcqCtlEnable (src : Src) (f : Folio) (q : Ecq) (ctl : W64) (s : State) : Host.Outcome State Fault Refusal :=
  .next (s.writeNamed src (.ecqCtl f q) (Fld.ecqCtlResume.set ctl 0))
def execEcqResume (src : Src) (f : Folio) (q : Ecq) (ctl : W64) (s : State) : Host.Outcome State Fault Refusal :=
  .next (s.writeNamed src (.ecqCtl f q) (Fld.ecqCtlResume.set ctl 1))
def execCollCreate (src : Src) (g : Coll) (ctl : W64) (s : State) : Host.Outcome State Fault Refusal :=
  .next (s.writeNamed src (.collCtl g) (Fld.collCtlCreate.set ctl 1))
def execCollDestroy (src : Src) (g : Coll) (ctl : W64) (s : State) : Host.Outcome State Fault Refusal :=
  .next (s.writeNamed src (.collCtl g) (Fld.collCtlDestroy.set ctl 1))
def execCollPreempt (src : Src) (g : Coll) (ctl : W64) (s : State) : Host.Outcome State Fault Refusal :=
  .next (s.writeNamed src (.collCtl g) (Fld.collCtlPreempt.set ctl 1))
def execCollResume (src : Src) (g : Coll) (ctl : W64) (s : State) : Host.Outcome State Fault Refusal :=
  .next (s.writeNamed src (.collCtl g) (Fld.collCtlResume.set ctl 1))
def execForceArrive (src : Src) (g : Coll) (ctl : W64) (s : State) : Host.Outcome State Fault Refusal :=
  .next (s.writeNamed src (.collCtl g) (Fld.collCtlForceArrive.set ctl 1))
def execPortAdmitWrite (src : Src) (p : Port) (enable : Bool) (s : State) : Host.Outcome State Fault Refusal :=
  .next (s.writeNamed src (.portAdmit p) (if enable then 1 else 0))
def execPortModeWrite (src : Src) (n : Deckle) (modes : W64) (s : State) : Host.Outcome State Fault Refusal :=
  .next (s.writeNamed src (.portMode n) modes)
def execQuarantineRelease (src : Src) (p : Port) (s : State) : Host.Outcome State Fault Refusal :=
  .next (s.writeNamed src (.portViol p) Fld.portViolQuarantined.mask)
def execHqEnable (src : Src) (q : HQueue) (ctl : W64) (line : BitVec 32) (s : State) : Host.Outcome State Fault Refusal :=
  .next (s.access src (Reg.hqCtl q).addr true ctl line)
def execFeatCommit (src : Src) (s : State) : Host.Outcome State Fault Refusal := .next (s.writeNamed src .featCtl 1)
def execBiasFlipGo (src : Src) (s : State) : Host.Outcome State Fault Refusal := .next (s.writeNamed src .biasFlipCtl 1)
def execEvqHeadWrite (src : Src) (f : Folio) (index : W32) (s : State) : Host.Outcome State Fault Refusal :=
  .next (s.writeNamed src (.evqHead f) (index.setWidth 64))
def execSensorPeakClr (src : Src) (i : Sensor) (s : State) : Host.Outcome State Fault Refusal :=
  .next (s.writeNamed src (.sensor i) (2 ^ 32))
def execScoreClear (src : Src) (s : State) : Host.Outcome State Fault Refusal := .next (s.writeNamed src .scoreClear 1)

end Sys2Proof.Machine
end

