-- ==== Sys2Proof/Machine/Attest.lean ====
section
/-! DEFINITION. Identity and attestation (R485-R487), and CDAT (R448). The formats of the messages are those of DMTF
DSP0274 1.2 and of the CDAT specification, which the spec names and does not give (PRESUMED, log 71). -/

namespace Sys2Proof.Machine

/-! ### Keys (R485) -/

def cdi0 : List Byte := hmac (digestBytes Config.uds) (digestBytes Config.romDigest)

/-- The private scalar of the DeviceID key. -/
def deviceKey : Nat := p256KeyFrom cdi0

/-- The private scalar of the alias key; none in recovery mode (R486). -/
def State.aliasKey (s : State) : Option Nat :=
  s.mgmt.booted.map (fun b =>
    p256KeyFrom (hmac cdi0 (digestBytes b.2.digest ++ leBytes 1 b.2.svn
      ++ leBytes 1 (s.fld .debugStatus Fld.debugStatusLevel))))

/-- The alias certificate of this boot, signed by the DeviceID key (R486). -/
def State.aliasCertificate (s : State) : List Byte :=
  match s.aliasKey.bind (fun k => ecMul 256 k (some p256g)) with
  | some (x, _) =>
    let body := Config.aliasBody x s.mgmt.certMeas
    Config.x509 body (ecdsaSign deviceKey (Config.aliasScalar x s.mgmt.certMeas % (p256n - 1) + 1) body)
  | none => []

/-- The chain of slot 0 in SPDM form: length, hash of the root certificate and certificates (R486). -/
def State.certChain (s : State) : List Byte :=
  let body := sha256 Config.caChain ++ Config.caChain ++ s.mgmt.flash.deviceCert ++ s.aliasCertificate
  leBytes 2 (body.length + 4) ++ leBytes 2 0 ++ body

/-- Sign with the alias key, or in recovery mode with the DeviceID key (DEDUCED, log 72). -/
def State.sign (s : State) (msg : List Byte) : State × List Byte :=
  (s.draw, ecdsaSign (s.aliasKey.getD deviceKey) (Config.signScalar s.free % (p256n - 1) + 1) msg)

/-! ### SPDM (R487) -/

def State.spdm (s : State) (mctp : Bool) : Spdm := if mctp then s.mgmt.mctp else s.mgmt.doe
def State.setSpdm (s : State) (mctp : Bool) (v : Spdm) : State :=
  s.updMgmt (fun m => if mctp then { m with mctp := v } else { m with doe := v })

/-- SPDM is answered once firmware runs or mask ROM has found none (R486); DOE needs the CXL link (R473). -/
def State.spdmUp (s : State) (mctp : Bool) : Bool :=
  s.mgmt.powered && (s.mgmt.booted.isSome || decide (s.devMode = 3)) && (mctp || s.host.linkUp)

def spdmError (code : Nat) : List Byte := [0x12, 0x7F] ++ leBytes 1 code ++ [0]

/-- Whether a request carries the version and the code that its row answers. -/
def spdmIs (req : List Byte) (version code n : Nat) : Bool :=
  decide (bytesAt req 0 1 = version) && decide (bytesAt req 1 1 = code) && decide (n ≤ req.length)

def asciiBytes (t : String) : List Byte := t.toList.map (fun c => BitVec.ofNat 8 c.toNat)

/-- What SPDM 1.2 signs: a prefix with the context, then the hash of the transcript. -/
def spdmSigned (context : String) (transcript : List Byte) : List Byte :=
  let v := asciiBytes "dmtf-spdm-v1.2.*"
  let c := asciiBytes context
  v ++ v ++ v ++ v ++ List.replicate (36 - c.length) 0 ++ c ++ sha256 transcript

/-- An answer: the request and the response join a part of the transcript. -/
def State.spdmReply (s : State) (mctp : Bool) (req rsp : List Byte) (f : Spdm → List Byte → Spdm) : State :=
  (s.setSpdm mctp (f (s.spdm mctp) (req ++ rsp))).emit (.message rsp)

def State.spdmFail (s : State) (code : Nat) : State := s.emit (.message (spdmError code))

def doGetVersion (mctp : Bool) (req : List Byte) (s : State) : State :=
  if s.spdmUp mctp = false ∨ spdmIs req 0x10 0x84 4 = false then s
  else s.spdmReply mctp req ([0x10, 0x04, 0, 0, 0, 1] ++ leBytes 2 0x1200) (fun _ t => ⟨t, [], []⟩)

/-- CERT, CHAL, MEAS with signature; no sessions, PSK, mutual authentication or chunks. -/
def doGetCapabilities (mctp : Bool) (req : List Byte) (s : State) : State :=
  if s.spdmUp mctp = false ∨ spdmIs req 0x12 0xE1 4 = false then s
  else
    let (ct, xfer, most) := Config.spdmSizes
    s.spdmReply mctp req ([0x12, 0x61, 0, 0, 0, ct, 0, 0] ++ leBytes 4 0x16 ++ leBytes 4 xfer.toNat ++ leBytes 4 most.toNat)
      (fun v t => { v with vca := v.vca ++ t })

/-- ECDSA P-256 and SHA-256, where the requester offers them. -/
def doNegotiateAlgorithms (mctp : Bool) (req : List Byte) (s : State) : State :=
  if s.spdmUp mctp = false ∨ spdmIs req 0x12 0xE3 16 = false then s
  else
    let asym := if (bytesAt req 8 4).testBit 4 then 0x10 else 0
    let hash := if (bytesAt req 12 4).testBit 0 then 1 else 0
    let spec := if (bytesAt req 6 1).testBit 0 then 1 else 0
    s.spdmReply mctp req ([0x12, 0x63, 0, 0] ++ leBytes 2 36 ++ leBytes 1 spec ++ [0] ++ leBytes 4 2 ++ leBytes 4 asym
      ++ leBytes 4 hash ++ leBytes 12 0 ++ leBytes 4 0) (fun v t => { v with vca := v.vca ++ t })

def doGetDigests (mctp : Bool) (req : List Byte) (s : State) : State :=
  if s.spdmUp mctp = false ∨ spdmIs req 0x12 0x81 4 = false then s
  else s.spdmReply mctp req ([0x12, 0x01, 0, 1] ++ sha256 s.certChain) (fun v t => { v with certs := v.certs ++ t })

def doGetCertificate (mctp : Bool) (req : List Byte) (s : State) : State :=
  if s.spdmUp mctp = false ∨ spdmIs req 0x12 0x82 8 = false then s
  else
    let chain := s.certChain
    let off := bytesAt req 4 2
    if bytesAt req 2 1 % 16 ≠ 0 ∨ off ≥ chain.length then s.spdmFail 0x01
    else
      let part := (chain.drop off).take (bytesAt req 6 2)
      s.spdmReply mctp req ([0x12, 0x02, 0, 0] ++ leBytes 2 part.length ++ leBytes 2 (chain.length - off - part.length) ++ part)
        (fun v t => { v with certs := v.certs ++ t })

def doChallenge (mctp : Bool) (req : List Byte) (s : State) : State :=
  if s.spdmUp mctp = false ∨ spdmIs req 0x12 0x83 36 = false then s
  else if bytesAt req 2 1 ≠ 0 then s.spdmFail 0x01
  else
    let nonce := (List.range 32).map (Config.nonceByte s.free)
    let s := s.draw
    let summary := if bytesAt req 3 1 = 0 then [] else sha256 (s.measIndexes.flatMap s.measBlock)
    let body := [0x12, 0x03, 0, 1] ++ sha256 s.certChain ++ nonce ++ summary ++ leBytes 2 0
    let v := s.spdm mctp
    let (s, sig) := s.sign (spdmSigned "responder-challenge_auth signing" (v.vca ++ v.certs ++ req ++ body))
    s.spdmReply mctp req (body ++ sig) (fun v _ => { v with certs := [], meas := [] })

def doGetMeasurements (mctp : Bool) (req : List Byte) (s : State) : State :=
  let signed := (bytesAt req 2 1).testBit 0
  let op := bytesAt req 3 1
  if s.spdmUp mctp = false ∨ spdmIs req 0x12 0xE0 (if signed then 37 else 4) = false then s
  else if (signed = true ∧ bytesAt req 36 1 % 16 ≠ 0) ∨ (op ≠ 0 ∧ op ≠ 0xFF ∧ s.measIndexes.contains op = false) then
    s.spdmFail 0x01
  else
    let want := if op = 0 then [] else if op = 0xFF then s.measIndexes else [op]
    let rec' := want.flatMap s.measBlock
    let nonce := (List.range 32).map (Config.nonceByte s.free)
    let s := s.draw
    let body := [0x12, 0x60] ++ leBytes 1 (if op = 0 then s.measIndexes.length else 0) ++ [0] ++ leBytes 1 want.length
      ++ leBytes 3 rec'.length ++ rec' ++ nonce ++ leBytes 2 0
    if signed then
      let v := s.spdm mctp
      let (s, sig) := s.sign (spdmSigned "responder-measurements signing" (v.vca ++ v.meas ++ req ++ body))
      s.spdmReply mctp req (body ++ sig) (fun v _ => { v with meas := [] })
    else s.spdmReply mctp req body (fun v t => { v with meas := v.meas ++ t })

/-! ### CDAT (R448) -/

def dsmas (f : Nat) : List Byte :=
  leBytes 1 0 ++ leBytes 1 0 ++ leBytes 2 24 ++ leBytes 1 f ++ leBytes 3 0 ++ leBytes 8 (f * 2 ^ 38) ++ leBytes 8 (2 ^ 38)

/-- `kind`: 1 read latency, 2 write latency, 4 read bandwidth, 5 write bandwidth. -/
def dslbis (f kind unit value : Nat) : List Byte :=
  leBytes 1 1 ++ leBytes 1 0 ++ leBytes 2 24 ++ leBytes 1 f ++ leBytes 1 0 ++ leBytes 1 kind ++ leBytes 1 0
    ++ leBytes 8 unit ++ leBytes 2 value ++ leBytes 6 0

def dsemts (f : Nat) : List Byte :=
  leBytes 1 4 ++ leBytes 1 0 ++ leBytes 2 24 ++ leBytes 1 f ++ leBytes 1 1 ++ leBytes 2 0 ++ leBytes 8 0 ++ leBytes 8 (2 ^ 38)

/-- The structures of the table, in order. -/
def cdatEntries : List (List Byte) :=
  (List.range 8).map dsmas
    ++ (List.range 8).flatMap (fun f => [dslbis f 1 1000 250, dslbis f 2 1000 200, dslbis f 4 1 60000, dslbis f 5 1 60000])
    ++ (List.range 8).map dsemts

/-- The header of the table: length, revision 1, a checksum that makes the bytes sum to 0, sequence 0. -/
def cdatHeader : List Byte :=
  let n := 16 + 24 * 48
  let sum := ((leBytes 4 n ++ [1] ++ cdatEntries.flatten).map BitVec.toNat).foldl (· + ·) 0
  leBytes 4 n ++ [1] ++ leBytes 1 ((256 - sum % 256) % 256) ++ leBytes 6 0 ++ leBytes 4 0

/-- A table access read of an entry handle: 0 is the header; the reply names the next handle, 0xFFFF after the last. -/
def doCdatRead (entry : W16) (s : State) : State :=
  let all := cdatHeader :: cdatEntries
  if s.mgmt.powered && s.host.linkUp then
    match all[entry.toNat]? with
    | none => s
    | some bs =>
      s.emit (.message (leBytes 2 0 ++ leBytes 2 (if entry.toNat + 1 < all.length then entry.toNat + 1 else 0xFFFF) ++ bs))
  else s

/-! ### The commands -/

def execGetVersion (mctp : Bool) (req : List Byte) (s : State) : Host.Outcome State Fault Refusal := .next (doGetVersion mctp req s)
def execGetCapabilities (mctp : Bool) (req : List Byte) (s : State) : Host.Outcome State Fault Refusal :=
  .next (doGetCapabilities mctp req s)
def execNegotiateAlgorithms (mctp : Bool) (req : List Byte) (s : State) : Host.Outcome State Fault Refusal :=
  .next (doNegotiateAlgorithms mctp req s)
def execGetDigests (mctp : Bool) (req : List Byte) (s : State) : Host.Outcome State Fault Refusal := .next (doGetDigests mctp req s)
def execGetCertificate (mctp : Bool) (req : List Byte) (s : State) : Host.Outcome State Fault Refusal :=
  .next (doGetCertificate mctp req s)
def execChallenge (mctp : Bool) (req : List Byte) (s : State) : Host.Outcome State Fault Refusal := .next (doChallenge mctp req s)
def execGetMeasurements (mctp : Bool) (req : List Byte) (s : State) : Host.Outcome State Fault Refusal :=
  .next (doGetMeasurements mctp req s)
def execCdatRead (entry : W16) (s : State) : Host.Outcome State Fault Refusal := .next (doCdatRead entry s)

end Sys2Proof.Machine
end

