-- ==== Sys2Proof/Machine/Control.lean ====
section
/-! DEFINITION. Instruction fetch (R68) and the control instructions (R81-R83). -/

namespace Sys2Proof.Machine

/-- The instruction word at the PC, in a line of the buffer. -/
def lineWord (pc : W64) (data : BitVec 512) : W64 := data.extractLsb' (8 * (pc.toNat % 64)) 64

/-- The sequencer decodes the word at the PC: one with a reserved CLASS or OP raises ILLEGAL_ENCODING (R72), an extension word that
a branch has landed on included (R82). Every other word is the instruction of its own command (log 9). -/
def State.decodeAt (s : State) (t : Tile) (data : BitVec 512) : State :=
  let v := lineWord (s.pc t) data
  if (decodeSx t v 0).isNone then s.raise t 2 v else s

/-- A line joins the buffer. One that dispatch filled takes no further room; for another, a full buffer gives up the last line that
dispatch filled, or without one its oldest (log 11). -/
def TileState.fetched (x : TileState) (line : Nat) (data : BitVec 512) : TileState :=
  { x with
    ibuf := ((line, data) :: x.ibuf).take ibufLines
    image := match x.image with
      | some (lo, hi, m) => if lo ≤ line ∧ line < hi then some (lo, hi, m) else some (lo, hi - 64, m)
      | none => none }

/-- What the buffer takes for a line: what stood there at dispatch where dispatch filled it, else what the read brings. -/
def TileState.lineData (x : TileState) (t : Tile) (line : Nat) (bs : List Byte) : BitVec 512 :=
  BitVec.ofNat 512 (leNat (match x.image with
    | some (lo, hi, m) => if lo ≤ line ∧ line < hi then m.readBytes (reamAddr (tileFolio t) line) 64 else bs
    | none => bs))

/-- Fill the buffer with the line that holds the PC, through the folio cache; a bad PC raises FETCH (R68). The buffer keeps what it
holds when ream changes later, and a line that dispatch filled is read when it is first used, with the value of the dispatch
(log 127). -/
def doInstructionFetch (t : Tile) (s : State) : State :=
  if !s.tileReady t then s
  else if badPc (s.pc t) then s.raise t 1 (s.pc t)
  else
    let line := (s.pc t).toNat / 64 * 64
    match (s.tile t).ibuf.find? (fun e => e.1 = line) with
    | some e => s.decodeAt t e.2
    | none =>
      if s.biasWaits (tileFolio t) line 64 then s
      else
        match s.folioRead (tileFolio t) (.fetch t) 0 line 64 with
        | (s, some bs) =>
          let data := (s.tile t).lineData t line bs
          (s.updTile t (fun x => x.fetched line data)).decodeAt t data
        | (s, none) => s.requestHalt t ⟨4, 0, 0, s.pc t, BitVec.ofNat 64 line⟩

def execInstructionFetch (t : Tile) (s : State) : Host.Outcome State Fault Refusal := .next (doInstructionFetch t s)

def ctlIssue (op : Nat) (w : RWord) (u : RUse) (exc : Option (Nat × W64)) : Issue :=
  { legal := w.legal u, word := w.word 0 op, size := w.size, exc := exc }

/-- R81 nop. -/
def execNop (t : Tile) (w : RWord) (s : State) : Host.Outcome State Fault Refusal :=
  .next (s.issue t (ctlIssue 0x00 w {} none) id)

/-- R81 halt: issue ends, and TILE_HALT completes the halt with kind HALT and code IMM once every DMA, press and
inflection operation has completed (R113). -/
def execHalt (t : Tile) (w : RWord) (s : State) : Host.Outcome State Fault Refusal :=
  let s' := s.issue t (ctlIssue 0x01 w { imm := BitVec.allOnes 32 } none) id
  .next (if s.attempt t (ctlIssue 0x01 w { imm := BitVec.allOnes 32 } none) = .issues then
    s'.requestHalt t ⟨1, 0, w.imm, s'.pc t, 0⟩ else s')

/-- pc + 8 * sext(IMM) (R81). -/
def branchTarget (s : State) (t : Tile) (w : RWord) : W64 := s.pc t + 8 * w.simm

/-- R81 br. -/
def execBr (t : Tile) (w : RWord) (s : State) : Host.Outcome State Fault Refusal :=
  .next (s.issueTo t (ctlIssue 0x02 w { imm := BitVec.allOnes 32 } none) (some (branchTarget s t w)) id)

/-- The conditions of BRC (R81); 6 and 7 are reserved. -/
def brCond : Nat → W64 → W64 → Option Bool
  | 0, a, b => some (a == b)
  | 1, a, b => some (a != b)
  | 2, a, b => some (a.slt b)
  | 3, a, b => some (!a.slt b)
  | 4, a, b => some (a.ult b)
  | 5, a, b => some (!a.ult b)
  | _, _, _ => none

/-- R81 brc; a reserved condition raises ILLEGAL_ENCODING (DEDUCED, log 12). -/
def execBrc (t : Tile) (w : RWord) (s : State) : Host.Outcome State Fault Refusal :=
  let x := s.tile t
  let c := brCond (w.m.toNat % 8) (x.readS w.sa) (x.readS w.sb)
  let i := ctlIssue 0x03 w { a := true, b := true, m := 7, imm := BitVec.allOnes 32 } none
  .next (s.issueTo t { i with legal := i.legal && c.isSome }
    (if c = some true then some (branchTarget s t w) else none) id)

/-- R81 jr. -/
def execJr (t : Tile) (w : RWord) (s : State) : Host.Outcome State Fault Refusal :=
  .next (s.issueTo t (ctlIssue 0x04 w { a := true } none) (some ((s.tile t).readS w.sa)) id)

/-- R81 call: s[d] := address of the next instruction. -/
def execCall (t : Tile) (w : RWord) (s : State) : Host.Outcome State Fault Refusal :=
  .next (s.issueTo t (ctlIssue 0x05 w { d := true, imm := BitVec.allOnes 32 } none) (some (branchTarget s t w))
    (fun s' => s'.updTile t (fun x => x.writeS w.sd (s.pc t + 8))))

/-- Whether a loop counter is active. -/
def TileState.loopActive (x : TileState) (n : Fin 4) : Bool := x.loops.any (fun l => l.n = n)

/-- R83 loop: ILLEGAL_OPERAND for an active counter (with the word, R110) or a count with high bits or all ones (with
the register value). -/
def execLoop (t : Tile) (w : RWord) (s : State) : Host.Outcome State Fault Refusal :=
  let x := s.tile t
  let n := Fin.ofNat 4 w.m.toNat
  let v := x.readS w.sa
  let exc : Option (Nat × W64) :=
    if x.loopActive n then some (3, w.word 0 0x06)
    else if v.toNat ≥ 2 ^ 32 - 1 then some (3, v) else none
  let i := ctlIssue 0x06 w { a := true, m := 3, imm := BitVec.allOnes 32 } exc
  if v = 0 then .next (s.issueTo t i (some (branchTarget s t w)) id)
  else .next (s.issue t i (fun s' => s'.updTile t (fun y =>
    { y with loops := ⟨n, s.pc t + 8, branchTarget s t w, v.setWidth 32⟩ :: y.loops })))

/-- R81 brk: raises BREAK. -/
def execBrk (t : Tile) (w : RWord) (s : State) : Host.Outcome State Fault Refusal :=
  .next (s.issue t (ctlIssue 0x07 w {} (some (0x0B, 0))) id)

/-- R81, R83 lexit: makes loop counter n inactive. -/
def execLexit (t : Tile) (w : RWord) (s : State) : Host.Outcome State Fault Refusal :=
  .next (s.issue t (ctlIssue 0x08 w { m := 3 } none) (fun s' => s'.updTile t (fun y =>
    { y with loops := y.loops.filter (fun l => l.n ≠ Fin.ofNat 4 w.m.toNat) })))

end Sys2Proof.Machine
end

