-- ==== Sys2Proof/Machine/Harts.lean ====
section
/-! DEFINITION. The other two ways into the control space: management cells (R19, R524), and the loads and stores of the
parser-core harts (R464-R466). -/

namespace Sys2Proof.Machine

/-! ### Management cells -/

/-- BAR index 0 offset of a deckle's control window (R524). -/
def controlBase (n : Deckle) : Nat := 0x05000000 + n.val * 0x00400000

/-- R524: the reply to a management request; it is dropped and counted where the origination store is full (R313, R336). -/
def State.mgmtReply (s : State) (n : Deckle) (req : Cell) (data : List Byte) : State :=
  if s.origRoom n then
    s.sendCells (deckleDie n) answerNode (cellsOf { s.answerBase (deckleDie n) req with cls := 0, type := 0x12 } data)
  else s.suppressed (deckleDie n)

/-- R524: a management request that is whole at its deckle. -/
def State.mgmtPerform (s : State) (n : Deckle) (c : Cell) (bs : List Byte) : State :=
  let x := leNat (bs.take 8)
  if x % 8 ≠ 0 ∨ x ≥ 0x400000 then s.refuseAt (deckleDie n) 0x4A c
  else
    let off := controlBase n + x
    if c.type = 0x10 then
      let s := s.wakeReg off
      s.mgmtReply n c (leBytes 8 (s.readSlot off).toNat)
    else
      (s.access (.cell c.srcChip c.srcDie) off true (BitVec.ofNat 64 (leNat ((bs.drop 8).take 8))) 0).mgmtReply n c []

/-- R19, R295, R314, R524: a cell of a management request arrives at a deckle. -/
def doMgmt (type : BitVec 6) (n : Deckle) (c : Cell) (s : State) : State :=
  let s0 := s
  let d := deckleDie n
  if c.type ≠ type ∨ s.ready = false then s
  else if s.downDies.contains d then s.land (.die d) c
  else
    match (s.land (.die d) c).arriveAt d c with
    | (s, false) => s
    | (s, true) =>
      match s.endpointCode d c with
      | some code => s.refuseAt d code c
      | none =>
        if cellsWhole [c] then s.mgmtPerform n c c.data
        else
          match s.assemble d c with
          | .waits => s0
          | .dropped s => s
          | .refused code s => s.refuseAt d code c
          | .held s => s
          | .whole a s => s.mgmtPerform n c (cellsData a.cells)

/-! ### Harts -/

/-- What an AMO of `len` bytes leaves in memory (R466; the RISC-V A extension). -/
def amoResult (op : Amo) (len old d : Nat) : Nat :=
  let m := 2 ^ (8 * len)
  let sgn (x : Nat) : Int := if x % m ≥ m / 2 then (x % m : Int) - m else x % m
  match op with
  | .add => (old + d) % m
  | .and => old &&& (d % m)
  | .or => old ||| (d % m)
  | .xor => old ^^^ (d % m)
  | .min => if sgn old ≤ sgn d then old else d % m
  | .max => if sgn d ≤ sgn old then old else d % m
  | .minu => min old (d % m)
  | .maxu => max old (d % m)
  | .swap => d % m

/-- What an operation writes, given what it read. -/
def opWrites (op : HartOp) (len old : Nat) : Option (List Byte) :=
  match op with
  | .load => none
  | .store d => some (leBytes len d.toNat)
  | .amo a d => some (leBytes len (amoResult a len old d.toNat))
  | .lr => none
  | .sc d held => if held then some (leBytes len d.toNat) else none

/-- SC answers 0 or 1. -/
def opVerdict : HartOp → Option Byte
  | .sc _ held => some (if held then 0 else 1)
  | .load => none
  | .store _ => none
  | .amo _ _ => none
  | .lr => none

def opAtomic : HartOp → Bool
  | .load => false
  | .store _ => false
  | .amo _ _ => true
  | .lr => true
  | .sc _ _ => true

def State.hartAnswer (s : State) (op : HartOp) : State :=
  match opVerdict op with
  | some b => s.emit (.readData [b])
  | none => s

/-- An access to the hart's own ream range, through the folio cache (R195, R196, R465). -/
def State.hartReam (s : State) (f : Folio) (h : Fin 4) (off len : Nat) (op : HartOp) : State :=
  let store (s : State) (old : Nat) : State :=
    match opWrites op len old with
    | some bs => s.folioWrite f none off bs
    | none => s
  if s.biasWaits f off len then s
  else if opReads op then
    match s.folioRead f (.hart f h) 0 off len with
    | (s, none) => s.hartFault f h off
    | (s, some bs) => store (s.emit (.readData bs)) (leNat bs)
  else (store s 0).hartAnswer op

/-- An access to a vat of the hart's folio (R465). A tile in reset answers with an error, as its folio does (R40). -/
def State.hartVat (s : State) (f : Folio) (h : Fin 4) (t : Tile) (addr off len : Nat) (op : HartOp) : State :=
  let store (s : State) (old : Nat) : State :=
    match opWrites op len old with
    | some bs => (s.vatWrite t off bs).1
    | none => s
  if (s.tile t).inReset then s.hartFault f h addr
  else
    let s := s.wake (.tile t)
    if opReads op then
      match s.vatScan t off len with
      | (s, some _) => s.hartFault f h addr
      | (s, none) => store (s.emit (.readData (s.vatRead t off len))) (s.vatReadLe t off len)
    else (store s 0).hartAnswer op

/-- An access to the control space (R465, R524). -/
def State.hartControl (s : State) (f : Folio) (h : Fin 4) (off len : Nat) (op : HartOp) (host : W64) : State :=
  if len < 4 ∨ off % len ≠ 0 then s.badSize off len (!opReads op)
  else if s.answers off = false then s.hartFault f h (0x8000000000 + off)
  else
    let wide := decide (len = 8)
    let s := if opReads op then s.wakeReg (off / 8 * 8) else s
    let v := s.readWord off wide
    let s := if opReads op then s.emit (.readData (leBytes len v.toNat)) else s
    let s :=
      match opWrites op len v.toNat with
      | some bs => s.access (.hart f h) off wide (BitVec.ofNat 64 (leNat bs)) (host.setWidth 32)
      | none => s
    s.hartAnswer op

/-- An access to host memory over CXL.cache: `host` is what the host's memory held (R465). -/
def State.hartHost (s : State) (f : Folio) (h : Fin 4) (addr len : Nat) (op : HartOp) (host : W64) : State :=
  if s.host.linkUp = false then s.hartFault f h (2 ^ 54 + addr)
  else
    let old := host.toNat % 2 ^ (8 * len)
    let s := if opReads op then s.emit (.readData (leBytes len old)) else s
    let s :=
      match opWrites op len old with
      | some bs => s.emit (.hostWrite addr bs)
      | none => s
    s.hartAnswer op

/-- R465: a load, store or AMO of `2^size` bytes at a physical address. `host` is what the host's memory held there, or the
tail of the LOC 0 queue that a store to HQ_CTL enables. -/
def doHartLoadStore (f : Folio) (h : Fin 4) (addr : BitVec 56) (size : Fin 4) (op : HartOp) (host : W64) (s : State) : State :=
  let a := addr.toNat
  let len := 2 ^ size.val
  let inside (base n : Nat) : Bool := decide (base ≤ a) && decide (a + len ≤ base + n)
  if s.hartWaits f h || s.ready = false || s.downDies.contains (folioDie f) then s
  else if opAtomic op && (decide (len < 4) || decide (a % len ≠ 0)) then s.hartFault f h a
  else if inside 0 reamLimit then s.hartReam f h a len op
  else if inside vatBase (24 * vatSize) then
    let off := (a - vatBase) % vatSize
    if off + len > vatSize then s.hartFault f h a
    else s.hartVat f h (Fin.ofNat 192 (24 * f.val + (a - vatBase) / vatSize)) a off len op
  else if inside 0x8000000000 (2 ^ 27) then s.hartControl f h (a - 0x8000000000) len op host
  else if inside (2 ^ 54) (2 ^ 52) then s.hartHost f h (a - 2 ^ 54) len op host
  else if inside (2 ^ 55) (16 * 2 ^ 40) then
    doApertureAccess f h (Fin.ofNat 16 ((a - 2 ^ 55) / 2 ^ 40)) (BitVec.ofNat 40 a) size op s
  else s.hartFault f h a

/-! ### The commands -/

def execMgmtRead (n : Deckle) (c : Cell) (s : State) : Host.Outcome State Fault Refusal := .next (doMgmt 0x10 n c s)
def execMgmtWrite (n : Deckle) (c : Cell) (s : State) : Host.Outcome State Fault Refusal := .next (doMgmt 0x11 n c s)
def execHartLoadStore (f : Folio) (h : Fin 4) (addr : BitVec 56) (size : Fin 4) (op : HartOp) (host : W64) (s : State) :
    Host.Outcome State Fault Refusal := .next (doHartLoadStore f h addr size op host s)

end Sys2Proof.Machine
end

