-- ==== Sys2Proof/Machine/Inflection.lean ====
section
/-! DEFINITION. The inflection unit: element-wise work, conversions, functions, comparisons, reductions, permutation,
elide and restore, and the couch and vat paths (R96-R99, R155-R184). An instruction computes and writes when it issues;
its tag stays busy and its flags wait until INFLECTION_COMPLETE (log 5). -/

namespace Sys2Proof.Machine

/-- The elements of rows 0-31 below VL from `f`, the rest as they were (R97). -/
def mergeLanes (vl : Nat) (old : Grid) (f : Nat → Nat → W32) : Grid :=
  gridTab 32 (fun r i => if i < vl then f r i else gridAt old r i)

/-- The flags of all elements below VL. -/
def laneFlags (vl : Nat) (f : Nat → Nat → Flags) : Flags :=
  (List.range 32).foldl (fun a r => (List.range vl).foldl (fun b i => b ||| f r i) a) 0

def inflIssue (op : Nat) (w : IWord) (u : IUse) (x : TileState) (tags : List Nat) (exc : Option (Nat × W64)) : Issue :=
  { legal := w.legal u, word := w.word 4 op, size := w.size, tags := tags, grant := true,
    full := decide (x.infl.length ≥ 16), exc := exc }

/-- Enter the inflection queue: the tag is busy and the flags wait for completion (R76, R159). -/
def State.enqueueInfl (s : State) (t : Tile) (tag : Nat) (fl : Flags) (stores : Bool) : State :=
  (s.updTile t (fun x => { x with infl := x.infl ++ [⟨tag, fl, stores, true⟩] })).busyTag t tag

/-- Rows that the arithmetic pipe processed (R186). -/
def State.countRows (s : State) (t : Tile) (n : Nat) : State := s.bump (.inflRows t) Fld.inflRowsCount n

/-- An instruction of the arithmetic pipe with destination t[td]: `g` is the new register, `fl` its flags, `cost` its
energy per row in 1/400 pJ (R160, R184). -/
def arith (op : Nat) (u : IUse) (srcs : List Nat) (cost : Nat) (t : Tile) (w : IWord) (exc : Option (Nat × W64))
    (g : TileState → Grid) (fl : TileState → Flags) (s : State) : State :=
  let x := s.tile t
  s.issue t (inflIssue op w u x (tagT w.dt :: srcs) exc) (fun s' =>
    (((s'.updTile t (fun y => y.writeT w.dt (g x))).enqueueInfl t (tagT w.dt) (fl x) false).countRows t 32).charge t
      (32 * cost))

/-- An element-wise instruction: element (r, i) is `f r i` with its flags. -/
def elementwise (op : Nat) (u : IUse) (srcs : List Nat) (cost : Nat) (t : Tile) (w : IWord) (exc : Option (Nat × W64))
    (f : TileState → Nat → Nat → W32 × Flags) (s : State) : State :=
  arith op u srcs cost t w exc (fun x => mergeLanes x.vl (x.readT w.dt) (fun r i => (f x r i).1))
    (fun x => laneFlags x.vl (fun r i => (f x r i).2)) s

/-! ### Element-wise arithmetic (R162-R167) -/

def isInt32 (w : IWord) : Bool := w.fmt.toNat = 12

/-- FP32 arithmetic takes RM 0 or 1, INT32 arithmetic RM 0 only (R53, R164). -/
def arithRm (w : IWord) : List Nat := if isInt32 w then [0] else [0, 1]

def binary (op cost : Nat) (ff : Rm → W32 → W32 → W32 × Flags) (fi : W32 → W32 → W32) (t : Tile) (w : IWord)
    (s : State) : State :=
  elementwise op { td := true, ta := true, tb := true, fmt := [0, 12], rm := arithRm w } [tagT w.at, tagT w.bt] cost t w
    none (fun x r i =>
      let a := gridAt (x.readT w.at) r i
      let b := gridAt (x.readT w.bt) r i
      if isInt32 w then (fi a b, 0) else ff w.rmode a b) s

def execInflAdd (t : Tile) (w : IWord) (s : State) : Host.Outcome State Fault Refusal :=
  .next (binary 0x03 120000 f32Add (fun a b => a + b) t w s)

def execInflSub (t : Tile) (w : IWord) (s : State) : Host.Outcome State Fault Refusal :=
  .next (binary 0x04 120000 f32Sub (fun a b => a - b) t w s)

def execInflMul (t : Tile) (w : IWord) (s : State) : Host.Outcome State Fault Refusal :=
  .next (binary 0x05 152000 f32Mul (fun a b => a * b) t w s)

/-- R162, R164 fma: one rounding; modulo 2^32 for INT32. -/
def execFma (t : Tile) (w : IWord) (s : State) : Host.Outcome State Fault Refusal :=
  .next (elementwise 0x06 { td := true, ta := true, tb := true, tc := true, fmt := [0, 12], rm := arithRm w }
    [tagT w.at, tagT w.bt, tagT w.ct] 208000 t w none (fun x r i =>
      let a := gridAt (x.readT w.at) r i
      let b := gridAt (x.readT w.bt) r i
      let c := gridAt (x.readT w.ct) r i
      if isInt32 w then (a * b + c, 0) else f32Fma w.rmode a b c) s)

/-- MIN and MAX take no rounding mode (R96). -/
def minMax (op : Nat) (wantMax : Bool) (t : Tile) (w : IWord) (s : State) : State :=
  elementwise op { td := true, ta := true, tb := true, fmt := [0, 12] } [tagT w.at, tagT w.bt] 120000 t w none
    (fun x r i =>
      let a := gridAt (x.readT w.at) r i
      let b := gridAt (x.readT w.bt) r i
      if isInt32 w then ((if a.slt b = wantMax then b else a), 0) else f32MinMax wantMax a b) s

def execInflMin (t : Tile) (w : IWord) (s : State) : Host.Outcome State Fault Refusal := .next (minMax 0x07 false t w s)

def execInflMax (t : Tile) (w : IWord) (s : State) : Host.Outcome State Fault Refusal := .next (minMax 0x08 true t w s)

def unary (op : Nat) (ff : W32 → W32) (fi : W32 → W32) (t : Tile) (w : IWord) (s : State) : State :=
  elementwise op { td := true, ta := true, fmt := [0, 12] } [tagT w.at] 120000 t w none (fun x r i =>
    let a := gridAt (x.readT w.at) r i
    if isInt32 w then (fi a, 0)
    else if (ofF32 a).isNaN then (0x7FC00000, (ofF32 a).snanFlag) else (ff a, 0)) s

/-- R163, R164 abs. -/
def execAbs (t : Tile) (w : IWord) (s : State) : Host.Outcome State Fault Refusal :=
  .next (unary 0x09 (fun a => a &&& 0x7FFFFFFF) (fun a => if a.msb then -a else a) t w s)

/-- R163, R164 neg. -/
def execNeg (t : Tile) (w : IWord) (s : State) : Host.Outcome State Fault Refusal :=
  .next (unary 0x0A (fun a => a ^^^ 0x80000000) (fun a => -a) t w s)

/-- Whether the guard or selector makes lane i (AX = 0) or row r (AX = 1) active (R97). -/
def active (w : IWord) (x : TileState) (r i : Nat) : Bool := (x.readP w.gp).getLsbD (if w.ax then r else i)

/-- R165 sel: copies bits. -/
def execSel (t : Tile) (w : IWord) (s : State) : Host.Outcome State Fault Refusal :=
  .next (elementwise 0x0B { td := true, ta := true, tb := true, pg := true, ax := true }
    [tagT w.at, tagT w.bt, tagP w.gp] 120000 t w none (fun x r i =>
      ((if active w x r i then gridAt (x.readT w.at) r i else gridAt (x.readT w.bt) r i), 0)) s)

/-- A code widened to FP32 or INT32, with NV for a signalling NaN (R43, R166). -/
def widen (f : Fmt) (code : Nat) : W32 × Flags :=
  if f.isInt then (BitVec.ofInt 32 (signedOf f.width code), 0)
  else
    let v := f.elem.decode code
    ((toF32 .rne v).1, v.snanFlag)

/-- R166 bcast. R98's lengths for 4-bit formats do not bind it (DESIGN CHOICE, log 234). -/
def execBcast (t : Tile) (w : IWord) (s : State) : Host.Outcome State Fault Refusal :=
  .next (elementwise 0x0C { td := true, sr := true, fmt := [0, 1, 2, 3, 4, 10, 11, 12] } [] 120000 t w none
    (fun x _ _ => widen w.format ((x.readS w.sr.toFin).toNat % 2 ^ w.format.width)) s)

/-- R165 tmov. -/
def execTmov (t : Tile) (w : IWord) (s : State) : Host.Outcome State Fault Refusal :=
  .next (elementwise 0x20 { td := true, ta := true } [tagT w.at] 120000 t w none
    (fun x r i => (gridAt (x.readT w.at) r i, 0)) s)

/-- R167 scale. A shift beyond 1000 places over- or underflows as one of 1000 does. -/
def execScale (t : Tile) (w : IWord) (s : State) : Host.Outcome State Fault Refusal :=
  .next (elementwise 0x0E { td := true, ta := true, sr := true, rm := [0, 1] } [tagT w.at] 120000 t w none
    (fun x r i =>
      let n := max (-1000) (min 1000 (x.readS w.sr.toFin).toInt)
      let v := ofF32 (gridAt (x.readT w.at) r i)
      toF32 w.rmode (v.scale n)) s)

/-! ### Conversion (R168-R170) -/

/-- The elem_addr of CVT (R56, R169) and its 32-bit draw (R55). -/
def cvtDraw (s : State) (t : Tile) (w : IWord) (r i : Nat) : Nat :=
  srDraw ((s.reg (.srSeed t)).setWidth 32) (s.reg (.srStep t))
    ((s.tile t).readS w.sr.toFin + BitVec.ofNat 64 (r * 128 + i))

def srciInt (w : IWord) : Bool := w.opx.getLsbD 0

/-- The rounding modes of a conversion: SR applies only to a narrower format, and INT32 is none (R53). -/
def convertRm (w : IWord) : List Nat := if isInt32 w then [0, 1] else [0, 1, 2]

/-- The exact value of a source element (R168). -/
def cvtSource (w : IWord) (a : W32) : Val := if srciInt w then Val.ofInt a.toInt else ofF32 a

/-- One element of a CVT to a format that is not MX, held widened (R168). -/
def cvtElement (s : State) (t : Tile) (w : IWord) (a : W32) (r i : Nat) : W32 × Flags :=
  let f := w.format
  let v := cvtSource w a
  let d := if w.rmode = .sr then cvtDraw s t w r i else 0
  if srciInt w && isInt32 w then
    let (b, g) := f32Spec.encode w.rmode false d v
    (BitVec.ofNat 32 b, g)
  else
    let (b, g) := f.elem.encode w.rmode w.satc d v
    let (c, _) := widen f b
    (c, g)

/-- Block b of row r converted to MX: its scale, codes and flags (R47, R169). An INT32 source is first rounded to FP32. -/
def cvtBlock (s : State) (t : Tile) (w : IWord) (g : Grid) (r b : Nat) : Nat × List Nat × Flags :=
  let src := (List.range 32).map (fun k =>
    let a := gridAt g r (32 * b + k)
    if srciInt w then
      let (y, fl) := toF32 (if w.rmode = .sr then .rne else w.rmode) (Val.ofInt a.toInt)
      (ofF32 y, fl)
    else (ofF32 a, (ofF32 a).snanFlag))
  let (sc, cs, fl) := mxConvert w.format.elem w.rmode
    (fun k => if w.rmode = .sr then cvtDraw s t w r (32 * b + k) else 0) (src.map Prod.fst)
  (sc, cs, src.foldl (fun a p => a ||| p.2) fl)

/-- ILLEGAL_OPERAND when VL does not fit blocks or packed bytes (R98, R169). -/
def vlExc (w : IWord) (x : TileState) : Option (Nat × W64) :=
  if (w.format.isMx || decide (w.format.width < 8)) && !([32, 64, 96, 128].contains x.vl) then
    some (3, BitVec.ofNat 64 x.vl) else none

/-- R168 cvt. -/
def execCvt (t : Tile) (w : IWord) (s : State) : Host.Outcome State Fault Refusal :=
  let x := s.tile t
  let u : IUse := { td := true, ta := true, rm := convertRm w, satc := true, sr := true, opx := 1,
                    fmt := [1, 2, 3, 4, 5, 6, 7, 8, 9, 10, 11, 12] }
  if w.format.isMx then
    let blk (r b : Nat) := cvtBlock s t w (x.readT w.at) r b
    .next (arith 0x0D u [tagT w.at] 104000 t w (vlExc w x)
      (fun y => mergeLanes y.vl (y.readT w.dt) (fun r i =>
        let (sc, cs, _) := blk r (i / 32)
        (toF32 .rne (mxValue w.format.elem sc (cs.getD (i % 32) 0))).1))
      (fun y => (List.range 32).foldl (fun a r => (List.range (y.vl / 32)).foldl (fun c b => c ||| (blk r b).2.2) a) 0) s)
  else
    .next (elementwise 0x0D u [tagT w.at] 104000 t w (vlExc w x)
      (fun y r i => cvtElement s t w (gridAt (y.readT w.at) r i) r i) s)

/-! ### TLD and TST (R98, R99, R170) -/

/-- Bytes of an element or MX block for the alignment rule (R99, R170). -/
def alignBytes (f : Fmt) : Nat :=
  if f.isMx then 4 * f.width else max 1 (f.width / 8)

/-- Bytes of one row of VL elements. -/
def rowBytes (f : Fmt) (vl : Nat) : Nat := vl * f.width / 8

/-- Scale bytes of one row of VL elements (R170). -/
def rowScales (f : Fmt) (vl : Nat) : Nat := if f.isMx then vl / 32 else 0

/-- The scale byte of block b of row r (R170). -/
def scaleAt (f : Fmt) (scaleOff pitch r b : Nat) : Nat := scaleOff + pitch / (4 * f.width) * r + b

/-- VAT_RANGE for TLD and TST, with the first offending offset (R99): rows and pitch aligned, every byte of the rows and
of the scales inside the vat. -/
def rowsRange (f : Fmt) (a pitch scaleOff vl : Nat) : Option (Nat × W64) :=
  let e := alignBytes f
  let rows := List.range 32
  if a % e ≠ 0 then some (4, BitVec.ofNat 64 a)
  else if pitch % e ≠ 0 then some (4, BitVec.ofNat 64 (a + pitch))
  else match rows.find? (fun r => a + r * pitch + rowBytes f vl > vatSize) with
    | some r => some (4, BitVec.ofNat 64 (a + r * pitch))
    | none =>
      if f.isMx then
        match rows.find? (fun r => scaleAt f scaleOff pitch r (vl / 32) > vatSize) with
        | some r => some (4, BitVec.ofNat 64 (scaleAt f scaleOff pitch r 0))
        | none => none
      else none

/-- One element read by TLD, widened; FP32 and INT32 are copied bit for bit (R43, R99). A scaled MX element beyond FP32
overflows by R54 under RNE without SATC, with its flags (DEDUCED, log 173). -/
def tldElement (s : State) (t : Tile) (f : Fmt) (a pitch scaleOff r i : Nat) : W32 × Flags :=
  let code := s.vatBits t (8 * (a + r * pitch) + i * f.width) f.width
  if f = .fp32 ∨ f = .int32 then (BitVec.ofNat 32 code, 0)
  else if f.isMx then
    let c := (s.mem.read (vatAddr t (scaleAt f scaleOff pitch r (i / 32)))).toNat
    let (v, fl) := toF32 .rne (mxValue f.elem c code)
    (v, fl ||| (f.elem.decode code).snanFlag)
  else widen f code

/-- Scan the rows and scales of a TLD for errors. -/
def scanRows (s : State) (t : Tile) (f : Fmt) (a pitch scaleOff vl : Nat) : State × Option Nat :=
  (List.range 32).foldl (fun acc r =>
    let (s1, b1) := acc.1.vatScan t (a + r * pitch) (rowBytes f vl)
    let (s2, b2) := if f.isMx then s1.vatScan t (scaleAt f scaleOff pitch r 0) (vl / 32) else (s1, none)
    (s2, acc.2 <|> b1 <|> b2)) (s, none)

/-- The cycles in which rows of a TLD or TST waited are counted (R193); how many there are is a free value. -/
def State.waitPort (s : State) (t : Tile) : State := s.draw.bump (.vatPortWait t) Fld.vatPortWaitCount (Config.portWait s.free)

/-- R96-R99 tld: 32 rows of VL lanes from the vat, widened. -/
def execTld (t : Tile) (w : IWord) (s : State) : Host.Outcome State Fault Refusal :=
  let x := s.tile t
  let f := w.format
  let a := (x.readA w.ar.toFin).toNat
  let pitch := (x.readS w.sr.toFin).toNat
  let so := w.ext.toNat
  let u : IUse := { td := true, sr := true, ar := true, fmt := List.range 13, extMx := true }
  let i := inflIssue 0x01 w u x [tagT w.dt] (vlExc w x <|> rowsRange f a pitch so x.vl)
  if s.attempt t i = .issues then
    let (s1, bad) := scanRows s t f a pitch so x.vl
    match bad with
    | some e => .next (s1.machineCheck t e)
    | none =>
      let el := tldElement s t f a pitch so
      .next (s1.issue t i (fun s' =>
        (((s'.updTile t (fun y => y.writeT w.dt (mergeLanes x.vl (x.readT w.dt) (fun r k => (el r k).1)))).enqueueInfl t
          (tagT w.dt) (laneFlags x.vl (fun r k => (el r k).2)) false).charge t
            (2816000 + 3200 * (rowBytes f x.vl + rowScales f x.vl))).waitPort t))
  else .next (s.issue t i id)

/-- The code that TST stores for one element that is not MX (R54, R99). An integer format takes the register as INT32
(DEDUCED, log 14). The draw is that of the destination's bit address (R56). -/
def tstElement (s : State) (t : Tile) (w : IWord) (v : W32) (bitAddr : Nat) : Nat × Flags :=
  let f := w.format
  if f = .int32 then (v.toNat, 0)
  else if f.isInt then encodeInt f.width .rne 0 (Val.ofInt v.toInt)
  else
    let d := if w.rmode = .sr then
        srDraw ((s.reg (.srSeed t)).setWidth 32) (s.reg (.srStep t)) (BitVec.ofNat 64 bitAddr) else 0
    f.elem.encode w.rmode w.satc d (ofF32 v)

/-- The value of codes of `w` bits packed with no gap, the first lowest (R46). -/
def packBits (w : Nat) : List Nat → Nat
  | [] => 0
  | c :: cs => c % 2 ^ w + 2 ^ w * packBits w cs

/-- The folio offset of a vat byte (R18), from which stochastic rounding draws (R56). -/
def vatFolioOffset (t : Tile) (off : Nat) : Nat := vatBase + tileNum t * vatSize + off % vatSize

/-- Row r as TST stores it: the bytes, the scale bytes and the flags. -/
def tstRow (s : State) (t : Tile) (w : IWord) (x : TileState) (a pitch r : Nat) : List Byte × List Byte × Flags :=
  let f := w.format
  let g := x.readT w.at
  let start := a + r * pitch
  let base := 8 * vatFolioOffset t start
  if f.isMx then
    let blocks := (List.range (x.vl / 32)).map (fun b =>
      let src := (List.range 32).map (fun k => gridAt g r (32 * b + k))
      let draw (k : Nat) : Nat := if w.rmode = .sr then
          srDraw ((s.reg (.srSeed t)).setWidth 32) (s.reg (.srStep t))
            (BitVec.ofNat 64 (base + (32 * b + k) * f.width)) else 0
      let (sc, cs, fl) := mxConvert f.elem w.rmode draw (src.map ofF32)
      (sc, cs, src.foldl (fun q v => q ||| (ofF32 v).snanFlag) fl))
    (leBytes (rowBytes f x.vl) (packBits f.width (blocks.flatMap (fun b => b.2.1))),
     blocks.map (fun b => BitVec.ofNat 8 b.1), blocks.foldl (fun q b => q ||| b.2.2) 0)
  else
    let cs := (List.range x.vl).map (fun k => tstElement s t w (gridAt g r k) (base + k * f.width))
    (leBytes (rowBytes f x.vl) (packBits f.width (cs.map Prod.fst)), [], cs.foldl (fun q c => q ||| c.2) 0)

/-- R96-R99 tst: 32 rows of VL lanes to the vat, converted. The source's tag is busy until the rows are stored. R98
names codes 1-12 for TST; R43 and R99 say what a TST with FMT 0 copies, so FMT 0 is refused by the narrower rule R98
(DEDUCED, log 15). -/
def execTst (t : Tile) (w : IWord) (s : State) : Host.Outcome State Fault Refusal :=
  let x := s.tile t
  let f := w.format
  let a := (x.readA w.ar.toFin).toNat
  let pitch := (x.readS w.sr.toFin).toNat
  let so := w.ext.toNat
  let u : IUse := { ta := true, rm := convertRm w, satc := true, sr := true, ar := true, extMx := true,
                    fmt := [1, 2, 3, 4, 5, 6, 7, 8, 9, 10, 11, 12] }
  let i := inflIssue 0x02 w u x [tagT w.at] (vlExc w x <|> rowsRange f a pitch so x.vl)
  if s.attempt t i = .issues then
    let rows := (List.range 32).map (fun r => (r, tstRow s t w x a pitch r))
    let (s1, bad) := rows.foldl (fun acc p =>
      match acc.2 with
      | some _ => acc
      | none =>
        let (s1, b1) := acc.1.vatWrite t (a + p.1 * pitch) p.2.1
        match b1 with
        | some _ => (s1, b1)
        | none => if f.isMx then s1.vatWrite t (scaleAt f so pitch p.1 0) p.2.2.1 else (s1, none)) (s, none)
    match bad with
    | some e => .next (s1.machineCheck t e)
    | none =>
      .next (s1.issue t i (fun s' =>
        (((s'.updTile t (fun y => { y with lastDepart := s.tenseNow })).enqueueInfl t (tagT w.at)
          (rows.foldl (fun q p => q ||| p.2.2.2) 0) true).charge t
            (2816000 + 3200 * (rowBytes f x.vl + rowScales f x.vl))).waitPort t))
  else .next (s.issue t i id)

/-! ### CPOP (R161) -/

/-- R161 cpop: lanes 0 to VL - 1 of the oldest couch tile, bit for bit; the whole slot empties. A CPOP that waits for
its COUCH tag is noted, and its cycles are counted (R186). -/
def execCpop (t : Tile) (w : IWord) (s : State) : Host.Outcome State Fault Refusal :=
  let x := s.tile t
  let i := inflIssue 0x00 w { td := true } x [tagT w.dt, tagCouch x.oldestSlot] none
  let waits := s.tileReady t && !badPc (s.pc t) && i.legal && s.tagBusy t (tagCouch x.oldestSlot)
  if waits then .next (s.updTile t (fun y => { y with cpopWait := true }))
  else match x.couch with
    | [] => .next (s.issue t { i with full := true } id)
    | c :: rest =>
      .next (s.issue t i (fun s' =>
        (((s'.updTile t (fun y =>
            { y.writeT w.dt (mergeLanes x.vl (x.readT w.dt) (gridAt c.rows)) with couch := rest, cpopWait := false })).busyTag t
          (tagCouch c.slot)).enqueueInfl t (tagT w.dt) 0 false).charge t 2816000))

/-! ### The functions of R171 -/

/-- A free value kept within two FP32 bounds. -/
def within (lo hi v : W32) : W32 :=
  if (ofF32 v).isNaN || (ofF32 v).lt (ofF32 lo) then lo else if (ofF32 hi).lt (ofF32 v) then hi else v

/-- floor of a finite value. -/
def Val.floor : Val → Int
  | .fin n m e =>
    let v : Int := if n then -(m : Int) else (m : Int)
    if 0 ≤ e then v * 2 ^ e.toNat else v / 2 ^ (-e).toNat
  | _ => 0

/-- Whether a result of a table-driven function is the exact one (R171). Off the integers 2^x is irrational, off the
powers of two so is log x, and tanh and the sigmoid of a non-zero number are irrational (DEDUCED, log 171). -/
def tableExact (op : Nat) (x y : Val) : Bool :=
  match op, x with
  | 0x10, v => v.eq (Val.ofInt (Val.floor v)) && y.eq (.fin false 1 (Val.floor v))
  | 0x11, .fin _ m e => let k : Int := e + (Nat.log2 m : Int); x.eq (.fin false 1 k) && y.eq (Val.ofInt k)
  | 0x12, _ => (x.mul y).1.eq (Val.ofInt 1)
  | 0x13, _ => (((y.mul y).1).mul x).1.eq (Val.ofInt 1)
  | 0x16, _ => x.isZero && y.eq (.fin false 1 (-1))
  | _, _ => false

/-- The least and the greatest FP32 value within `n` ulp of the value m * 2^e, or within 2^k where that is more. An ulp is the
last place of the value; where nothing but zero lies between a bound and 0, the bound is +0. -/
def errorBounds (n : Nat) (k : Int) (m : Nat) (e : Int) : W32 × W32 :=
  let ulps := Val.fin false n (f32Spec.lsb m e)
  let w := if ulps.lt (.fin false 1 k) then Val.fin false 1 k else ulps
  let v := Val.fin false m e
  let lo := (v.add w.neg).1
  let l := if lo.sign then (toF32 .rz lo).1 else f32Up lo
  (if l = 0x80000000 then 0 else l, (toF32 .rz (v.add w).1).1)

/-- The bounds of the value of the other sign. -/
def negBounds (b : W32 × W32) : W32 × W32 := (b.2 ^^^ 0x80000000, b.1 ^^^ 0x80000000)

/-- A result that the table bounds and does not fix: a free value within the bounds (R171; log 18), with NX exactly
where it is not the exact result. -/
def freeFunction (op : Nat) (a : W32) (b : W32 × W32) : W32 × Flags :=
  let y := within b.1 b.2 (Config.tableFunction op a)
  (y, Flags.when (!tableExact op (ofF32 a) (ofF32 y)) Flags.nx)

/-! The exact values from which the bounds are taken, in units of 2^-256. Off the exact results they are irrational, so a
value this close decides every bound (DEDUCED, log 171). -/

/-- ln 2. -/
def ln2 : Nat := 80260960185991308862233904206310070533990667611589946606122867505419956976171

/-- `term` and the terms of the series of e^t after it; `n` is the number of the next. -/
def expTerms (t : Nat) : Nat → Nat → Nat → Nat
  | 0, _, _ => 0
  | fuel + 1, n, term => term + expTerms t fuel (n + 1) (term * t / (n * 2 ^ 256))

/-- 2^y as mantissa and exponent. -/
def exp2Of (y : Int) : Nat × Int :=
  (expTerms ((y % 2 ^ 256).toNat * ln2 / 2 ^ 256) 64 1 (2 ^ 256), y / 2 ^ 256 - 256)

/-- e^-u, never quite 0. -/
def expNeg (u : Nat) : Nat :=
  if u ≥ 512 * 2 ^ 256 then 1
  else
    let (m, e) := exp2Of (-(u * 2 ^ 256 / ln2 : Nat))
    max 1 (if 0 ≤ e + 256 then m * 2 ^ (e + 256).toNat else m / 2 ^ (-(e + 256)).toNat)

/-- Bits of log2 z, one for each squaring, for z from 1 up to 2 in units of 2^-512. -/
def log2Bits : Nat → Nat → Nat → Nat
  | 0, _, acc => acc
  | k + 1, z, acc =>
    let q := z * z / 2 ^ 512
    if q ≥ 2 ^ 513 then log2Bits k (q / 2) (2 * acc + 1) else log2Bits k q (2 * acc)

/-- An FP32 value in units of 2^-256. -/
def fixOf (n : Bool) (m : Nat) (e : Int) : Int := Val.units n m e (-256)

/-- EXP2 (R171): within 1 ulp of 2^x, and finite below 128; the softmax example of 05_inflection_unit.md gives EXP2(0) = 1. -/
def fExp2 (a : W32) : W32 × Flags :=
  match ofF32 a with
  | .nan s => (0x7FC00000, Flags.when s Flags.nv)
  | .inf n => (if n then 0 else 0x7F800000, 0)
  | .fin n m e =>
    let v := Val.fin n m e
    if m = 0 then (0x3F800000, 0)
    else if !v.lt (Val.ofInt 128) then (0x7F800000, Flags.of ||| Flags.nx)
    else if v.lt (Val.ofInt (-150)) then (0, Flags.uf ||| Flags.nx)
    else
      let (p, q) := exp2Of (fixOf n m e)
      freeFunction 0x10 a (errorBounds 1 (-200) p q)

/-- LOG2 (R171): within 2^-22 of log2 x from 0.5 to 2, and within 1 ulp elsewhere. -/
def fLog2 (a : W32) : W32 × Flags :=
  match ofF32 a with
  | .nan s => (0x7FC00000, Flags.when s Flags.nv)
  | .inf n => if n then (0x7FC00000, Flags.nv) else (0x7F800000, 0)
  | .fin n m e =>
    if m = 0 then (0xFF800000, 0)
    else if n then (0x7FC00000, Flags.nv)
    else
      let v := Val.fin n m e
      let l : Int := (e + (Nat.log2 m : Int)) * 2 ^ 128 + (log2Bits 128 (m * 2 ^ 512 / 2 ^ Nat.log2 m) 0 : Nat)
      let k : Int := if v.lt (.fin false 1 (-1)) || (Val.ofInt 2).lt v then -200 else -22
      let b := errorBounds 1 k l.natAbs (-128)
      freeFunction 0x11 a (if l < 0 then negBounds b else b)

/-- RCP (R171): within 1 ulp of 1 / x. Where that is beyond FP32 the table states no result: the largest finite value or
infinity (DESIGN CHOICE, log 18). -/
def fRcp (a : W32) : W32 × Flags :=
  match ofF32 a with
  | .nan s => (0x7FC00000, Flags.when s Flags.nv)
  | .inf n => (if n then 0x80000000 else 0, 0)
  | .fin n m e =>
    if m = 0 then (if n then 0xFF800000 else 0x7F800000, 0)
    else
      let q := 2 ^ 300 / m
      let b := if (ofF32 0x7F7FFFFF).lt (.fin false q (-300 - e)) then (0x7F7FFFFF, 0x7F800000)
        else errorBounds 1 (-200) q (-300 - e)
      freeFunction 0x12 a (if n then negBounds b else b)

/-- RSQRT (R171): within 1 ulp of 1 / sqrt x. -/
def fRsqrt (a : W32) : W32 × Flags :=
  match ofF32 a with
  | .nan s => (0x7FC00000, Flags.when s Flags.nv)
  | .inf n => if n then (0x7FC00000, Flags.nv) else (0, 0)
  | .fin n m e =>
    if m = 0 then (if n then 0xFF800000 else 0x7F800000, 0)
    else if n then (0x7FC00000, Flags.nv)
    else
      -- 1 / sqrt(m * 2^e) = sqrt(2^512 / m) * 2^(-(e + 512) / 2) with e made even
      let (m2, e2) := if e % 2 = 0 then (m, e) else (2 * m, e - 1)
      freeFunction 0x13 a (errorBounds 1 (-200) (isqrt (2 ^ 512 / m2)) (-(e2 + 512) / 2))

/-- TANH (R171): within 2 ulp of (1 - e^-2x) / (1 + e^-2x). -/
def fTanh (a : W32) : W32 × Flags :=
  match ofF32 a with
  | .nan s => (0x7FC00000, Flags.when s Flags.nv)
  | .inf n => (if n then 0xBF800000 else 0x3F800000, 0)
  | .fin n m e =>
    if m = 0 then (a, 0)
    else if (Val.fin false m e).lt (.fin false 1 (-12)) then (a, Flags.nx)
    else
      let y := expNeg (2 * (fixOf false m e).toNat)
      let b := errorBounds 2 (-200) ((2 ^ 256 - y) * 2 ^ 256 / (2 ^ 256 + y)) (-256)
      freeFunction 0x15 a (if n then negBounds b else b)

/-- SIGM (R171): within 2 ulp or 2^-24 of 1 / (1 + e^-x). -/
def fSigm (a : W32) : W32 × Flags :=
  match ofF32 a with
  | .nan s => (0x7FC00000, Flags.when s Flags.nv)
  | .inf n => (if n then 0 else 0x3F800000, 0)
  | .fin n m e =>
    let y := if m = 0 then 2 ^ 256 else expNeg (fixOf false m e).toNat
    freeFunction 0x16 a (errorBounds 2 (-24) ((if n then y else 2 ^ 256) * 2 ^ 256 / (2 ^ 256 + y)) (-256))

/-- A function of codes 0x10-0x17: 475 pJ per row and group of 32 lanes (R184). -/
def func (op : Nat) (u : IUse) (srcs : List Nat) (t : Tile) (w : IWord) (f : TileState → Nat → Nat → W32 × Flags)
    (s : State) : State :=
  let c := ((s.tile t).vl + 31) / 32
  match s.attempt t (inflIssue op w u (s.tile t) (tagT w.dt :: srcs) none) with
  | .issues => (elementwise op u srcs (190000 * c) t w none f s).bump (.inflFuncRows t) Fld.inflFuncRowsCount 32
  | _ => elementwise op u srcs (190000 * c) t w none f s

def func1 (op : Nat) (f : Rm → W32 → W32 × Flags) (t : Tile) (w : IWord) (s : State) : State :=
  func op { td := true, ta := true, rm := [0, 1] } [tagT w.at] t w
    (fun x r i => f w.rmode (gridAt (x.readT w.at) r i)) s

def execExp2 (t : Tile) (w : IWord) (s : State) : Host.Outcome State Fault Refusal := .next (func1 0x10 (fun _ => fExp2) t w s)
def execLog2 (t : Tile) (w : IWord) (s : State) : Host.Outcome State Fault Refusal := .next (func1 0x11 (fun _ => fLog2) t w s)
def execRcp (t : Tile) (w : IWord) (s : State) : Host.Outcome State Fault Refusal := .next (func1 0x12 (fun _ => fRcp) t w s)
def execRsqrt (t : Tile) (w : IWord) (s : State) : Host.Outcome State Fault Refusal := .next (func1 0x13 (fun _ => fRsqrt) t w s)
def execSqrt (t : Tile) (w : IWord) (s : State) : Host.Outcome State Fault Refusal := .next (func1 0x14 f32Sqrt t w s)
def execTanh (t : Tile) (w : IWord) (s : State) : Host.Outcome State Fault Refusal := .next (func1 0x15 (fun _ => fTanh) t w s)
def execSigm (t : Tile) (w : IWord) (s : State) : Host.Outcome State Fault Refusal := .next (func1 0x16 (fun _ => fSigm) t w s)

/-- R171 div. -/
def execDiv (t : Tile) (w : IWord) (s : State) : Host.Outcome State Fault Refusal :=
  .next (func 0x17 { td := true, ta := true, tb := true, rm := [0, 1] } [tagT w.at, tagT w.bt] t w
    (fun x r i => f32Div w.rmode (gridAt (x.readT w.at) r i) (gridAt (x.readT w.bt) r i)) s)

/-! ### Comparisons and predicates (R172-R175) -/

/-- One comparison (R174). -/
def cmpCond (int : Bool) (c : Nat) (a b : W32) : Bool × Flags :=
  let x := ofF32 a
  let y := ofF32 b
  let unord := !int && (x.isNaN || y.isNaN)
  let f := if int then 0 else x.snanFlag ||| y.snanFlag
  let lt := if int then a.slt b else x.lt y
  let eq := if int then a == b else x.eq y
  let v := match c with
    | 0 => !unord && eq
    | 1 => unord || !eq
    | 2 => !unord && lt
    | 3 => !unord && (lt || eq)
    | 4 => !unord && !(lt || eq)
    | 5 => !unord && !lt
    | 6 => unord
    | _ => !unord
  (v, f)

/-- The 128-bit word whose bit i is `f i`. -/
def bits128 (f : Nat → Bool) : BitVec 128 :=
  (List.range 128).foldl (fun a i => if f i then a ||| (1#128 <<< i) else a) 0

/-- Write a predicate and hold its tag until completion. -/
def State.writePred (s : State) (t : Tile) (d : Fin 8) (v : BitVec 128) (fl : Flags) : State :=
  (s.updTile t (fun y => y.writeP d v)).enqueueInfl t (tagP d) fl false

/-- R172-R174 cmp: row mode compares VL lanes of one row; column mode lane 0 of 32 rows. With COL = 1, ROW must be
zero. -/
def execCmp (t : Tile) (w : IWord) (s : State) : Host.Outcome State Fault Refusal :=
  let x := s.tile t
  let c := w.opx.toNat % 8
  let col := w.opx.getLsbD 3
  let int := w.opx.getLsbD 4
  let row := w.opx.toNat / 2 ^ 16
  let u : IUse := { td := true, ta := true, tb := true, opx := 0x1F001F }
  let i := inflIssue 0x18 w u x [tagP w.dt, tagT w.at, tagT w.bt] none
  let i := { i with legal := i.legal && !(col && row ≠ 0) }
  let one (k : Nat) : Bool × Flags :=
    if col then cmpCond int c (gridAt (x.readT w.at) k 0) (gridAt (x.readT w.bt) k 0)
    else cmpCond int c (gridAt (x.readT w.at) row k) (gridAt (x.readT w.bt) row k)
  let n := if col then 32 else x.vl
  let v := bits128 (fun k => if k < n then (one k).1 else (x.readP w.dt).getLsbD k)
  let fl := (List.range n).foldl (fun a k => a ||| (one k).2) 0
  .next (s.issue t i (fun s' =>
    ((s'.writePred t w.dt v fl).countRows t (if col then 32 else 1)).charge t (if col then 384000 else 36000)))

/-- The four operations of PLOG (R96). -/
def plogOp : Nat → Bool → Bool → Bool
  | 0, a, b => a && b
  | 1, a, b => a || b
  | 2, a, b => xor a b
  | _, a, b => a && !b

/-- R175 plog: bits 0 to VL - 1. -/
def execPlog (t : Tile) (w : IWord) (s : State) : Host.Outcome State Fault Refusal :=
  let x := s.tile t
  let v := bits128 (fun k => if k < x.vl then
    plogOp (w.opx.toNat % 4) ((x.readP w.at).getLsbD k) ((x.readP w.bt).getLsbD k) else (x.readP w.dt).getLsbD k)
  .next (s.issue t (inflIssue 0x1D w { td := true, ta := true, tb := true, opx := 3 } x
    [tagP w.dt, tagP w.at, tagP w.bt] none) (fun s' => (s'.writePred t w.dt v 0).charge t 8000))

/-- R175 pgen: all 128 bits. -/
def execPgen (t : Tile) (w : IWord) (s : State) : Host.Outcome State Fault Refusal :=
  let x := s.tile t
  let n := min (x.readS w.sr.toFin).toNat 128
  .next (s.issue t (inflIssue 0x1E w { td := true, sr := true } x [tagP w.dt] none)
    (fun s' => (s'.writePred t w.dt (bits128 (fun k => decide (k < n))) 0).charge t 8000))

/-- R158, R175 pcnt: counts all 128 bits into s[SR]; it holds no tag, and its queue entry is known by the predicate it
reads (R75). -/
def execPcnt (t : Tile) (w : IWord) (s : State) : Host.Outcome State Fault Refusal :=
  let x := s.tile t
  let n := (List.range 128).countP (fun k => (x.readP w.at).getLsbD k)
  .next (s.issue t (inflIssue 0x1F w { ta := true, sr := true } x [tagP w.at] none)
    (fun s' => (s'.updTile t (fun y =>
      { y.writeS w.sr.toFin (BitVec.ofNat 64 n) with infl := y.infl ++ [⟨tagP w.at, 0, false, false⟩] })).charge t 8000))

/-! ### Reductions (R176-R179) -/

/-- One level of the tree: neighbours combined, an absent position never entering an operation (R178). -/
def redLevel (f : W32 → W32 → W32 × Flags) : List (Option W32) → List (Option W32) × Flags
  | a :: b :: rest =>
    let (r, fl) := redLevel f rest
    match a, b with
    | none, y => (y :: r, fl)
    | x, none => (x :: r, fl)
    | some x, some y =>
      let (v, g) := f x y
      (some v :: r, fl ||| g)
  | l => (l, 0)

/-- The fixed tree over 2^k positions (R178). -/
def redTree (f : W32 → W32 → W32 × Flags) : Nat → List (Option W32) → Option W32 × Flags
  | 0, l => (l.head?.join, 0)
  | k + 1, l =>
    let (m, fl) := redLevel f l
    let (v, g) := redTree f k m
    (v, fl ||| g)

/-- The operation of a reduction (R176, R178). -/
def redOp (int : Bool) : Nat → W32 → W32 → W32 × Flags
  | 0, a, b => if int then (a + b, 0) else f32Add .rne a b
  | 1, a, b => if int then (a * b, 0) else f32Mul .rne a b
  | 2, a, b => if int then ((if a.slt b then b else a), 0) else f32MinMax true a b
  | 3, a, b => if int then ((if a.slt b then a else b), 0) else f32MinMax false a b
  | 4, a, b => (a &&& b, 0)
  | 5, a, b => (a ||| b, 0)
  | _, a, b => (a ^^^ b, 0)

/-- The identity of an empty set (R179). -/
def redIdentity (int : Bool) : Nat → W32
  | 0 => 0
  | 1 => if int then 1 else 0x3F800000
  | 2 => if int then 0x80000000 else 0xFF800000
  | 3 => if int then 0x7FFFFFFF else 0x7F800000
  | 4 => 0xFFFFFFFF
  | _ => 0

/-- R43 over a reduction: a floating-point sum, product, maximum or minimum is no move of bits, so a NaN that reaches the
result untouched is canonical too, and a signalling NaN among the active elements sets NV (DEDUCED, log 169). -/
def redFinish (fp : Bool) (l : List (Option W32)) (p : Option W32 × Flags) : Option W32 × Flags :=
  if fp then
    (p.1.map (fun v => if (ofF32 v).isNaN then 0x7FC00000 else v),
      l.foldl (fun q v => q ||| (v.elim 0 (fun b => (ofF32 b).snanFlag))) p.2)
  else p

/-- The reduction of one row (AX = 0) or one lane (AX = 1): none for an empty set (R177). -/
def redSet (w : IWord) (x : TileState) (k : Nat) : Option W32 × Flags :=
  let g := x.readT w.at
  let mask := x.readP (Fin.ofNat 8 (w.opx.toNat / 2 ^ 8))
  let int := w.opx.getLsbD 3
  let op := w.opx.toNat % 8
  let l := if w.ax then (List.range 32).map (fun r => if mask.getLsbD r then some (gridAt g r k) else none)
    else (List.range 128).map (fun i => if i < x.vl && mask.getLsbD i then some (gridAt g k i) else none)
  redFinish (!int && decide (op < 4)) l (redTree (redOp int op) (if w.ax then 5 else 7) l)

/-- R176-R179 red: the result of each set with zeros beside it (R97); an empty set gives the identity, sets EMPTY and is
counted. A reserved operation code is an illegal encoding (DEDUCED, log 12). -/
def execRed (t : Tile) (w : IWord) (s : State) : Host.Outcome State Fault Refusal :=
  let x := s.tile t
  let op := w.opx.toNat % 8
  let int := w.opx.getLsbD 3
  let pm : Fin 8 := Fin.ofNat 8 (w.opx.toNat / 2 ^ 8)
  let i := inflIssue 0x19 w { td := true, ta := true, ax := true, opx := 0x70F } x [tagT w.dt, tagT w.at, tagP pm] none
  let i := { i with legal := i.legal && op ≠ 7 }
  let n := if w.ax then x.vl else 32
  let sets := (List.range n).map (redSet w x)
  let val (k : Nat) : W32 := ((sets.getD k (none, 0)).1).getD (redIdentity int op)
  let g := mergeLanes x.vl (x.readT w.dt) (fun r j =>
    if w.ax then (if r = 0 then val j else 0) else (if j = 0 then val r else 0))
  let empties := sets.countP (fun p => p.1.isNone)
  let fl := sets.foldl (fun a p => a ||| p.2) 0 ||| Flags.when (decide (0 < empties)) Flags.empty
  .next (s.issue t i (fun s' =>
    ((((s'.updTile t (fun y => y.writeT w.dt g)).enqueueInfl t (tagT w.dt) fl false).bump (.inflEmpty t)
      Fld.inflEmptyCount empties).countRows t 32).charge t 5376000))

/-! ### Permutation, elide, restore (R180-R183) -/

/-- The first index at or beyond VL, in row and then lane order (R180). -/
def firstOutOfRange (x : TileState) (tb : Fin 8) : Option (Nat × Nat) :=
  (List.range 32).findSome? (fun r =>
    ((List.range x.vl).find? (fun i => decide ((gridAt (x.readT tb) r i).toNat ≥ x.vl))).map (fun i => (r, i)))

/-- R180, R181 perm. With STRICT.LANE = 1 an index out of range raises LANE_RANGE and nothing is written; otherwise the
element is 0, LANE_RANGE is set and LANE_RANGE_LAST records the first. -/
def execPerm (t : Tile) (w : IWord) (s : State) : Host.Outcome State Fault Refusal :=
  let x := s.tile t
  let bad := firstOutOfRange x w.bt
  let strict := s.flag (.strict t) Fld.strictLane
  let exc : Option (Nat × W64) := match bad with
    | some (r, i) => if strict then some (9, BitVec.ofNat 64 (r + i * 256)) else none
    | none => none
  let u : IUse := { td := true, ta := true, tb := true }
  let i := inflIssue 0x1A w u x [tagT w.dt, tagT w.at, tagT w.bt] exc
  let g := mergeLanes x.vl (x.readT w.dt) (fun r k =>
    let j := (gridAt (x.readT w.bt) r k).toNat
    if j < x.vl then gridAt (x.readT w.at) r j else 0)
  .next (s.issue t i (fun s' =>
    let s1 := (((s'.updTile t (fun y => y.writeT w.dt g)).enqueueInfl t (tagT w.dt)
      (Flags.when bad.isSome Flags.laneRange) false).countRows t 32).charge t 6016000
    match bad with
    | some (r, k) =>
      s1.setReg (.laneRangeLast t)
        (BitVec.ofNat 64 (r + k * 256 + (gridAt (x.readT w.bt) r k).toNat * 2 ^ 32))
    | none => s1))

/-- The active lanes below VL (AX = 0) or rows (AX = 1), ascending (R182). -/
def activeList (w : IWord) (x : TileState) : List Nat :=
  (List.range (if w.ax then 32 else x.vl)).filter (fun k => (x.readP w.gp).getLsbD k)

/-- R182 elide; s[SR] receives the count when the instruction issues (R158). -/
def execElide (t : Tile) (w : IWord) (s : State) : Host.Outcome State Fault Refusal :=
  let x := s.tile t
  let act := activeList w x
  let src := x.readT w.at
  let g := mergeLanes x.vl (x.readT w.dt) (fun r i =>
    if w.ax then (match act[r]? with
      | some k => gridAt src k i
      | none => 0)
    else (match act[i]? with
      | some k => gridAt src r k
      | none => 0))
  let u : IUse := { td := true, ta := true, pg := true, ax := true, sr := true }
  .next (s.issue t (inflIssue 0x1B w u x [tagT w.dt, tagT w.at, tagP w.gp] none) (fun s' =>
    (((s'.updTile t (fun y => (y.writeT w.dt g).writeS w.sr.toFin (BitVec.ofNat 64 act.length))).enqueueInfl t
      (tagT w.dt) 0 false).countRows t 32).charge t 6016000))

/-- R183 restore: leading lanes or rows to the active positions; the others keep their value. -/
def execRestore (t : Tile) (w : IWord) (s : State) : Host.Outcome State Fault Refusal :=
  let x := s.tile t
  let act := activeList w x
  let src := x.readT w.at
  let old := x.readT w.dt
  let g := mergeLanes x.vl old (fun r i =>
    if w.ax then (if act.contains r then gridAt src (act.idxOf r) i else gridAt old r i)
    else (if act.contains i then gridAt src r (act.idxOf i) else gridAt old r i))
  let u : IUse := { td := true, ta := true, pg := true, ax := true }
  .next (s.issue t (inflIssue 0x1C w u x [tagT w.dt, tagT w.at, tagP w.gp] none) (fun s' =>
    (((s'.updTile t (fun y => y.writeT w.dt g)).enqueueInfl t (tagT w.dt) 0 false).countRows t 32).charge t 6016000))

/-! ### Completion -/

/-- Remove the oldest operation of a tag. -/
def takeInfl (tag : Nat) : List InflOp → Option (InflOp × List InflOp)
  | [] => none
  | o :: os =>
    if o.tag = tag then some (o, os)
    else match takeInfl tag os with
      | some (p, rest) => some (p, o :: rest)
      | none => none

/-- R159, R160: the oldest instruction of a tag finishes: its flags are set, and the tag clears where it held it. -/
def doInflectionComplete (t : Tile) (tag : Fin 64) (s : State) : State :=
  if s.clocksStopped then s
  else match takeInfl tag.val (s.tile t).infl with
    | none => s
    | some (o, rest) =>
      let s := (s.updTile t (fun x => { x with infl := rest })).setFlags t o.flags
      if o.holds then s.clearTag t tag.val else s

def execInflectionComplete (t : Tile) (tag : Fin 64) (s : State) : Host.Outcome State Fault Refusal :=
  .next (doInflectionComplete t tag s)

end Sys2Proof.Machine
end

