-- ==== Sys2Proof/Machine/Scalar.lean ====
section
/-! DEFINITION. The scalar instructions (R84-R87). -/

namespace Sys2Proof.Machine

def scalarIssue (op : Nat) (w : RWord) (u : RUse) (exc : Option (Nat × W64)) : Issue :=
  { legal := w.legal u, word := w.word 1 op, size := w.size, exc := exc }

/-- A scalar instruction marked "b": s[d] := f s[a] b (R84). -/
def aluB (op : Nat) (f : W64 → W64 → W64) (t : Tile) (w : RWord) (s : State) : State :=
  let x := s.tile t
  s.issue t (scalarIssue op w (w.useB { d := true, a := true }) none)
    (fun s' => s'.updTile t (fun y => y.writeS w.sd (f (x.readS w.sa) (w.valueB x))))

def execAdd (t : Tile) (w : RWord) (s : State) : Host.Outcome State Fault Refusal :=
  .next (aluB 0x00 (fun a b => a + b) t w s)

def execSub (t : Tile) (w : RWord) (s : State) : Host.Outcome State Fault Refusal :=
  .next (aluB 0x01 (fun a b => a - b) t w s)

def execMul (t : Tile) (w : RWord) (s : State) : Host.Outcome State Fault Refusal :=
  .next (aluB 0x02 (fun a b => a * b) t w s)

/-- The high 64 bits of the unsigned product. -/
def mulHighU (a b : W64) : W64 := BitVec.ofNat 64 (a.toNat * b.toNat / 2 ^ 64)

def execMulhu (t : Tile) (w : RWord) (s : State) : Host.Outcome State Fault Refusal :=
  .next (aluB 0x03 mulHighU t w s)

/-- All ones for a zero divisor (R85). -/
def divU (a b : W64) : W64 := if b = 0 then BitVec.allOnes 64 else a / b

def execDivu (t : Tile) (w : RWord) (s : State) : Host.Outcome State Fault Refusal :=
  .next (aluB 0x04 divU t w s)

/-- The dividend for a zero divisor (R85). -/
def remU (a b : W64) : W64 := if b = 0 then a else a % b

def execRemu (t : Tile) (w : RWord) (s : State) : Host.Outcome State Fault Refusal :=
  .next (aluB 0x05 remU t w s)

def execAnd (t : Tile) (w : RWord) (s : State) : Host.Outcome State Fault Refusal :=
  .next (aluB 0x06 (fun a b => a &&& b) t w s)

def execOr (t : Tile) (w : RWord) (s : State) : Host.Outcome State Fault Refusal :=
  .next (aluB 0x07 (fun a b => a ||| b) t w s)

def execXor (t : Tile) (w : RWord) (s : State) : Host.Outcome State Fault Refusal :=
  .next (aluB 0x08 (fun a b => a ^^^ b) t w s)

/-- The shift amount is b[5:0]. -/
def shiftAmount (b : W64) : Nat := b.toNat % 64

def execShl (t : Tile) (w : RWord) (s : State) : Host.Outcome State Fault Refusal :=
  .next (aluB 0x09 (fun a b => a <<< shiftAmount b) t w s)

def execShr (t : Tile) (w : RWord) (s : State) : Host.Outcome State Fault Refusal :=
  .next (aluB 0x0A (fun a b => a >>> shiftAmount b) t w s)

def execSra (t : Tile) (w : RWord) (s : State) : Host.Outcome State Fault Refusal :=
  .next (aluB 0x0B (fun a b => a.sshiftRight (shiftAmount b)) t w s)

def execMin (t : Tile) (w : RWord) (s : State) : Host.Outcome State Fault Refusal :=
  .next (aluB 0x0C (fun a b => if a.slt b then a else b) t w s)

def execMax (t : Tile) (w : RWord) (s : State) : Host.Outcome State Fault Refusal :=
  .next (aluB 0x0D (fun a b => if a.slt b then b else a) t w s)

def execMinu (t : Tile) (w : RWord) (s : State) : Host.Outcome State Fault Refusal :=
  .next (aluB 0x0E (fun a b => if a.ult b then a else b) t w s)

def execMaxu (t : Tile) (w : RWord) (s : State) : Host.Outcome State Fault Refusal :=
  .next (aluB 0x0F (fun a b => if a.ult b then b else a) t w s)

def execSlt (t : Tile) (w : RWord) (s : State) : Host.Outcome State Fault Refusal :=
  .next (aluB 0x10 (fun a b => if a.slt b then 1 else 0) t w s)

def execSltu (t : Tile) (w : RWord) (s : State) : Host.Outcome State Fault Refusal :=
  .next (aluB 0x11 (fun a b => if a.ult b then 1 else 0) t w s)

/-- R84 li: sext(IMM), or the extension word. -/
def execLi (t : Tile) (w : RWord) (s : State) : Host.Outcome State Fault Refusal :=
  .next (s.issue t (scalarIssue 0x12 w { d := true, imm := BitVec.allOnes 32, ext := .optional } none)
    (fun s' => s'.updTile t (fun y => y.writeS w.sd w.immediate)))

/-- The access size of LD and ST from M[2:1] (R86). -/
def accessSize (w : RWord) : Nat := 2 ^ (w.m.toNat / 2 % 4)

/-- The vat offset a[r] + sext(IMM) (R86). -/
def vatOffset (x : TileState) (r : Fin 16) (w : RWord) : W64 := x.readA r + w.simm

/-- VAT_RANGE for a misaligned access or one that leaves the vat (R86). -/
def vatRange (off : W64) (n : Nat) : Option (Nat × W64) :=
  if off.toNat % n ≠ 0 ∨ off.toNat + n > vatSize then some (4, off) else none

/-- R86 ld: M[3] = 1 sign-extends. An uncorrectable word halts the tile (R189). -/
def execLd (t : Tile) (w : RWord) (s : State) : Host.Outcome State Fault Refusal :=
  let x := s.tile t
  let off := vatOffset x w.aa w
  let n := accessSize w
  let i := scalarIssue 0x13 w { d := true, a := true, aA := true, m := 0b1110, imm := BitVec.allOnes 32 }
    (vatRange off n)
  if s.attempt t i = .issues then
    let (s', bad) := s.vatScan t off.toNat n
    match bad with
    | some e => .next (s'.machineCheck t e)
    | none =>
      let v := s.vatReadLe t off.toNat n
      let r : W64 := if w.m.getLsbD 3 then BitVec.ofInt 64 (signedOf (8 * n) v) else BitVec.ofNat 64 v
      .next (s'.issue t i (fun s2 => s2.updTile t (fun y => y.writeS w.sd r)))
  else .next (s.issue t i id)

/-- R86 st. A partial write that meets an uncorrectable word changes nothing and halts the tile (R188). -/
def execSt (t : Tile) (w : RWord) (s : State) : Host.Outcome State Fault Refusal :=
  let x := s.tile t
  let off := vatOffset x w.aa w
  let n := accessSize w
  let i := scalarIssue 0x14 w { a := true, aA := true, b := true, m := 0b0110, imm := BitVec.allOnes 32 }
    (vatRange off n)
  if s.attempt t i = .issues then
    let (s', bad) := s.vatWrite t off.toNat (leBytes n (x.readS w.sb).toNat)
    match bad with
    | some e => .next (s'.machineCheck t e)
    | none => .next (s'.issue t i (fun s2 => s2.updTile t (fun y => { y with lastDepart := s.tenseNow })))
  else .next (s.issue t i id)

/-- R84 movsa: a[d] := s[a]. -/
def execMovsa (t : Tile) (w : RWord) (s : State) : Host.Outcome State Fault Refusal :=
  .next (s.issue t (scalarIssue 0x15 w { d := true, dA := true, a := true } none)
    (fun s' => s'.updTile t (fun y => y.writeA w.ad (y.readS w.sa))))

/-- R84 movas: s[d] := a[a]. -/
def execMovas (t : Tile) (w : RWord) (s : State) : Host.Outcome State Fault Refusal :=
  .next (s.issue t (scalarIssue 0x16 w { d := true, a := true, aA := true } none)
    (fun s' => s'.updTile t (fun y => y.writeS w.sd (y.readA w.aa))))

/-- R84 aadd: a[d] := a[a] + b. -/
def execAadd (t : Tile) (w : RWord) (s : State) : Host.Outcome State Fault Refusal :=
  let x := s.tile t
  .next (s.issue t (scalarIssue 0x17 w (w.useB { d := true, dA := true, a := true, aA := true }) none)
    (fun s' => s'.updTile t (fun y => y.writeA w.ad (x.readA w.aa + w.valueB x))))

/-- The value of a special register (R87); none for a reserved number. -/
def specialValue (s : State) (t : Tile) (n : Nat) : Option W64 :=
  let x := s.tile t
  let lc (i : Fin 4) : W64 := match x.loops.find? (fun l => l.n = i) with
    | some l => l.lc.setWidth 64
    | none => 0
  match n with
  | 0 => some (BitVec.ofNat 64 x.vl)
  | 1 => some (BitVec.ofNat 64 s.tenseNow)
  | 2 => some (if s.tenseLocked then 1 else 0)
  | 3 => some (s.reg (.srSeed t))
  | 4 => some (s.reg (.srStep t))
  | 5 => some (s.reg (.numStatus t))
  | 6 => some (s.reg (.strict t))
  | 7 => some (match x.energySection with
      | some e => BitVec.ofNat 64 (e.fraction.getD 0)
      | none => 0)
  | 8 => some (s.reg (.checkMiss t))
  | 9 => some (BitVec.ofNat 64 x.cycles)
  | 10 => some (BitVec.ofNat 64 t.val)
  | 11 => some (BitVec.ofNat 64 s.chip)
  | 12 => some (lc 0)
  | 13 => some (lc 1)
  | 14 => some (lc 2)
  | 15 => some (lc 3)
  | _ => none

/-- R87 rdsr. -/
def execRdsr (t : Tile) (w : RWord) (s : State) : Host.Outcome State Fault Refusal :=
  let v := specialValue s t w.imm.toNat
  let i := scalarIssue 0x18 w { d := true, imm := BitVec.allOnes 32 } none
  .next (s.issue t { i with legal := i.legal && v.isSome }
    (fun s' => s'.updTile t (fun y => y.writeS w.sd (v.getD 0))))

/-- The special registers that WRSR may name (R87). -/
def specialWritable (n : Nat) : Bool := [0, 3, 4, 5, 6].contains n

/-- A value that VL may take (R84, R87). -/
def vlOk (v : W64) : Bool := decide (1 ≤ v.toNat) && decide (v.toNat ≤ 128)

/-- R87 wrsr: VL takes 1-128; SR_SEED keeps its low 32 bits; NUM_STATUS clears the bits written as 1; STRICT keeps its
two fields. -/
def execWrsr (t : Tile) (w : RWord) (s : State) : Host.Outcome State Fault Refusal :=
  let n := w.imm.toNat
  let v := (s.tile t).readS w.sa
  let i := scalarIssue 0x19 w { a := true, imm := BitVec.allOnes 32 }
    (if n = 0 ∧ vlOk v = false then some (3, v) else none)
  .next (s.issue t { i with legal := i.legal && specialWritable n } (fun s' =>
    match n with
    | 0 => s'.updTile t (fun y => { y with vl := v.toNat })
    | 3 => s'.setReg (.srSeed t) (v &&& 0xFFFFFFFF)
    | 4 => s'.setReg (.srStep t) v
    | 5 => s'.setReg (.numStatus t) (s'.reg (.numStatus t) &&& ~~~ v)
    | _ => s'.setReg (.strict t) (v &&& 3)))

/-- R84 setvl. An immediate out of range is shown as the instruction word (R110). -/
def execSetvl (t : Tile) (w : RWord) (s : State) : Host.Outcome State Fault Refusal :=
  let v := w.valueB (s.tile t)
  .next (s.issue t (scalarIssue 0x1A w (w.useB {}) (if vlOk v then none else some (3, if w.m.getLsbD 0 then w.word 1 0x1A else v)))
    (fun s' => s'.updTile t (fun y => { y with vl := v.toNat })))

end Sys2Proof.Machine
end

