-- ==== Sys2Proof/Machine/Dispatch.lean ====
section
/-! DEFINITION. One arm per command: its meaning. -/

namespace Sys2Proof.Machine

/-- The effect of a command on everything but the queue of waiting commands. -/
def exec (i : Instr) (s : State) : Host.Outcome State Fault Refusal :=
  match i with
  | .powerOn => Sys2Proof.Machine.execPowerOn s
  | .bringup b => Sys2Proof.Machine.execBringup b s
  | .devResetN => Sys2Proof.Machine.execDevResetN s
  | .devResetWhole src => Sys2Proof.Machine.execDevResetWhole src s
  | .devResetProceed src => Sys2Proof.Machine.execDevResetProceed src s
  | .folioReset src folios => Sys2Proof.Machine.execFolioReset src folios s
  | .deckleReset src deckles => Sys2Proof.Machine.execDeckleReset src deckles s
  | .tileReset src index => Sys2Proof.Machine.execTileReset src index s
  | .resetDone d => Sys2Proof.Machine.execResetDone d s
  | .cxlReset perst => Sys2Proof.Machine.execCxlReset perst s
  | .modeCtlService src => Sys2Proof.Machine.execModeCtlService src s
  | .modeCtlTest src => Sys2Proof.Machine.execModeCtlTest src s
  | .recoveryStart src => Sys2Proof.Machine.execRecoveryStart src s
  | .recoveryData src data => Sys2Proof.Machine.execRecoveryData src data s
  | .recoveryCommit src => Sys2Proof.Machine.execRecoveryCommit src s
  | .registerWrite src off wide value line => Sys2Proof.Machine.execRegisterWrite src off wide value line s
  | .badSizeAccess off size write => Sys2Proof.Machine.execBadSizeAccess off size write s
  | .faultRingAck src index => Sys2Proof.Machine.execFaultRingAck src index s
  | .domainGate d => Sys2Proof.Machine.execDomainGate d s
  | .instructionFetch t => Sys2Proof.Machine.execInstructionFetch t s
  | .nop t w => Sys2Proof.Machine.execNop t w s
  | .halt t w => Sys2Proof.Machine.execHalt t w s
  | .br t w => Sys2Proof.Machine.execBr t w s
  | .brc t w => Sys2Proof.Machine.execBrc t w s
  | .jr t w => Sys2Proof.Machine.execJr t w s
  | .call t w => Sys2Proof.Machine.execCall t w s
  | .loop t w => Sys2Proof.Machine.execLoop t w s
  | .brk t w => Sys2Proof.Machine.execBrk t w s
  | .lexit t w => Sys2Proof.Machine.execLexit t w s
  | .add t w => Sys2Proof.Machine.execAdd t w s
  | .sub t w => Sys2Proof.Machine.execSub t w s
  | .mul t w => Sys2Proof.Machine.execMul t w s
  | .mulhu t w => Sys2Proof.Machine.execMulhu t w s
  | .divu t w => Sys2Proof.Machine.execDivu t w s
  | .remu t w => Sys2Proof.Machine.execRemu t w s
  | .and t w => Sys2Proof.Machine.execAnd t w s
  | .or t w => Sys2Proof.Machine.execOr t w s
  | .xor t w => Sys2Proof.Machine.execXor t w s
  | .shl t w => Sys2Proof.Machine.execShl t w s
  | .shr t w => Sys2Proof.Machine.execShr t w s
  | .sra t w => Sys2Proof.Machine.execSra t w s
  | .min t w => Sys2Proof.Machine.execMin t w s
  | .max t w => Sys2Proof.Machine.execMax t w s
  | .minu t w => Sys2Proof.Machine.execMinu t w s
  | .maxu t w => Sys2Proof.Machine.execMaxu t w s
  | .slt t w => Sys2Proof.Machine.execSlt t w s
  | .sltu t w => Sys2Proof.Machine.execSltu t w s
  | .li t w => Sys2Proof.Machine.execLi t w s
  | .ld t w => Sys2Proof.Machine.execLd t w s
  | .st t w => Sys2Proof.Machine.execSt t w s
  | .movsa t w => Sys2Proof.Machine.execMovsa t w s
  | .movas t w => Sys2Proof.Machine.execMovas t w s
  | .aadd t w => Sys2Proof.Machine.execAadd t w s
  | .rdsr t w => Sys2Proof.Machine.execRdsr t w s
  | .wrsr t w => Sys2Proof.Machine.execWrsr t w s
  | .setvl t w => Sys2Proof.Machine.execSetvl t w s
  | .dma t w => Sys2Proof.Machine.execDma t w s
  | .pref t w => Sys2Proof.Machine.execPref t w s
  | .descriptorFetch t => Sys2Proof.Machine.execDescriptorFetch t s
  | .dmaCopy t tag => Sys2Proof.Machine.execDmaCopy t tag s
  | .dmaGather t tag => Sys2Proof.Machine.execDmaGather t tag s
  | .dmaScatter t tag => Sys2Proof.Machine.execDmaScatter t tag s
  | .dmaSkew t tag => Sys2Proof.Machine.execDmaSkew t tag s
  | .dmaSkewGather t tag => Sys2Proof.Machine.execDmaSkewGather t tag s
  | .dmaFill t tag => Sys2Proof.Machine.execDmaFill t tag s
  | .dmaComplete t tag => Sys2Proof.Machine.execDmaComplete t tag s
  | .wld t w => Sys2Proof.Machine.execWld t w s
  | .wldLoadEnd t => Sys2Proof.Machine.execWldLoadEnd t s
  | .wswap t w => Sys2Proof.Machine.execWswap t w s
  | .stream t w => Sys2Proof.Machine.execStream t w s
  | .streamRowComplete t => Sys2Proof.Machine.execStreamRowComplete t s
  | .pressResume t => Sys2Proof.Machine.execPressResume t s
  | .cpop t w => Sys2Proof.Machine.execCpop t w s
  | .tld t w => Sys2Proof.Machine.execTld t w s
  | .tst t w => Sys2Proof.Machine.execTst t w s
  | .inflAdd t w => Sys2Proof.Machine.execInflAdd t w s
  | .inflSub t w => Sys2Proof.Machine.execInflSub t w s
  | .inflMul t w => Sys2Proof.Machine.execInflMul t w s
  | .fma t w => Sys2Proof.Machine.execFma t w s
  | .inflMin t w => Sys2Proof.Machine.execInflMin t w s
  | .inflMax t w => Sys2Proof.Machine.execInflMax t w s
  | .abs t w => Sys2Proof.Machine.execAbs t w s
  | .neg t w => Sys2Proof.Machine.execNeg t w s
  | .sel t w => Sys2Proof.Machine.execSel t w s
  | .bcast t w => Sys2Proof.Machine.execBcast t w s
  | .cvt t w => Sys2Proof.Machine.execCvt t w s
  | .scale t w => Sys2Proof.Machine.execScale t w s
  | .exp2 t w => Sys2Proof.Machine.execExp2 t w s
  | .log2 t w => Sys2Proof.Machine.execLog2 t w s
  | .rcp t w => Sys2Proof.Machine.execRcp t w s
  | .rsqrt t w => Sys2Proof.Machine.execRsqrt t w s
  | .sqrt t w => Sys2Proof.Machine.execSqrt t w s
  | .tanh t w => Sys2Proof.Machine.execTanh t w s
  | .sigm t w => Sys2Proof.Machine.execSigm t w s
  | .div t w => Sys2Proof.Machine.execDiv t w s
  | .cmp t w => Sys2Proof.Machine.execCmp t w s
  | .red t w => Sys2Proof.Machine.execRed t w s
  | .perm t w => Sys2Proof.Machine.execPerm t w s
  | .elide t w => Sys2Proof.Machine.execElide t w s
  | .restore t w => Sys2Proof.Machine.execRestore t w s
  | .plog t w => Sys2Proof.Machine.execPlog t w s
  | .pgen t w => Sys2Proof.Machine.execPgen t w s
  | .pcnt t w => Sys2Proof.Machine.execPcnt t w s
  | .tmov t w => Sys2Proof.Machine.execTmov t w s
  | .inflectionComplete t tag => Sys2Proof.Machine.execInflectionComplete t tag s
  | .sbwait t w => Sys2Proof.Machine.execSbwait t w s
  | .twait t w => Sys2Proof.Machine.execTwait t w s
  | .barr t w => Sys2Proof.Machine.execBarr t w s
  | .egrant t w => Sys2Proof.Machine.execEgrant t w s
  | .eend t w => Sys2Proof.Machine.execEend t w s
  | .fence t w => Sys2Proof.Machine.execFence t w s
  | .tfence t w => Sys2Proof.Machine.execTfence t w s
  | .post t w => Sys2Proof.Machine.execPost t w s
  | .tileHalt t => Sys2Proof.Machine.execTileHalt t s
  | .seqCtlStart src t => Sys2Proof.Machine.execSeqCtlStart src t s
  | .seqCtlStop src t => Sys2Proof.Machine.execSeqCtlStop src t s
  | .vatScrub t => Sys2Proof.Machine.execVatScrub t s
  | .energyWindow loads => Sys2Proof.Machine.execEnergyWindow loads s
  | .energyGrant t => Sys2Proof.Machine.execEnergyGrant t s
  | .slewStep f => Sys2Proof.Machine.execSlewStep f s
  | .pulpRampUp q index => Sys2Proof.Machine.execPulpRampUp q index s
  | .pulpRampEnd t => Sys2Proof.Machine.execPulpRampEnd t s
  | .dvfsReview => Sys2Proof.Machine.execDvfsReview s
  | .mcTick reports => Sys2Proof.Machine.execMcTick reports s
  | .telemetryLost r => Sys2Proof.Machine.execTelemetryLost r s
  | .marginBump f => Sys2Proof.Machine.execMarginBump f s
  | .sensorSample k reading => Sys2Proof.Machine.execSensorSample k reading s
  | .fastRiseEnd k => Sys2Proof.Machine.execFastRiseEnd k s
  | .thermalTrip k reading => Sys2Proof.Machine.execThermalTrip k reading s
  | .tripRestart => Sys2Proof.Machine.execTripRestart s
  | .coolantSample ok => Sys2Proof.Machine.execCoolantSample ok s
  | .railFault r status => Sys2Proof.Machine.execRailFault r status s
  | .mcHeartbeatLoss watchdog => Sys2Proof.Machine.execMcHeartbeatLoss watchdog s
  | .dualWatchdog => Sys2Proof.Machine.execDualWatchdog s
  | .tenseEnable src ctl => Sys2Proof.Machine.execTenseEnable src ctl s
  | .tenseMarkerSend => Sys2Proof.Machine.execTenseMarkerSend s
  | .tenseMarker p m => Sys2Proof.Machine.execTenseMarker p m s
  | .markerTimeout p => Sys2Proof.Machine.execMarkerTimeout p s
  | .holdoverExpiry => Sys2Proof.Machine.execHoldoverExpiry s
  | .rootTakeover => Sys2Proof.Machine.execRootTakeover s
  | .tenseQuiesceWrite src tense => Sys2Proof.Machine.execTenseQuiesceWrite src tense s
  | .quiesceAt => Sys2Proof.Machine.execQuiesceAt s
  | .quiesced => Sys2Proof.Machine.execQuiesced s
  | .ringHelloSend => Sys2Proof.Machine.execRingHelloSend s
  | .ringHello chip heard good => Sys2Proof.Machine.execRingHello chip heard good s
  | .bypassOpen light => Sys2Proof.Machine.execBypassOpen light s
  | .meshInject f src => Sys2Proof.Machine.execMeshInject f src s
  | .cellIngress n q c => Sys2Proof.Machine.execCellIngress n q c s
  | .cellTransmit n q => Sys2Proof.Machine.execCellTransmit n q s
  | .controlBlock p b => Sys2Proof.Machine.execControlBlock p b s
  | .transactionCell d c => Sys2Proof.Machine.execTransactionCell d c s
  | .assemblyExpiry d srcChip srcDie tag => Sys2Proof.Machine.execAssemblyExpiry d srcChip srcDie tag s
  | .duplicateRecordExpiry d srcChip srcDie tag => Sys2Proof.Machine.execDuplicateRecordExpiry d srcChip srcDie tag s
  | .retxTimer d tag => Sys2Proof.Machine.execRetxTimer d tag s
  | .remoteTimeout d tag => Sys2Proof.Machine.execRemoteTimeout d tag s
  | .memReply d c => Sys2Proof.Machine.execMemReply d c s
  | .nak d c => Sys2Proof.Machine.execNak d c s
  | .mgmtRead n c => Sys2Proof.Machine.execMgmtRead n c s
  | .mgmtWrite n c => Sys2Proof.Machine.execMgmtWrite n c s
  | .load f => Sys2Proof.Machine.execLoad f s
  | .store f => Sys2Proof.Machine.execStore f s
  | .atomAdd f => Sys2Proof.Machine.execAtomAdd f s
  | .atomAnd f => Sys2Proof.Machine.execAtomAnd f s
  | .atomOr f => Sys2Proof.Machine.execAtomOr f s
  | .atomXor f => Sys2Proof.Machine.execAtomXor f s
  | .atomSmin f => Sys2Proof.Machine.execAtomSmin f s
  | .atomSmax f => Sys2Proof.Machine.execAtomSmax f s
  | .atomUmin f => Sys2Proof.Machine.execAtomUmin f s
  | .atomUmax f => Sys2Proof.Machine.execAtomUmax f s
  | .atomSwap f => Sys2Proof.Machine.execAtomSwap f s
  | .atomCas f => Sys2Proof.Machine.execAtomCas f s
  | .atomFadd f => Sys2Proof.Machine.execAtomFadd f s
  | .redAdd f => Sys2Proof.Machine.execRedAdd f s
  | .redMax f => Sys2Proof.Machine.execRedMax f s
  | .redMin f => Sys2Proof.Machine.execRedMin f s
  | .accAdd f => Sys2Proof.Machine.execAccAdd f s
  | .accCarry f => Sys2Proof.Machine.execAccCarry f s
  | .accWide f => Sys2Proof.Machine.execAccWide f s
  | .reamScrub m => Sys2Proof.Machine.execReamScrub m s
  | .refresh m bank queued rows => Sys2Proof.Machine.execRefresh m bank queued rows s
  | .ecqCtlEnable src f q ctl => Sys2Proof.Machine.execEcqCtlEnable src f q ctl s
  | .ecqResume src f q ctl => Sys2Proof.Machine.execEcqResume src f q ctl s
  | .ecqTailWrite f q => Sys2Proof.Machine.execEcqTailWrite f q s
  | .ecqRecordFetch f q => Sys2Proof.Machine.execEcqRecordFetch f q s
  | .convert f q => Sys2Proof.Machine.execConvert f q s
  | .engGather f q => Sys2Proof.Machine.execEngGather f q s
  | .engScatter f q => Sys2Proof.Machine.execEngScatter f q s
  | .engElide f q => Sys2Proof.Machine.execEngElide f q s
  | .engRestore f q => Sys2Proof.Machine.execEngRestore f q s
  | .regionOpen f q => Sys2Proof.Machine.execRegionOpen f q s
  | .regionFinal f q => Sys2Proof.Machine.execRegionFinal f q s
  | .regionAbandon f q => Sys2Proof.Machine.execRegionAbandon f q s
  | .sgdm f q => Sys2Proof.Machine.execSgdm f q s
  | .adam f q => Sys2Proof.Machine.execAdam f q s
  | .adamw f q => Sys2Proof.Machine.execAdamw f q s
  | .engineCommandComplete f q => Sys2Proof.Machine.execEngineCommandComplete f q s
  | .collCreate src g ctl => Sys2Proof.Machine.execCollCreate src g ctl s
  | .collDestroy src g ctl => Sys2Proof.Machine.execCollDestroy src g ctl s
  | .collPreempt src g ctl => Sys2Proof.Machine.execCollPreempt src g ctl s
  | .collResume src g ctl => Sys2Proof.Machine.execCollResume src g ctl s
  | .forceArrive src g ctl => Sys2Proof.Machine.execForceArrive src g ctl s
  | .join n c => Sys2Proof.Machine.execJoin n c s
  | .createTimeout g => Sys2Proof.Machine.execCreateTimeout g s
  | .entryValidate g => Sys2Proof.Machine.execEntryValidate g s
  | .deviceArrival g => Sys2Proof.Machine.execDeviceArrival g s
  | .arrive n c => Sys2Proof.Machine.execArrive n c s
  | .exchangeStart g => Sys2Proof.Machine.execExchangeStart g s
  | .reduceScatter g => Sys2Proof.Machine.execReduceScatter g s
  | .allGather g => Sys2Proof.Machine.execAllGather g s
  | .chunkSend g k => Sys2Proof.Machine.execChunkSend g k s
  | .contrib n c => Sys2Proof.Machine.execContrib n c s
  | .carry n c => Sys2Proof.Machine.execCarry n c s
  | .gather n c => Sys2Proof.Machine.execGather n c s
  | .credit n c => Sys2Proof.Machine.execCredit n c s
  | .accumulationFinish g x => Sys2Proof.Machine.execAccumulationFinish g x s
  | .fusedUpdateDone g x => Sys2Proof.Machine.execFusedUpdateDone g x s
  | .stagingSlotFree g slot => Sys2Proof.Machine.execStagingSlotFree g slot s
  | .digest n c => Sys2Proof.Machine.execDigest n c s
  | .abort n c => Sys2Proof.Machine.execAbort n c s
  | .stepTimeout g => Sys2Proof.Machine.execStepTimeout g s
  | .collectiveCompletion g => Sys2Proof.Machine.execCollectiveCompletion g s
  | .lossOfFrame p words => Sys2Proof.Machine.execLossOfFrame p words s
  | .portBringup p => Sys2Proof.Machine.execPortBringup p s
  | .portStepTimeout p lost => Sys2Proof.Machine.execPortStepTimeout p lost s
  | .identityBlock p b => Sys2Proof.Machine.execIdentityBlock p b s
  | .identityRecheck p => Sys2Proof.Machine.execIdentityRecheck p s
  | .portAdmission p => Sys2Proof.Machine.execPortAdmission p s
  | .portAdmitWrite src p enable => Sys2Proof.Machine.execPortAdmitWrite src p enable s
  | .portModeWrite src n modes => Sys2Proof.Machine.execPortModeWrite src n modes s
  | .quarantineRelease src p => Sys2Proof.Machine.execQuarantineRelease src p s
  | .laneFault l lanes => Sys2Proof.Machine.execLaneFault l lanes s
  | .laneFaultClear l words => Sys2Proof.Machine.execLaneFaultClear l words s
  | .laneFaultTimeout p => Sys2Proof.Machine.execLaneFaultTimeout p s
  | .laneDegraded l lane corrected => Sys2Proof.Machine.execLaneDegraded l lane corrected s
  | .linePowerUpdate l taps primary standby most => Sys2Proof.Machine.execLinePowerUpdate l taps primary standby most s
  | .lineLost l => Sys2Proof.Machine.execLineLost l s
  | .lineRecoveryDone l standby => Sys2Proof.Machine.execLineRecoveryDone l standby s
  | .changeover l threshold => Sys2Proof.Machine.execChangeover l threshold s
  | .changeoverStep l primary standby power primaryFailed => Sys2Proof.Machine.execChangeoverStep l primary standby power primaryFailed s
  | .combSourceFail d k => Sys2Proof.Machine.execCombSourceFail d k s
  | .heaterUpdate r => Sys2Proof.Machine.execHeaterUpdate r s
  | .recalibration p => Sys2Proof.Machine.execRecalibration p s
  | .laneCalibration p tx code errors => Sys2Proof.Machine.execLaneCalibration p tx code errors s
  | .twinTraining k a b a2 b2 => Sys2Proof.Machine.execTwinTraining k a b a2 b2 s
  | .twinBlock f good => Sys2Proof.Machine.execTwinBlock f good s
  | .launchDispatch f q index => Sys2Proof.Machine.execLaunchDispatch f q index s
  | .hqEnable src q ctl line => Sys2Proof.Machine.execHqEnable src q ctl line s
  | .hqTailSnoop q line => Sys2Proof.Machine.execHqTailSnoop q line s
  | .hqTailPoll lines => Sys2Proof.Machine.execHqTailPoll lines s
  | .hqEntryFetch q entry => Sys2Proof.Machine.execHqEntryFetch q entry s
  | .launch q => Sys2Proof.Machine.execLaunch q s
  | .hqNop q => Sys2Proof.Machine.execHqNop q s
  | .launchComplete q index => Sys2Proof.Machine.execLaunchComplete q index s
  | .featCommit src => Sys2Proof.Machine.execFeatCommit src s
  | .biasFlipGo src => Sys2Proof.Machine.execBiasFlipGo src s
  | .biasFlipDone => Sys2Proof.Machine.execBiasFlipDone s
  | .hdmCommit d base size skip ways lock => Sys2Proof.Machine.execHdmCommit d base size skip ways lock s
  | .cxlMemRead hpa => Sys2Proof.Machine.execCxlMemRead hpa s
  | .cxlMemWrite hpa data => Sys2Proof.Machine.execCxlMemWrite hpa data s
  | .bar2Read off n => Sys2Proof.Machine.execBar2Read off n s
  | .bar2Write off data => Sys2Proof.Machine.execBar2Write off data s
  | .apertureAccess f h n off size op => Sys2Proof.Machine.execApertureAccess f h n off size op s
  | .hartFence f op => Sys2Proof.Machine.execHartFence f op s
  | .evqHeadWrite src f index => Sys2Proof.Machine.execEvqHeadWrite src f index s
  | .sensorPeakClr src k => Sys2Proof.Machine.execSensorPeakClr src k s
  | .scoreClear src => Sys2Proof.Machine.execScoreClear src s
  | .scoreDecay => Sys2Proof.Machine.execScoreDecay s
  | .fwUpdate via flashOk => Sys2Proof.Machine.execFwUpdate via flashOk s
  | .svnCommit via => Sys2Proof.Machine.execSvnCommit via s
  | .debugChallenge via => Sys2Proof.Machine.execDebugChallenge via s
  | .debugToken via => Sys2Proof.Machine.execDebugToken via s
  | .sentLoad via => Sys2Proof.Machine.execSentLoad via s
  | .sentEnable via => Sys2Proof.Machine.execSentEnable via s
  | .sentDisable via => Sys2Proof.Machine.execSentDisable via s
  | .sentRun via => Sys2Proof.Machine.execSentRun via s
  | .hash via => Sys2Proof.Machine.execHash via s
  | .mboxBadCommand via code => Sys2Proof.Machine.execMboxBadCommand via code s
  | .sentinelStart k => Sys2Proof.Machine.execSentinelStart k s
  | .sentinelStop => Sys2Proof.Machine.execSentinelStop s
  | .unlockChal => Sys2Proof.Machine.execUnlockChal s
  | .unlockToken tok => Sys2Proof.Machine.execUnlockToken tok s
  | .cdatRead entry => Sys2Proof.Machine.execCdatRead entry s
  | .getVersion mctp req => Sys2Proof.Machine.execGetVersion mctp req s
  | .getCapabilities mctp req => Sys2Proof.Machine.execGetCapabilities mctp req s
  | .negotiateAlgorithms mctp req => Sys2Proof.Machine.execNegotiateAlgorithms mctp req s
  | .getDigests mctp req => Sys2Proof.Machine.execGetDigests mctp req s
  | .getCertificate mctp req => Sys2Proof.Machine.execGetCertificate mctp req s
  | .challenge mctp req => Sys2Proof.Machine.execChallenge mctp req s
  | .getMeasurements mctp req => Sys2Proof.Machine.execGetMeasurements mctp req s
  | .hartLoadStore f h addr size op host => Sys2Proof.Machine.execHartLoadStore f h addr size op host s
  | .lossOfPower => Sys2Proof.Machine.execLossOfPower s
  | .takeoverDone => Sys2Proof.Machine.execTakeoverDone s
  | .islandSelfCheck passed => Sys2Proof.Machine.execIslandSelfCheck passed s
  | .mboxCommandDone => Sys2Proof.Machine.execMboxCommandDone s
  | .recoveryCommitDone flashOk => Sys2Proof.Machine.execRecoveryCommitDone flashOk s
  | .portStepPass p skew => Sys2Proof.Machine.execPortStepPass p skew s
  | .ringHelloLoss => Sys2Proof.Machine.execRingHelloLoss s
  | .poweredHour => Sys2Proof.Machine.execPoweredHour s
  | .perstNRelease => Sys2Proof.Machine.execPerstNRelease s

end Sys2Proof.Machine
end

