-- ==== Sys2Proof/Machine/Tick.lean ====
section
/-! DEFINITION. One nanosecond in which no command comes: what runs on the clocks of the device. -/

namespace Sys2Proof.Machine

/-- Cycles of a clock that end in the ns after `now`. -/
def cyclesIn (mhz now : Nat) : Nat := (now + 1) * mhz / 1000 - now * mhz / 1000

/-- A tile's clock over `k` cycles: those on which its fraction lets it advance count in CYCLE, move the press, pass for a
dispatch, and are counted while a CPOP waits (R69, R87, R138, R186, R426). The pattern of a fraction repeats every 256
cycles. -/
def State.tileCycles (s : State) (t : Tile) (k : Nat) : State :=
  let x := s.tile t
  let adv := (x.paceCount + k) * x.paceFrac / 256 - x.paceCount * x.paceFrac / 256
  let s := s.pressCycles t adv
  let s := if x.cpopWait && s.tagBusy t (tagCouch x.oldestSlot) then s.bump (.inflCouchWait t) Fld.inflCouchWaitCount adv else s
  s.updTile t (fun x => { x with
    dispatching := x.dispatching - adv
    paceCount := (x.paceCount + k) % 256
    cycles := if s.flag (.seqCtl t) Fld.seqCtlRun then x.cycles + adv else x.cycles })

/-- The end of a microsecond on a tile: its metered power, and the energy of its pulp in 1/400 pJ (R428, R432). -/
def State.tileMicro (s : State) (t : Tile) : State :=
  let e := 400 * s.pulpUw t
  s.updTile t (fun x => { x with
    lastUsUw := x.usMeter / 400, usMeter := 0, winMeter := x.winMeter + e, mcMeter := x.mcMeter + e })

/-- R342, R386: the cells that wait at ports which are not live, or for a folio whose felt link is out of service, look for
an alternate again. -/
def State.retryLost (s : State) : State :=
  if s.net.xbar.all (fun e => e.2.held.isEmpty) then s
  else
    let s := (List.finRange 64).foldl (fun s p =>
      if s.portLiveBit p || ((s.xbar (portDeckle p)).queuedFor (portCore p)).isEmpty then s else s.requeue p) s
    (List.finRange 8).foldl (fun s f => (s.requeueFolio 0 f).requeueFolio 1 f) s

/-- What the device's own clocks do in one ns. -/
def State.clockNs (s : State) : State :=
  let s := s.tenseNs
  let s := (s.tiles.map Prod.fst).foldl (fun s t => s.tileCycles t (cyclesIn (s.clockMhz (tileFolio t)) s.now)) s
  let s := if (s.now + 1) % 1000 = 0 then (s.tiles.map Prod.fst).foldl State.tileMicro s else s
  let s := s.meshNs
  let s := ((s.coreNs 0).coreNs 1).retryLost.blocksNs
  (s.caches.map Prod.fst).foldl State.hintNs s

/-- One ns of elapsed time; where it ends 10 us of a low level on DEV_RESET_N, the reset takes the place of what the clocks do (R552). -/
def State.tick (s : State) : State :=
  let s := if s.resetDue then s.wholeReset 9 false else if s.clocksStopped || !s.mgmt.powered then s else s.clockNs
  { s with now := s.now + 1 }

end Sys2Proof.Machine
end

