-- ==== Sys2Proof/WellFormed.lean ====
section
/-! DEFINITION. The commands that a sender can form: what the operands' types leave to be checked. -/

namespace Sys2Proof

/-- A command that carries a cell of one type carries a cell of that TYPE (R292), and an access of a bad size is one that R11
does not allow: the sizes it allows are 4 and 8 bytes, aligned. -/
def Instr.wellFormed : Instr → Bool
  | .badSizeAccess off size _ => decide (0 < size) && !((size = 4 || size = 8) && off.toNat % size = 0)
  | .memReply _ c => decide (c.type = 0x02)
  | .nak _ c => decide (c.type = 0x03)
  | .mgmtRead _ c => decide (c.type = 0x10)
  | .mgmtWrite _ c => decide (c.type = 0x11)
  | .join _ c => decide (c.type = 0x08)
  | .arrive _ c => decide (c.type = 0x09)
  | .contrib _ c => decide (c.type = 0x0A)
  | .carry _ c => decide (c.type = 0x0B)
  | .gather _ c => decide (c.type = 0x0C)
  | .credit _ c => decide (c.type = 0x0D)
  | .digest _ c => decide (c.type = 0x0E)
  | .abort _ c => decide (c.type = 0x0F)
  | .powerOn | .bringup _ | .devResetN | .devResetWhole _ | .devResetProceed _ | .folioReset _ _
  | .deckleReset _ _ | .tileReset _ _ | .resetDone _ | .cxlReset _ | .modeCtlService _ | .modeCtlTest _
  | .recoveryStart _ | .recoveryData _ _ | .recoveryCommit _ | .registerWrite _ _ _ _ _ | .faultRingAck _ _
  | .domainGate _ | .instructionFetch _ | .nop _ _ | .halt _ _ | .br _ _ | .brc _ _ | .jr _ _ | .call _ _ | .loop _ _
  | .brk _ _ | .lexit _ _ | .add _ _ | .sub _ _ | .mul _ _ | .mulhu _ _ | .divu _ _ | .remu _ _ | .and _ _ | .or _ _
  | .xor _ _ | .shl _ _ | .shr _ _ | .sra _ _ | .min _ _ | .max _ _ | .minu _ _ | .maxu _ _ | .slt _ _ | .sltu _ _
  | .li _ _ | .ld _ _ | .st _ _ | .movsa _ _ | .movas _ _ | .aadd _ _ | .rdsr _ _ | .wrsr _ _ | .setvl _ _ | .dma _ _
  | .pref _ _ | .descriptorFetch _ | .dmaCopy _ _ | .dmaGather _ _ | .dmaScatter _ _ | .dmaSkew _ _
  | .dmaSkewGather _ _ | .dmaFill _ _ | .dmaComplete _ _ | .wld _ _ | .wldLoadEnd _ | .wswap _ _ | .stream _ _
  | .streamRowComplete _ | .pressResume _ | .cpop _ _ | .tld _ _ | .tst _ _ | .inflAdd _ _ | .inflSub _ _
  | .inflMul _ _ | .fma _ _ | .inflMin _ _ | .inflMax _ _ | .abs _ _ | .neg _ _ | .sel _ _ | .bcast _ _ | .cvt _ _
  | .scale _ _ | .exp2 _ _ | .log2 _ _ | .rcp _ _ | .rsqrt _ _ | .sqrt _ _ | .tanh _ _ | .sigm _ _ | .div _ _
  | .cmp _ _ | .red _ _ | .perm _ _ | .elide _ _ | .restore _ _ | .plog _ _ | .pgen _ _ | .pcnt _ _ | .tmov _ _
  | .inflectionComplete _ _ | .sbwait _ _ | .twait _ _ | .barr _ _ | .egrant _ _ | .eend _ _ | .fence _ _
  | .tfence _ _ | .post _ _ | .tileHalt _ | .seqCtlStart _ _ | .seqCtlStop _ _ | .vatScrub _ | .energyWindow _
  | .energyGrant _ | .slewStep _ | .pulpRampUp _ _ | .pulpRampEnd _ | .dvfsReview | .mcTick _ | .telemetryLost _
  | .marginBump _ | .sensorSample _ _ | .fastRiseEnd _ | .thermalTrip _ _ | .tripRestart | .coolantSample _
  | .railFault _ _ | .mcHeartbeatLoss _ | .dualWatchdog | .tenseEnable _ _ | .tenseMarkerSend | .tenseMarker _ _
  | .markerTimeout _ | .holdoverExpiry | .rootTakeover | .tenseQuiesceWrite _ _ | .quiesceAt | .quiesced
  | .ringHelloSend | .ringHello _ _ _ | .bypassOpen _ | .meshInject _ _ | .cellIngress _ _ _ | .cellTransmit _ _
  | .controlBlock _ _ | .transactionCell _ _ | .assemblyExpiry _ _ _ _ | .duplicateRecordExpiry _ _ _ _
  | .retxTimer _ _ | .remoteTimeout _ _ | .load _ | .store _ | .atomAdd _ | .atomAnd _ | .atomOr _ | .atomXor _
  | .atomSmin _ | .atomSmax _ | .atomUmin _ | .atomUmax _ | .atomSwap _ | .atomCas _ | .atomFadd _ | .redAdd _
  | .redMax _ | .redMin _ | .accAdd _ | .accCarry _ | .accWide _ | .reamScrub _ | .refresh _ _ _ _
  | .ecqCtlEnable _ _ _ _ | .ecqResume _ _ _ _ | .ecqTailWrite _ _ | .ecqRecordFetch _ _ | .convert _ _
  | .engGather _ _ | .engScatter _ _ | .engElide _ _ | .engRestore _ _ | .regionOpen _ _ | .regionFinal _ _
  | .regionAbandon _ _ | .sgdm _ _ | .adam _ _ | .adamw _ _ | .engineCommandComplete _ _ | .collCreate _ _ _
  | .collDestroy _ _ _ | .collPreempt _ _ _ | .collResume _ _ _ | .forceArrive _ _ _ | .createTimeout _
  | .entryValidate _ | .deviceArrival _ | .exchangeStart _ | .reduceScatter _ | .allGather _ | .chunkSend _ _
  | .accumulationFinish _ _ | .fusedUpdateDone _ _ | .stagingSlotFree _ _ | .stepTimeout _ | .collectiveCompletion _
  | .lossOfFrame _ _ | .portBringup _ | .portStepTimeout _ _ | .identityBlock _ _ | .identityRecheck _
  | .portAdmission _ | .portAdmitWrite _ _ _ | .portModeWrite _ _ _ | .quarantineRelease _ _ | .laneFault _ _
  | .laneFaultClear _ _ | .laneFaultTimeout _ | .laneDegraded _ _ _ | .linePowerUpdate _ _ _ _ _ | .lineLost _
  | .lineRecoveryDone _ _ | .changeover _ _ | .changeoverStep _ _ _ _ _ | .combSourceFail _ _ | .heaterUpdate _
  | .recalibration _ | .laneCalibration _ _ _ _ | .twinTraining _ _ _ _ _ | .twinBlock _ _ | .launchDispatch _ _ _
  | .hqEnable _ _ _ _ | .hqTailSnoop _ _ | .hqTailPoll _ | .hqEntryFetch _ _ | .launch _ | .hqNop _
  | .launchComplete _ _ | .featCommit _ | .biasFlipGo _ | .biasFlipDone | .hdmCommit _ _ _ _ _ _ | .cxlMemRead _
  | .cxlMemWrite _ _ | .bar2Read _ _ | .bar2Write _ _ | .apertureAccess _ _ _ _ _ _ | .hartFence _ _
  | .evqHeadWrite _ _ _ | .sensorPeakClr _ _ | .scoreClear _ | .scoreDecay | .fwUpdate _ _ | .svnCommit _
  | .debugChallenge _ | .debugToken _ | .sentLoad _ | .sentEnable _ | .sentDisable _ | .sentRun _ | .hash _
  | .mboxBadCommand _ _ | .sentinelStart _ | .sentinelStop | .unlockChal | .unlockToken _ | .cdatRead _
  | .getVersion _ _ | .getCapabilities _ _ | .negotiateAlgorithms _ _ | .getDigests _ _ | .getCertificate _ _
  | .challenge _ _ | .getMeasurements _ _ | .hartLoadStore _ _ _ _ _ _ | .lossOfPower | .takeoverDone
  | .islandSelfCheck _ | .mboxCommandDone | .recoveryCommitDone _ | .portStepPass _ _ | .ringHelloLoss | .poweredHour
  | .perstNRelease => true

end Sys2Proof
end

