-- ==== Sys2Proof/Safety.lean ====
section
/-! DEFINITION. What counts as a sound state and as an orderly step, and the conditions on a state under which a command
has its own effect, in the words that the statements use. -/

namespace Sys2Proof.Machine

/-- The registers and the memory are in canonical form, so that equal contents are equal data. -/
def State.wf (s : State) : Bool := s.mem.wf && Store.wf Reg.addr Reg.resetValue s.regs

/-- The tile issues an instruction that waits for `tags`: it runs, nothing holds issue, its PC can be fetched from, and the
tags are clear (R68, R75, R77). -/
def State.issuable (s : State) (t : Tile) (tags : List Nat) : Prop :=
  s.tileReady t = true ∧ badPc (s.pc t) = false ∧ ∀ i ∈ tags, s.tagBusy t i = false

/-- A section is open and its grant has come (R104). -/
def State.granted (s : State) (t : Tile) : Prop :=
  s.tagBusy t tagGrant = false ∧ (s.tile t).energySection.isSome = true

/-- No section is open and no grant is awaited (R104). -/
def State.sectionless (s : State) (t : Tile) : Prop :=
  s.tagBusy t tagGrant = false ∧ (s.tile t).energySection = none

/-- Beside the tile `t` and the registers `regs` everything that a program works on is as it was. -/
def State.onlyTile (s s' : State) (t : Tile) (regs : List Reg) : Prop :=
  s'.mem = s.mem ∧ (∀ u, u ≠ t → s'.tile u = s.tile u) ∧ s'.net = s.net ∧ s'.groups = s.groups ∧ s'.host = s.host ∧
    s'.out = s.out ∧ ∀ r, r ∉ regs → s'.reg r = s.reg r

/-- A write of a register of BAR index 0 reaches it: the device is powered and answers there, no takeover runs, the register
lies in no domain in reset, and the device is not in recovery mode (R473, R474, R526, R530). -/
def State.reaches (s : State) (r : Reg) : Prop :=
  s.mgmt.powered = true ∧ s.answers r.addr = true ∧ s.mgmt.takeover = none ∧ s.regDown r.addr r = false ∧ s.devMode ≠ 3

/-- No remote operation waits at a folio, so that nothing is performed before another access to its ream (R232). -/
def State.noOps (s : State) (f : Folio) : Prop := ∀ o ∈ s.net.ready, o.folio ≠ f

/-- A write of `v` at an offset is none that R21 and R22 keep the management plane of a ready device from. -/
def State.heeds (s : State) (src : Src) (off : Nat) (v : W64) : Prop :=
  src = .island → s.ready = true → islandBarred off v = false

/-- What a register holds once a 64-bit write of `v` is stored: its RW bits from `v`, the frozen ones as before (R7, R528). -/
def State.stores (s : State) (r : Reg) (v : W64) : W64 :=
  let want := (s.reg r &&& ~~~ r.maskOf .rw) ||| (v &&& r.maskOf .rw)
  (want &&& ~~~ s.frozenBits r) ||| (s.reg r &&& s.frozenBits r)

/-- A 64-bit write of `v` reaches a register, nothing locks it, and no reserved encoding comes of it (R7, R9). -/
def State.accepts (s : State) (r : Reg) (v : W64) : Prop :=
  s.reaches r ∧ s.featureOff r = false ∧ s.lockedWrite r ((s.reg r &&& ~~~ r.maskOf .rw) ||| (v &&& r.maskOf .rw)) = false ∧
    (∀ e ∈ reservedFields r, e.2 (e.1.get (s.stores r v)) = false) ∧
    s.badCombination r (s.reg r) (s.stores r v) = false ∧
    badActions r (s.reg r) (s.stores r v) (v &&& wholeFields r .wo (BitVec.allOnes 64)) = false

/-- A collective cell of a type makes its transaction whole at a deckle, passes every check there, is no duplicate, and
names a group of its job, which is not job 0; `a` is the transaction and `w` the device as it then stands (R36, R295, R314,
R366). -/
def State.takesColl (s : State) (type : Nat) (n : Deckle) (c : Cell) (g : Coll) (a : Assembly) (w : State) : Prop :=
  let d := deckleDie n
  let u := (s.land (.die d) c).wake (.deckle n)
  s.clocksStopped = false ∧ d ∉ s.downDies ∧ c.cls = 3 ∧ c.type.toNat = type ∧ c.job ≠ 0 ∧ c.crcGood = true ∧ u.tooLate c = false ∧
    u.endpointCode d c = none ∧ u.discards d type c = none ∧ u.assemble d c = .whole a w ∧ (∀ r ∈ w.net.dups, r.is d c = false) ∧
    w.groupOf (bytesNat (cellsData a.cells) 0 4) = some g ∧ c.job = w.collJob g

/-- Entry `l` of a host queue has completed: its record of R458 stands in the slot of its index, in host memory with the
vector of HQ_CTL where IRQ and CPL_MSIX ask for it, or in the ream for a LOC 1 queue whose folio has no event queue. -/
def State.completes (s s' : State) (l : Launch) : Prop :=
  let addr := 64 * s.fld (.hqCqBase l.hq) Fld.hqCqBaseAddr + l.index % s.hqSize l.hq * 32
  let vector := s.fld (.hqCtl l.hq) Fld.hqCtlVector
  s'.host.launches = s.host.launches.filter (fun k => k.id ≠ l.id) ∧
  s'.fld (.hqStatus l.hq) Fld.hqStatusInflight = (s'.hqLaunches l.hq).length % 2 ^ 16 ∧
  (s.hqLocal l.hq = false → s'.mem = s.mem ∧
    s'.out = s.out ++ .hostWrite addr (s.launchRecord l)
      :: (if (l.word 0).testBit 8 && s.feature 1 then [.msix vector] else [])) ∧
  (∀ f off, s.hqLocal l.hq = true → s.hqPlace addr 32 = some (f, off) → s.regionBlocks f off 32 = false → s.marks = [] →
    s.noOps f →
    s.flag (.evqCtl (Fin.ofNat 8 vector)) Fld.evqCtlEnable = false →
    s'.mem = s.mem.writeBytes (reamAddr f off) (s.launchRecord l))

/-- The mailbox command `r` has been carried out with a status and the data it leaves (R498). -/
def State.carriedOut (s' : State) (r : MboxRun) (status : Nat) (data : List Byte) : Prop :=
  s'.mgmt.mbox = some { r with carried := true, status := status, result := data }

/-- An SPDM answer goes out, and `f` takes the request and the answer into the transcript of its transport (R487). -/
def State.answered (s s' : State) (mctp : Bool) (req rsp : List Byte) (f : Spdm → List Byte → Spdm) : Prop :=
  s'.out = s.out ++ [.message rsp] ∧ s'.spdm mctp = f (s.spdm mctp) (req ++ rsp) ∧ s'.spdm (!mctp) = s.spdm (!mctp) ∧
    s'.regs = s.regs ∧ s'.mem = s.mem

/-- The device is ready and its clocks run. -/
def State.running (s : State) : Prop :=
  s.mgmt.powered = true ∧ s.clocksStopped = false ∧ s.devState = 1

end Sys2Proof.Machine
end

