-- ==== Sys2Proof/Certificates/Slice0/Obligations.lean ====
section
/-! DEFINITION. The statements for the provers: what the rules of spec/ say that the commands do, under hypotheses on the
state and the operands alone. -/

open Sys2Proof Sys2Proof.Machine

/-- A step runs the command at the front of the queue on the state with the queue's rest (R9). -/
def Obligations.StepRunsTheFrontCommand : Prop :=
  ∀ (c : Instr) (rest : List Instr) (s : State),
    step { s with pending := c :: rest } = exec c { s with pending := rest }

/-- With no command waiting a step lets one nanosecond pass, and a device without power does nothing else (log 3, a
design choice) (R6, R38, R490, R497, R552, 08_tense_and_ordering.md). -/
def Obligations.IdleStepPassesOneNanosecond : Prop :=
  ∀ s : State, s.pending = [] →
    ∃ s', step s = .next s' ∧ s'.now = s.now + 1 ∧ s'.pending = [] ∧
      let due := s.mgmt.powered = true ∧ s.mgmt.tripped = false ∧ ∃ t, s.mgmt.resetLow = some t ∧ t + 10000 = s.now + 1
      (due → s' = { s.wholeReset 9 false with now := s.now + 1 }) ∧
      (¬ due →
        (∀ t, s'.pc t = s.pc t ∧ (s'.tile t).s = (s.tile t).s) ∧
        (s.marks = [] → s'.mem = s.mem ∧ ∀ t, (s'.tile t).halting = (s.tile t).halting) ∧
        ((s.mgmt.powered = false ∨ s.clocksStopped = true) → s' = { s with now := s.now + 1 }))

/-- Every step keeps memory and the register file in canonical form (R4, R11, 00_scope.md, 07_ream_memory.md,
17_register_map.md). -/
def Obligations.StepKeepsCanonicalForm : Prop :=
  ∀ s s' : State, s.wf = true → step s = .next s' → s'.wf = true

/-- The state after reset is in canonical form, with an empty queue and every register at its reset value (R12, R490).
-/
def Obligations.ResetStateIsCanonical : Prop :=
  State.reset.wf = true ∧ State.reset.pending = [] ∧ ∀ r : Reg, State.reset.reg r = r.resetValue

/-- No command touches the queue of waiting commands or the elapsed time, and outputs are only appended (R9,
98_reader.md). -/
def Obligations.CommandsLeaveQueueAndTime : Prop :=
  ∀ (c : Instr) (s s' : State), exec c s = .next s' →
    s'.pending = s.pending ∧ s'.now = s.now ∧ s.free ≤ s'.free ∧ s.out <+: s'.out

/-- The control instructions nop, halt, br, brc, jr, call, brk have the effects of R81 (R81, R82). -/
def Obligations.ControlInstructionsComplete : Prop :=
  ∀ (t : Tile) (w : RWord) (s : State), s.issuable t [] →
    (w.legal {} = true →
      exec (.nop t w) s = .next (s.advance t (s.pc t + 8)) ∧
      exec (.brk t w) s = .next (s.raise t 0x0B 0)) ∧
    (w.legal { imm := BitVec.allOnes 32 } = true →
      exec (.br t w) s = .next (s.advance t (s.pc t + 8 * w.simm)) ∧
      exec (.halt t w) s =
        .next ((s.advance t (s.pc t + 8)).requestHalt t ⟨1, 0, w.imm, (s.advance t (s.pc t + 8)).pc t, 0⟩)) ∧
    (w.legal { a := true, b := true, m := 7, imm := BitVec.allOnes 32 } = true →
      match brCond (w.m.toNat % 8) ((s.tile t).readS w.sa) ((s.tile t).readS w.sb) with
      | some true => exec (.brc t w) s = .next (s.advance t (s.pc t + 8 * w.simm))
      | some false => exec (.brc t w) s = .next (s.advance t (s.pc t + 8))
      | none => exec (.brc t w) s = .next (s.raise t 2 (w.word 0 3))) ∧
    (w.legal { a := true } = true →
      exec (.jr t w) s = .next (s.advance t ((s.tile t).readS w.sa))) ∧
    (w.legal { d := true, imm := BitVec.allOnes 32 } = true →
      exec (.call t w) s =
        .next ((s.updTile t (fun x => x.writeS w.sd (s.pc t + 8))).advance t (s.pc t + 8 * w.simm)))

/-- loop, lexit and the loop end act as the pseudocode of R83 says (R83). -/
def Obligations.LoopInstructionsFollowThePseudocode : Prop :=
  (∀ (t : Tile) (w : RWord) (s : State), s.issuable t [] →
    w.legal { a := true, m := 3, imm := BitVec.allOnes 32 } = true →
      let n : Fin 4 := Fin.ofNat 4 w.m.toNat
      let v := (s.tile t).readS w.sa
      ((s.tile t).loopActive n = true → exec (.loop t w) s = .next (s.raise t 3 (w.word 0 6))) ∧
      ((s.tile t).loopActive n = false → 2 ^ 32 - 1 ≤ v.toNat → exec (.loop t w) s = .next (s.raise t 3 v)) ∧
      ((s.tile t).loopActive n = false → v = 0 →
        exec (.loop t w) s = .next (s.advance t (s.pc t + 8 * w.simm))) ∧
      ((s.tile t).loopActive n = false → 0 < v.toNat → v.toNat < 2 ^ 32 - 1 →
        exec (.loop t w) s = .next ((s.updTile t (fun x =>
          { x with loops := ⟨n, s.pc t + 8, s.pc t + 8 * w.simm, v.setWidth 32⟩ :: x.loops })).advance t (s.pc t + 8)))) ∧
  (∀ (t : Tile) (w : RWord) (s : State), s.issuable t [] → w.legal { m := 3 } = true →
      exec (.lexit t w) s = .next ((s.updTile t (fun x =>
        { x with loops := x.loops.filter (fun l => l.n ≠ Fin.ofNat 4 w.m.toNat) })).advance t (s.pc t + 8))) ∧
  (∀ (ls : List LoopCounter) (next : W64), (∀ l ∈ ls, l.lend = next → l.lc.toNat ≤ 1) →
    loopEnd ls next = (ls.filter (fun k => decide (k.lend ≠ next)), next)) ∧
  (∀ (pre : List LoopCounter) (l : LoopCounter) (post : List LoopCounter), (∀ k ∈ pre, k.lend = l.lend → k.lc.toNat ≤ 1) →
    1 < l.lc.toNat →
    loopEnd (pre ++ l :: post) l.lend =
      (pre.filter (fun k => decide (k.lend ≠ l.lend)) ++ { l with lc := l.lc - 1 } :: post, l.lstart))

/-- The scalar ALU instructions write their result of R84 and R85 and change nothing else but the PC (R85). -/
def Obligations.ScalarArithmeticCompletes : Prop :=
  (let law (c : Tile → RWord → Instr) (f : W64 → W64 → W64) : Prop :=
    ∀ (t : Tile) (w : RWord) (s : State), s.issuable t [] → w.legal (w.useB { d := true, a := true }) = true →
      exec (c t w) s = .next ((s.updTile t (fun y =>
        y.writeS w.sd (f ((s.tile t).readS w.sa) (w.valueB (s.tile t))))).advance t
          (s.pc t + if w.x then 16 else 8))
  law .add (· + ·) ∧ law .sub (· - ·) ∧ law .mul (· * ·) ∧
  law .mulhu (fun a b => BitVec.ofNat 64 (a.toNat * b.toNat / 2 ^ 64)) ∧
  law .divu (fun a b => if b = 0 then BitVec.allOnes 64 else a / b) ∧
  law .remu (fun a b => if b = 0 then a else a % b) ∧
  law .and (· &&& ·) ∧ law .or (· ||| ·) ∧ law .xor (· ^^^ ·) ∧
  law .shl (fun a b => a <<< (b.toNat % 64)) ∧ law .shr (fun a b => a >>> (b.toNat % 64)) ∧
  law .sra (fun a b => a.sshiftRight (b.toNat % 64)) ∧
  law .min (fun a b => if a.slt b then a else b) ∧ law .max (fun a b => if a.slt b then b else a) ∧
  law .minu (fun a b => if a.ult b then a else b) ∧ law .maxu (fun a b => if a.ult b then b else a) ∧
  law .slt (fun a b => if a.slt b then 1 else 0) ∧ law .sltu (fun a b => if a.ult b then 1 else 0)) ∧
  ∀ (x : TileState) (v : W64), x.writeS 0 v = x ∧ x.readS 0 = 0

/-- li, movsa, movas, aadd, rdsr, wrsr and setvl have the effects of R84 and R87 (R84, R87, R110). -/
def Obligations.ScalarMovesComplete : Prop :=
  ∀ (t : Tile) (w : RWord) (s : State), s.issuable t [] →
    let all : W32 := BitVec.allOnes 32
    (w.legal { d := true, imm := all, ext := .optional } = true →
      exec (.li t w) s = .next ((s.updTile t (fun y =>
        y.writeS w.sd (if w.x then w.ext else w.imm.signExtend 64))).advance t (s.pc t + if w.x then 16 else 8))) ∧
    (w.legal { d := true, dA := true, a := true } = true →
      exec (.movsa t w) s = .next ((s.updTile t (fun y => y.writeA w.ad (y.readS w.sa))).advance t (s.pc t + 8))) ∧
    (w.legal { d := true, a := true, aA := true } = true →
      exec (.movas t w) s = .next ((s.updTile t (fun y => y.writeS w.sd (y.readA w.aa))).advance t (s.pc t + 8))) ∧
    (w.legal (w.useB { d := true, dA := true, a := true, aA := true }) = true →
      exec (.aadd t w) s = .next ((s.updTile t (fun y =>
        y.writeA w.ad ((s.tile t).readA w.aa + w.valueB (s.tile t)))).advance t (s.pc t + if w.x then 16 else 8))) ∧
    (w.legal { d := true, imm := all } = true →
      match specialValue s t w.imm.toNat with
      | some v => exec (.rdsr t w) s = .next ((s.updTile t (fun y => y.writeS w.sd v)).advance t (s.pc t + 8))
      | none => exec (.rdsr t w) s = .next (s.raise t 2 (w.word 1 0x18))) ∧
    (w.legal (w.useB {}) = true →
      let v := w.valueB (s.tile t)
      if 1 ≤ v.toNat ∧ v.toNat ≤ 128 then
        exec (.setvl t w) s = .next ((s.updTile t (fun y => { y with vl := v.toNat })).advance t
          (s.pc t + if w.x then 16 else 8))
      else exec (.setvl t w) s = .next (s.raise t 3 (if w.m.getLsbD 0 then w.word 1 0x1A else v))) ∧
    (w.legal { a := true, imm := all } = true →
      let v := (s.tile t).readS w.sa
      (w.imm = 0 → 1 ≤ v.toNat → v.toNat ≤ 128 →
        exec (.wrsr t w) s = .next ((s.updTile t (fun y => { y with vl := v.toNat })).advance t (s.pc t + 8))) ∧
      (w.imm = 0 → ¬ (1 ≤ v.toNat ∧ v.toNat ≤ 128) → exec (.wrsr t w) s = .next (s.raise t 3 v)) ∧
      (w.imm = 3 → exec (.wrsr t w) s = .next ((s.setReg (.srSeed t) (v &&& 0xFFFFFFFF)).advance t (s.pc t + 8))) ∧
      (w.imm = 4 → exec (.wrsr t w) s = .next ((s.setReg (.srStep t) v).advance t (s.pc t + 8))) ∧
      (w.imm = 5 → exec (.wrsr t w) s =
        .next ((s.setReg (.numStatus t) (s.reg (.numStatus t) &&& ~~~v)).advance t (s.pc t + 8))) ∧
      (w.imm = 6 → exec (.wrsr t w) s = .next ((s.setReg (.strict t) (v &&& 3)).advance t (s.pc t + 8))) ∧
      (w.imm ∉ [0, 3, 4, 5, 6] → exec (.wrsr t w) s = .next (s.raise t 2 (w.word 1 0x19)))) ∧
    (∀ n, specialValue s t n =
      let x := s.tile t
      let plain : List W64 := [BitVec.ofNat 64 x.vl, BitVec.ofNat 64 s.tenseNow, if s.tenseLocked then 1 else 0, s.reg (.srSeed t),
        s.reg (.srStep t), s.reg (.numStatus t), s.reg (.strict t),
        BitVec.ofNat 64 ((x.energySection.bind (fun e => e.fraction)).getD 0), s.reg (.checkMiss t), BitVec.ofNat 64 x.cycles,
        BitVec.ofNat 64 t.val, BitVec.ofNat 64 s.chip]
      let counter (i : Fin 4) : W64 := ((x.loops.find? (fun l => l.n = i)).map (fun l => l.lc.setWidth 64)).getD 0
      (plain ++ [counter 0, counter 1, counter 2, counter 3])[n]?)

/-- ld and st move 1, 2, 4 or 8 bytes of the vat, in little-endian order, and raise VAT_RANGE outside it or misaligned
(R86). -/
def Obligations.VatLoadsAndStoresComplete : Prop :=
  ∀ (t : Tile) (w : RWord) (s : State), s.issuable t [] →
    let off := (s.tile t).readA w.aa + w.simm
    let n := 2 ^ (w.m.toNat / 2 % 4)
    let bad : Prop := off.toNat % n ≠ 0 ∨ off.toNat + n > 0x400000
    (w.legal { d := true, a := true, aA := true, m := 0b1110, imm := BitVec.allOnes 32 } = true →
      (bad → exec (.ld t w) s = .next (s.raise t 4 off)) ∧
      (¬ bad → s.vatMarksAt t off.toNat n = [] →
        let v := leNat (s.mem.readBytes (vatAddr t off.toNat) n)
        exec (.ld t w) s = .next ((s.updTile t (fun y =>
          y.writeS w.sd (if w.m.getLsbD 3 then BitVec.ofInt 64 (signedOf (8 * n) v) else BitVec.ofNat 64 v))).advance t
            (s.pc t + 8)))) ∧
    (w.legal { a := true, aA := true, b := true, m := 0b0110, imm := BitVec.allOnes 32 } = true →
      (bad → exec (.st t w) s = .next (s.raise t 4 off)) ∧
      (¬ bad → s.vatMarksAt t off.toNat n = [] →
        ∃ m : Memory, exec (.st t w) s = .next ((({ s with mem := m } : State).updTile t (fun y =>
            { y with lastDepart := s.tenseNow })).advance t (s.pc t + 8)) ∧
          (∀ k < n, m.read (vatAddr t off.toNat + k) = BitVec.ofNat 8 (((s.tile t).readS w.sb).toNat / 256 ^ k)) ∧
          (∀ a, a < vatAddr t off.toNat ∨ vatAddr t off.toNat + n ≤ a → m.read a = s.mem.read a)))

/-- Control and scalar instructions leave memory, other tiles, the network and the unnamed registers alone (R66, R67,
R84, R109, R139). -/
def Obligations.ScalarInstructionsFrame : Prop :=
  ∀ (t : Tile) (w : RWord) (s s' : State) (c : Tile → RWord → Instr),
    c ∈ [.nop, .halt, .br, .brc, .jr, .call, .loop, .brk, .lexit, .add, .sub, .mul, .mulhu, .divu, .remu, .and, .or, .xor,
      .shl, .shr, .sra, .min, .max, .minu, .maxu, .slt, .sltu, .li, .ld, .movsa, .movas, .aadd, .rdsr, .wrsr, .setvl] →
    s.marks = [] → exec (c t w) s = .next s' →
    s'.mem = s.mem ∧ (∀ u, u ≠ t → s'.tile u = s.tile u) ∧ s'.net = s.net ∧ s'.groups = s.groups ∧ s'.host = s.host ∧
      s'.out = s.out ∧
      (∀ r, r ∉ [Reg.seqPc t, .excCause t, .excPc t, .excInfo t, .srSeed t, .srStep t, .strict t, .numStatus t,
          .scoreboard t, .pressSteps t] →
        s'.reg r = s.reg r) ∧
      (∀ i, i ≠ w.sd → (s'.tile t).readS i = (s.tile t).readS i)

/-- An exception writes EXC_CAUSE, EXC_PC and EXC_INFO, asks for a halt of kind EXCEPTION, and beside what the press
gives up changes nothing (R109, R110, R113, R135, R139). -/
def Obligations.ExceptionsArePrecise : Prop :=
  ∀ (s : State) (t : Tile) (i : Issue) (target : Option W64) (eff : State → State) (c : Nat) (v : W64),
    s.attempt t i = .raises c v → c < 256 →
    let s' := s.issueTo t i target eff
    let left := (s.tile t).abandonPress
    s'.reg (.excCause t) = BitVec.ofNat 64 c ∧ s'.reg (.excPc t) = s.pc t ∧ s'.reg (.excInfo t) = v ∧
      s'.tile t = { left with halting := some ⟨2, c, 0, s.pc t, v⟩, frozen := false, cpopWait := false,
                              inArray := left.inArray && !left.press.isEmpty,
                              gap := if left.inArray && left.press.isEmpty then 0 else left.gap } ∧
      s'.reg (.scoreboard t) = s.reg (.scoreboard t) &&& ~~~ left.idlePressTags ∧
      ((left.inArray && left.press.isEmpty) = false → s'.reg (.pressSteps t) = s.reg (.pressSteps t)) ∧
      ((s.tile t).press = [] → (s.tile t).pressQueue = [] → left = s.tile t) ∧
      s'.mem = s.mem ∧ (∀ u, u ≠ t → s'.tile u = s.tile u) ∧
      (∀ r, r ∉ [Reg.excCause t, .excPc t, .excInfo t, .scoreboard t, .pressSteps t] → s'.reg r = s.reg r)

/-- An instruction word that R72 forbids raises ILLEGAL_ENCODING with the word, a bad PC raises FETCH before that
(R68, R72, R77, R104, R110, R111). -/
def Obligations.IllegalEncodingsRaise : Prop :=
  let all : W32 := BitVec.allOnes 32
  let no : RUse := {}
  let da : RUse := { d := true, a := true }
  let alu : List ((Tile → RWord → Instr) × Nat) :=
    [(.add, 0), (.sub, 1), (.mul, 2), (.mulhu, 3), (.divu, 4), (.remu, 5), (.and, 6), (.or, 7), (.xor, 8), (.shl, 9),
      (.shr, 10), (.sra, 11), (.min, 12), (.max, 13), (.minu, 14), (.maxu, 15), (.slt, 16), (.sltu, 17)]
  let r : List ((Tile → RWord → Instr) × Nat × Nat × (RWord → RUse)) :=
    alu.map (fun e => (e.1, 1, e.2, fun w => w.useB da)) ++
    [(.nop, 0, 0, fun _ => no), (.halt, 0, 1, fun _ => { imm := all }), (.br, 0, 2, fun _ => { imm := all }),
      (.brc, 0, 3, fun _ => { a := true, b := true, m := 7, imm := all }), (.jr, 0, 4, fun _ => { a := true }),
      (.call, 0, 5, fun _ => { d := true, imm := all }), (.loop, 0, 6, fun _ => { a := true, m := 3, imm := all }),
      (.brk, 0, 7, fun _ => no), (.lexit, 0, 8, fun _ => { m := 3 }),
      (.li, 1, 0x12, fun _ => { d := true, imm := all, ext := .optional }),
      (.ld, 1, 0x13, fun _ => { d := true, a := true, aA := true, m := 14, imm := all }),
      (.st, 1, 0x14, fun _ => { a := true, aA := true, b := true, m := 6, imm := all }),
      (.movsa, 1, 0x15, fun _ => { d := true, dA := true, a := true }),
      (.movas, 1, 0x16, fun _ => { d := true, a := true, aA := true }),
      (.aadd, 1, 0x17, fun w => w.useB { d := true, dA := true, a := true, aA := true }),
      (.rdsr, 1, 0x18, fun _ => { d := true, imm := all }), (.wrsr, 1, 0x19, fun _ => { a := true, imm := all }),
      (.setvl, 1, 0x1A, fun w => w.useB no),
      (.dma, 2, 0, fun _ => { a := true, aA := true, imm := 0x1F }),
      (.pref, 2, 1, fun _ => { a := true, aA := true, b := true }),
      (.sbwait, 5, 0, fun _ => { ext := .required }), (.twait, 5, 1, fun _ => { d := true, a := true }),
      (.barr, 5, 2, fun _ => { imm := 0x3F }), (.egrant, 5, 3, fun _ => { a := true, b := true }),
      (.eend, 5, 4, fun _ => no), (.fence, 5, 5, fun _ => { m := 3 }), (.tfence, 5, 6, fun _ => { m := 3 }),
      (.post, 6, 0, fun _ => { a := true, aA := true, imm := 0x33F })]
  let p : List ((Tile → PWord → Instr) × Nat × PUse) :=
    [(.wld, 0, { fmt := true, aa := true }), (.wswap, 1, {}),
      (.stream, 2, { acc := true, fmt := true, aa := true, sb := true, mode := true, fin := true })]
  let d : IUse := { td := true }
  let f1 : IUse := { td := true, ta := true, rm := [0, 1] }
  let two : IUse := { td := true, ta := true, tb := true }
  let codes : List Nat := [1, 2, 3, 4, 5, 6, 7, 8, 9, 10, 11, 12]
  let rm (w : IWord) : List Nat := if w.fmt = 12 then [0] else [0, 1]
  let conv (w : IWord) : List Nat := if w.fmt = 12 then [0, 1] else [0, 1, 2]
  let i : List ((Tile → IWord → Instr) × Nat × (IWord → IUse)) :=
    [(.cpop, 0, fun _ => d), (.tld, 1, fun _ => { d with sr := true, ar := true, fmt := 0 :: codes, extMx := true }),
      (.tst, 2, fun w => { ta := true, rm := conv w, satc := true, sr := true, ar := true, extMx := true, fmt := codes }),
      (.inflAdd, 3, fun w => { two with fmt := [0, 12], rm := rm w }),
      (.inflSub, 4, fun w => { two with fmt := [0, 12], rm := rm w }),
      (.inflMul, 5, fun w => { two with fmt := [0, 12], rm := rm w }),
      (.fma, 6, fun w => { two with tc := true, fmt := [0, 12], rm := rm w }),
      (.inflMin, 7, fun _ => { two with fmt := [0, 12] }), (.inflMax, 8, fun _ => { two with fmt := [0, 12] }),
      (.abs, 9, fun _ => { d with ta := true, fmt := [0, 12] }), (.neg, 10, fun _ => { d with ta := true, fmt := [0, 12] }),
      (.sel, 11, fun _ => { two with pg := true, ax := true }),
      (.bcast, 12, fun _ => { d with sr := true, fmt := [0, 1, 2, 3, 4, 10, 11, 12] }),
      (.cvt, 13, fun w => { d with ta := true, rm := conv w, satc := true, sr := true, opx := 1, fmt := codes }),
      (.scale, 14, fun _ => { f1 with sr := true }), (.exp2, 0x10, fun _ => f1), (.log2, 0x11, fun _ => f1),
      (.rcp, 0x12, fun _ => f1), (.rsqrt, 0x13, fun _ => f1), (.sqrt, 0x14, fun _ => f1), (.tanh, 0x15, fun _ => f1),
      (.sigm, 0x16, fun _ => f1), (.div, 0x17, fun _ => { f1 with tb := true }),
      (.cmp, 0x18, fun _ => { two with opx := 0x1F001F }),
      (.red, 0x19, fun _ => { d with ta := true, ax := true, opx := 0x70F }), (.perm, 0x1A, fun _ => two),
      (.elide, 0x1B, fun _ => { d with ta := true, pg := true, ax := true, sr := true }),
      (.restore, 0x1C, fun _ => { d with ta := true, pg := true, ax := true }),
      (.plog, 0x1D, fun _ => { two with opx := 3 }), (.pgen, 0x1E, fun _ => { d with sr := true }),
      (.pcnt, 0x1F, fun _ => { ta := true, sr := true }), (.tmov, 0x20, fun _ => { d with ta := true })]
  (∀ (s : State) (t : Tile), s.tileReady t = false →
    (∀ (w : RWord), ∀ e ∈ r, exec (e.1 t w) s = .next s) ∧ (∀ (w : PWord), ∀ e ∈ p, exec (e.1 t w) s = .next s) ∧
    (∀ (w : IWord), ∀ e ∈ i, exec (e.1 t w) s = .next s)) ∧
  ∀ (s : State) (t : Tile), s.tileReady t = true →
    (badPc (s.pc t) = false →
      (∀ (w : RWord), ∀ e ∈ r, w.legal (e.2.2.2 w) = false →
        exec (e.1 t w) s = .next (s.raise t 2 (w.word e.2.1 e.2.2.1))) ∧
      (∀ (w : PWord), ∀ e ∈ p, w.legal e.2.2 = false → exec (e.1 t w) s = .next (s.raise t 2 (w.word 3 e.2.1))) ∧
      (∀ (w : IWord), ∀ e ∈ i, w.legal (e.2.2 w) = false → exec (e.1 t w) s = .next (s.raise t 2 (w.word 4 e.2.1)))) ∧
    (badPc (s.pc t) = true →
      (∀ (w : RWord), ∀ e ∈ r, exec (e.1 t w) s = .next (s.raise t 1 (s.pc t))) ∧
      (∀ (w : PWord), ∀ e ∈ p, exec (e.1 t w) s = .next (s.raise t 1 (s.pc t))) ∧
      (∀ (w : IWord), ∀ e ∈ i, exec (e.1 t w) s = .next (s.raise t 1 (s.pc t)))) ∧
    (∀ x : Issue, (badPc (s.pc t) = true → s.attempt t x = .raises 1 (s.pc t)) ∧
      (badPc (s.pc t) = false → x.legal = false → s.attempt t x = .raises 2 x.word)) ∧
    (¬ s.granted t → ∀ c,
      ((∃ (w : RWord), ∃ e ∈ r, (e.2.1 = 2 ∨ e.2.1 = 6) ∧ c = e.1 t w) ∨ (∃ (w : PWord), ∃ e ∈ p, c = e.1 t w) ∨
        (∃ (w : IWord), ∃ e ∈ i, e.2.1 ≠ 0 ∧ c = e.1 t w)) →
        exec c s = .next s ∨ ∃ k v, k ≤ 5 ∧ exec c s = .next (s.raise t k v))

/-- An instruction fetch fills the buffer with the line of the PC, which later writes to ream do not change, and
decodes the word there (R68, R70, R72, R82). -/
def Obligations.InstructionFetchFillsTheBuffer : Prop :=
  ∀ (t : Tile) (s : State), s.tileReady t = true →
    let line := (s.pc t).toNat / 64 * 64
    let known (pc : W64) (data : BitVec 512) : Bool := (decodeSx t (lineWord pc data) 0).isSome
    (badPc (s.pc t) = true → exec (.instructionFetch t) s = .next (s.raise t 1 (s.pc t))) ∧
    (badPc (s.pc t) = false → ∀ e, (s.tile t).ibuf.find? (fun e => e.1 = line) = some e →
      (known (s.pc t) e.2 = true → exec (.instructionFetch t) s = .next s) ∧
      (known (s.pc t) e.2 = false → exec (.instructionFetch t) s = .next (s.raise t 2 (lineWord (s.pc t) e.2)))) ∧
    (badPc (s.pc t) = false → (s.tile t).ibuf.find? (fun e => e.1 = line) = none → s.biasWaits (tileFolio t) line 64 = true →
      exec (.instructionFetch t) s = .next s) ∧
    (badPc (s.pc t) = false → (s.tile t).ibuf.find? (fun e => e.1 = line) = none →
      s.biasWaits (tileFolio t) line 64 = false →
      ∀ s1 bs, s.folioRead (tileFolio t) (.fetch t) 0 line 64 = (s1, some bs) →
        let data := (s1.tile t).lineData t line bs
        ((s1.tile t).image = none → data = BitVec.ofNat 512 (leNat bs)) ∧
        (∀ lo hi m, (s1.tile t).image = some (lo, hi, m) →
          data = BitVec.ofNat 512 (leNat (if lo ≤ line ∧ line < hi then m.readBytes (reamAddr (tileFolio t) line) 64 else bs))) ∧
        ∃ s', exec (.instructionFetch t) s = .next s' ∧
          (s'.tile t).ibuf = ((line, data) :: (s1.tile t).ibuf).take 512 ∧ s'.mem = s1.mem ∧
          (known (s1.pc t) data = true → (s'.tile t).halting = (s1.tile t).halting) ∧
          (known (s1.pc t) data = false → s'.reg (.excCause t) = 2 ∧ s'.reg (.excPc t) = s1.pc t ∧
            s'.reg (.excInfo t) = lineWord (s1.pc t) data))

/-- dma queues its descriptor under its busy tag or raises VAT_RANGE, pref leaves a hint, and both wait and raise for
the grant (R75, R77, R88, R89, R90, R104, R200). -/
def Obligations.DmaAndPrefIssue : Prop :=
  (∀ (t : Tile) (w : RWord) (s : State),
    let tag : Fin 32 := Fin.ofNat 32 w.imm.toNat
    let off := (s.tile t).readA w.aa
    s.issuable t [] → w.legal { a := true, aA := true, imm := 0x1F } = true →
      (s.tagBusy t tagGrant = true ∨ s.tagBusy t (tagDma tag) = true ∨ 32 ≤ (s.tile t).dmaQueue.length →
        exec (.dma t w) s = .next s) ∧
      (s.issuable t [tagDma tag] → s.tagBusy t tagGrant = false → (s.tile t).dmaQueue.length < 32 →
      (off.toNat % 32 = 0 ∧ off.toNat < 0x400000 → s.sectionless t → exec (.dma t w) s = .next (s.raise t 5 0)) ∧
      (off.toNat % 32 = 0 ∧ off.toNat < 0x400000 → s.granted t →
        exec (.dma t w) s = .next (((s.updTile t (fun y =>
          { y with dmaQueue := y.dmaQueue ++ [⟨tag, off.toNat⟩] })).busyTag t (tagDma tag)).advance t (s.pc t + 8))) ∧
      (off.toNat % 32 ≠ 0 ∨ 0x400000 ≤ off.toNat → exec (.dma t w) s = .next (s.raise t 4 off)))) ∧
  (∀ (t : Tile) (w : RWord) (s : State), s.issuable t [] → w.legal { a := true, aA := true, b := true } = true →
    (s.tagBusy t tagGrant = true → exec (.pref t w) s = .next s) ∧
    (s.sectionless t → exec (.pref t w) s = .next (s.raise t 5 0)) ∧
    (s.granted t →
      let f := tileFolio t
      let c := s.cache f
      ∃ s', exec (.pref t w) s = .next (s'.advance t (s.pc t + 8)) ∧ s'.mem = s.mem ∧
        s' = match s.hintOf t ((s.tile t).readA w.aa) ((s.tile t).readS w.sb) with
          | none => s
          | some h =>
            if s.flag (.fcCtl f) Fld.fcCtlHintEn = false then s
            else if 64 ≤ c.hints.length then s.bump (.fcHintsDropped f) Fld.fcHintsDroppedCount 1
            else s.setCache f { c with hints := c.hints ++ [h] }))

/-- The DMA engine takes the oldest descriptor, validates it, and starts the transfer or rejects it with the lowest
status (R205, R211, R213, R214). -/
def Obligations.DescriptorFetchValidates : Prop :=
  ∀ (t : Tile) (s : State) (r : DmaReq) (rest : List DmaReq), (s.tile t).dmaQueue = r :: rest → s.marks = [] →
    (s.tile t).xfers.length < 8 → (s.tile t).inReset = false → s.clocksStopped = false →
      let w (i : Nat) := s.vatReadLe t (r.off + 8 * i) 8
      let d := descOf (w 0) (w 1) (w 2) (w 3)
      let st := validate d (s.bufView t d.srcBuf) (s.bufView t d.dstBuf) (s.indexList t d)
        (s.flag (.pressRepair t) Fld.pressRepairValid)
      ∃ s', exec (.descriptorFetch t) s = .next s' ∧ (s'.tile t).dmaQueue = rest ∧ s'.mem = s.mem ∧
        (st = 0 → ∃ x, (s'.tile t).xfers = (s.tile t).xfers ++ [x] ∧ x.tag = r.tag ∧ x.desc = d ∧ x.row = 0 ∧ x.bytes = 0 ∧
          x.src = s.bufView t d.srcBuf ∧ x.dst = s.bufView t d.dstBuf ∧
          x.seed = (s.reg (.srSeed t)).setWidth 32 ∧ x.step = s.reg (.srStep t)) ∧
        (st ≠ 0 → (s'.tile t).xfers = (s.tile t).xfers ∧ s'.tagBusy t (tagDma r.tag) = false ∧
          (s'.reg (.tagError t)).getLsbD (tagDma r.tag) = true ∧
          Store.get (fun _ => 0) (s'.tile t).dmaStatus r.tag.val = st ∧
          s'.fld (.dmaRejects t) Fld.dmaRejectsCount = min (s.fld (.dmaRejects t) Fld.dmaRejectsCount + 1) (2 ^ 32 - 1))

/-- DMA rows copied, gathered, scattered or filled within the tile's own vat arrive, converted, and change nothing
else; far ones become requests (R130, R205, R206, R207, R208, R209, R210, R233). -/
def Obligations.DmaMovesARowWithinTheVat : Prop :=
  let row (k : Nat) (cmd : Tile → Fin 32 → Instr) : Prop :=
    ∀ (t : Tile) (tag : Fin 32) (s : State) (x : Xfer) (j : Nat),
      (s.tile t).xfers = [x] → x.tag = tag → x.desc.kind = k → x.src = s.bufView t 0 → x.dst = s.bufView t 0 →
      x.desc.count = 1 → 0 < x.desc.length → x.desc.length ≤ 16384 → x.desc.srcFmt = x.desc.dstFmt →
      x.row = 0 → x.part = 0 → x.loaded = none → x.asked = false → x.finished = false → x.status = 0 →
      x.idx = (if x.desc.indexed then [j] else []) → j ≠ 0xFFFFFFFF →
      s.marks = [] → (s.tile t).inReset = false → s.clocksStopped = false →
      let from' := x.desc.srcOff + if x.desc.gathers then j * x.desc.srcPitch else 0
      let to' := x.desc.dstOff + if k = 2 then j * x.desc.dstPitch else 0
      from' + x.desc.length ≤ 0x400000 → to' + x.desc.length ≤ 0x400000 →
      ∃ s' x', exec (cmd t tag) s = .next s' ∧ (s'.tile t).xfers = [x'] ∧ x'.finished = true ∧ x'.status = 0 ∧
        (∀ i < x.desc.length, s'.mem.read (vatAddr t (to' + i)) =
          if k = 5 then 0 else s.mem.read (vatAddr t (from' + i))) ∧
        (∀ a, a < vatAddr t to' ∨ vatAddr t to' + x.desc.length ≤ a → s'.mem.read a = s.mem.read a)
  let rows (k : Nat) (cmd : Tile → Fin 32 → Instr) : Prop :=
    ∀ (t : Tile) (tag : Fin 32) (s : State) (x : Xfer),
      (s.tile t).xfers = [x] → x.tag = tag → x.desc.kind = k → x.src = s.bufView t 0 → x.dst = s.bufView t 0 →
      0 < x.desc.count → 0 < x.desc.length → x.row = 0 → x.part = 0 → x.loaded = none → x.asked = false → x.finished = false →
      x.status = 0 → s.marks = [] → (s.tile t).inReset = false → s.clocksStopped = false →
      let d := x.desc
      let wa := if d.converts then fmtWidth d.srcFmt / 8 else 1
      let wb := if d.converts then fmtWidth d.dstFmt / 8 else 1
      let index (i : Nat) : Nat := if d.indexed then x.idx.getD i 0xFFFFFFFF else i
      let pad (i : Nat) : Bool := d.indexed && decide (index i = 0xFFFFFFFF)
      let live (i : Nat) : Bool := !(decide (k = 2) && pad i)
      let moved (i : Nat) : Bool := !decide (k = 5) && !pad i
      let src (i : Nat) : Nat := d.srcOff + (if d.gathers then index i else i) * d.srcPitch
      let dst (i : Nat) : Nat := d.dstOff + (if k = 2 then index i else i) * d.dstPitch
      let elem (i e : Nat) : List Byte × Flags :=
        ({ x with row := i, part := e * wa } : Xfer).convert t (s.vatRead t (src i + e * wa) wa)
      (d.converts = true → ∃ a b rm, Fmt.ofCode d.srcFmt = some a ∧ Fmt.ofCode d.dstFmt = some b ∧ Rm.ofCode d.rm = some rm ∧
        0 < wa ∧ 0 < wb ∧ a.width % 8 = 0 ∧ b.width % 8 = 0 ∧ d.length % wa = 0) →
      (∀ i < d.count, moved i = true → src i + d.length ≤ 0x400000) →
      (∀ i < d.count, live i = true → dst i + d.rowOut ≤ 0x400000) →
      (∀ i < d.count, ∀ j < d.count, live i = true → moved j = true →
        dst i + d.rowOut ≤ src j ∨ src j + d.length ≤ dst i) →
      (∀ i < d.count, ∀ j < d.count, i ≠ j → live i = true → live j = true →
        dst i + d.rowOut ≤ dst j ∨ dst j + d.rowOut ≤ dst i) →
      ∃ s' x' at', exec (cmd t tag) s = .next s' ∧ x'.finished = true ∧ x'.status = 0 ∧ x'.tag = tag ∧
        x'.bytes = x.bytes + (List.range d.count).countP live * d.rowOut ∧
        x'.flags = ((List.range d.count).filter moved).foldl (fun f i =>
          (List.range (d.length / wa)).foldl (fun g e => g ||| (elem i e).2) f) x.flags ∧
        (∀ i < d.count, live i = true → ∀ e < d.length / wa, ∀ b < wb,
          s'.mem.read (vatAddr t (dst i + e * wb + b)) = if moved i then (elem i e).1.getD b 0 else 0) ∧
        (∀ a, (∀ i < d.count, live i = true → a < vatAddr t (dst i) ∨ vatAddr t (dst i) + d.rowOut ≤ a) →
          s'.mem.read a = s.mem.read a) ∧
        s'.tile t = { s.tile t with xfers := [x'], lastDepart := at' } ∧ (∀ u, u ≠ t → s'.tile u = s.tile u) ∧
        s'.regs = s.regs ∧ s'.net = s.net ∧ s'.groups = s.groups ∧ s'.host = s.host ∧ s'.out = s.out
  let far (k : Nat) (cmd : Tile → Fin 32 → Instr) : Prop :=
    ∀ (t : Tile) (tag : Fin 32) (s : State) (x : Xfer) (chip die off tg : Nat),
      (s.tile t).xfers = [x] → x.tag = tag → x.desc.kind = k → x.desc.count ≠ 0 → x.asked = false → x.finished = false →
      (s.tile t).inReset = false → s.clocksStopped = false → s.freeTag (folioDie (tileFolio t)) = some tg →
      let sent (op : Nat) (n : Nat) (bs : List Byte) : Prop :=
        ∃ s' q, exec (cmd t tag) s = .next s' ∧ s'.net.txns = s.net.txns ++ [q] ∧ q.user = .dma t tag ∧ q.tag = tg ∧
          q.die = folioDie (tileFolio t) ∧ cellsData q.cells = memRequest off op n bs ∧
          (∀ c ∈ q.cells, c.cls = 2 ∧ c.type = 1 ∧ c.job = BitVec.ofNat 12 (s.tile t).job ∧ c.dstChip = BitVec.ofNat 14 chip ∧
            c.dstDie = BitVec.ofNat 4 die) ∧
          (s'.tile t).xfers = [{ x with asked := true }] ∧ s'.mem = s.mem ∧ s'.regs = s.regs
      (k ≠ 5 → x.loaded = none → x.isPad = false → s.place t x.srcAddr = .far chip die off → s.replyRoom t x = true →
        sent 0 x.pieceLen []) ∧
      (∀ bs, k ∈ [0, 1, 2, 5] → x.loaded = some bs → twinDst s t x.dstAddr = none → s.place t x.dstAddr = .far chip die off →
        s.blockPending t chip die off bs.length = false → sent 1 bs.length bs)
  row 0 .dmaCopy ∧ row 1 .dmaGather ∧ row 2 .dmaScatter ∧ row 5 .dmaFill ∧
  rows 0 .dmaCopy ∧ rows 1 .dmaGather ∧ rows 2 .dmaScatter ∧ rows 5 .dmaFill ∧
  far 0 .dmaCopy ∧ far 1 .dmaGather ∧ far 2 .dmaScatter ∧ far 3 .dmaSkew ∧ far 4 .dmaSkewGather ∧ far 5 .dmaFill

/-- A skewed DMA row puts word k of row i into line i + k, or i + k + 1 from a repaired row on, and changes no other
bit (R130, R210). -/
def Obligations.DmaSkewsARow : Prop :=
  let row (n : Nat) (cmd : Tile → Fin 32 → Instr) : Prop :=
    ∀ (t : Tile) (tag : Fin 32) (s : State) (x : Xfer) (j : Nat),
      (s.tile t).xfers = [x] → x.tag = tag → x.desc.kind = n → x.src = s.bufView t 0 → x.dst = s.bufView t 0 →
      x.desc.count = x.row + 1 → x.desc.wbits ∈ [4, 6, 8, 12, 16, 24, 32, 64] → x.desc.length = 16 * x.desc.wbits →
      x.desc.srcFmt = x.desc.dstFmt →
      x.part = 0 → x.loaded = none → x.asked = false → x.finished = false → x.status = 0 →
      x.idx.getD x.row 0xFFFFFFFF = j → s.marks = [] → (s.tile t).inReset = false → s.clocksStopped = false →
      let pad := n = 4 ∧ j = 0xFFFFFFFF
      let from' := x.desc.srcOff + (if n = 4 then j else x.row) * x.desc.srcPitch
      let bit (k : Nat) : Nat :=
        let line := match s.repairRow t with
          | some f => if f ≤ k then x.desc.dstPitch + x.row + k + 1 else x.desc.dstPitch + x.row + k
          | none => x.desc.dstPitch + x.row + k
        8 * (x.desc.dstOff + line * x.desc.length) + k * x.desc.wbits
      (¬ pad → from' + x.desc.length ≤ 0x400000) →
      x.desc.dstOff + (x.desc.dstPitch + x.row + 129) * x.desc.length ≤ 0x400000 →
      ∃ s' x' at', exec (cmd t tag) s = .next s' ∧ x'.finished = true ∧ x'.status = 0 ∧ x'.tag = tag ∧
        x'.bytes = x.bytes + x.desc.length ∧
        (∀ k < 128, s'.vatBits t (bit k) x.desc.wbits =
          if pad then 0 else s.vatBits t (8 * from' + k * x.desc.wbits) x.desc.wbits) ∧
        (∀ q < 8 * 0x400000, (∀ k < 128, q < bit k ∨ bit k + x.desc.wbits ≤ q) → s'.vatBits t q 1 = s.vatBits t q 1) ∧
        (∀ a, a < vatAddr t 0 ∨ vatAddr t 0 + 0x400000 ≤ a → s'.mem.read a = s.mem.read a) ∧
        s'.tile t = { s.tile t with xfers := [x'], lastDepart := at' } ∧ (∀ u, u ≠ t → s'.tile u = s.tile u) ∧
        s'.regs = s.regs ∧ s'.net = s.net ∧ s'.groups = s.groups ∧ s'.host = s.host ∧ s'.out = s.out
  row 3 .dmaSkew ∧ row 4 .dmaSkewGather

/-- A finished DMA transfer clears its tag, counts its bytes or leaves its error mark, and sets its conversion flags
(R78, R208, R211, R215). -/
def Obligations.DmaCompletionReports : Prop :=
  ∀ (t : Tile) (tag : Fin 32) (s : State) (x : Xfer), (s.tile t).xfers.find? (fun y => y.tag = tag) = some x →
    x.finished = true → s.waits (.dma t tag) = false → (s.tile t).inReset = false → s.clocksStopped = false →
      ∃ s', exec (.dmaComplete t tag) s = .next s' ∧ (s'.tile t).xfers.find? (fun y => y.tag = tag) = none ∧
        s'.tagBusy t (tagDma tag) = false ∧ s'.mem = s.mem ∧
        s'.reg (.numStatus t) = s.reg (.numStatus t) ||| x.flags.setWidth 64 ∧
        (x.status = 0 → s'.fld (.dmaBytes t) Fld.dmaBytesCount =
            min (s.fld (.dmaBytes t) Fld.dmaBytesCount + x.bytes) (2 ^ 48 - 1) ∧ s'.reg (.tagError t) = s.reg (.tagError t)) ∧
        (x.status ≠ 0 → (s'.reg (.tagError t)).getLsbD (tagDma tag) = true ∧
          Store.get (fun _ => 0) (s'.tile t).dmaStatus tag.val = x.status)

/-- wld, wswap and stream enter the press queue or raise the conditions of R91 and R93, and the queue starts in order
(R93). -/
def Obligations.PressInstructionsIssue : Prop :=
  (∀ (t : Tile) (w : PWord) (s : State), s.issuable t [] →
    let x := s.tile t
    let strict := s.flag (.strict t) Fld.strictCheck
    let a := (x.readA w.aa.toFin).toNat
    let n := (x.readS w.sb.toFin).toNat
    let f := (Fmt.ofCode w.fmt.toNat).getD .bf16
    let law (c : Tile → PWord → Instr) (u : PUse) (tags : List Nat) (good : Prop) : Prop := w.legal u = true →
      ((∃ k ∈ tagGrant :: tags, s.tagBusy t k = true) ∨ 8 ≤ x.pressQueue.length → exec (c t w) s = .next s) ∧
      (s.issuable t tags → x.pressQueue.length < 8 → s.sectionless t → good → exec (c t w) s = .next (s.raise t 5 0))
    law .wld { fmt := true, aa := true } (if strict then [tagPress] else []) (a < 0x400000) ∧
    law .wswap {} [tagShadow] True ∧
    law .stream { acc := true, fmt := true, aa := true, sb := true, mode := true, fin := true }
      (if strict then [tagShadow, tagPress] else [])
      (n ≠ 0 ∧ n ≤ 2 ^ 24 ∧ ¬ (128 < n ∧ ¬ (w.mode = false ∧ w.fin = true ∧ strict = false)) ∧ f.isInt = x.issueFmt.isInt ∧
        a < 0x400000)) ∧
  (∀ (t : Tile) (w : PWord) (s : State), s.granted t →
    let x := s.tile t
    let strict := s.flag (.strict t) Fld.strictCheck
    let a := x.readA w.aa.toFin
    let f := (Fmt.ofCode w.fmt.toNat).getD .bf16
    let next := s.pc t + if w.x then 16 else 8
    let idle := x.pressQueue = [] ∧ x.press = [] ∧ x.frozen = false
    let queued (e : PressEntry) : State := s.updTile t (fun y => { y with pressQueue := y.pressQueue ++ [e] })
    (s.issuable t (if strict then [tagPress] else []) → w.legal { fmt := true, aa := true } = true →
      (8 ≤ x.pressQueue.length → exec (.wld t w) s = .next s) ∧
      (x.pressQueue.length < 8 →
        (0x400000 ≤ a.toNat → exec (.wld t w) s = .next (s.raise t 4 a)) ∧
        (a.toNat < 0x400000 →
          exec (.wld t w) s = .next (pumpPress t
            (((queued (.wld f a.toNat w.ext.toNat)).busyTag t tagShadow).advance t next)) ∧
          (idle → x.loading = false → s.marks = [] →
            ∃ s', exec (.wld t w) s = .next s' ∧ (s'.tile t).shadow = readBlock s t f a.toNat w.ext.toNat ∧
              (s'.tile t).active = x.active ∧ (s'.tile t).loading = true ∧ s'.tagBusy t tagShadow = true ∧
              s'.mem = s.mem)))) ∧
    (s.issuable t [tagShadow] → w.legal {} = true →
      (8 ≤ x.pressQueue.length → exec (.wswap t w) s = .next s) ∧
      (x.pressQueue.length < 8 →
        exec (.wswap t w) s = .next (pumpPress t ((queued .wswap).advance t next)) ∧
        (idle → ∃ s', exec (.wswap t w) s = .next s' ∧ (s'.tile t).active = x.shadow ∧ (s'.tile t).shadow = x.active ∧
          (s'.tile t).pressQueue = [] ∧ s'.mem = s.mem))) ∧
    (s.issuable t (if strict then [tagShadow, tagPress] else []) → x.pressQueue.length < 8 →
      w.legal { acc := true, fmt := true, aa := true, sb := true, mode := true, fin := true } = true →
      let n := x.readS w.sb.toFin
      let count := n.toNat = 0 ∨ 2 ^ 24 < n.toNat ∨ (128 < n.toNat ∧ ¬ (w.mode = false ∧ w.fin = true ∧ strict = false))
      (count → exec (.stream t w) s = .next (s.raise t 3 n)) ∧
      (¬ count → f.isInt ≠ x.issueFmt.isInt → exec (.stream t w) s = .next (s.raise t 3 (w.word 3 2))) ∧
      (¬ count → f.isInt = x.issueFmt.isInt → 0x400000 ≤ a.toNat → exec (.stream t w) s = .next (s.raise t 4 a)) ∧
      (¬ count → f.isInt = x.issueFmt.isInt → a.toNat < 0x400000 →
        (let s1 := pumpPress t ((((queued (.stream (streamJob s t w))).busyTag t (tagAcc w.acc.toFin)).busyTag t
            tagPress).advance t next)
        exec (.stream t w) s = .next (if strict then
            (s1.setReg (.seqPc t) (s.pc t)).updTile t (fun y => { y with hold := some (s.pc t), loops := x.loops })
          else s1)) ∧
        (idle → ∃ s' j, exec (.stream t w) s = .next s' ∧ (s'.tile t).press = [j] ∧ j.rows = n.toNat ∧
          j.acc = w.acc.toFin ∧ j.fmt = f ∧ j.base = a.toNat ∧ j.scaleOff = w.ext.toNat ∧ j.add = w.mode ∧ j.fin = w.fin ∧
          j.weights = x.active ∧ j.done = 0 ∧ j.strict = strict ∧ s'.tagBusy t (tagAcc w.acc.toFin) = true ∧
          s'.tagBusy t tagPress = true ∧ s'.mem = s.mem)))) ∧
  (∀ (t : Tile) (s : State),
    ((s.tile t).pressQueue = [] ∨ (s.tile t).frozen = true → pumpPress t s = s) ∧
    (∀ e rest, (s.tile t).pressQueue = e :: rest →
      ((s.tile t).canStart e = false → pumpPress t s = s) ∧
      ((s.tile t).frozen = false → (s.tile t).canStart e = true →
        pumpPress t s = pumpPress t (startEntry t (s.updTile t (fun y => { y with pressQueue := rest })) e)))) ∧
  (∀ (t : Tile) (s : State), s.clocksStopped = false →
    ((s.tile t).frozen = true ∨ (s.tile t).loading = false → exec (.wldLoadEnd t) s = .next s) ∧
    ((s.tile t).frozen = false → (s.tile t).loading = true →
      let s1 := pumpPress t (s.updTile t (fun x => { x with loading := false }))
      exec (.wldLoadEnd t) s = .next (if (s1.tile t).loads then s1 else s1.clearTag t tagShadow) ∧
      ((s.tile t).pressQueue = [] →
        exec (.wldLoadEnd t) s = .next ((s.updTile t (fun x => { x with loading := false })).clearTag t tagShadow))))

/-- A completed stream row writes its sums, or adds them, to bank row i mod 128, and a FIN stream's 32 rows leave as a
couch tile (R94). -/
def Obligations.StreamRowsReachTheBank : Prop :=
  (∀ (t : Tile) (s : State) (j : StreamJob) (rest : List StreamJob), (s.tile t).press = j :: rest → s.marks = [] →
    s.clocksStopped = false → (s.tile t).inReset = false → (s.tile t).frozen = false → j.strict = false → j.staged = [] →
    j.done < j.rows →
      let x := s.tile t
      let sums := rowSums s t j j.done
      let new := updateRow j (bankRow x j.acc (j.done % 128)) (checkAt x j.acc (j.done % 128)) sums
      (completesTile j j.done = false →
        ∃ s', exec (.streamRowComplete t) s = .next s' ∧ bankRow (s'.tile t) j.acc (j.done % 128) = new.1 ∧
          (∀ r < 128, r ≠ j.done % 128 → bankRow (s'.tile t) j.acc r = bankRow x j.acc r) ∧
          s'.reg (.numStatus t) = s.reg (.numStatus t) ||| new.2.2.setWidth 64 ∧
          (x.pressQueue = [] → (s'.tile t).press = (if j.done + 1 = j.rows then rest
            else { j with entered := max j.entered (j.done + 1), done := j.done + 1 } :: rest))) ∧
      (completesTile j j.done = true → x.couch.length < 4 →
        ∃ s' g, exec (.streamRowComplete t) s = .next s' ∧ (s'.tile t).couch = x.couch ++ [⟨x.couchNext, g⟩] ∧
          (∀ n < 128, ∀ r < 32, gridAt g r n =
            if r < j.done % 32 then gridAt (x.readAcc j.acc) ((j.done / 32 * 32 + r) % 128) n
            else if r = j.done % 32 then new.1.getD n 0 else 0) ∧
          (∀ n < 128, ∀ r ≤ j.done % 32, gridAt ((s'.tile t).readAcc j.acc) ((j.done / 32 * 32 + r) % 128) n = 0)) ∧
      (completesTile j j.done = true → 4 ≤ x.couch.length → x.halting = none →
        exec (.streamRowComplete t) s = .next (s.updTile t (fun y => { y with frozen := true }))) ∧
      (completesTile j j.done = true → 4 ≤ x.couch.length → x.halting ≠ none →
        ∃ s', exec (.streamRowComplete t) s = .next s' ∧ (s'.tile t).couch = x.couch ∧
          ∀ n < 128, ∀ r ≤ j.done % 32, gridAt ((s'.tile t).readAcc j.acc) ((j.done / 32 * 32 + r) % 128) n = 0)) ∧
  (∀ (t : Tile) (s : State), (s.tile t).frozen = true → (s.tile t).couch.length < 4 →
    exec (.pressResume t) s = .next (pumpPress t (s.updTile t (fun x => { x with frozen := false }))))

/-- cpop takes the oldest couch tile, tld loads rows of the vat widened, and tst stores rows converted (R77, R96, R97,
R98, R99, R104, R161, R170). -/
def Obligations.CouchAndVatPathsComplete : Prop :=
  (∀ (t : Tile) (w : IWord) (s : State) (c : CouchTile) (rest : List CouchTile), (s.tile t).couch = c :: rest →
    s.issuable t [tagT w.dt, tagCouch c.slot] → s.granted t → (s.tile t).infl.length < 16 → c.slot < 4 →
    w.legal { td := true } = true →
      let x := s.tile t
      ∃ s', exec (.cpop t w) s = .next s' ∧ (s'.tile t).couch = rest ∧ s'.tagBusy t (tagCouch c.slot) = true ∧
        s'.tagBusy t (tagT w.dt) = true ∧
        s.onlyTile s' t [.seqPc t, .scoreboard t] ∧ (∀ k, k ≠ w.dt → (s'.tile t).readT k = x.readT k) ∧
        (s'.tile t).s = x.s ∧ (s'.tile t).a = x.a ∧ (s'.tile t).p = x.p ∧
        ∀ r < 32, ∀ i < 128, gridAt ((s'.tile t).readT w.dt) r i =
          if i < x.vl then gridAt c.rows r i else gridAt (x.readT w.dt) r i) ∧
  (∀ (t : Tile) (w : IWord) (s : State), s.issuable t [] → w.legal { td := true } = true →
    (s.tagBusy t (tagCouch (s.tile t).oldestSlot) = true →
      exec (.cpop t w) s = .next (s.updTile t (fun y => { y with cpopWait := true }))) ∧
    (s.tagBusy t (tagCouch (s.tile t).oldestSlot) = false →
      ((∃ k ∈ [tagGrant, tagT w.dt], s.tagBusy t k = true) ∨ 16 ≤ (s.tile t).infl.length → exec (.cpop t w) s = .next s) ∧
      (s.tagBusy t (tagT w.dt) = false → (s.tile t).infl.length < 16 → (s.tile t).couch ≠ [] → s.sectionless t →
        exec (.cpop t w) s = .next (s.raise t 5 0)))) ∧
  (∀ (t : Tile) (w : IWord) (s : State), s.issuable t [] →
    let x := s.tile t
    let good := vlExc w x = none ∧
      rowsRange w.format (x.readA w.ar.toFin).toNat (x.readS w.sr.toFin).toNat w.ext.toNat x.vl = none
    let law (c : Tile → IWord → Instr) (u : IUse) (tag : Nat) : Prop := w.legal u = true →
      ((∃ k ∈ [tagGrant, tag], s.tagBusy t k = true) ∨ 16 ≤ x.infl.length → exec (c t w) s = .next s) ∧
      (s.tagBusy t tag = false → x.infl.length < 16 → s.sectionless t → good → exec (c t w) s = .next (s.raise t 5 0))
    law .tld { td := true, sr := true, ar := true, fmt := List.range 13, extMx := true } (tagT w.dt) ∧
    law .tst { ta := true, rm := convertRm w, satc := true, sr := true, ar := true, extMx := true,
               fmt := [1, 2, 3, 4, 5, 6, 7, 8, 9, 10, 11, 12] } (tagT w.at)) ∧
  (∀ (t : Tile) (w : IWord) (s : State), s.issuable t [tagT w.dt] → s.granted t → (s.tile t).infl.length < 16 →
    w.legal { td := true, sr := true, ar := true, fmt := List.range 13, extMx := true } = true → s.marks = [] →
      let x := s.tile t
      let a := (x.readA w.ar.toFin).toNat
      let pitch := (x.readS w.sr.toFin).toNat
      let f := w.format
      (∀ e, (vlExc w x <|> rowsRange f a pitch w.ext.toNat x.vl) = some e →
        exec (.tld t w) s = .next (s.raise t e.1 e.2)) ∧
      (vlExc w x = none → rowsRange f a pitch w.ext.toNat x.vl = none →
        ∃ s', exec (.tld t w) s = .next s' ∧ s'.tagBusy t (tagT w.dt) = true ∧
          s.onlyTile s' t [.seqPc t, .scoreboard t, .vatPortWait t] ∧ (∀ k, k ≠ w.dt → (s'.tile t).readT k = x.readT k) ∧
          (s'.tile t).s = x.s ∧ (s'.tile t).a = x.a ∧ (s'.tile t).p = x.p ∧
          ∀ r < 32, ∀ i < 128, gridAt ((s'.tile t).readT w.dt) r i =
            if i < x.vl then (tldElement s t f a pitch w.ext.toNat r i).1 else gridAt (x.readT w.dt) r i)) ∧
  (∀ (t : Tile) (w : IWord) (s : State), s.issuable t [tagT w.at] → s.granted t → (s.tile t).infl.length < 16 →
    w.legal { ta := true, rm := convertRm w, satc := true, sr := true, ar := true, extMx := true,
              fmt := [1, 2, 3, 4, 5, 6, 7, 8, 9, 10, 11, 12] } = true → s.marks = [] →
      let x := s.tile t
      let a := (x.readA w.ar.toFin).toNat
      let pitch := (x.readS w.sr.toFin).toNat
      let f := w.format
      (∀ e, (vlExc w x <|> rowsRange f a pitch w.ext.toNat x.vl) = some e →
        exec (.tst t w) s = .next (s.raise t e.1 e.2)) ∧
      (vlExc w x = none → rowsRange f a pitch w.ext.toNat x.vl = none →
        ∃ s', exec (.tst t w) s = .next s' ∧ s'.tagBusy t (tagT w.at) = true ∧
          (f.isMx = false → rowBytes f x.vl ≤ pitch → ∀ r < 32, ∀ i < rowBytes f x.vl,
            s'.mem.read (vatAddr t (a + r * pitch + i)) = (tstRow s t w x a pitch r).1.getD i 0) ∧
          (∀ b, (∀ r < 32, ∀ i < rowBytes f x.vl, b ≠ vatAddr t (a + r * pitch + i)) →
            (∀ r < 32, ∀ k < rowScales f x.vl, b ≠ vatAddr t (scaleAt f w.ext.toNat pitch r k)) →
            s'.mem.read b = s.mem.read b)))

/-- The element-wise inflection instructions write f of their sources into lanes below VL and leave everything else
(R77, R96, R97, R104, R162, R163, R164, R165, R166, R167, R168, R171). -/
def Obligations.InflectionArithmeticCompletes : Prop :=
  let law (c : Tile → IWord → Instr) (u : IWord → IUse) (src : IWord → List Nat) (ok : IWord → TileState → Prop)
      (f : State → Tile → IWord → TileState → Nat → Nat → W32) : Prop :=
    ∀ (t : Tile) (w : IWord) (s : State), s.issuable t [] → w.legal (u w) = true →
      let x := s.tile t
      let tags := tagT w.dt :: src w
      ((∃ k ∈ tagGrant :: tags, s.tagBusy t k = true) ∨ 16 ≤ x.infl.length → exec (c t w) s = .next s) ∧
      (s.issuable t tags → x.infl.length < 16 → ok w x → s.sectionless t → exec (c t w) s = .next (s.raise t 5 0)) ∧
      (s.issuable t tags → x.infl.length < 16 → ok w x → s.granted t →
        ∃ s', exec (c t w) s = .next s' ∧ s.onlyTile s' t [.seqPc t, .scoreboard t, .inflRows t] ∧
          s'.tagBusy t (tagT w.dt) = true ∧ s'.pc t = (s.advance t (s.pc t + 8)).pc t ∧
          (∀ r < 32, ∀ i < 128, gridAt ((s'.tile t).readT w.dt) r i =
            if i < x.vl then f s t w x r i else gridAt (x.readT w.dt) r i) ∧
          (∀ k, k ≠ w.dt → (s'.tile t).readT k = x.readT k) ∧ (s'.tile t).s = x.s ∧ (s'.tile t).a = x.a ∧
          (s'.tile t).p = x.p ∧ (s'.tile t).acc = x.acc ∧ (s'.tile t).vl = x.vl)
  let any : IWord → TileState → Prop := fun _ _ => True
  let cvtUse (w : IWord) : IUse := { td := true, ta := true, rm := if w.fmt = 12 then [0, 1] else [0, 1, 2], satc := true,
                                     sr := true, opx := 1, fmt := [1, 2, 3, 4, 5, 6, 7, 8, 9, 10, 11, 12] }
  let a (x : TileState) (w : IWord) (r i : Nat) : W32 := gridAt (x.readT w.at) r i
  let b (x : TileState) (w : IWord) (r i : Nat) : W32 := gridAt (x.readT w.bt) r i
  let c (x : TileState) (w : IWord) (r i : Nat) : W32 := gridAt (x.readT w.ct) r i
  let two : IWord → List Nat := fun w => [tagT w.at, tagT w.bt]
  let one : IWord → List Nat := fun w => [tagT w.at]
  let bin (cmd : Tile → IWord → Instr) (ff : Rm → W32 → W32 → W32 × Flags) (fi : W32 → W32 → W32) : Prop :=
    law cmd (fun w => { td := true, ta := true, tb := true, fmt := [0, 12], rm := if w.fmt = 12 then [0] else [0, 1] }) two
      any (fun _ _ w x r i => if w.fmt = 12 then fi (a x w r i) (b x w r i) else (ff w.rmode (a x w r i) (b x w r i)).1)
  let mm (cmd : Tile → IWord → Instr) (big : Bool) (fi : W32 → W32 → W32) : Prop :=
    law cmd (fun _ => { td := true, ta := true, tb := true, fmt := [0, 12] }) two any
      (fun _ _ w x r i => if w.fmt = 12 then fi (a x w r i) (b x w r i) else (f32MinMax big (a x w r i) (b x w r i)).1)
  let un (cmd : Tile → IWord → Instr) (ff fi : W32 → W32) : Prop :=
    law cmd (fun _ => { td := true, ta := true, fmt := [0, 12] }) one any
      (fun _ _ w x r i =>
        if w.fmt = 12 then fi (a x w r i)
        else if (ofF32 (a x w r i)).isNaN then 0x7FC00000 else ff (a x w r i))
  let fn (cmd : Tile → IWord → Instr) (f : Rm → W32 → W32 × Flags) : Prop :=
    law cmd (fun _ => { td := true, ta := true, rm := [0, 1] }) one any (fun _ _ w x r i => (f w.rmode (a x w r i)).1)
  bin .inflAdd f32Add (· + ·) ∧ bin .inflSub f32Sub (· - ·) ∧ bin .inflMul f32Mul (· * ·) ∧
  law .fma (fun w => { td := true, ta := true, tb := true, tc := true, fmt := [0, 12],
                       rm := if w.fmt = 12 then [0] else [0, 1] }) (fun w => [tagT w.at, tagT w.bt, tagT w.ct]) any
    (fun _ _ w x r i => if w.fmt = 12 then a x w r i * b x w r i + c x w r i
      else (f32Fma w.rmode (a x w r i) (b x w r i) (c x w r i)).1) ∧
  mm .inflMin false (fun p q => if p.slt q then p else q) ∧ mm .inflMax true (fun p q => if p.slt q then q else p) ∧
  un .abs (fun p => p &&& 0x7FFFFFFF) (fun p => if p.msb then -p else p) ∧ un .neg (fun p => p ^^^ 0x80000000) (fun p => -p) ∧
  law .sel (fun _ => { td := true, ta := true, tb := true, pg := true, ax := true })
    (fun w => [tagT w.at, tagT w.bt, tagP w.gp]) any
    (fun _ _ w x r i => if (x.readP w.gp).getLsbD (if w.ax then r else i) then a x w r i else b x w r i) ∧
  law .bcast (fun _ => { td := true, sr := true, fmt := [0, 1, 2, 3, 4, 10, 11, 12] }) (fun _ => []) any
    (fun _ _ w x _ _ => (widen w.format ((x.readS w.sr.toFin).toNat % 2 ^ w.format.width)).1) ∧
  law .tmov (fun _ => { td := true, ta := true }) one any (fun _ _ w x r i => a x w r i) ∧
  law .scale (fun _ => { td := true, ta := true, sr := true, rm := [0, 1] }) one any
    (fun _ _ w x r i => (toF32 w.rmode ((ofF32 (a x w r i)).scale
      (max (-1000) (min 1000 (x.readS w.sr.toFin).toInt)))).1) ∧
  fn .exp2 (fun _ => fExp2) ∧ fn .log2 (fun _ => fLog2) ∧ fn .rcp (fun _ => fRcp) ∧ fn .rsqrt (fun _ => fRsqrt) ∧
  fn .sqrt f32Sqrt ∧ fn .tanh (fun _ => fTanh) ∧ fn .sigm (fun _ => fSigm) ∧
  law .div (fun _ => { td := true, ta := true, tb := true, rm := [0, 1] }) two any
    (fun _ _ w x r i => (f32Div w.rmode (a x w r i) (b x w r i)).1) ∧
  law .cvt cvtUse one (fun w x => vlExc w x = none)
    (fun s t w x r i =>
      if w.format.isMx then
        let blk := cvtBlock s t w (x.readT w.at) r (i / 32)
        (toF32 .rne (mxValue w.format.elem blk.1 (blk.2.1.getD (i % 32) 0))).1
      else (cvtElement s t w (a x w r i) r i).1) ∧
  (∀ (t : Tile) (w : IWord) (s : State), s.issuable t [tagT w.dt, tagT w.at] → s.tagBusy t tagGrant = false →
    (s.tile t).infl.length < 16 → w.legal (cvtUse w) = true → ∀ e, vlExc w (s.tile t) = some e →
      exec (.cvt t w) s = .next (s.raise t e.1 e.2) ∧ e = (3, BitVec.ofNat 64 (s.tile t).vl))

/-- cmp, plog, pgen and pcnt work on predicates, and red, perm, elide and restore rearrange or reduce a register
(R175). -/
def Obligations.PredicateAndRearrangingInstructionsComplete : Prop :=
  let law (c : Tile → IWord → Instr) (lg : IWord → Prop) (tags : IWord → List Nat) (ok : IWord → State → Tile → Prop)
      (rg : Tile → List Reg) (p' : IWord → Fin 8 → Prop) (s' : IWord → Fin 32 → Prop) (t' : IWord → Fin 8 → Prop)
      (post : Tile → IWord → TileState → State → Prop) : Prop :=
    ∀ (t : Tile) (w : IWord) (s : State), s.issuable t [] → lg w →
      let x := s.tile t
      ((∃ k ∈ tagGrant :: tags w, s.tagBusy t k = true) ∨ 16 ≤ x.infl.length → exec (c t w) s = .next s) ∧
      (s.issuable t (tags w) → x.infl.length < 16 → s.sectionless t → exec (c t w) s = .next (s.raise t 5 0)) ∧
      (s.issuable t (tags w) → x.infl.length < 16 → s.granted t → ok w s t →
        ∃ u, exec (c t w) s = .next u ∧ s.onlyTile u t (.seqPc t :: .scoreboard t :: rg t) ∧
          u.pc t = (s.advance t (s.pc t + 8)).pc t ∧ (∀ k, ¬ p' w k → (u.tile t).readP k = x.readP k) ∧
          (∀ k, ¬ s' w k → (u.tile t).readS k = x.readS k) ∧ (∀ k, ¬ t' w k → (u.tile t).readT k = x.readT k) ∧
          (u.tile t).a = x.a ∧ (u.tile t).acc = x.acc ∧ (u.tile t).vl = x.vl ∧ post t w x u)
  let pred (c : Tile → IWord → Instr) (lg : IWord → Prop) (tags : IWord → List Nat) (bit : IWord → TileState → Nat → Bool) :=
    law c lg tags (fun _ _ _ => True) (fun _ => []) (fun w k => k = w.dt) (fun _ _ => False) (fun _ _ => False) (fun t w x u =>
      w.dt ≠ 0 → u.tagBusy t (tagP w.dt) = true ∧ ∀ k < 128, ((u.tile t).readP w.dt).getLsbD k = bit w x k)
  let elems (c : Tile → IWord → Instr) (lg : IWord → Prop) (tags : IWord → List Nat) (ok : IWord → State → Tile → Prop)
      (rg : Tile → List Reg) (s' : IWord → Fin 32 → Prop) (f : IWord → TileState → Nat → Nat → W32) :=
    law c lg tags ok (fun t => .inflRows t :: rg t) (fun _ _ => False) s' (fun w k => k = w.dt) (fun t w x u =>
      u.tagBusy t (tagT w.dt) = true ∧ ∀ r < 32, ∀ i < 128,
        gridAt ((u.tile t).readT w.dt) r i = if i < x.vl then f w x r i else gridAt (x.readT w.dt) r i)
  let src (w : IWord) (x : TileState) (r i : Nat) : W32 := gridAt (x.readT w.at) r i
  let idx (w : IWord) (x : TileState) (r i : Nat) : Nat := (gridAt (x.readT w.bt) r i).toNat
  pred .cmp (fun w => w.legal { td := true, ta := true, tb := true, opx := 0x1F001F } = true ∧
      ¬ (w.opx.getLsbD 3 = true ∧ w.opx.toNat / 2 ^ 16 ≠ 0)) (fun w => [tagP w.dt, tagT w.at, tagT w.bt])
    (fun w x k =>
      let col := w.opx.getLsbD 3
      let cond (p q : W32) : Bool := (cmpCond (w.opx.getLsbD 4) (w.opx.toNat % 8) p q).1
      if k < (if col then 32 else x.vl) then
        if col then cond (gridAt (x.readT w.at) k 0) (gridAt (x.readT w.bt) k 0)
        else cond (gridAt (x.readT w.at) (w.opx.toNat / 2 ^ 16) k) (gridAt (x.readT w.bt) (w.opx.toNat / 2 ^ 16) k)
      else (x.readP w.dt).getLsbD k) ∧
  pred .plog (fun w => w.legal { td := true, ta := true, tb := true, opx := 3 } = true)
    (fun w => [tagP w.dt, tagP w.at, tagP w.bt])
    (fun w x k =>
      if k < x.vl then
        let p := (x.readP w.at).getLsbD k
        let q := (x.readP w.bt).getLsbD k
        (match w.opx.toNat % 4 with | 0 => p && q | 1 => p || q | 2 => xor p q | _ => p && !q)
      else (x.readP w.dt).getLsbD k) ∧
  pred .pgen (fun w => w.legal { td := true, sr := true } = true) (fun w => [tagP w.dt])
    (fun w x k => decide (k < min (x.readS w.sr.toFin).toNat 128)) ∧
  law .pcnt (fun w => w.legal { ta := true, sr := true } = true) (fun w => [tagP w.at]) (fun _ _ _ => True)
    (fun _ => []) (fun _ _ => False) (fun w k => k = w.sr.toFin) (fun _ _ => False) (fun t w x u =>
      w.sr ≠ 0 → (u.tile t).readS w.sr.toFin = BitVec.ofNat 64 ((List.range 128).countP (fun k => (x.readP w.at).getLsbD k))) ∧
  elems .red (fun w => w.legal { td := true, ta := true, ax := true, opx := 0x70F } = true ∧ w.opx.toNat % 8 ≠ 7)
    (fun w => [tagT w.dt, tagT w.at, tagP (Fin.ofNat 8 (w.opx.toNat / 2 ^ 8))]) (fun _ _ _ => True) (fun t => [.inflEmpty t])
    (fun _ _ => False)
    (fun w x r i =>
      let v (k : Nat) : W32 := ((redSet w x k).1).getD (redIdentity (w.opx.getLsbD 3) (w.opx.toNat % 8))
      if w.ax then (if r = 0 then v i else 0) else (if i = 0 then v r else 0)) ∧
  elems .perm (fun w => w.legal { td := true, ta := true, tb := true } = true) (fun w => [tagT w.dt, tagT w.at, tagT w.bt])
    (fun w s t => firstOutOfRange (s.tile t) w.bt = none ∨ s.flag (.strict t) Fld.strictLane = false)
    (fun t => [.laneRangeLast t]) (fun _ _ => False)
    (fun w x r i => if idx w x r i < x.vl then src w x r (idx w x r i) else 0) ∧
  (∀ (t : Tile) (w : IWord) (s : State) (r i : Nat), s.issuable t [tagT w.dt, tagT w.at, tagT w.bt] → s.granted t →
    (s.tile t).infl.length < 16 → w.legal { td := true, ta := true, tb := true } = true →
    firstOutOfRange (s.tile t) w.bt = some (r, i) → s.flag (.strict t) Fld.strictLane = true →
      exec (.perm t w) s = .next (s.raise t 9 (BitVec.ofNat 64 (r + i * 256)))) ∧
  elems .elide (fun w => w.legal { td := true, ta := true, pg := true, ax := true, sr := true } = true)
    (fun w => [tagT w.dt, tagT w.at, tagP w.gp]) (fun _ _ _ => True) (fun _ => []) (fun w k => k = w.sr.toFin)
    (fun w x r i => match (activeList w x)[if w.ax then r else i]? with
      | some k => if w.ax then src w x k i else src w x r k
      | none => 0) ∧
  (∀ (t : Tile) (w : IWord) (s s' : State), s.issuable t [tagT w.dt, tagT w.at, tagP w.gp] → s.granted t →
    (s.tile t).infl.length < 16 → w.legal { td := true, ta := true, pg := true, ax := true, sr := true } = true → w.sr ≠ 0 →
    exec (.elide t w) s = .next s' →
      (s'.tile t).readS w.sr.toFin = BitVec.ofNat 64 (activeList w (s.tile t)).length) ∧
  elems .restore (fun w => w.legal { td := true, ta := true, pg := true, ax := true } = true)
    (fun w => [tagT w.dt, tagT w.at, tagP w.gp]) (fun _ _ _ => True) (fun _ => []) (fun _ _ => False)
    (fun w x r i =>
      let act := activeList w x
      if act.contains (if w.ax then r else i) then
        (if w.ax then src w x (act.idxOf r) i else src w x r (act.idxOf i))
      else gridAt (x.readT w.dt) r i) ∧
  ∀ (x : TileState) (v : BitVec 128), x.writeP 0 v = x ∧ x.readP 0 = BitVec.allOnes 128

/-- INFLECTION_COMPLETE sets the flags of the oldest operation under a tag and clears the tag that it held (R57, R76,
R159). -/
def Obligations.InflectionCompletionClearsTheTag : Prop :=
  ∀ (t : Tile) (tag : Fin 64) (s : State) (pre post : List InflOp) (o : InflOp), s.clocksStopped = false →
    (s.tile t).infl = pre ++ o :: post → o.tag = tag.val → (∀ p ∈ pre, p.tag ≠ tag.val) →
      ∃ s', exec (.inflectionComplete t tag) s = .next s' ∧ (s'.tile t).infl = pre ++ post ∧
        s'.reg (.numStatus t) = s.reg (.numStatus t) ||| o.flags.setWidth 64 ∧ s'.tagBusy t tag.val = (s.tagBusy t tag.val && !o.holds) ∧
        s'.mem = s.mem ∧ (s'.tile t).t = (s.tile t).t ∧
        (∀ r, r ≠ .numStatus t → r ≠ .scoreboard t → s'.reg r = s.reg r)

/-- sbwait, twait, barr, egrant, eend, fence and tfence complete, wait or raise as R100 to R106 say (R101). -/
def Obligations.SynchronizationInstructionsComplete : Prop :=
  ∀ (t : Tile) (w : RWord) (s : State), s.issuable t [] →
    let x := s.tile t
    let on (s' : State) : Host.Outcome State Fault Refusal := .next (s'.advance t (s.pc t + if w.x then 16 else 8))
    (w.legal { ext := .required } = true →
      (s.reg (.scoreboard t) &&& w.ext = 0 → s.reg (.tagError t) &&& w.ext = 0 → exec (.sbwait t w) s = on s) ∧
      (s.reg (.scoreboard t) &&& w.ext ≠ 0 → exec (.sbwait t w) s = .next s) ∧
      (∀ k, s.reg (.scoreboard t) &&& w.ext = 0 → lowestTag (s.reg (.tagError t) &&& w.ext) = some k →
        exec (.sbwait t w) s = .next ((s.raise t (markCause s t k).1 (markCause s t k).2).clearMark t k) ∧
        (markCause s t k).1 = if k < 56 then 6 else if k < 60 then 7 else 0x0C)) ∧
    (w.legal { d := true, a := true } = true →
      let v := (x.readS w.sa).toNat
      (s.tenseLocked = true → v ≤ s.tenseNow →
        exec (.twait t w) s = on (s.updTile t (fun y => y.writeS w.sd (BitVec.ofNat 64 (s.tenseNow - v))))) ∧
      (s.tenseLocked = true → s.tenseNow < v → exec (.twait t w) s = .next s) ∧
      (s.tenseLocked = false → exec (.twait t w) s = .next (s.raise t 8 (BitVec.ofNat 64 s.tenseNow)))) ∧
    (w.legal { imm := 0x3F } = true → s.tagBusy t tagBarrier = false →
      let g : Coll := Fin.ofNat 64 w.imm.toNat
      ((s.collRuns g && s.inTileSet g t) = true → (s.group g).exchange = false →
        ∃ s', exec (.barr t w) s = .next s' ∧ s'.tagBusy t tagBarrier = true ∧ (s'.tile t).barrierGroup = g.val ∧
          (s'.group g).tilesNow = (s.group g).tilesNow ++ [t]) ∧
      ((s.collRuns g && s.inTileSet g t) = true → (s.group g).exchange = true →
        ∃ s', exec (.barr t w) s = .next s' ∧ s'.tagBusy t tagBarrier = true ∧
          (s'.group g).tilesNext = (s.group g).tilesNext ++ [t]) ∧
      ((s.collRuns g && s.inTileSet g t) = false → exec (.barr t w) s = .next (s.raise t 3 (w.word 5 2)))) ∧
    (w.legal { a := true, b := true } = true →
      let a := x.readS w.sa
      let b := x.readS w.sb
      (a.toNat < 2 ^ 40 - 1 → b.toNat < 2 ^ 40 - 1 →
        ∃ s', exec (.egrant t w) s = .next s' ∧ s'.tagBusy t tagGrant = true ∧
          ∃ c, (s'.tile t).energySection = some c ∧ c.reqNJ = a.toNat ∧ c.durNs = b.toNat ∧ c.fraction = none) ∧
      (2 ^ 40 - 1 ≤ a.toNat → b.toNat < 2 ^ 40 - 1 → exec (.egrant t w) s = .next (s.raise t 3 a)) ∧
      (a.toNat < 2 ^ 40 - 1 → 2 ^ 40 - 1 ≤ b.toNat → exec (.egrant t w) s = .next (s.raise t 3 b)) ∧
      (2 ^ 40 - 1 ≤ a.toNat → 2 ^ 40 - 1 ≤ b.toNat →
        exec (.egrant t w) s = .next (s.raise t 3 (if w.sa.val ≤ w.sb.val then a else b)))) ∧
    (w.legal {} = true →
      ∃ s', exec (.eend t w) s = .next s' ∧ (s'.tile t).energySection = none ∧ s'.mem = s.mem) ∧
    (w.legal { m := 3 } = true →
      (s.writesPending t (w.m.toNat % 4) = false → exec (.fence t w) s = on s) ∧
      (s.writesPending t (w.m.toNat % 4) = true → exec (.fence t w) s = .next s) ∧
      (s.tenseLocked = true → s.writesUnsent t = false → x.lastDepart + s.boundNs (w.m.toNat % 4) ≤ s.tenseNow →
        exec (.tfence t w) s = on s) ∧
      (s.tenseLocked = true → s.writesUnsent t = true ∨ s.tenseNow < x.lastDepart + s.boundNs (w.m.toNat % 4) →
        exec (.tfence t w) s = .next s) ∧
      (s.tenseLocked = false → exec (.tfence t w) s = .next (s.raise t 8 (BitVec.ofNat 64 s.tenseNow))))

/-- post copies 128 bytes of the vat to the end of its group's queue under a busy POST tag, with a grant (R75, R77,
R104, R107, R108). -/
def Obligations.PostQueuesAnEntry : Prop :=
  ∀ (t : Tile) (w : RWord) (s : State),
    let g : Coll := Fin.ofNat 64 w.imm.toNat
    let tag : Fin 4 := Fin.ofNat 4 (w.imm.toNat / 256)
    let off := (s.tile t).readA w.aa
    (s.issuable t [] → w.legal { a := true, aA := true, imm := 0x33F } = true →
      s.tagBusy t tagGrant = true ∨ s.tagBusy t (tagPost tag) = true → exec (.post t w) s = .next s) ∧
    (s.issuable t [tagPost tag] → s.sectionless t → w.legal { a := true, aA := true, imm := 0x33F } = true →
      s.collState g ≠ 0 → off.toNat % 64 = 0 → off.toNat < 0x400000 → (s.group g).queue.length < 16 →
        exec (.post t w) s = .next (s.raise t 5 0)) ∧
    (s.issuable t [tagPost tag] → s.granted t → s.marks = [] → w.legal { a := true, aA := true, imm := 0x33F } = true →
      (s.collState g = 0 → exec (.post t w) s = .next (s.raise t 3 (w.word 6 0))) ∧
      (s.collState g ≠ 0 → off.toNat % 64 ≠ 0 ∨ 0x400000 ≤ off.toNat → exec (.post t w) s = .next (s.raise t 4 off)) ∧
      (s.collState g ≠ 0 → off.toNat % 64 = 0 → off.toNat < 0x400000 →
        (16 ≤ (s.group g).queue.length → exec (.post t w) s = .next s) ∧
        ((s.group g).queue.length < 16 →
          ∃ s' e, exec (.post t w) s = .next s' ∧ (s'.group g).queue = (s.group g).queue ++ [e] ∧ e.tile = t ∧ e.post = tag ∧
            e.words = (List.range 16).map (fun k => BitVec.ofNat 64 (s.vatReadLe t (off.toNat + 8 * k) 8)) ∧
            s'.tagBusy t (tagPost tag) = true ∧ s'.mem = s.mem)))

/-- A halt completes once the tile is quiet, STOP asks for one, and START resumes a tile that halted with kind 1 to 3
(R81, R113, R114, R115, R117, R119). -/
def Obligations.TilesHaltAndResume : Prop :=
  (∀ (t : Tile) (s : State),
    ((s.tile t).halting = none ∨ (s.tile t).quiet = false → exec (.tileHalt t) s = .next s) ∧
    (∀ h : Halting, (s.tile t).halting = some h → (s.tile t).quiet = true → 1 ≤ h.kind → h.kind ≤ 4 →
      ∃ s', exec (.tileHalt t) s = .next s' ∧ s'.flag (.seqCtl t) Fld.seqCtlRun = false ∧
        s'.fld (.seqCtl t) Fld.seqCtlHaltKind = h.kind ∧ (s'.tile t).halting = none ∧ (s'.tile t).energySection = none ∧
        s'.reg (.haltCode t) = (if h.kind = 1 then h.code.setWidth 64 else s.reg (.haltCode t)) ∧ s'.pc t = s.pc t)) ∧
  (∀ (src : Src) (t : Tile) (s : State), s.mgmt.powered = true → s.answers (Reg.seqCtl t).addr = true → s.mgmt.takeover = none →
    s.regDown (Reg.seqCtl t).addr (.seqCtl t) = false → s.devMode ≠ 3 →
      (s.flag (.seqCtl t) Fld.seqCtlRun = true →
        ((s.tile t).halting = none →
          ∃ s', exec (.seqCtlStop src t) s = .next s' ∧ (s'.tile t).halting = some ⟨3, 0, 0, s.pc t, 0⟩) ∧
        (∀ h, (s.tile t).halting = some h → h.kind = 1 →
          ∃ s', exec (.seqCtlStop src t) s = .next s' ∧ (s'.tile t).halting = some ⟨3, 0, 0, h.pc, 0⟩)) ∧
      (s.flag (.seqCtl t) Fld.seqCtlRun = false → s.heeds src (Reg.seqCtl t).addr 2 →
        let k := s.fld (.seqCtl t) Fld.seqCtlHaltKind
        (1 ≤ k → k ≤ 3 → (s.tile t).dispatching = 0 →
          ∃ s', exec (.seqCtlStart src t) s = .next s' ∧ s'.flag (.seqCtl t) Fld.seqCtlRun = true ∧ s'.pc t = s.pc t ∧
            s'.tile t = s.tile t ∧ s'.mem = s.mem) ∧
        (k = 0 ∨ 4 ≤ k ∨ 0 < (s.tile t).dispatching →
          ∃ s', exec (.seqCtlStart src t) s = .next s' ∧ s'.flag (.seqCtl t) Fld.seqCtlRun = false ∧
            s'.fld .faultRingTail Fld.faultRingTailIndex = (s.fld .faultRingTail Fld.faultRingTailIndex + 1) % 2 ^ 64)) ∧
      (s.flag (.seqCtl t) Fld.seqCtlRun = true → s.heeds src (Reg.seqCtl t).addr 2 →
        ∃ s', exec (.seqCtlStart src t) s = .next s' ∧ s'.flag (.seqCtl t) Fld.seqCtlRun = true ∧ s'.tile t = s.tile t ∧
          s'.fld .faultRingTail Fld.faultRingTailIndex = (s.fld .faultRingTail Fld.faultRingTailIndex
            + (if s.fld (.seqCtl t) Fld.seqCtlHaltKind < 1 ∨ 3 < s.fld (.seqCtl t) Fld.seqCtlHaltKind ∨
                  0 < (s.tile t).dispatching then 1 else 0)) % 2 ^ 64))

/-- POWER_ON starts the AON island, BRINGUP without a finding leaves the device READY, LOSS_OF_POWER leaves fuses and
flash alone (R475, R476, R477, R481, R490, R549, R550). -/
def Obligations.PowerAndBringupComplete : Prop :=
  (∀ s : State, s.mgmt.powered = false →
    ∃ s', exec .powerOn s = .next s' ∧ s'.mgmt.powered = true ∧ s'.energy.rails = [30, 31] ∧ s'.devState = 0 ∧
      s'.fld .devStatus Fld.devStatusStep = 1 ∧ s'.fld .devStatus Fld.devStatusReason = 1 ∧ s'.mem = s.mem) ∧
  (∀ (s : State) (b : Boot), s.devState = 0 → s.mgmt.powered = true → s.clocksStopped = false → s.pinReset = false →
    (∀ side q, s.mgmt.boots = some (side, q) → b.railFail = none → (∀ f, b.folioRev.get f = b.folioRev.get 0) →
      (∀ n, b.deckleRev.get n = b.deckleRev.get 0) → (∀ m, b.baseRev.get m = b.baseRev.get 0) →
      q.sets.contains (b.folioRev.get 0, b.deckleRev.get 0, b.baseRev.get 0) = true →
      b.feltFail = false → b.reamFail = false →
      ∃ s', exec (.bringup b) s = .next s' ∧ s'.devState = 1 ∧ s'.fld .devStatus Fld.devStatusStep = 11 ∧
        s'.fld .devStatus Fld.devStatusReason = 0 ∧ s'.devMode = 1 ∧ s'.reg .bootTime = b.ms.setWidth 64 ∧
        s'.host.memActive = true ∧ s'.mgmt.booted = s.mgmt.boots ∧ ∀ r : Fin 32, r ∈ s'.energy.rails) ∧
    (s.mgmt.boots = none →
      ∃ s', exec (.bringup b) s = .next s' ∧ s'.devState = 2 ∧ s'.fld .devStatus Fld.devStatusStep = 2 ∧
        s'.fld .devStatus Fld.devStatusReason = 4 ∧ s'.devMode = 3) ∧
    (∀ r, s.mgmt.boots.isSome = true → b.railFail = some r →
      ∃ s', exec (.bringup b) s = .next s' ∧ s'.devState = 2 ∧ s'.fld .devStatus Fld.devStatusStep = 3 ∧
        s'.fld .devStatus Fld.devStatusReason = 6 ∧
        ∀ k, (⟨r.val, by omega⟩ : Fin 32) ∈ railSteps.getD k [] →
          ∀ x, x ∈ s'.energy.rails ↔ (∃ j ≤ k, x ∈ railSteps.getD j []) ∧ x.val ≠ r.val) ∧
    (∀ side q, s.mgmt.boots = some (side, q) → b.railFail = none →
      ((∃ f, b.folioRev.get f ≠ b.folioRev.get 0) ∨ (∃ n, b.deckleRev.get n ≠ b.deckleRev.get 0) ∨
        (∃ m, b.baseRev.get m ≠ b.baseRev.get 0) ∨
        q.sets.contains (b.folioRev.get 0, b.deckleRev.get 0, b.baseRev.get 0) = false) →
      ∃ s', exec (.bringup b) s = .next s' ∧ s'.devState = 2 ∧ s'.fld .devStatus Fld.devStatusStep = 4 ∧
        s'.fld .devStatus Fld.devStatusReason = 5)) ∧
  (∀ (s : State) (b : Boot), s.pinReset = true → exec (.bringup b) s = .next s) ∧
  (∀ s : State, ∃ s', exec .lossOfPower s = .next s' ∧ s'.mgmt.powered = false ∧ s'.mgmt.fuses = s.mgmt.fuses ∧
    s'.mgmt.flash = s.mgmt.flash ∧ s'.energy.rails = [] ∧ s'.tiles = [] ∧ s'.groups = [] ∧
    (∀ r, s'.reg r = r.resetValue) ∧ s'.out = s.out ++ (railsDown s.energy.rails).map Output.railsOff)

/-- A whole-device reset returns everything but the AON registers, the fuses and the flash, and memory contents are
unknown (R442, R475, R490, R492, R495, R502). -/
def Obligations.WholeDeviceResetsComplete : Prop :=
  let after (s s' : State) (state reason : Nat) : Prop :=
    s'.devState = state ∧ s'.fld .devStatus Fld.devStatusStep = 1 ∧ s'.fld .devStatus Fld.devStatusReason = reason ∧
    (∀ r, aonReg r = true → s'.reg r = s.reg r) ∧
    (∀ r, aonReg r = false → r ∉ [Reg.devStatus, .coolantStatus, .debugStatus] → s'.reg r = r.resetValue) ∧
    s'.tiles = [] ∧ s'.caches = [] ∧ s'.groups = [] ∧ s'.net = Net.reset ∧ s'.host = HostSide.reset ∧
    s'.mgmt.fuses = s.mgmt.fuses ∧ s'.mgmt.flash = s.mgmt.flash ∧ s'.mgmt.perst = s.mgmt.perst ∧
    s'.mem = ⟨s.mem.epoch + 1, []⟩ ∧ s'.downDies = [] ∧ s'.clocksStopped = false
  ∀ s : State, s.mgmt.powered = true → s.mgmt.unlogged = false →
    (s.mgmt.tripped = false →
      (s.mgmt.resetLow = none → exec .devResetN s = .next (s.updMgmt (fun m => { m with resetLow := some s.now }))) ∧
      (∀ t, s.mgmt.resetLow = some t →
        let up := s.updMgmt (fun m => { m with resetLow := none })
        (s.now < t + 1000 ∨ t + 10000 ≤ s.now → exec .devResetN s = .next up) ∧
        (t + 1000 ≤ s.now → s.now < t + 10000 →
          ∃ s', exec .devResetN s = .next s' ∧ (s' = up.draw ∨ (after s s' 0 9 ∧ s'.mgmt.resetLow = none))) ∧
        (t + 10000 = s.now + 1 → s.pending = [] →
          ∃ s', step s = .next s' ∧ after s s' 0 9 ∧ s'.mgmt.resetLow = some t ∧ s'.mgmt.takeover = s.mgmt.takeover)) ∧
      (s.mgmt.takeover = none → ∀ src,
        (∃ s', exec (.devResetWhole src) s = .next s' ∧ after s s' 0 9) ∧
        (∃ s', exec (.devResetProceed src) s = .next s' ∧ after s s' 0 9))) ∧
    (∃ s', exec .dualWatchdog s = .next s' ∧ after s s' 0 8 ∧ s'.mgmt.takeover = none) ∧
    (∀ t, s.energy.coolSince = some t → s.mgmt.tripped = true → t + 1000000000 ≤ s.now →
      ∃ s', exec .tripRestart s = .next s' ∧ after s s' 2 2)

/-- FOLIO_RESET, DECKLE_RESET and TILE_RESET take their domains into reset, RESET_DONE brings them out, and the rest
stays (R489, R490, R491, R492, R503). -/
def Obligations.DomainResetsComplete : Prop :=
  (∀ (s : State) (src : Src), s.reaches .devReset → s.devState = 1 → s.mgmt.tripped = false →
    (∀ fs : BitVec 8, fs ≠ 0 → (∀ f : Folio, fs.getLsbD f.val = true → folioDie f ∉ s.downDies) →
      ∃ s', exec (.folioReset src fs) s = .next s' ∧
        (∀ f : Folio, fs.getLsbD f.val = true → folioDie f ∈ s'.downDies ∧ s'.flag (.folioStatus f) Fld.folioStatusInReset = true ∧
          ∀ t, tileFolio t = f → (s'.tile t).inReset = true ∧ s'.flag (.seqCtl t) Fld.seqCtlRun = false) ∧
        (∀ t, fs.getLsbD (tileFolio t).val = false → (s'.tile t).s = (s.tile t).s ∧ (s'.tile t).inReset = (s.tile t).inReset)) ∧
    (∀ n : Deckle, deckleDie n ∉ s.downDies →
      ∃ s', exec (.deckleReset src (1#2 <<< n.val)) s = .next s' ∧ deckleDie n ∈ s'.downDies ∧
        (∀ g, s.collRuns g = true → s'.collState g = 4 ∧ s'.fld (.collStatus g) Fld.collStatusReason = 8)) ∧
    (∀ t : Tile, (s.tile t).inReset = false →
      ∃ s', exec (.tileReset src (BitVec.ofNat 8 t.val)) s = .next s' ∧ (s'.tile t).inReset = true ∧
        s'.flag (.seqCtl t) Fld.seqCtlRun = false ∧ ∀ u, u ≠ t → s'.tile u = s.tile u) ∧
    (∃ s', exec (.deckleReset src 3) s = .next s' ∧ s'.downDies = s.downDies ∧ s'.tiles = s.tiles ∧ s'.groups = s.groups ∧
      s'.reg .faultRingTail = BitVec.ofNat 64 (s.fld .faultRingTail Fld.faultRingTailIndex + 1))) ∧
  (∀ s : State, s.clocksStopped = false →
    (∀ f : Folio, folioDie f ∈ s.downDies →
      ∃ s', exec (.resetDone (.folio f)) s = .next s' ∧ folioDie f ∉ s'.downDies ∧
        s'.flag (.folioStatus f) Fld.folioStatusInReset = false ∧ ∀ t, tileFolio t = f → s'.tile t = TileState.reset) ∧
    (∀ n : Deckle, deckleDie n ∈ s.downDies →
      ∃ s', exec (.resetDone (.deckle n)) s = .next s' ∧ deckleDie n ∉ s'.downDies) ∧
    (∀ t : Tile, (s.tile t).inReset = true → folioDie (tileFolio t) ∉ s.downDies →
      ∃ s', exec (.resetDone (.tile t)) s = .next s' ∧ (s'.tile t).inReset = false))

/-- CXL_RESET returns the host-attach registers and discards launches and their queues, PERST_N_RELEASE brings the
link up (R449, R459, R460, R470, R477, R490). -/
def Obligations.HostLinkResetsComplete : Prop :=
  (∀ (s : State) (perst : Bool),
    ∃ s', exec (.cxlReset perst) s = .next s' ∧ (∀ r, hostReg r = true → s'.reg r = r.resetValue) ∧
      s'.host.launches = [] ∧ (∀ f, s'.launchQueue f = [] ∧ s'.fld (.folioStatus f) Fld.folioStatusLaunchDepth = 0) ∧
      s'.host.memActive = false ∧ s'.host.linkUp = (s.host.linkUp && !perst) ∧ s'.mgmt.perst = (s.mgmt.perst || perst) ∧
      (s.host.launches = [] → s.net.events = [] →
        (∀ r, hostReg r = false → (∀ f, r ≠ .folioStatus f) → s'.reg r = s.reg r) ∧
        s'.mem = s.mem ∧ s'.tiles = s.tiles ∧ s'.net = s.net) ∧
      (∀ l, s.host.launches = [l] → l.kind ≠ 0 → l.checked = false → l.status = 0 →
        let r := { l with status := 9 }
        let t := s.completeEntry r
        (s.hqLocal l.hq = true → t.net.events = [] → s'.mem = t.mem) ∧
        (s.hqLocal l.hq = false → perst = false → s.host.linkUp = true → s.net.events = [] →
          .hostWrite (s.cplAddr r) (s.launchRecord r) ∈ s'.out))) ∧
  (∀ s : State,
    (s.energy.rails.contains 28 = true →
      ∃ s', exec .perstNRelease s = .next s' ∧ s'.host.linkUp = true ∧ s'.mgmt.perst = false ∧
        s'.host.memActive = decide (s.devState = 1) ∧ s'.regs = s.regs) ∧
    (s.energy.rails.contains 28 = false →
      ∃ s', exec .perstNRelease s = .next s' ∧ s'.host = s.host ∧ s'.mgmt.perst = false ∧ s'.regs = s.regs))

/-- MODE_CTL moves between service and test mode, and recovery stages, checks and commits a quire (R474, R480, R484,
R490). -/
def Obligations.ModesAndRecoveryComplete : Prop :=
  (∀ (s : State) (src : Src), s.reaches .modeCtl → s.devState = 1 →
    let noted (s' : State) : Prop := s'.devMode = s.devMode ∧
      s'.fld .faultRingTail Fld.faultRingTailIndex = (s.fld .faultRingTail Fld.faultRingTailIndex + 1) % 2 ^ 64
    (s.devMode = 2 → ∃ s', exec (.modeCtlService src) s = .next s' ∧ s'.devMode = 1) ∧
    (s.devMode ≠ 2 → ∃ s', exec (.modeCtlService src) s = .next s' ∧ noted s') ∧
    (s.devMode = 1 → (∀ g, s.collState g = 0) → (∀ q, s.flag (.hqCtl q) Fld.hqCtlEnable = false) →
      ∃ s', exec (.modeCtlTest src) s = .next s' ∧ s'.devMode = 2 ∧
        ∀ p, s'.flag (.portAdmit p) Fld.portAdmitEnable = false) ∧
    (s.devMode ≠ 1 ∨ (∃ g, s.collState g ≠ 0) ∨ (∃ q, s.flag (.hqCtl q) Fld.hqCtlEnable = true) →
      ∃ s', exec (.modeCtlTest src) s = .next s' ∧ noted s')) ∧
  (∀ (s : State) (src : Src), s.mgmt.powered = true → s.mgmt.takeover = none → s.devMode = 3 →
    (∃ s', exec (.recoveryStart src) s = .next s' ∧ s'.mgmt.staging = [] ∧ s'.mem = s.mem) ∧
    (∀ v : W64,
      (s.mgmt.staging.length + 8 ≤ 64 * 2 ^ 20 →
        ∃ s', exec (.recoveryData src v) s = .next s' ∧ s'.mgmt.staging = s.mgmt.staging ++ leBytes 8 v.toNat ∧
          s'.mem = s.mem) ∧
      (64 * 2 ^ 20 < s.mgmt.staging.length + 8 →
        ∃ s', exec (.recoveryData src v) s = .next s' ∧ s'.mgmt = s.mgmt ∧ s'.mem = s.mem)) ∧
    (s.mgmt.commit = none →
      ∃ s', exec (.recoveryCommit src) s = .next s' ∧ s'.flag .recoveryCtl Fld.recoveryCtlBusy = true ∧
        s'.mgmt.commit = some (s.mgmt.fuses.check (quireOf s.mgmt.staging), quireOf s.mgmt.staging) ∧
        s'.mgmt.flash = s.mgmt.flash ∧ s'.mem = s.mem) ∧
    (s.mgmt.commit ≠ none →
      ∃ s', exec (.recoveryCommit src) s = .next s' ∧ s'.mgmt = s.mgmt ∧ s'.mem = s.mem)) ∧
  (∀ (s : State) (ok : Bool), s.mgmt.commit = none → exec (.recoveryCommitDone ok) s = .next s) ∧
  (∀ (s : State) (r : Nat) (q : Quire) (ok : Bool), s.mgmt.commit = some (r, q) → r < 256 →
    (r ≠ 0 ∨ ok = false →
      ∃ s', exec (.recoveryCommitDone ok) s = .next s' ∧ s'.flag .recoveryCtl Fld.recoveryCtlBusy = false ∧
        s'.flag .recoveryCtl Fld.recoveryCtlDone = true ∧ s'.mgmt.flash = s.mgmt.flash ∧ s'.mem = s.mem ∧
        s'.fld .recoveryCtl Fld.recoveryCtlResult = if r ≠ 0 then r else 5) ∧
    (r = 0 → ok = true →
      ∃ s', exec (.recoveryCommitDone ok) s = .next s' ∧ s'.mgmt.flash.quireA = q ∧
        s'.mgmt.flash.quireB = s.mgmt.flash.quireB ∧ s'.devState = 0 ∧ s'.fld .devStatus Fld.devStatusReason = 9))

/-- Trips, coolant loss and rail faults stop the clocks and the rails, and a failed island is taken over (R441, R443,
R444, R493, R494, R495, R530, R551). -/
def Obligations.StopsAndTakeoversComplete : Prop :=
  (∀ (s : State) (i : Sensor) (v : BitVec 16), s.mgmt.powered = true → s.mgmt.tripped = false → tripAt i ≤ v.toInt →
    ∃ s', exec (.thermalTrip i v) s = .next s' ∧ s'.mgmt.tripped = true ∧ s'.clocksStopped = true ∧
      (∀ r ∈ s'.energy.rails, 30 ≤ r.val) ∧ s'.devState = 2 ∧ s'.fld .devStatus Fld.devStatusReason = 2 ∧
      s'.fld .tripRecord Fld.tripRecordSensor = i.val ∧ s'.fld .tripRecord Fld.tripRecordReading = v.toNat ∧
      s'.flag .tripRecord Fld.tripRecordValid = true ∧ s'.flag .tripRecord Fld.tripRecordCoolant = false) ∧
  (∀ s : State, s.mgmt.powered = true →
    (s.energy.coolantLow = 1 → s.flag .coolantStatus Fld.coolantStatusStopArmed = true → s.clocksStopped = false →
      ∃ s', exec (.coolantSample false) s = .next s' ∧ s'.clocksStopped = true ∧ s'.devState = 2 ∧
        s'.fld .devStatus Fld.devStatusReason = 3 ∧ s'.flag .tripRecord Fld.tripRecordCoolant = true) ∧
    (∃ s', exec (.coolantSample true) s = .next s' ∧ s'.energy.coolantLow = 0 ∧ s'.clocksStopped = s.clocksStopped ∧
      s'.flag .coolantStatus Fld.coolantStatusCoolantOk = true)) ∧
  (∀ (s : State) (r : Fin 30) (v : W16), s.devState = 1 → s.clocksStopped = false → s.mgmt.takeover = none →
    s.mgmt.tripped = false →
    ∃ s', exec (.railFault r v) s = .next s' ∧ s'.clocksStopped = true ∧ s'.devState = 2 ∧
      s'.fld .devStatus Fld.devStatusReason = 6 ∧
      (s'.reg (.faultSlot (Fin.ofNat 4096 (s.fld .faultRingTail Fld.faultRingTailIndex)) 1)).toNat / 2 ^ 32 = 0x0405 ∧
      s'.fld .faultRingTail Fld.faultRingTailIndex = (s.fld .faultRingTail Fld.faultRingTailIndex + 1) % 2 ^ 64) ∧
  (∀ (s : State) (dog : Bool), s.mgmt.powered = true → s.mgmt.takeover = none →
    s.flag .mcStatus Fld.mcStatusStandbyReady = true →
    ∃ s' k, exec (.mcHeartbeatLoss dog) s = .next s' ∧ s'.mgmt.takeover = some k ∧ s'.mgmt.failed = true ∧ k.held = [] ∧
      k.former = s.fld .mcStatus Fld.mcStatusActive ∧ k.cause = (if dog then 1 else 0) ∧
      s'.flag .mcStatus Fld.mcStatusStandbyReady = false) ∧
  (∀ (s : State) (k : Takeover), s.mgmt.takeover = some k → k.held = [] → k.dropped = 0 → k.rail = none → k.former < 2 →
    ∃ s', exec .takeoverDone s = .next s' ∧ s'.mgmt.takeover = none ∧ s'.fld .mcStatus Fld.mcStatusActive = 1 - k.former ∧
      s'.fld .mcStatus Fld.mcStatusTakeovers = min (s.fld .mcStatus Fld.mcStatusTakeovers + 1) (2 ^ 16 - 1)) ∧
  (∀ s : State, s.mgmt.failed = true → s.mgmt.takeover = none →
    ∃ s', exec (.islandSelfCheck true) s = .next s' ∧ s'.mgmt.failed = false ∧
      s'.flag .mcStatus Fld.mcStatusStandbyReady = true)

/-- Every register answers at its own offset, and an offset reaches no other register (R11, R523, R525, R527). -/
def Obligations.RegisterAddressesRoundTrip : Prop :=
  (∀ r : Reg, (∀ f : Folio, r ≠ .bufBase f 0 ∧ r ≠ .bufSize f 0 ∧ r ≠ .bufCtl f 0) → Reg.ofAddr r.addr = .reg r) ∧
  (∀ f : Folio, Reg.ofAddr (Reg.bufBase f 0).addr = .blank ∧ Reg.ofAddr (Reg.bufSize f 0).addr = .blank ∧
    Reg.ofAddr (Reg.bufCtl f 0).addr = .blank) ∧
  (∀ r : Reg, r.addr % 8 = 0 ∧ r.addr < 2 ^ 27) ∧
  (∀ (a : Nat) (r : Reg), Reg.ofAddr a = .reg r → r.addr = a ∨ (sharedReg r = true ∧ r.addr + 0x400000 = a))

/-- REGISTER_WRITE of a register that only holds its fields stores the RW bits of what is written and nothing else
(R7, R9, R473, R528). -/
def Obligations.PlainRegistersHoldWhatIsWritten : Prop :=
  ∀ (s : State) (src : Src) (r : Reg) (off : BitVec 27) (wide : Bool) (v : W64) (line : BitVec 32),
    (match r with
      | .bufBase _ e | .bufSize _ e | .bufCtl _ e => e ≠ 0
      | .fcCtl _ | .switchCtl _ | .allowList0 _ | .allowList1 _ | .globalTable _ _ | .collShape _ | .collKey _
      | .collStage _ | .collTimeout _ | .ringTable _ _ | .strict _ | .seqPc _ | .srSeed _ | .srStep _ | .evqBase _
      | .evqSize _ | .mboxArg _ | .portViolLimit _ | .suspectCtl | .optCtl | .portAsym _ => True
      | _ => False) →
    off.toNat / 8 * 8 = r.addr → off.toNat % (if wide then 8 else 4) = 0 → s.reaches r → s.heeds src off.toNat v →
    let half := writtenBits off.toNat wide
    let place := if wide then v else (v &&& 0xFFFFFFFF) <<< (off.toNat % 8 * 8)
    let new := (s.reg r &&& ~~~ (r.maskOf .rw &&& half)) ||| (place &&& (r.maskOf .rw &&& half))
    s.lockedWrite r new = false → s.badCombination r (s.reg r) new = false →
    (reservedFields r).all (fun e => !e.2 (e.1.get new)) = true →
    ∃ s', exec (.registerWrite src off wide v line) s = .next s' ∧ s'.reg r = new ∧
      (∀ k, k ≠ r → s'.reg k = s.reg k) ∧ s'.mem = s.mem ∧ s'.out = s.out

/-- A refused or misplaced access changes nothing but the fault record ring, which names its offset (R9, R11, R21,
R22, R39, R227, R500, R501, R525, R526, R528). -/
def Obligations.RefusedAccessesAreRecorded : Prop :=
  let ring : Reg → Bool := fun r =>
    match r with
    | .faultRingTail | .faultRingHead | .faultRingLost | .faultSlot _ _ => true
    | _ => false
  let recorded (woken : Reg → Bool) (s s' : State) (code off v : Nat) : Prop :=
    let i := s.fld .faultRingTail Fld.faultRingTailIndex
    let slot : Fin 4096 := Fin.ofNat 4096 i
    s'.reg .faultRingTail = BitVec.ofNat 64 (i + 1) ∧ (s'.reg (.faultSlot slot 1)).toNat / 2 ^ 32 % 2 ^ 16 = code ∧
      (s'.reg (.faultSlot slot 1)).toNat % 4 = 1 ∧ (s'.reg (.faultSlot slot 1)).toNat / 2 ^ 8 % 2 ^ 8 = windowDie off ∧
      s'.reg (.faultSlot slot 2) = BitVec.ofNat 64 off ∧ s'.reg (.faultSlot slot 3) = BitVec.ofNat 64 v ∧
      (∀ r, ring r = false → woken r = false → s'.reg r = s.reg r) ∧ s'.mem = s.mem
  ∀ s : State, s.mgmt.powered = true →
    (∀ (off : BitVec 27) (size : Nat) (write : Bool), ¬ ((size = 4 ∨ size = 8) ∧ off.toNat % size = 0) →
      (s.answers off.toNat = true → ∃ s', exec (.badSizeAccess off size write) s = .next s' ∧
        recorded (fun _ => false) s s' 0x0002 off.toNat size ∧
        s'.out = s.out ++ (if write then [] else [.readData (List.replicate size 0)])) ∧
      (s.answers off.toNat = false → ∃ s', exec (.badSizeAccess off size write) s = .next s' ∧
        s' = (if write then s else s.emit .readError))) ∧
    (∀ (src : Src) (off : BitVec 27) (v : W64) (line : BitVec 32), s.mgmt.takeover = none → s.devMode ≠ 3 →
      off.toNat % 8 = 0 → s.answers off.toNat = true →
      s.heeds src off.toNat v →
      (Reg.ofAddr off.toNat = .reserved →
        ∃ s', exec (.registerWrite src off true v line) s = .next s' ∧ recorded (fun _ => false) s s' 0x0004 off.toNat v.toNat) ∧
      (∀ r, Reg.ofAddr off.toNat = .reg r → s.regDown off.toNat r = true →
        ∃ s', exec (.registerWrite src off true v line) s = .next s' ∧ recorded (fun _ => false) s s' 0x0005 off.toNat v.toNat) ∧
      (∀ t, off.toNat = (Reg.seqPc t).addr → s.regDown off.toNat (.seqPc t) = false →
        s.flag (.seqCtl t) Fld.seqCtlRun = true →
        ∃ s', exec (.registerWrite src off true v line) s = .next s' ∧ recorded (fun _ => false) s s' 0x0003 off.toNat v.toNat)) ∧
    (∀ (src : Src) (off : BitVec 27) (wide : Bool) (v : W64) (line : BitVec 32) (r : Reg), s.mgmt.takeover = none →
      off.toNat % (if wide then 8 else 4) = 0 → s.answers off.toNat = true → s.heeds src off.toNat v →
      Reg.ofAddr (off.toNat / 8 * 8) = .reg r → s.regDown off.toNat r = false → s.modeAccepts r = true → s.featureOff r = false →
      let half := writtenBits off.toNat wide
      let value := if wide then v else v &&& 0xFFFFFFFF
      let place := if wide then v else value <<< (off.toNat % 8 * 8)
      let want := (s.reg r &&& ~~~ (r.maskOf .rw &&& half)) ||| (place &&& (r.maskOf .rw &&& half))
      let new := (want &&& ~~~ s.frozenBits r) ||| (s.reg r &&& s.frozenBits r)
      ((∃ e ∈ reservedFields r, e.1.mask &&& half ≠ 0 ∧ e.2 (e.1.get new) = true) ∨ s.badCombination r (s.reg r) new = true ∨
        badActions r (s.reg r) new (place &&& wholeFields r .wo half) = true) →
      ∃ s', exec (.registerWrite src off wide v line) s = .next s' ∧
        recorded (fun k => match k, regDomain r with
          | .reamStatus m, .reamBase n => m = n
          | _, _ => false) s s' 0x0001 off.toNat value.toNat ∧
        (∀ m, regDomain r = .reamBase m → s'.reg (.reamStatus m) = Fld.reamStatusSelfRefresh.set (s.reg (.reamStatus m)) 0)) ∧
    (∀ (src : Src) (index : W64), s.reaches .faultRingAck → index.toNat ≤ s.fld .faultRingTail Fld.faultRingTailIndex →
      ∃ s', exec (.faultRingAck src index) s = .next s' ∧ s'.reg .faultRingAck = index ∧
        ∀ r, r ≠ .faultRingAck → s'.reg r = s.reg r) ∧
    (∀ (off : BitVec 27) (wide : Bool) (v : W64) (line : BitVec 32), off.toNat % (if wide then 8 else 4) = 0 →
      s.ready = true → islandBarred off.toNat v = true →
        exec (.registerWrite .island off wide v line) s = .next s)

/-- DOMAIN_GATE gates a domain that hardware started and that rested for 50 microseconds; VAT_SCRUB moves on by one
granule (R39, R190, R227). -/
def Obligations.DomainsAreGatedAndVatsScrubbed : Prop :=
  (∀ (s : State) (d : Domain), (∃ c ∈ s.clocks, c.domain = d ∧ c.hw = true ∧ c.active + 50000 ≤ s.now) →
    ∃ s', exec (.domainGate d) s = .next s' ∧ s'.clocks = s.clocks.filter (fun c => decide (c.domain ≠ d)) ∧
      (∀ m, d = .reamBase m → s'.flag (.reamStatus m) Fld.reamStatusSelfRefresh = true) ∧ s'.mem = s.mem) ∧
  (∀ (s : State) (t : Tile), (s.tile t).inReset = false → s.clocksStopped = false →
    ∃ s', exec (.vatScrub t) s = .next s' ∧ (s'.tile t).scrub = ((s.tile t).scrub + 1) % 131072 ∧ s'.mem = s.mem)

/-- ENERGY_GRANT answers a request and clears GRANT; SLEW_STEP moves a folio's fractions together to their targets or
to the slew limit (R423, R424, R425, R426, R431). -/
def Obligations.GrantsAndSlewStepsComplete : Prop :=
  (∀ (s : State) (t : Tile),
    (s.tagBusy t tagGrant = false → exec (.energyGrant t) s = .next s) ∧
    (∀ c g, (s.tile t).energySection = some c → c.fraction = some g → exec (.energyGrant t) s = .next s) ∧
    (s.tagBusy t tagGrant = true →
      let others (s' : State) : Prop := s'.tagBusy t tagGrant = false ∧
        ∀ i : Fin 64, i.val ≠ tagGrant → s'.tagBusy t i.val = s.tagBusy t i.val
      ((s.tile t).energySection = none →
        ∃ s', exec (.energyGrant t) s = .next s' ∧ others s' ∧ s'.tile t = s.tile t) ∧
      (∀ c, (s.tile t).energySection = some c → c.fraction = none →
        (c.reqNJ = 0 → ∃ s', exec (.energyGrant t) s = .next s' ∧ others s' ∧ (s'.tile t).granted = 256 ∧
          (s'.tile t).paceFrac = 256 ∧ (s'.tile t).pulp = none) ∧
        (c.reqNJ ≠ 0 →
          let u := s.updTile t (fun x => { x with pulp := none })
          let p := u.demandOf t
          let left := u.avail (tileFolio t) - (u.grantedUw (tileFolio t) TileState.aim + u.pulpSum (tileFolio t))
          ∃ s', exec (.energyGrant t) s = .next s' ∧ others s' ∧ (s'.tile t).holds = true ∧
            (s'.tile t).target = (if p ≤ left then 256 else max 1 (256 * left / max p 1)) ∧
            (s'.tile t).pulp = none ∧ s'.energy.granted = true)))) ∧
  (∀ (s : State) (f : Folio),
    (s.slewing f = false → exec (.slewStep f) s = .next s) ∧
    (s.slewing f = true →
      let base := s.slewFrom f
      let aims := s.tilesUw f TileState.aim
      let b := base.power.foldl (· + ·) 0
      let a := aims.foldl (· + ·) 0
      let lim := 400000 * s.voltage f
      let fits := a ≤ b + lim ∧ b ≤ a + lim
      ∃ s', exec (.slewStep f) s = .next s' ∧
        (fits → (∀ t ∈ folioTiles f, (s.tile t).holds = true → (s'.tile t).granted = (s.tile t).aim) ∧
          ∀ r, s'.reg r = s.reg r) ∧
        (¬ fits → base.power.length = 24 →
          (∀ (k : Fin 24) (t : Tile) (c : Section), (folioTiles f)[k.val]? = some t → (s.tile t).energySection = some c →
            c.fraction.isSome = true → s.demandOf t ≠ 0 →
            let from' := base.power.getD k.val 0
            let p : Int := (from' : Int) + ((s.tileUw t TileState.aim : Int) - from') * lim / ((a - b) + (b - a) : Nat)
            (s'.tile t).granted = min (max 1 (min 256 (256 * p.toNat / s.demandOf t))) (c.limit.getD 256)) ∧
          s'.fld (.folioCal f) Fld.folioCalSlewSteps =
            (if base.limited then s.fld (.folioCal f) Fld.folioCalSlewSteps
              else s.counted (.folioCal f) Fld.folioCalSlewSteps 1)) ∧
        ∀ t, t ∉ folioTiles f → s'.tile t = s.tile t))

/-- ENERGY_WINDOW opens a window with one boundary fraction per folio; pulp rises before a launch and ends after a
section (R272, R420, R421, R422, R425, R428, R432). -/
def Obligations.EnergyWindowsAndPulpComplete : Prop :=
  (∀ (s : State) (loads : Vector (BitVec 20) 8), s.tenseNow / 50000 = (s.reg .energyWindow).toNat →
    exec (.energyWindow loads) s = .next s) ∧
  (∀ (s : State) (loads : Vector (BitVec 20) 8), s.tenseNow / 50000 ≠ (s.reg .energyWindow).toNat →
    ∃ s', exec (.energyWindow loads) s = .next s' ∧ s'.reg .energyWindow = BitVec.ofNat 64 (s.tenseNow / 50000) ∧
      (∀ t, (s'.tile t).winMeter = 0) ∧
      ∀ f : Folio,
        (f ∉ s.energy.metered →
          s'.fld (.folioPower f) Fld.folioPowerUncontrolledDw = pointIdleW (s.point f) * 10) ∧
        s'.fld (.folioGrant f) Fld.folioGrantFraction =
          (let all := s'.demand f + ((folioTiles f).map (fun t => match (s'.tile t).pulp with
              | some p => p.now s'.now
              | none => 0)).foldl (· + ·) 0
            if all ≤ s'.avail f then 256 else max 1 (256 * s'.avail f / max all 1))) ∧
  (∀ (s : State) (q : HQueue) (index : BitVec 32) (l : Launch),
    s.host.launches.find? (fun l => l.hq = q && l.index = index.toNat) = some l → l.envelopeW ≠ 0 → l.start ≠ 0 →
    l.ramped = false → l.parts ≠ [] → l.start ≤ s.tenseNow + 1000 * s.fld .energyCtl Fld.energyCtlPulpLeadUs →
    ∃ s', exec (.pulpRampUp q index) s = .next s' ∧
      (∀ t ∈ l.tiles, tileFolio t ∈ l.parts → (s.tile t).energySection = none →
        s.flag (.seqCtl t) Fld.seqCtlRun = false →
        (s'.tile t).pulp = some ⟨0, min (l.envelopeW * 1000000 / max l.tiles.length 1) (s.pulpMax (tileFolio t)), s.now,
          1000 * s.fld .energyCtl Fld.energyCtlPulpRampUs⟩) ∧
      (∀ t, t ∉ l.tiles → s'.tile t = s.tile t)) ∧
  (∀ (s : State) (t : Tile) (p : Pulp), (s.tile t).pulp = some p → p.toUw = 0 → p.start + p.len ≤ s.now →
    ∃ s', exec (.pulpRampEnd t) s = .next s' ∧ (s'.tile t).pulp = none ∧ ∀ c ∈ s'.clocks, c.domain ≠ .tile t)

/-- DVFS_REVIEW, MC_TICK, TELEMETRY_LOST and MARGIN_BUMP do what the management controller does (R419, R429, R434,
R435). -/
def Obligations.PowerControllerRowsComplete : Prop :=
  (∀ s : State, s.flag .energyCtl Fld.energyCtlDvfsEn = true → s.devState = 1 →
    ∃ s', exec .dvfsReview s = .next s' ∧
      ∀ f, s'.point f = if s.sentinelHolds f then s.point f else s.clampPoint f (reviewPoint s f)) ∧
  (∀ (s : State) (reports : List (Fin 32 × BitVec 24)), s.mgmt.takeover = none → s.energy.lost = [] →
    (reports.map Prod.fst).Nodup →
    ∃ s', exec (.mcTick reports) s = .next s' ∧
      (∀ p ∈ reports, Store.get (fun _ => 0) s'.energy.reports p.1.val = p.2.toNat) ∧
      (∀ t, (s'.tile t).mcMeter = 0) ∧
      (∀ f : Folio, (∃ p ∈ reports, p.1.val = f.val) →
        let m := powerUw (((folioTiles f).map (fun t => (s.tile t).mcMeter)).foldl (· + ·) 0) 100000
          + (Store.get (fun _ => 0) s.energy.loadUse f
            + Store.get (fun _ => 0) s.energy.loads f * (s.now - s.energy.loadAt)) / 100000
        m ≠ 0 →
        let r : Int := (Store.get (fun _ => 0) s'.energy.reports f.val * 1000 * 2 ^ 32 / m : Nat)
        s'.kFactor f = min kHigh (max kLow (((s.kFactor f : Int) + (r - s.kFactor f) / 100).toNat))) ∧
      s'.energy.correction = min 400000000 (max (-2000000000) (s.energy.correction
        + ((s.fld .energyCap Fld.energyCapCapW * 1000000 : Nat)
          - (((List.range 32).map (Store.get (fun _ => 0) s'.energy.reports)).foldl (· + ·) 0 * 1000 : Nat) : Int) / 10))) ∧
  (∀ (s : State) (r : Fin 32), r.val ∉ s.energy.lost →
    Store.get (fun _ => 0) s.energy.reportAt r.val + 10000000 < s.now →
    ∃ s', exec (.telemetryLost r) s = .next s' ∧ r.val ∈ s'.energy.lost ∧
      s'.flag .energyStatus Fld.energyStatusTelemetryLost = true ∧
      s'.reg .faultRingTail = BitVec.ofNat 64 (s.fld .faultRingTail Fld.faultRingTailIndex + 1)) ∧
  (∀ (s : State) (f : Folio),
    ∃ s', exec (.marginBump f) s = .next s' ∧ s'.voltage f = s.voltage f + 10 ∧
      s'.fld (.folioDvfs f) Fld.folioDvfsTrimMv = s.fld (.folioDvfs f) Fld.folioDvfsTrimMv - 10 ∧
      Store.get (fun _ => 0) s'.energy.trims (8 * f.val + s.point f) = s.fld (.folioDvfs f) Fld.folioDvfsTrimMv - 10 ∧
      (∀ g, s'.point g = s.point g) ∧ s'.tiles = s.tiles ∧
      s'.reg .faultRingTail = BitVec.ofNat 64 (s.fld .faultRingTail Fld.faultRingTailIndex + 1))

/-- SENSOR_SAMPLE stores the reading, sets and clears the warning and the throttle at their thresholds, and theta
follows (R224, R436, R437, R438, R439, R440). -/
def Obligations.SensorReadingsAreEvaluated : Prop :=
  (∀ (s : State) (i : Sensor) (v : BitVec 16),
    let peak (k : State) : Int := (BitVec.ofNat 16 (k.fld (.sensor i) Fld.sensorPeakC)).toInt
    let r := s.sensor i
    ∃ s', exec (.sensorSample i v) s = .next s' ∧ s'.fld (.sensor i) Fld.sensorNowC = v.toNat ∧
      peak s' = max (peak s) v.toInt ∧ (s'.sensor i).past = (v.toInt :: r.past).take 1000 ∧
      (s'.sensor i).warned = (if r.warned then decide (warnClearAt i < v.toInt) else decide (warnSetAt i ≤ v.toInt)) ∧
      (s'.sensor i).engaged = (if r.engaged then decide (releaseAt i (s'.sensor i) < v.toInt)
        else decide (engageAt i (s'.sensor i) < v.toInt)) ∧
      ((s'.sensor i).fastUntil = some (s.now + 10000000) ↔
        (∃ p, r.past[9]? = some p ∧ 64 < 10 * (v.toInt - p)) ∨ r.fastUntil = some (s.now + 10000000)) ∧
      (∀ f, s'.thetaOf f = s'.thetaFolio f) ∧
      (∀ m : Ream, i.val = 768 + m.val → s'.flag (.reamStatus m) Fld.reamStatusHot = s'.reamHot m) ∧ s'.mem = s.mem) ∧
  (∀ (s : State) (i : Sensor) (u : Nat), (s.sensor i).fastUntil = some u → u ≤ s.now →
    ∃ s', exec (.fastRiseEnd i) s = .next s' ∧ (s'.sensor i).fastUntil = none ∧
      (s'.sensor i).past = (s.sensor i).past ∧
      (s'.sensor i).engaged = (if (s.sensor i).engaged then decide (releaseAt i (s'.sensor i) < (s.sensor i).past.headD 0)
        else decide (engageAt i (s'.sensor i) < (s.sensor i).past.headD 0)) ∧
      ∀ f, s'.thetaOf f = s'.thetaFolio f)

/-- Tense rows: enabling, sending and receiving markers, losing the parent, expiry of HOLDOVER and the standby root
(R260, R261, R262, R263, R266, R268, R269). -/
def Obligations.TenseStatesFollowMarkers : Prop :=
  (∀ (s : State) (src : Src) (ctl : BitVec 3), s.reaches .tenseCtl →
    s.heeds src Reg.tenseCtl.addr (ctl.setWidth 64) → s.tenseEnabled = false → ctl.getLsbD 0 = true →
    ∃ s', exec (.tenseEnable src ctl) s = .next s' ∧ s'.tenseEnabled = true ∧
      (s'.flag .tenseCtl Fld.tenseCtlRoot = true → s'.tenseState = 6 ∧ s'.fld .tenseStatus Fld.tenseStatusDepth = 0 ∧
        s'.fld .tenseStatus Fld.tenseStatusRootChip = s.chip ∧ s'.tense16 = 16 * (s.reg .tenseRootInit).toNat) ∧
      (s'.flag .tenseCtl Fld.tenseCtlRoot = false → s'.tenseState = 0 ∧ s'.tense16 = s.tense16)) ∧
  (∀ (s : State) (t : Nat), s.tense.sentAt = some t → s.now < t + 1000 → exec .tenseMarkerSend s = .next s) ∧
  (∀ s : State, s.clocksStopped = false → (∀ t, s.tense.sentAt = some t → t + 1000 ≤ s.now) →
    ∃ s', exec .tenseMarkerSend s = .next s' ∧ s'.tense.sentAt = some s.now ∧
      (∀ p < 66, s.carriesMarkers p = true → Output.marker p (s.markerOf p) ∈ s'.out) ∧
      (∀ p ∈ s.feltPairs, ∃ b, Output.marker (66 + 2 * (feltIndex p.1 p.2).val) b ∈ s'.out ∧
        Output.marker (67 + 2 * (feltIndex p.1 p.2).val) b ∈ s'.out) ∧
      s'.tense.tick = (if s.tenseState = 6 then (s.tense.tick + 1) % 2 ^ 24 else s.tense.tick) ∧ s'.regs = s.regs) ∧
  (∀ (s : State) (p : Fin 66) (m : BitVec 256),
    (markerGood m = false → exec (.tenseMarker p m) s = .next s) ∧
    (markerGood m = true → s.clocksStopped = false → s.carriesMarkers p.val = true → s.tenseEnabled = true →
      blockField m 80 8 = s.fld .tenseStatus Fld.tenseStatusEpoch →
      (s.tenseState = 0 → (s.setNbr p.val (s.hear p.val m)).qualifies p.val = true → p.val ∈ s.parents →
        ∃ s', exec (.tenseMarker p m) s = .next s' ∧ s'.tenseState = 2 ∧ s'.parent = p.val ∧
          s'.tense.aligned = (s.tense.aligned || (s.hear p.val m).echoed)) ∧
      (s.tenseState = 3 → s.parent = p.val → blockField m 77 3 ∈ [3, 4, 6] →
        ∃ s', exec (.tenseMarker p m) s = .next s' ∧ s'.tenseState = 3 ∧
          s'.fld .tenseStatus Fld.tenseStatusDepth = min 19 (blockField m 72 5 + 1) ∧
          s'.fld .tenseOffset Fld.tenseOffsetOffset = ((s.hear p.val m).mean % 2 ^ 32).toNat))) ∧
  (∀ (s : State) (p : Fin 66) (n : Nbr), s.nbr p.val = some n → n.lastAt + 4000 ≤ s.now → s.clocksStopped = false →
    s.parent = p.val → s.tenseState = 3 →
    ∃ s', exec (.markerTimeout p) s = .next s' ∧ s'.tenseState = 4 ∧ s'.tense.holdoverAt = s.now ∧
      s'.fld .tenseLockLosses Fld.tenseLockLossesHoldovers = s.counted .tenseLockLosses Fld.tenseLockLossesHoldovers 1) ∧
  (∀ s : State, s.tenseState = 4 → s.tense.holdoverAt + 200000 ≤ s.now →
    ∃ s', exec .holdoverExpiry s = .next s' ∧ s'.tenseState = 5 ∧ s'.parent = 0x7F ∧
      s'.fld .tenseLockLosses Fld.tenseLockLossesUnlocked = s.counted .tenseLockLosses Fld.tenseLockLossesUnlocked 1 ∧
      (∀ g, s.collRuns g = true → (s'.group g).unlocked = true) ∧ s'.tense16 = s.tense16) ∧
  (∀ (s : State) (k t : Nat), s.tense.heardTick = some (k, t) → s.tenseEnabled = true →
    s.flag .tenseCtl Fld.tenseCtlStandbyRoot = true → s.tenseState ≠ 6 → t + 100000 ≤ s.now → s.clocksStopped = false →
    ∃ s', exec .rootTakeover s = .next s' ∧ s'.tenseState = 6 ∧ s'.fld .tenseStatus Fld.tenseStatusDepth = 0 ∧
      s'.fld .tenseStatus Fld.tenseStatusEpoch = (s.fld .tenseStatus Fld.tenseStatusEpoch + 1) % 256)

/-- The quiesce is written, reached and reported, and the ring port sends and hears hellos while its bypass is open
(R273, R409, R410). -/
def Obligations.QuiesceAndRingRowsComplete : Prop :=
  (∀ (s : State) (src : Src) (v : W64), s.reaches .tenseQuiesce →
    s.heeds src (Reg.addr .tenseQuiesce) v →
    ∃ s', exec (.tenseQuiesceWrite src v) s = .next s' ∧ s'.reg .tenseQuiesce = v ∧
      s'.flag .tenseStatus Fld.tenseStatusQuiesced = false ∧
      s'.tense.quiet = (decide (v ≠ 0) && decide (v.toNat ≤ s.tenseNow)) ∧ s'.tense16 = s.tense16) ∧
  (∀ s : State, s.reg .tenseQuiesce ≠ 0 → (s.reg .tenseQuiesce).toNat ≤ s.tenseNow →
    ∃ s', exec .quiesceAt s = .next s' ∧ s'.tense.quiet = true ∧ s'.regs = s.regs) ∧
  (∀ s : State, s.reg .tenseQuiesce ≠ 0 → (s.reg .tenseQuiesce).toNat + s.boundNs 3 ≤ s.tenseNow → s.net.txns = [] →
    s.ecqsDrained = true → (∀ t, s.flag (.seqCtl t) Fld.seqCtlRun = false) →
    ∃ s', exec .quiesced s = .next s' ∧ s'.flag .tenseStatus Fld.tenseStatusQuiesced = true ∧
      ∀ r, r ≠ .tenseStatus → s'.reg r = s.reg r) ∧
  (∀ s : State, s.bypassOpen = true → s.clocksStopped = false →
    (∃ s', exec .ringHelloSend s = .next s' ∧ s'.regs = s.regs ∧
      s'.out = s.out ++ [.hello [s.chip, s.chip % 16, s.fld (.routeCtl 0) Fld.routeCtlGroup16, s.fld .identFw Fld.identFwRelease,
        s.tenseState, s.fld .tenseStatus Fld.tenseStatusDepth, s.fld .ringPeer Fld.ringPeerChip]]) ∧
    (∀ chip heard, ∃ s', exec (.ringHello chip heard true) s = .next s' ∧
      s'.flag .ringStatus Fld.ringStatusInLock = true ∧ s'.flag .ringPeer Fld.ringPeerValid = true ∧
      s'.fld .ringPeer Fld.ringPeerChip = chip.toNat ∧ s'.fld .ringPeer Fld.ringPeerPredChip = heard.toNat) ∧
    ∀ chip heard, exec (.ringHello chip heard false) s = .next s) ∧
  (∀ s : State, s.optics.helloAt + 1000 < s.now →
    ∃ s', exec .ringHelloLoss s = .next s' ∧ s'.flag .ringStatus Fld.ringStatusInLock = false ∧
      s'.flag .ringPeer Fld.ringPeerValid = false) ∧
  (∀ s : State, s.clocksStopped = false → deckleDie 0 ∉ s.downDies →
    ∃ s', exec (.bypassOpen true) s = .next s' ∧ s'.bypassOpen = true)

/-- A cell enters its mesh, a deckle and a port: MESH_INJECT, CELL_INGRESS, CELL_TRANSMIT and CONTROL_BLOCK (R287,
R299, R300, R302, R314, R324, R330, R333, R341, R390, R391). -/
def Obligations.CellsCrossTheFabric : Prop :=
  (∀ (s : State) (f : Folio) (src : Fin 40) (e : MeshCell),
    s.net.outbox.find? (fun e => e.folio = f && e.src = src && s.mayInject e) = some e → s.clocksStopped = false →
    ∃ s', exec (.meshInject f src) s = .next s' ∧ s'.net.outbox = s.net.outbox.erase e ∧
      s'.net.meshes = s.net.meshes ++ [{ e with router := src, born := s.net.meshCycle }] ∧
      s'.creditsUsed e = s.creditsUsed e + (if e.cell.cls = 1 then 0 else 1)) ∧
  (∀ (s : State) (n : Deckle) (q : Fin 48) (c : Cell), s.clocksStopped = false → deckleDie n ∉ s.downDies → q.val < 32 →
    s.portLiveBit (portOf n q.val) = true →
    (c.crcGood = false → ∃ s', exec (.cellIngress n q c) s = .next s' ∧
      s'.fld (.portCrcDrops (portOf n q.val)) Fld.portCrcDropsCount
        = s.counted (.portCrcDrops (portOf n q.val)) Fld.portCrcDropsCount 1 ∧ s'.net.xbar = s.net.xbar) ∧
    (c.crcGood = true → s.firstHopDrop (portOf n q.val) c = false → s.firstHopCode n c = none →
      (s.land (.core n q) c).deckleCode n false c = none → s.flag (.switchCtl n) Fld.switchCtlCutThroughEn = false →
      (∀ k, s.flag (.mirrorCtl n k) Fld.mirrorCtlEnable = false) → (∀ h ∈ (s.xbar n).held, h.point ≠ .ingress q) →
      ∃ s', exec (.cellIngress n q c) s = .next s' ∧
        ∃ h ∈ (s'.xbar n).held, h.point = .ingress q ∧ h.inp = q ∧
          h.cell = match (s.land (.core n q) c).route n false c with
            | .port _ true => c.withFlag 4
            | _ => c)) ∧
  (∀ (s : State) (n : Deckle) (q : Fin 48) (h : Held), s.clocksStopped = false → deckleDie n ∉ s.downDies →
    s.egressNext n q = some h → h.cell.cls ≠ 6 →
    ∃ s', exec (.cellTransmit n q) s = .next s' ∧
      (q.val < 32 → s'.out = s.out ++ [.cell (portOf n q.val) { h.cell with rank := h.cell.rank + 1 }]) ∧
      (∀ f : Folio, q.val = 32 + f.val →
        if folioDie f ∈ s.downDies then (Hop.die (folioDie f), h.cell) ∈ s'.net.flights
        else s'.net.outbox = s.net.outbox ++ [⟨f, feltNode, s.targetNode f h.cell, h.cell, feltNode, 0⟩]) ∧
      (40 ≤ q.val → (Hop.core (otherDeckle n) q, h.cell) ∈ s'.net.flights)) ∧
  (∀ (s : State) (p : Port) (b : BitVec 512),
    let good := blockField b 0 8 = 0xB5 ∧ (crc32c (blockBytes 60 b)).toNat = blockField b 480 32
    (¬ good ∨ s.trained p = false → exec (.controlBlock p b) s = .next s) ∧
    (good → s.trained p = true → blockField b 16 1 = 1 →
      ∃ s', exec (.controlBlock p b) s = .next s' ∧ s'.phyState p = 5 ∧ s'.portLiveBit p = false) ∧
    (good → s.trained p = true → blockField b 16 1 = 0 →
      ∃ s', exec (.controlBlock p b) s = .next s' ∧
        (∀ k < 32, Store.get (fun _ => 0) (s'.linkCredit p).granted k = blockField b (64 + 4 * k) 4) ∧
        Store.get (fun _ => 0) (s'.linkCredit p).granted 32 = blockField b 192 16 ∧
        Store.get (fun _ => 0) (s'.linkCredit p).granted 33 = blockField b 208 16 ∧
        (s'.linkCredit p).sent = (s.linkCredit p).sent))

/-- Requests, replies, NAKs and timers: what TRANSACTION_CELL, MEM_REPLY, NAK and the four expiries do (R270, R280,
R281, R293, R294, R295, R308, R309, R310, R312). -/
def Obligations.TransactionsComplete : Prop :=
  (∀ (s : State) (f : Folio) (c : Cell), s.clocksStopped = false → folioDie f ∉ s.downDies → c.cls ≠ 1 → c.crcGood = true →
    let d := folioDie f
    let u := s.land (.die d) c
    u.tooLate c = false → u.endpointCode d c = none →
    (∀ w, u.assemble d c = .held w → exec (.transactionCell d c) s = .next w) ∧
    (∀ a w, u.assemble d c = .whole a w →
      let bs := cellsData a.cells
      let w0 := BitVec.ofNat 64 (leNat (bs.take 8))
      let dup := w.net.dups.find? (fun r => r.is d c)
      (dup.isSome = true → opCode w0 ≠ 0 →
        ∃ s', exec (.transactionCell d c) s = .next s' ∧ s'.net.ready = s.net.ready ∧ s'.mem = s.mem ∧
          s'.fld (.xportDuplicates d) Fld.xportDuplicatesCount = s.counted (.xportDuplicates d) Fld.xportDuplicatesCount 1) ∧
      (dup = none ∨ opCode w0 = 0 →
        (w.addressCode f c w0 ≠ none →
          ∃ s' r, exec (.transactionCell d c) s = .next s' ∧ s'.net.ready = s.net.ready ∧ s'.mem = s.mem ∧
            r ∈ s'.net.dups ∧ r.is d c = true ∧ w.addressCode f c w0 = (match r.answer with
              | .nak k => some k
              | _ => none)) ∧
        (w.addressCode f c w0 = none →
          ∃ s', exec (.transactionCell d c) s = .next s' ∧ s'.mem = s.mem ∧
            s'.net.dups = (match dup with
              | some r => w.net.dups.erase r
              | none => w.net.dups) ∧
            s'.net.ready = s.net.ready ++ [⟨f, w0, BitVec.ofNat 64 (leNat ((bs.drop 8).take 8)), bs.drop 16, c.cls, c,
              (w.earliest a).1, (w.earliest a).2⟩])))) ∧
  (∀ (s : State) (d : Die) (c : Cell) (t : Txn), s.clocksStopped = false → d ∉ s.downDies → c.cls = 1 →
    c.crcGood = true → s.net.done = [] → (∃ tile tag, t.user = .dma tile tag) →
    let u := s.land (.die d) c
    u.tooLate c = false → u.endpointCode d c = none →
    (c.type ≠ 3 → u.txnFor d c = some t → badSequence t.replies c = false →
      let cells := if t.replies.any (fun k => k.seq = c.seq) then t.replies else t.replies ++ [c]
      (cellsWhole cells = true → ∃ s', exec (.memReply d c) s = .next s' ∧
        s'.net.done = [⟨t.user, .reply (cellsData cells)⟩] ∧ ∀ k ∈ s'.net.txns, ¬ (k.die = t.die ∧ k.tag = t.tag)) ∧
      (cellsWhole cells = false → ∃ s', exec (.memReply d c) s = .next s' ∧ s'.net.done = [] ∧
        ∃ k ∈ s'.net.txns, k = { t with replies := cells })) ∧
    (c.type = 3 → u.net.txns.find? (fun t => t.die = d && decide (t.tag = c.tag.toNat)) = some t →
      ∃ s', exec (.nak d c) s = .next s' ∧ s'.net.done = [⟨t.user, .nak (leNat (c.data.take 1))⟩] ∧
        (∀ k ∈ s'.net.txns, ¬ (k.die = t.die ∧ k.tag = t.tag)) ∧
        s'.fld (.xportNaksRcvd d) Fld.xportNaksRcvdCount = s.counted (.xportNaksRcvd d) Fld.xportNaksRcvdCount 1)) ∧
  (∀ (s : State) (d : Die) (chip : BitVec 14) (die : BitVec 4) (tag : W16),
    let key : Cell := { Cell.blank with srcChip := chip, srcDie := die, tag := tag }
    (∀ a, s.net.assemblies.find? (fun a => a.is d key) = some a →
      s.boundNs (s.scopeOf chip.toNat) < s.recordAge (s.earliest a).1 (s.earliest a).2 →
      ∃ s', exec (.assemblyExpiry d chip die tag) s = .next s' ∧ (∀ k ∈ s'.net.assemblies, k.is d key = false) ∧
        s'.fld (.xportAssemblyDrops d) Fld.xportAssemblyDropsCount
          = s.counted (.xportAssemblyDrops d) Fld.xportAssemblyDropsCount 1) ∧
    (∀ r, s.net.dups.find? (fun r => r.is d key) = some r →
      s.boundNs (s.scopeOf chip.toNat) ≤ s.recordAge r.depart r.came →
      ∃ s', exec (.duplicateRecordExpiry d chip die tag) s = .next s' ∧ (∀ k ∈ s'.net.dups, k.is d key = false) ∧
        s'.regs = s.regs)) ∧
  (∀ (s : State) (d : Die) (tag : Fin 65536) (t : Txn),
    s.net.txns.find? (fun t => t.die = d && t.tag = tag.val) = some t →
    (s.leaving t = true ∨ s.now < t.sentAt + s.txnTimer t →
      exec (.retxTimer d tag) s = .next s ∧ (s.net.done = [] → ∃ s', exec (.remoteTimeout d tag) s = .next s' ∧ s'.net = s.net)) ∧
    (s.leaving t = false → t.sentAt + s.txnTimer t ≤ s.now →
    (t.sends < 2 → ¬ (d.val < 8 ∧ t.dstChip = s.chip ∧ t.dstDie = d.val) → s.clocksStopped = false →
      s.tenseNow ≤ t.tense + s.boundNs (s.scopeOf t.dstChip) →
      let live := t.cells.filter (fun c => decide (s.ageOf c.depart ≤ s.boundNs (s.scopeOf t.dstChip)))
      live ≠ [] →
      ∃ s', exec (.retxTimer d tag) s = .next s' ∧
        (∃ k ∈ s'.net.txns, k.die = d ∧ k.tag = tag.val ∧ k.sends = 2 ∧ k.sentAt = s.now ∧ k.cells = t.cells) ∧
        (d.val < 8 → s'.net.outbox.map MeshCell.cell = s.net.outbox.map MeshCell.cell ++ live.map s.again) ∧
        s'.fld (.xportRetx d) Fld.xportRetxCount = s.counted (.xportRetx d) Fld.xportRetxCount 1) ∧
    (t.tense + s.boundNs (s.scopeOf t.dstChip) ≤ s.tenseNow → s.net.done = [] →
      (∃ tile k, t.user = .dma tile k) →
      ∃ s', exec (.remoteTimeout d tag) s = .next s' ∧ s'.net.done = [⟨t.user, .timeout⟩] ∧
        s'.fld (.xportTimeouts d) Fld.xportTimeoutsCount = s.counted (.xportTimeouts d) Fld.xportTimeoutsCount 1)))

/-- LOAD, STORE, the atomics, the reductions and the ACC operations read and write the ream as their OP says and are
answered (R232, R233, R234, R235, R236, R238, R239, R240, R310, R451). -/
def Obligations.ReamOperationsComplete : Prop :=
  let answered (s s' : State) (f : Folio) (o : ReadyOp) (a : Answer) : Prop :=
    s'.net.dups = s.net.dups.filter (fun r => !r.is (folioDie f) o.req) ++ [⟨folioDie f, o.req.srcChip, o.req.srcDie, o.req.tag, a, o.depart, o.came⟩] ∧
      s'.net.ready = s.net.ready.erase o
  ∀ (s : State) (f : Folio) (o : ReadyOp), s.headOp f = some o → s.clocksStopped = false →
    let row (op : Nat) : Option Instr := match op with
      | 0x00 => some (.load f) | 0x01 => some (.store f) | 0x08 => some (.atomAdd f) | 0x09 => some (.atomAnd f)
      | 0x0A => some (.atomOr f) | 0x0B => some (.atomXor f) | 0x0C => some (.atomSmin f) | 0x0D => some (.atomSmax f)
      | 0x0E => some (.atomUmin f) | 0x0F => some (.atomUmax f) | 0x10 => some (.atomSwap f) | 0x11 => some (.atomCas f)
      | 0x12 => some (.atomFadd f) | 0x18 => some (.redAdd f) | 0x19 => some (.redMax f) | 0x1A => some (.redMin f)
      | 0x20 => some (.accAdd f) | 0x21 => some (.accCarry f) | 0x22 => some (.accWide f) | _ => none
    let waits := o.inVat = false ∧ s.biasWaits f (o.span s f).1 (o.span s f).2 = true
    (o.isAcc = false → o.span s f = (o.off, o.length)) ∧
    (∀ op c, row op = some c → op ≠ o.op ∨ waits → exec c s = .next s) ∧
    ∀ c, row o.op = some c → ¬ waits →
    (∀ r, s.net.dups.find? (fun r => r.is (folioDie f) o.req) = some r → o.op ≠ 0 →
      ∃ s', exec c s = .next s' ∧ s'.mem = s.mem ∧ s'.net.ready = s.net.ready.erase o ∧ s'.net.dups = s.net.dups ∧
        s'.fld (.xportDuplicates (folioDie f)) Fld.xportDuplicatesCount
          = s.counted (.xportDuplicates (folioDie f)) Fld.xportDuplicatesCount 1) ∧
    (s.net.dups.find? (fun r => r.is (folioDie f) o.req) = none ∨ o.op = 0 →
    (opStatus s f o ≠ 0 → ∃ s', exec c s = .next s' ∧ answered s s' f o (.nak (opStatus s f o)) ∧ s'.mem = s.mem) ∧
    (opStatus s f o = 0 →
      (o.inVat = true → (∃ p ∈ vatParts f o.off o.length, (s.tile p.1).inReset = true) →
        ∃ s', exec c s = .next s' ∧ answered s s' f o (.nak 0x4B) ∧ s'.mem = s.mem) ∧
      (o.inVat = false → o.op = 0 → (∃ e ∈ s.reamMarks f o.off o.length, e.2 = .uncorrectable) →
        ∃ s', exec c s = .next s' ∧ answered s s' f o (.nak 9)) ∧
      (o.inVat = true → s.marks = [] → (∀ p ∈ vatParts f o.off o.length, (s.tile p.1).inReset = false) →
        (o.op = 0 → ∃ s', exec c s = .next s' ∧
          answered s s' f o (.reply (s.readMem (dieAddr f.val o.off) o.length)) ∧ s'.mem = s.mem) ∧
        (o.op = 1 → ∃ s', exec c s = .next s' ∧ answered s s' f o (.reply []) ∧
          s'.mem = s.mem.writeBytes (dieAddr f.val o.off) o.data)) ∧
      (o.inVat = false → s.marks = [] →
        let at' := reamAddr f o.off
        let old := s.readMem at' o.length
        (o.op = 0 → ∃ s', exec c s = .next s' ∧ answered s s' f o (.reply old) ∧ s'.mem = s.mem) ∧
        (o.op = 1 → ∃ s', exec c s = .next s' ∧ answered s s' f o (.reply []) ∧ s'.mem = s.mem.writeBytes at' o.data) ∧
        (o.isAtom = true → ∃ s', exec c s = .next s' ∧ answered s s' f o (.reply old) ∧
          s'.mem = s.mem.writeBytes at' (leBytes o.length (
            let a := leNat (o.data.take o.length)
            if o.op = 0x12 then
              (f32Add ((Rm.ofCode o.rm).getD .rne) (BitVec.ofNat 32 (leNat old)) (BitVec.ofNat 32 a)).1.toNat
            else atomic o.op (8 * o.length) (leNat old) a (leNat (o.data.drop o.length))))) ∧
        (o.isRed = true → ∃ s', exec c s = .next s' ∧ answered s s' f o (.reply []) ∧
          let w := fmtBytes o.fmt
          s'.mem = s.mem.writeBytes at' (((elements w old).zip (elements w o.data)).flatMap (fun p =>
            leBytes w (reduce o.op o.elem ((Rm.ofCode o.rm).getD .rne) o.satc (leNat p.1) (leNat p.2))))) ∧
        (o.isAcc = true →
          let i := (o.off - s.fld (.regionTarget f o.region) Fld.regionTargetOffset)
            / fmtBytes (s.fld (.regionCount f o.region) Fld.regionCountFmt)
          let slot (j : Nat) := reamAddr f (s.regionSlotOff f o.region + 64 * (i + j))
          ∃ s' a, exec c s = .next s' ∧ answered s s' f o a ∧
            (∀ j e, (elements o.accWidth o.data)[j]? = some e →
              s'.readMem (slot j) 64 = accSlot (applyAddend o.op o.elem (slotAcc (s.readMem (slot j) 64)) e).1) ∧
            (∀ x, (x < slot 0 ∨ slot (elements o.accWidth o.data).length ≤ x) → s'.readMem x 1 = s.readMem x 1) ∧
            (a = .nak 8 ∨ a = .reply []) ∧ (a = .nak 8 ↔ ∃ j e, (elements o.accWidth o.data)[j]? = some e ∧
              (applyAddend o.op o.elem (slotAcc (s.readMem (slot j) 64)) e).2 = true)))))

/-- The scrubber and refresh advance, and an engine queue is enabled, resumed, fed, fetched from and completed (R222,
R223, R224, R225, R242, R243, R246, R247, R451). -/
def Obligations.ReamUpkeepAndEngineQueuesComplete : Prop :=
  let rests (s : State) (m : Ream) : Prop := s.flag (.reamStatus m) Fld.reamStatusSelfRefresh = true
  (∀ (s : State) (m : Ream), (s.flag (.reamScrub m) Fld.reamScrubEnable = false ∨ rests s m → exec (.reamScrub m) s = .next s) ∧
    (s.flag (.reamScrub m) Fld.reamScrubEnable = true → ¬ rests s m → s.clocksStopped = false → s.marks = [] →
    let k := Store.get (fun _ => 0) s.scrubStep m
    ∃ s', exec (.reamScrub m) s = .next s' ∧ s'.mem = s.mem ∧
      Store.get (fun _ => 0) s'.scrubStep m = (if k + 1 = scrubPass then 0 else k + 1) ∧
      s'.fld (.reamScrub m) Fld.reamScrubPasses
        = (if k + 1 = scrubPass then s.counted (.reamScrub m) Fld.reamScrubPasses 1
          else s.fld (.reamScrub m) Fld.reamScrubPasses))) ∧
  (∀ (s : State) (m : Ream) (bank : Fin 2048) (queued : Bool) (rows : Fin 2048), s.clocksStopped = false →
    (rests s m → exec (.refresh m bank queued rows) s = .next s) ∧
    (¬ rests s m →
    let key := m.val * 2048 + bank.val
    let n := Store.get (fun _ => 0) s.postponed key
    ∃ s', exec (.refresh m bank queued rows) s = .next s' ∧ s'.flag (.reamStatus m) Fld.reamStatusHot = s.reamHot m ∧
      (queued = true ∧ n < 8 → Store.get (fun _ => 0) s'.postponed key = n + 1) ∧
      (¬ (queued = true ∧ n < 8) → Store.get (fun _ => 0) s'.postponed key = 0 ∧
        s'.fld (.reamHammer m) Fld.reamHammerCount = s.counted (.reamHammer m) Fld.reamHammerCount (s.bank key).due ∧
        (s'.bank key).row = none ∧ (s'.bank key).due = 0 ∧
        (∀ r, Store.get (fun _ => 0) (s'.bank key).counts r
          = if r / 8 = rows.val then 0 else Store.get (fun _ => 0) (s.bank key).counts r) ∧
        s'.fld (.reamRefresh m) Fld.reamRefreshForced
          = (if queued then s.counted (.reamRefresh m) Fld.reamRefreshForced 1
            else s.fld (.reamRefresh m) Fld.reamRefreshForced)))) ∧
  (∀ (s : State) (src : Src) (f : Folio) (q : Ecq) (ctl : W64), s.reaches (.ecqCtl f q) →
    (∀ v, s.heeds src (Reg.ecqCtl f q).addr v) → s.flag (.ecqCtl f q) Fld.ecqCtlEnable = false →
    (Fld.ecqCtlEnable.get ctl = 1 → ∃ s', exec (.ecqCtlEnable src f q ctl) s = .next s' ∧
      s'.flag (.ecqCtl f q) Fld.ecqCtlEnable = true ∧ s'.fld (.ecqHead f q) Fld.ecqHeadIndex = 0 ∧
      (s'.ecq f q).tail = 0 ∧ s'.mem = s.mem) ∧
    (Fld.ecqCtlEnable.get ctl = 0 → s.flag (.ecqCtl f q) Fld.ecqCtlError = false → s.marks = [] → s.noOps f →
      s.biasWaits f (8 * s.fld (.ecqTailAddr f q) Fld.ecqTailAddrAddr) 8 = false →
      let tail := s.readLe (reamAddr f (8 * s.fld (.ecqTailAddr f q) Fld.ecqTailAddrAddr)) 8 % 2 ^ 32
      (tail + 2 ^ 32 - s.fld (.ecqHead f q) Fld.ecqHeadIndex) % 2 ^ 32 ≤ 2 ^ s.fld (.ecqSize f q) Fld.ecqSizeLog2 →
      ∃ s', exec (.ecqResume src f q ctl) s = .next s' ∧ s'.flag (.ecqCtl f q) Fld.ecqCtlEnable = true ∧
        s'.fld (.ecqHead f q) Fld.ecqHeadIndex = s.fld (.ecqHead f q) Fld.ecqHeadIndex ∧ (s'.ecq f q).tail = tail)) ∧
  (∀ (s : State) (f : Folio) (q : Ecq), s.enginesUp f = true → s.marks = [] → s.noOps f →
    let head := s.fld (.ecqHead f q) Fld.ecqHeadIndex
    (s.flag (.ecqCtl f q) Fld.ecqCtlEnable = true →
      (s.biasWaits f (8 * s.fld (.ecqTailAddr f q) Fld.ecqTailAddrAddr) 8 = true →
        ∃ s', exec (.ecqTailWrite f q) s = .next s' ∧ (s'.ecq f q).unread = true ∧ s'.regs = s.regs ∧ s'.mem = s.mem) ∧
      (s.biasWaits f (8 * s.fld (.ecqTailAddr f q) Fld.ecqTailAddrAddr) 8 = false →
       let tail := s.readLe (reamAddr f (8 * s.fld (.ecqTailAddr f q) Fld.ecqTailAddrAddr)) 8 % 2 ^ 32
       ∃ s', exec (.ecqTailWrite f q) s = .next s' ∧ (s'.ecq f q).tail = tail ∧ s'.mem = s.mem ∧
         if (tail + 2 ^ 32 - head) % 2 ^ 32 ≤ 2 ^ s.fld (.ecqSize f q) Fld.ecqSizeLog2 then
           ∀ r, (∀ m, r ≠ .reamStatus m) → s'.reg r = s.reg r
         else s'.flag (.ecqCtl f q) Fld.ecqCtlEnable = false ∧ s'.flag (.ecqCtl f q) Fld.ecqCtlError = true ∧
           s'.fld (.ecqCtl f q) Fld.ecqCtlErrorCode = 1) ∧
      ((s.ecq f q).run = none → (s.ecq f q).unread = false → (s.ecq f q).tail ≠ head →
        let off := 64 * s.fld (.ecqBase f q) Fld.ecqBaseAddr + head % 2 ^ s.fld (.ecqSize f q) Fld.ecqSizeLog2 * 64
        (s.biasWaits f off 64 = true → exec (.ecqRecordFetch f q) s = .next s) ∧
        (s.biasWaits f off 64 = false →
        let ws := (elements 8 (s.readMem (reamAddr f off) 64)).map (fun b => BitVec.ofNat 64 (leNat b))
        (badCpl s f (cmdOf ws) = false → ∃ s', exec (.ecqRecordFetch f q) s = .next s' ∧
          (s'.ecq f q).run = some ⟨ws, head, (cmdOf ws).badField, if (cmdOf ws).badField then 1 else 0, 0, 0, 0, false⟩) ∧
        (badCpl s f (cmdOf ws) = true → ∃ s', exec (.ecqRecordFetch f q) s = .next s' ∧
          s'.flag (.ecqCtl f q) Fld.ecqCtlEnable = false ∧ s'.flag (.ecqCtl f q) Fld.ecqCtlError = true ∧
          s'.fld (.ecqCtl f q) Fld.ecqCtlErrorCode = 3)))) ∧
    (∀ r, (s.ecq f q).run = some r → s.biasWaits f (cmdOf r.words).cplOff 32 = true →
      exec (.engineCommandComplete f q) s = .next s) ∧
    (∀ r, (s.ecq f q).run = some r → r.done = true → s.biasWaits f (cmdOf r.words).cplOff 32 = false →
      ∃ s', exec (.engineCommandComplete f q) s = .next s' ∧ (s'.ecq f q).run = none ∧
        (s.flag (.ecqCtl f q) Fld.ecqCtlEvent = false →
          s'.mem = s.mem.writeBytes (reamAddr f (cmdOf r.words).cplOff) (cmdRecord s (cmdOf r.words) r)) ∧
        s'.fld (.ecqDone f q) Fld.ecqDoneCount = s.counted (.ecqDone f q) Fld.ecqDoneCount 1 ∧
        s'.fld (.ecqHead f q) Fld.ecqHeadIndex = (if r.stale then head else (r.index + 1) % 2 ^ 32) ∧
        ((cmdOf r.words).code = 0x08 → r.status = 0 →
          s'.fld (.regionState f (cmdOf r.words).region) Fld.regionStateState = 1)))

/-- The engine commands convert, move, elide, restore, finish regions and update weights as their records say (R236,
R237, R238, R244, R245, R248, R249, R250). -/
def Obligations.EngineCommandsComplete : Prop :=
  ∀ (s : State) (f : Folio) (q : Ecq) (r : EcqRun), (s.ecq f q).run = some r → r.done = false → s.enginesUp f = true →
    s.biasWaits f 0 reamLimit = false → s.marks = [] →
    s.noOps f →
    let c := cmdOf r.words
    let good := (runCmd s f c).2.status = 0
    let open' := s.fld (.regionState f c.region) Fld.regionStateState = 1
    let idx (i : Nat) := s.readLe (reamAddr f (c.aux + 4 * i)) 4
    let set (i : Nat) := (s.mem.read (reamAddr f (c.aux + i / 8))).toNat.testBit (i % 8)
    let rank (i : Nat) := ((List.range i).filter set).length
    let ends (i : Instr) (p : State → EcqRun → Prop) : Prop :=
      ∃ s' r', exec i s = .next s' ∧ (s'.ecq f q).run = some r' ∧ r'.done = true ∧ r'.words = r.words ∧
        r'.status = (runCmd s f c).2.status ∧ p s' r'
    (c.code = 0x01 → ends (.convert f q) (fun s' r' => ∀ a b rm, Fmt.ofCode c.srcFmt = some a → Fmt.ofCode c.dstFmt = some b →
      Rm.ofCode c.rm = some rm → rm ≠ .sr → a.isMx = false → b.isMx = false → a.width % 8 = 0 → b.width % 8 = 0 → good →
      r'.count = c.count ∧ ∀ i < c.count,
        s'.readLe (reamAddr f (c.dst + i * (b.width / 8))) (b.width / 8)
          = (b.elem.encode rm c.satc 0 (a.elem.decode
              (s.readLe (reamAddr f (c.src + i * (a.width / 8))) (a.width / 8)))).1 % 2 ^ b.width)) ∧
    (c.code = 0x02 → ends (.engGather f q) (fun s' _ => good → ∀ i < c.count,
      s'.readMem (reamAddr f (c.dst + i * c.rowBytes)) c.rowBytes
        = if idx i = padIndex then List.replicate c.rowBytes 0
          else s.readMem (reamAddr f (c.src + idx i * c.pitch)) c.rowBytes)) ∧
    (c.code = 0x03 → ends (.engScatter f q) (fun s' _ => good → ∀ i < c.count, idx i ≠ padIndex →
      (∀ j < c.count, i < j → idx j = padIndex ∨
        rangesMeet (c.dst + idx i * c.pitch) c.rowBytes (c.dst + idx j * c.pitch) c.rowBytes = false) →
      s'.readMem (reamAddr f (c.dst + idx i * c.pitch)) c.rowBytes
        = s.readMem (reamAddr f (c.src + i * c.rowBytes)) c.rowBytes)) ∧
    (c.code = 0x04 → ends (.engElide f q) (fun s' r' => good → c.flags.testBit 0 = false →
      r'.result = rank c.count ∧ ∀ i < c.count, set i = true →
        s'.readMem (reamAddr f (c.dst + rank i * c.rowBytes)) c.rowBytes
          = s.readMem (reamAddr f (c.src + i * c.pitch)) c.rowBytes)) ∧
    (c.code = 0x05 → ends (.engRestore f q) (fun s' _ => good → c.rowBytes ≤ c.pitch → ∀ i < c.count,
      (set i = true → s'.readMem (reamAddr f (c.dst + i * c.pitch)) c.rowBytes
        = s.readMem (reamAddr f (c.src + rank i * c.rowBytes)) c.rowBytes) ∧
      (set i = false → c.flags.testBit 1 = true →
        s'.readMem (reamAddr f (c.dst + i * c.pitch)) c.rowBytes = List.replicate c.rowBytes 0))) ∧
    (c.code = 0x08 → ends (.regionOpen f q) (fun s' _ => good → c.flags.testBit 0 = false → ∀ j < c.count,
      s'.readMem (reamAddr f (c.aux + 64 * j)) 64 = accSlot LongAcc.clear)) ∧
    (c.code = 0x09 → ends (.regionFinal f q) (fun s' r' =>
      let n := s.fld (.regionCount f c.region) Fld.regionCountCount
      let e := (Fmt.ofCode (s.fld (.regionCount f c.region) Fld.regionCountFmt)).getD .fp32
      let w := fmtBytes e.code
      let target := s.fld (.regionTarget f c.region) Fld.regionTargetOffset
      let slots := s.regionSlotOff f c.region
      (open' → s'.fld (.regionState f c.region) Fld.regionStateState = 0 ∧ r'.count = n ∧
        (∀ rm, Rm.ofCode c.rm = some rm → rm ≠ .sr → rangesMeet target (n * w) slots (64 * n) = false → ∀ j < n,
          s'.readLe (reamAddr f (target + j * w)) w
            = ((slotAcc (s.readMem (reamAddr f (slots + 64 * j)) 64)).read e.elem rm c.satc 0).1 % 2 ^ (8 * w))) ∧
      (¬ open' → r'.status = 5 ∧ s'.mem = s.mem ∧ s'.regs = s.regs))) ∧
    (c.code = 0x0A → ends (.regionAbandon f q) (fun s' r' => s'.mem = s.mem ∧
      (open' → r'.status = 0 ∧ s'.fld (.regionState f c.region) Fld.regionStateState = 0) ∧
      (¬ open' → r'.status = 5 ∧ s'.regs = s.regs))) ∧
    (let update (s' : State) : Prop := good →
      let b := optBlock (decide (c.code = 0x10)) (s.readMem (reamAddr f c.aux) 128)
      let word (off i : Nat) : W32 := BitVec.ofNat 32 (s.readLe (reamAddr f (off + 4 * i)) 4)
      let g (i : Nat) := ((Fmt.ofCode c.srcFmt).getD .fp32).elem.decode
        (s.readLe (reamAddr f (b.g + i * fmtBytes c.srcFmt)) (fmtBytes c.srcFmt))
      ∀ i < c.count, s'.readLe (reamAddr f (b.w + 4 * i)) 4
        = if c.flags.testBit 2 && ((g i).isNaN || (g i).isInf) then s.readLe (reamAddr f (b.w + 4 * i)) 4
          else (optStep c.code (c.flags.testBit 0) b.k ((toF32 .rne (g i)).1) (word b.w i) (word b.m i)
            (if c.code = 0x10 then 0 else word b.v i)).1.toNat
     (c.code = 0x10 → ends (.sgdm f q) (fun s' _ => update s')) ∧
     (c.code = 0x11 → ends (.adam f q) (fun s' _ => update s')) ∧
     (c.code = 0x12 → ends (.adamw f q) (fun s' _ => update s')))

/-- COLL_CREATE, JOIN, CREATE_TIMEOUT, COLL_PREEMPT, COLL_RESUME, COLL_DESTROY and FORCE_ARRIVE move a group between
its states (R350, R351, R352, R354, R377, R381). -/
def Obligations.GroupsAreCreatedAndEnded : Prop :=
  (∀ (s : State) (src : Src) (g : Coll) (ctl : W64),
    let fields : List Field := [Fld.collCtlCreate, Fld.collCtlDestroy, Fld.collCtlPreempt, Fld.collCtlResume, Fld.collCtlForceArrive]
    let only (f : Field) : Prop := (∀ k ∈ fields, k ≠ f → k.get ctl = 0) ∧ s.accepts (.collCtl g) (f.set ctl 1) ∧
      s.heeds src (Reg.collCtl g).addr (f.set ctl 1)
    let u (f : Field) := s.setReg (.collCtl g) (s.stores (.collCtl g) (f.set ctl 1))
    (only Fld.collCtlCreate → s.collState g = 0 →
      ((u Fld.collCtlCreate).createReason g ≠ 0 → ∃ s', exec (.collCreate src g ctl) s = .next s' ∧ s'.collState g = 5 ∧
        s'.fld (.collStatus g) Fld.collStatusReason = (u Fld.collCtlCreate).createReason g) ∧
      ((u Fld.collCtlCreate).createReason g = 0 → s.earlyJoins = [] →
        ∃ s', exec (.collCreate src g ctl) s = .next s' ∧ (s'.group g).reserved = true ∧ (s'.group g).createdAt = s.now ∧
          s'.collState g = (if s.allOthers g = [] then 2 else 1))) ∧
    (only Fld.collCtlDestroy → s.collState g ≠ 0 →
      ∃ s', exec (.collDestroy src g ctl) s = .next s' ∧ s'.collState g = 0 ∧ (s'.group g).queue = [] ∧
        (s'.group g).reserved = false ∧
        ∀ e ∈ (s.group g).queue, ∃ r ∈ (s'.group g).ended, r.entry = e ∧ r.status = 0x24 ∧ r.committed = false) ∧
    (only Fld.collCtlPreempt → s.collState g = 2 →
      ∃ s', exec (.collPreempt src g ctl) s = .next s' ∧
        s'.collState g = (if (s.group g).exchange then 2 else 3) ∧
        (s'.group g).pausing = ((s.group g).pausing || (s.group g).exchange)) ∧
    (only Fld.collCtlResume → s.collState g = 3 →
      ∃ s', exec (.collResume src g ctl) s = .next s' ∧ s'.collState g = 2 ∧ s'.group g = s.group g) ∧
    (only Fld.collCtlForceArrive → s.collRuns g = true → (s.group g).arrival = none → (s.group g).exchange = false →
      ∃ s', exec (.forceArrive src g ctl) s = .next s' ∧ (s'.group g).arrival = some ⟨s.currentStep g, s.chip, s.tenseNow,
        s.chip, Fld.collCtlArriveReason.get ((u Fld.collCtlForceArrive).reg (.collCtl g)), false⟩)) ∧
  (∀ (s w : State) (n : Deckle) (c : Cell) (g : Coll) (a : Assembly), s.takesColl 0x08 n c g a w →
    let bs := cellsData a.cells
    let j : JoinMsg := joinMsg c bs
    let joins := (s.group g).joins ++ [j]
    ∃ s', exec (.join n c) s = .next s' ∧ j ∈ (s'.group g).joins ∧
      (s.collState g = 1 → j.chip ∈ s.allOthers g → s.joinAgrees g j = false →
        s'.collState g = 5 ∧ s'.fld (.collStatus g) Fld.collStatusReason = 1) ∧
      (s.collState g = 1 → s.strangeJoins g = [] → (∀ k ∈ joins, k.chip ∈ s.allOthers g → s.joinAgrees g k = true) →
        (∀ m ∈ s.allOthers g, (∃ k ∈ joins, k.chip = m ∧ k.round = 0) ∧ ∃ k ∈ joins, k.chip = m ∧ k.round = 1) →
        s'.collState g = 2)) ∧
  (∀ (s : State) (g : Coll), s.collState g = 1 →
    (s.group g).createdAt + 1000000 * s.fld (.collTimeout g) Fld.collTimeoutCreateMs ≤ s.now →
    ∃ s', exec (.createTimeout g) s = .next s' ∧ s'.collState g = 5 ∧ s'.fld (.collStatus g) Fld.collStatusReason = 6)

/-- Entries are validated, the device arrives, arrivals are held, the exchange begins and its entries start (R353,
R354, R355, R357, R358, R359, R361, R362, R369, R372, R373). -/
def Obligations.StepsArriveAndStart : Prop :=
  let begun (s : State) (g : Coll) (e : Entry) : Entry :=
    { e with started := true, overflow := s.overflowOf g e, ovfAny := e.ovfAny || decide (0 < s.overflowOf g e) }
  (∀ (s : State) (g : Coll), s.clocksStopped = false →
    (∀ e, (s.group g).candidate = some e →
      ∃ u : State, exec (.entryValidate g) s = .next (u.takeEarly g) ∧ (u.group g).early = (s.group g).early ∧
        (s.entryStatus g e ≠ 0 → (u.group g).queue = (s.group g).queue.erase e ∧
          ∃ r, (u.group g).ended = (s.group g).ended ++ [r] ∧ r.entry = e ∧ r.status = s.entryStatus g e) ∧
        (s.entryStatus g e = 0 → { e with valid := true } ∈ (u.group g).queue ∧
          (u.group g).nextEntry = (s.group g).nextEntry + 1 ∧ (e.number = 0 → (u.group g).firstTense = e.tense))) ∧
    (s.collRuns g = true → (s.group g).arrival = none → (s.group g).exchange = false → s.arrivalReady g = true →
      let tense := (s.group g).readyAt.getD s.tenseNow
      ∃ s', exec (.deviceArrival g) s = .next s' ∧ (s'.group g).arrival = some ⟨s.currentStep g, s.chip, tense, s.chip,
        if (s.group g).thermal then 1 else if (s.group g).capped then 2
          else if tense > (s.group g).firstTense then 4 else 0, false⟩) ∧
    (∀ held a, (s.group g).heldAt = some held → (s.group g).arrival = some a → s.collState g = 2 →
      (s.group g).exchange = false → s.entryZero g = true →
      (s.unlockedNow = true ∨ (s.group g).firstTense ≤ s.tenseNow) →
      ∃ s' last, exec (.exchangeStart g) s = .next s' ∧ (s'.group g).exchange = true ∧ (s'.group g).last = some last ∧
        a.tense ≤ last.tense ∧ (s'.group g).tilesNow = [] ∧ (s'.group g).thermal = false ∧ (s'.group g).capped = false ∧
        (s'.group g).late = decide ((s.group g).firstTense < held) ∧
        ∀ t ∈ s.tileSet g, t ∈ (s.group g).tilesNow → s'.tagBusy t tagBarrier = false) ∧
    (∀ e rest, (s.group g).queue = e :: rest → s.mayStart g e = true →
      (e.op = 1 → e.update = false → ∃ s', exec (.reduceScatter g) s = .next s' ∧
        (s'.group g).queue.head? = some (begun s g e) ∧ s'.regs = s.regs) ∧
      (e.op = 1 → e.update = true → ∀ st, (s.templateStatus g e).2 = some st → ∃ s', exec (.reduceScatter g) s = .next s' ∧
        (st = 0 → (s'.group g).queue.head? = some (begun s g e)) ∧
        (st ≠ 0 → ∃ r ∈ (s'.group g).ended, r.entry = e ∧ r.status = st)) ∧
      (e.op = 2 → ∃ s', exec (.allGather g) s = .next s' ∧
        (s'.group g).queue.head? = some (begun s g e) ∧ s'.regs = s.regs)) ∧
    (∀ e k rest, (s.group g).queue = e :: k :: rest → e.op = 1 → e.started = true → k.op = 2 → k.follow = true →
      s.mayStart g k = true → ∃ s', exec (.allGather g) s = .next s' ∧
        (s'.group g).queue[1]? = some (begun s g k) ∧ s'.regs = s.regs)) ∧
  (∀ (s w : State) (n : Deckle) (c : Cell) (g : Coll) (a : Assembly), s.takesColl 0x09 n c g a w →
    let bs := cellsData a.cells
    ∃ s', exec (.arrive n c) s = .next s' ∧ (s'.group g).heard = (s.group g).heard ++
      if s.currentStep g ≤ bytesNat bs 4 4 then [⟨bytesNat bs 4 4, c.srcChip.toNat, bytesNat bs 8 8, bytesNat bs 16 2,
        bytesNat bs 18 1, decide (bytesNat bs 19 1 % 2 = 1)⟩] else [])

/-- Contributions, carries, chunks and credits are sent and taken, and accumulations finish (R360, R361, R362, R363,
R364, R365, R367, R368, R369, R370, R371, R372). -/
def Obligations.ChunksMoveAndAreAccumulated : Prop :=
  (∀ (s : State) (g : Coll) (e : Entry), s.collRuns g = true → s.clocksStopped = false → s.marks = [] →
    (s.rsEntry g = some e → e.started = true →
      (∀ chip : BitVec 14,
        let x := Store.get (fun _ => 0) (s.group g).sentX chip.toNat
        let limit := if chip.toNat = s.chip then (s.group g).base
          else Store.get (fun _ => 0) (s.group g).creditOf (e.number * 2 ^ 14 + chip.toNat)
        (chip.toNat = s.chip ∨ chip.toNat ∈ s.localPeers g) → x < s.accumCount g → x < limit + 4 →
        (chip.toNat = s.chip ∨ (s.freeTag (deckleDie s.engineDeckle)).isSome = true) →
        ∃ s', exec (.chunkSend g (.contrib chip)) s = .next s' ∧
          Store.get (fun _ => 0) (s'.group g).sentX chip.toNat = x + 1 ∧
          (chip.toNat = s.chip → s.chip ∈ ((s'.group g).accum x).came) ∧
          (chip.toNat ≠ s.chip → (s'.group g).works = (s.group g).works ++
            [⟨(s.group g).nextWork, chip.toNat, .contrib e.number⟩])) ∧
      (∀ k, (s.group g).carries.find? (fun c => decide (c.x < Store.get (fun _ => 0) (s.group g).creditOf
          (e.number * 2 ^ 14 + s.ringNext g) + 4)) = some k → (s.freeTag (deckleDie s.engineDeckle)).isSome = true →
        ∃ s', exec (.chunkSend g .carry) s = .next s' ∧ (s'.group g).carries = (s.group g).carries.erase k ∧
          (s'.group g).works = (s.group g).works ++ [⟨(s.group g).nextWork, s.ringNext g, .carry e.number k.mine⟩])) ∧
    ((s.group g).queue.find? (fun e => decide (e.op = 2) && e.started && decide (e.step = s.currentStep g)) = some e →
      (s.group g).ownChunk < s.capChunks g → s.chunkReady g e (s.group g).ownChunk = true →
      (e.commit = true → ((s.group g).written.filter (fun w => w.1 = e.number)).length + 1 < s.memberCount g * s.capChunks g) →
      ∃ s', exec (.chunkSend g .copy) s = .next s' ∧
        (e.number, (s.rank g * s.ringLen g + s.ringPos g) * s.capChunks g + (s.group g).ownChunk) ∈ (s'.group g).written) ∧
    (∀ o, (s.group g).outChunks.find? (fun o => o.toRing) = some o → s.roomFor g o (s.ringNext g) = true →
      (s.freeTag (deckleDie s.engineDeckle)).isSome = true →
      ∃ s', exec (.chunkSend g .forward) s = .next s' ∧ Store.get (fun _ => 0) (s'.group g).outstanding (s.ringNext g)
        = Store.get (fun _ => 0) (s.group g).outstanding (s.ringNext g) + 1) ∧
    (∀ o, (s.group g).outChunks.find? (fun o => o.toLocal) = some o →
      (∀ c ∈ s.localPeers g, s.roomFor g o c = true) →
      (s.openCopies g s.engineDeckle o (s.localPeers g)).isSome = true →
      ∃ s', exec (.chunkSend g .multicast) s = .next s' ∧ ∀ c ∈ s.localPeers g,
        Store.get (fun _ => 0) (s'.group g).outstanding c = Store.get (fun _ => 0) (s.group g).outstanding c + 1)) ∧
  (∀ (s w : State) (n : Deckle) (c : Cell) (g : Coll) (a : Assembly) (e : Entry) (data : List Byte),
    let bs := cellsData a.cells
    let h := chunkHeader bs
    let len := max 1 (s.ringLen g)
    let x := h.chunk * len + h.rstep
    let k := (s.group g).accum x
    let ok := chunkData bs = some data ∧ s.namedEntry g h = some e ∧ h.sig = e.sig ∧ e.valid = true ∧ h.chunk < s.capChunks g ∧
      s.marks = []
    let inWindow := h.pad = decide (h.valid = 0) ∧ h.valid ≤ e.perChunk ∧ e.op = 1 ∧ (s.rsEntry g).map Entry.number = some e.number ∧ (s.group g).base ≤ x ∧
      x < (s.group g).base + 4 ∧ h.rstep < len ∧ h.shard = s.shardOf g (s.rank g) x ∧ (deckleDie n).val = 8 + x % 2
    (s.takesColl 0x0A n c g a w → ok → inWindow → h.seg = 0 → h.esc = 0 →
      data.length = (h.valid * fmtWidth e.inFmt + 7) / 8 → c.srcChip.toNat ∈ s.localPeers g → c.srcChip.toNat ∉ k.came →
      ∃ s', exec (.contrib n c) s = .next s' ∧
        (s'.group g).accum x = (a.cells.foldl (Accum.addCell e h) k).complete c.srcChip.toNat h.valid h.ovf) ∧
    (s.takesColl 0x0B n c g a w → ok → inWindow → 0 < h.rstep → 1 < s.ringLen g → c.srcChip.toNat = s.ringPrev g →
      k.carried = false →
      let sum := decide (e.redop = 0)
      let i := k.carry.getD ⟨h.valid, h.esc, []⟩
      let i' : CarryIn := { i with segs := i.segs ++ [(h.seg, data)] }
      let k' := { k with carry := some i', ovf := k.ovf || h.ovf }
      h.valid = i.valid → h.esc = i.esc → h.seg < segCount sum h.valid h.esc → (sum = true ∨ h.esc = 0) →
      (∀ p ∈ i.segs, p.1 ≠ h.seg) → data.length = (if h.valid = 0 then 0 else segLength sum h.valid h.esc h.seg) →
      (sum = true → h.seg < (h.valid + 8191) / 8192 → ∀ b ∈ elements 8 data,
        decodeCarry (BitVec.ofNat 64 (leNat b)) ≠ .invalid) →
      ∀ r, (if i'.segs.length = segCount sum i'.valid i'.esc then k'.applyCarry e i' else some k') = some r →
        ∃ s', exec (.carry n c) s = .next s' ∧ (s'.group g).accum x = r) ∧
    (s.takesColl 0x0C n c g a w → ok → e.op = 2 → h.pad = decide (h.elems = 0) → h.elems ≤ e.perChunk →
      (e.commit = true → ((s.group g).written.filter (fun w => w.1 = e.number)).length + 1 < s.memberCount g * s.capChunks g) → h.rstep = 0 →
      h.seg = 0 → h.esc = 0 → h.shard < s.memberCount g → data.length = (h.elems * fmtWidth e.inFmt + 7) / 8 →
      let j := h.shard * s.capChunks g + h.chunk
      c.srcChip.toNat ∈ s.localPeers g → h.shard / len = s.localRank g (c.srcChip.toNat % 16) →
      (deckleDie n).val = 8 + j % 2 → (e.number, j) ∉ (s.group g).written → (s.group g).stage = [] →
      ∃ s', exec (.gather n c) s = .next s' ∧ (e.number, j) ∈ (s'.group g).written ∧
        s'.net.dups = s.net.dups ∧ (∃ q ∈ (s'.group g).stage, q.chip = c.srcChip.toNat ∧ q.owed.isSome = true) ∧
        (e.outFmt = e.inFmt → fmtWidth e.inFmt % 8 = 0 →
          let p := chunkPlace e.dst (e.span e.outFmt) j
          p.2 + data.length ≤ reamLimit → s'.readMem (reamAddr p.1 p.2) data.length = data)) ∧
    (s.takesColl 0x0D n c g a w → bytesNat bs 4 4 = s.currentStep g →
      let key := bytesNat bs 8 8 % 256 * 2 ^ 14 + c.srcChip.toNat
      ∃ s', exec (.credit n c) s = .next s' ∧ Store.get (fun _ => 0) (s'.group g).creditOf key
        = max (bytesNat bs 16 8) (Store.get (fun _ => 0) (s.group g).creditOf key))) ∧
  (∀ (s : State) (g : Coll) (x : Nat) (e : Entry) (a : Accum), s.rsEntry g = some e →
    (s.group g).accums.find? (fun a => a.x = x) = some a → s.collRuns g = true → s.clocksStopped = false → s.marks = [] →
    let len := max 1 (s.ringLen g)
    (a.finished = false → s.accumFull g a = true → e.started = true →
      (x % len ≠ len - 1 → ∃ s', exec (.accumulationFinish g x) s = .next s' ∧ ((s'.group g).accum x).finished = true ∧
        (s'.group g).carries = (s.group g).carries ++ s.carrySegments g e a) ∧
      (x % len = len - 1 → a.valid ≠ 0 → fmtWidth e.outFmt % 8 = 0 →
        let p := chunkPlace e.dst (e.span e.outFmt) (x / len)
        s.noOps p.1 → ∃ s', exec (.accumulationFinish g x) s = .next s' ∧ s'.mem = s.mem.writeBytes (reamAddr p.1 p.2)
          ((a.result e).1.flatMap (fun v => leBytes (fmtWidth e.outFmt / 8) v)))) ∧
    (a.updating = true →
      let f : Folio := Fin.ofNat 8 (x / len)
      let t := cmdOf ((elements 8 (s.readMem (reamAddr f e.updOff) 64)).map (fun b => BitVec.ofNat 64 (leNat b)))
      let k := { t with count := a.valid }
      let r := runOptimizerAt s f k (x / len / 8 * e.perChunk)
      s.noOps f → k.badField = false → k.code ∈ [0x10, 0x11, 0x12] → r.2.status = 0 →
      ∃ s', exec (.fusedUpdateDone g x) s = .next s' ∧ s'.mem = r.1.mem ∧
        ∀ b ∈ (s'.group g).accums, b.x = x → b.updating = false)) ∧
  (∀ (s : State) (g : Coll) (slot : Nat) (q : StageSlot), (s.group g).stage.find? (fun q => q.slot = slot) = some q →
    (q.owed = none → exec (.stagingSlotFree g slot) s = .next s) ∧
    ∀ o, q.owed = some o → q.copies = 0 → (∀ k ∈ (s.group g).outChunks, k.slot ≠ some slot) → s.clocksStopped = false →
      ∃ s', exec (.stagingSlotFree g slot) s = .next s' ∧ (s'.group g).stage = (s.group g).stage.erase q ∧
        ∃ r ∈ s'.net.dups, r.answer = .reply [] ∧ r.is (deckleDie o.deckle) o.cell = true)

/-- Digests commit a step, ABORT and the step timeout end one, and completion records reach their address and tag
(R356, R374, R375, R378, R379, R382). -/
def Obligations.StepsCommitOrEnd : Prop :=
  (∀ (s w : State) (n : Deckle) (c : Cell) (g : Coll) (a : Assembly), s.takesColl 0x0E n c g a w →
    let bs := cellsData a.cells
    let d : DigestMsg := ⟨bytesNat bs 4 4, c.srcChip.toNat, BitVec.ofNat 256 (beNat ((bs.drop 16).take 32)),
      (bytesNat bs 8 8).testBit 0, (bytesNat bs 8 8).testBit 1⟩
    d.step = s.currentStep g →
    ((s.group g).digest = none →
      ∃ s', exec (.digest n c) s = .next s' ∧ (s'.group g).digests = (s.group g).digests ++ [d]) ∧
    (∀ e own, (s.group g).digest = some own →
      (s.group g).queue.find? (fun e => e.commit && e.started && decide (e.step = s.currentStep g)) = some e →
      s.counterparts g = [] → (∀ m ∈ s.localPeers g, ∃ k ∈ (s.group g).digests ++ [d],
        k.sender = m ∧ k.step = s.currentStep g ∧ k.summary = false) →
      (∀ k ∈ (s.group g).digests ++ [d], k.digest = own) →
      ∃ s', exec (.digest n c) s = .next s' ∧ (s'.group g).exchange = false ∧ (s'.group g).arrival = none ∧
        s'.fld (.collSteps g) Fld.collStepsCommitted = s.counted (.collSteps g) Fld.collStepsCommitted 1 ∧
        ∃ r ∈ (s'.group g).ended, r.entry = e ∧ r.status = 0 ∧ r.committed = true ∧ r.digest = own)) ∧
  (∀ (s w : State) (n : Deckle) (c : Cell) (g : Coll) (a : Assembly), s.takesColl 0x0F n c g a w →
    let bs := cellsData a.cells
    (bytesNat bs 8 8 = 1 → ∃ s', exec (.abort n c) s = .next s' ∧ s'.collState g = 4 ∧
      s'.fld (.collStatus g) Fld.collStatusReason = 8 ∧ (s'.group g).queue = []) ∧
    (bytesNat bs 8 8 ≠ 1 → s.collRuns g = true → bytesNat bs 4 4 = s.currentStep g →
      (∃ e ∈ (s.group g).queue, e.step = s.currentStep g) →
      ∃ s', exec (.abort n c) s = .next s' ∧
        s'.fld (.collSteps g) Fld.collStepsErrors = s.counted (.collSteps g) Fld.collStepsErrors 1 ∧
        ∀ e ∈ (s'.group g).queue, e.step ≠ s.currentStep g)) ∧
  (∀ (s : State) (g : Coll), s.collRuns g = true → s.entryZero g = true → s.clocksStopped = false →
    max (s.group g).firstTense (((s.group g).arrival.map ArriveMsg.tense).getD 0)
      + 1000 * s.fld (.collTimeout g) Fld.collTimeoutStepUs ≤ s.tenseNow →
    ∃ s', exec (.stepTimeout g) s = .next s' ∧ s'.collState g = 4 ∧ s'.fld (.collStatus g) Fld.collStatusReason = 8) ∧
  (∀ (s : State) (g : Coll) (r : Ended) (rest : List Ended), (s.group g).ended = r :: rest → s.clocksStopped = false →
    ∃ s', exec (.collectiveCompletion g) s = .next s' ∧ (s'.group g).ended = rest ∧ r.record.length = 64 ∧
      (r.entry.cplBad s.chip = true → s'.mem = s.mem) ∧
      (r.entry.cplBad s.chip = false → s.marks = [] → s.net.ready = [] →
        s'.mem = s.mem.writeBytes (dieAddr (r.entry.cplAddr / 2 ^ 46 % 16) (r.entry.cplAddr % 2 ^ 46)) r.record) ∧
      s'.tagBusy r.entry.tile (tagPost r.entry.post) = false ∧
      (r.status ≠ 0 → Store.get (fun _ => 0) (s'.tile r.entry.tile).postStatus r.entry.post.val = r.status))

/-- Ports are brought up step by step, identified, admitted, lost, switched off and released (R317, R338, R341, R343,
R392, R393, R395). -/
def Obligations.PortsComeUpAndGoDown : Prop :=
  (∀ (s : State) (p : Port), s.portUp p = true →
    (s.portMode p = 1 → (s.port p).step = 0 →
      (s.phyState p = 0 ∨ ((s.phyState p = 1 ∨ s.phyState p = 5) ∧ (s.port p).downAt + 100000000 ≤ s.now)) →
      ∃ s', exec (.portBringup p) s = .next s' ∧ s'.phyState p = 1 ∧ (s'.port p).step = 1 ∧ (s'.port p).since = s.now) ∧
    (s.portMode p = 2 → (s.port p).step = 0 → s.phyState p = 0 →
      ∃ s', exec (.portBringup p) s = .next s' ∧ s'.phyState p = 0 ∧ (s'.port p).step = 1 ∧ (s'.port p).since = s.now) ∧
    (∀ skew, 1 ≤ (s.port p).step → (s.port p).step ≤ 4 →
      ((s.port p).since + stepLimit (s.port p).step < s.now → exec (.portStepPass p skew) s = .next s) ∧
      ((s.port p).since + stepLimit (s.port p).step ≥ s.now → s.portMode p = 2 ∧ (s.port p).step = 2 →
        ∃ s', exec (.portStepPass p skew) s = .next s' ∧ s'.phyState p = 6 ∧ (s'.port p).step = 0) ∧
      ((s.port p).since + stepLimit (s.port p).step ≥ s.now → ¬ (s.portMode p = 2 ∧ (s.port p).step = 2) →
        ∃ s', exec (.portStepPass p skew) s = .next s' ∧ (s'.port p).step = (s.port p).step + 1 ∧
          ((s.port p).step = 1 → ∀ j < 18, let r : Fin 7274 := Fin.ofNat 7274 (18 * p.val + j)
            Store.find? s'.optics.codes r.val = some (s.heaterCode r (s.reading (ringSensor r.val)))) ∧
          ((s.port p).step = 3 → s'.fld (.portAsym p) Fld.portAsymSkew = skew.toNat) ∧
          s'.out = s.out ++ (if (s.port p).step = 4 then [.block p (s.identityBlock p)] else []))) ∧
    (∀ lost, 1 ≤ (s.port p).step → (s.port p).step ≤ 5 →
      (lost = true ∨ (s.port p).since + stepLimit (s.port p).step ≤ s.now) →
      ∃ s', exec (.portStepTimeout p lost) s = .next s' ∧ (s'.port p).step = 0 ∧ (s'.port p).downAt = s.now ∧
        s'.fld (.portPhy p) Fld.portPhyFailReason
          = (if (s.port p).step = 1 then s.fld (.portPhy p) Fld.portPhyFailReason else if (s.port p).step ≤ 3 then 5 else if (s.port p).step = 4 then 7 else 8)) ∧
    (∀ b : BitVec 512, ((s.port p).step = 5 ∨ s.refused p = true) → blockField b 0 8 = 0xB6 →
      (crc32c (blockBytes 60 b)).toNat = blockField b 480 32 →
      ∃ s', exec (.identityBlock p b) s = .next s' ∧ s'.phyState p = 2 ∧
        s'.fld (.portPhy p) Fld.portPhyFailReason = s.identityCode p b ∧
        s'.fld (.portPhy p) Fld.portPhyFarChip = blockField b 8 14 ∧
        (s'.port p).identified = decide (s.identityCode p b = 0)) ∧
    (s.refused p = true → (s.port p).checkedAt + 1000000000 ≤ s.now →
      ∃ s', exec (.identityRecheck p) s = .next s' ∧ s'.out = s.out ++ [.block p (s.identityBlock p)] ∧
        s'.fld (.portPhy p) Fld.portPhyFailReason = s.identityCode p (s.port p).ident) ∧
    (s.phyState p = 2 → (s.port p).identified = true → s.flag (.portAdmit p) Fld.portAdmitEnable = true →
      s.flag (.portViol p) Fld.portViolQuarantined = false → s.portMode p = 1 → s.tenseLocked = true → s.devMode ≠ 2 →
      ∃ s', exec (.portAdmission p) s = .next s' ∧ s'.phyState p = 3 ∧ s'.portLiveBit p = true ∧
        s'.linkCredit p = fullCredit ∧ ∀ q, q ≠ p → s'.portLiveBit q = s.portLiveBit q)) ∧
  (∀ (s : State) (p : Port) (words : BitVec 16), s.clocksStopped = false →
    (¬ (s.phyState p = 2 ∨ s.phyState p = 3) → ∃ s', exec (.lossOfFrame p words) s = .next s' ∧
      s'.fld (.fecUncorrected p) Fld.fecUncorrectedCount
        = s.counted (.fecUncorrected p) Fld.fecUncorrectedCount words.toNat ∧
      s'.net = s.net ∧ s'.optics = s.optics ∧ s'.phyState p = s.phyState p) ∧
    ((s.phyState p = 2 ∨ s.phyState p = 3) →
    ∃ s', exec (.lossOfFrame p words) s = .next s' ∧ s'.phyState p = 5 ∧ s'.portLiveBit p = false ∧
      (s'.port p).step = 0 ∧ (s'.port p).downAt = s.now ∧
      (∃ b, .block p b ∈ s'.out ∧ b.length = 64 ∧ b.getD 0 0 = 0xB5 ∧ b.getD 2 0 = 1) ∧
      s'.fld (.portLosses (portDeckle p)) Fld.portLossesCount
        = s.counted (.portLosses (portDeckle p)) Fld.portLossesCount 1)) ∧
  (∀ (s : State) (src : Src) (p : Port), s.accepts (.portAdmit p) 0 → s.accepts (.portAdmit p) 1 →
    (∃ s', exec (.portAdmitWrite src p true) s = .next s' ∧ s'.flag (.portAdmit p) Fld.portAdmitEnable = true) ∧
    (∃ s', exec (.portAdmitWrite src p false) s = .next s' ∧ s'.flag (.portAdmit p) Fld.portAdmitEnable = false ∧
      s'.portLiveBit p = false)) ∧
  (∀ (s : State) (src : Src) (n : Deckle) (modes : W64), s.accepts (.portMode n) modes →
    s.heeds src (Reg.portMode n).addr modes →
    ∃ s', exec (.portModeWrite src n modes) s = .next s' ∧ ∀ i < 32,
      (Fld.portMode i).get (s'.reg (.portMode n))
        = (if s.portLiveBit (portOf n i) then (Fld.portMode i).get (s.reg (.portMode n)) else (Fld.portMode i).get modes) ∧
      ((Fld.portMode i).get (s'.reg (.portMode n)) ≠ (Fld.portMode i).get (s.reg (.portMode n)) →
        s'.phyState (portOf n i) = 0 ∧ (s'.port (portOf n i)).identified = false)) ∧
  (∀ (s : State) (src : Src) (p : Port),
    (mayRelease src = false → ∃ s', exec (.quarantineRelease src p) s = .next s' ∧
      s'.flag (.portViol p) Fld.portViolQuarantined = s.flag (.portViol p) Fld.portViolQuarantined) ∧
    (s.reaches (.portViol p) → mayRelease src = true → ∃ s', exec (.quarantineRelease src p) s = .next s' ∧ s'.flag (.portViol p) Fld.portViolQuarantined = false ∧
      s'.fld (.portViol p) Fld.portViolCount = 0))

/-- Lost and degraded lanes move to spares, faults clear or time out, recalibration runs, and the twin link trains and
streams (R386, R403, R404, R405, R406, R407, R408, R412, R413). -/
def Obligations.LanesAndTwinsRecover : Prop :=
  (∀ (s : State) (p : Port) (l : Nat) (lanes : BitVec 34), s.trained p = true → l < 9 →
    (∀ k < 9, (lanes.getLsbD k = true ∧ (s.laneOf (.laneMapRx p) k).isSome = true) ↔ k = l) →
    ∀ lane, s.laneOf (.laneMapRx p) l = some lane →
    (s.spareOf (.laneMapRx p) < 9 → lanes.getLsbD (s.spareOf (.laneMapRx p)) = false →
      ((s.port p).recal = none ∨ (s.port p).paused = true) → (s.port p).rxCal = none →
      ∃ s', exec (.laneFault (.port p) lanes) s = .next s' ∧ s'.phyState p = 4 ∧ (s'.port p).faultAt = some s.now ∧
        s'.fld (.laneMapRx p) (Fld.laneMapRxPhys lane) = s.spareOf (.laneMapRx p) ∧ s'.spareOf (.laneMapRx p) = 0xF) ∧
    (s.spareOf (.laneMapRx p) = 0xF →
      ∃ s', exec (.laneFault (.port p) lanes) s = .next s' ∧ s'.phyState p = 5 ∧ s'.portLiveBit p = false ∧
        s'.fld (.portPhy p) Fld.portPhyFailReason = 6) ∧
    (s.spareOf (.laneMapRx p) < 9 → lanes.getLsbD (s.spareOf (.laneMapRx p)) = true ∨
      ((s.port p).recal.isSome = true ∧ (s.port p).paused = false) ∨ (s.port p).rxCal.isSome = true →
      ∃ s', exec (.laneFault (.port p) lanes) s = .next s' ∧ s'.phyState p = 5 ∧ s'.portLiveBit p = false)) ∧
  (∀ (s : State) (p : Port) (k l : Fin 9) (lanes : BitVec 34), s.trained p = true → k ≠ l →
    lanes.getLsbD k.val = true → lanes.getLsbD l.val = true → (s.laneOf (.laneMapRx p) k.val).isSome = true →
    (s.laneOf (.laneMapRx p) l.val).isSome = true →
    ∃ s', exec (.laneFault (.port p) lanes) s = .next s' ∧ s'.phyState p = 5 ∧ s'.portLiveBit p = false) ∧
  (∀ (s : State) (k : Felt) (back : Bool) (lanes : BitVec 34), s.clocksStopped = false →
    2 ≤ s.fld (.feltLink k) Fld.feltLinkState →
    let d := s.feltDir k back
    let new := (lanesOf lanes.toNat 34).filter (fun l => decide (l ∉ d.down))
    let hit := new.filter (fun l => decide (l ∉ d.spares))
    let left := d.spares.filter (fun l => decide (l ∉ new))
    ∃ s', exec (.laneFault (.felt k back) lanes) s = .next s' ∧ s'.feltDir k back = ⟨d.down ++ new, left.drop hit.length⟩ ∧
      s'.feltDir k (!back) = s.feltDir k (!back) ∧
      (d.spares.length ≤ 2 → s'.fld (.feltLink k) Fld.feltLinkSpares
        = min (left.drop hit.length).length (s.feltDir k (!back)).spares.length) ∧
      s'.fld (.feltEvents k) Fld.feltEventsFaults = s.counted (.feltEvents k) Fld.feltEventsFaults hit.length ∧
      s'.fld (.feltLink k) Fld.feltLinkState = (if hit = [] then s.fld (.feltLink k) Fld.feltLinkState
        else if hit.length ≤ left.length then 3 else 0)) ∧
  (∀ (s : State) (p : Port) (words : BitVec 16), s.phyState p = 4 →
    (∃ s', exec (.laneFaultClear (.port p) words) s = .next s' ∧
      s'.phyState p = (if s.portLiveBit p then 3 else 2) ∧ (s'.port p).faultAt = none) ∧
    (∀ t, (s.port p).faultAt = some t → t + 20000 ≤ s.now →
      ∃ s', exec (.laneFaultTimeout p) s = .next s' ∧ s'.phyState p = 5 ∧ s'.portLiveBit p = false)) ∧
  (∀ (s : State) (k : Felt) (back : Bool) (words : BitVec 16), s.fld (.feltLink k) Fld.feltLinkState = 3 →
    ∃ s', exec (.laneFaultClear (.felt k back) words) s = .next s' ∧ s'.fld (.feltLink k) Fld.feltLinkState = 2) ∧
  (∀ (s : State) (p : Port) (lane : Fin 34) (n : BitVec 24),
    (s.trained p = true → ∃ s', exec (.laneDegraded (.port p) lane n) s = .next s' ∧
      s'.fld (.fecCorrected p) Fld.fecCorrectedCount = s.counted (.fecCorrected p) Fld.fecCorrectedCount n.toNat) ∧
    (∀ (k : Felt) (back : Bool) (sp : Nat) (rest : List Nat), 1280 < n.toNat → (s.feltDir k back).spares = sp :: rest →
      lane.val ∉ (s.feltDir k back).down → lane.val ∉ sp :: rest → 2 ≤ s.fld (.feltLink k) Fld.feltLinkState →
      ∃ s', exec (.laneDegraded (.felt k back) lane n) s = .next s' ∧
        s'.feltDir k back = ⟨(s.feltDir k back).down, rest ++ [lane.val]⟩ ∧
        s'.fld (.feltEvents k) Fld.feltEventsSwaps = s.counted (.feltEvents k) Fld.feltEventsSwaps 1)) ∧
  (∀ (s : State) (p : Port), s.trained p = true →
    (s.flag .optCtl Fld.optCtlRecalEn = true → (s.port p).recal = none → s.recalIsDue p = true → s.recalAllowed p = true →
      ∃ s', exec (.recalibration p) s = .next s' ∧ (s'.port p).recal = some 0 ∧ (s'.port p).paused = false ∧
        s'.flag (.portPhy p) Fld.portPhyRecal = true) ∧
    (s.flag .optCtl Fld.optCtlRecalEn = true → s.recalAllowed p = true → (s.port p).recal.isSome = true →
      ∃ s', exec (.recalibration p) s = .next s' ∧ (s'.port p).recal = (s.port p).recal ∧ (s'.port p).paused = false) ∧
    (∀ k, s.flag .optCtl Fld.optCtlRecalEn = true → (s.port p).recal = some k →
      (s.recalAllowed p = false → exec (.recalibration p) s = .next s) ∧
      (s.recalAllowed p = true → (s.port p).paused = true → (s.port p).txSwap = none →
        ∃ s', exec (.recalibration p) s = .next s' ∧
          (s'.port p).txSwap = some ⟨((s.port p).seq + 4) % 256, k - 1, s.spareOf (.laneMapTx p)⟩)) ∧
    (∀ (lane : Nat) (code : BitVec 12) (errors : BitVec 32), (s.port p).rxCal = some lane → lane < 9 → errors.toNat ≤ 64 →
      ∃ s', exec (.laneCalibration p false code errors) s = .next s' ∧ (s'.port p).rxCal = none ∧
        (s'.port p).retry = none ∧
        (s.spareOf (.laneMapRx p) = 0xF → s.laneOf (.laneMapRx p) lane = none →
          (s.fld (.laneMapRx p) Fld.laneMapRxRetired).testBit lane = false → s'.spareOf (.laneMapRx p) = lane) ∧
        s'.fld (.laneEvents p) Fld.laneEventsRecals = s.counted (.laneEvents p) Fld.laneEventsRecals 1) ∧
    (∀ (lane : Nat) (code : BitVec 12) (errors : BitVec 32), (s.port p).rxCal = some lane → lane < 9 → 64 < errors.toNat →
      ∃ s', exec (.laneCalibration p false code errors) s = .next s' ∧
        ((s.port p).retry ≠ some lane → (s'.port p).retry = some lane ∧ (s'.port p).rxCal = some lane) ∧
        ((s.port p).retry = some lane → (s'.port p).retry = none ∧ (s'.port p).rxCal = none ∧
          (s'.fld (.laneMapRx p) Fld.laneMapTxRetired).testBit lane = true)) ∧
    (∀ (k : Nat) (code : BitVec 12) (errors : BitVec 32), (s.port p).recal = some k → (s.port p).paused = false →
      s.spareOf (.laneMapTx p) < 9 → (s.port p).txSwap = none →
      ((s.port p).swept = none → ∃ s' b, exec (.laneCalibration p true code errors) s = .next s' ∧
        (s'.port p).swept = some code.toNat ∧ (s'.port p).recal = some k ∧ s'.out = s.out ++ [.block p b] ∧
        b.getD 2 0 = 8 ∧ (b.getD 3 0).toNat = 16 * s.spareOf (.laneMapTx p)) ∧
      (∀ found, (s.port p).swept = some found → errors.toNat ≤ 64 →
        ∃ s', exec (.laneCalibration p true code errors) s = .next s' ∧
          (s'.port p).recal = (if 8 ≤ k then none else some (k + 1)) ∧ (s'.port p).retry = none ∧ (s'.port p).swept = none ∧
          (k < 8 → s.recalAllowed p = true → (s'.port p).paused = false ∧
            (s'.port p).txSwap = some ⟨((s.port p).seq + 4) % 256, k, s.spareOf (.laneMapTx p)⟩) ∧
          (k < 8 → s.recalAllowed p = false → (s'.port p).paused = true ∧ (s'.port p).txSwap = none ∧ s'.out = s.out) ∧
          s'.fld (.laneEvents p) Fld.laneEventsRecals = s.counted (.laneEvents p) Fld.laneEventsRecals 1))) ∧
  (∀ (s : State) (i : Pair) (a b a2 b2 : BitVec 4), s.fld (.twinStatus i) Fld.twinStatusState = 1 →
    s.clocksStopped = false →
    let low := if twinLanes a ≤ twinLanes b then a else b
    (twinAgree a b = true → ∃ s', exec (.twinTraining i a b a2 b2) s = .next s' ∧
      s'.fld (.twinStatus i) Fld.twinStatusState = 2 ∧ s'.fld (.twinStatus i) Fld.twinStatusModules = a.toNat % 8) ∧
    (twinAgree a b = false → twinAgree (twinLimit low a2) (twinLimit low b2) = true →
      ∃ s', exec (.twinTraining i a b a2 b2) s = .next s' ∧ s'.fld (.twinStatus i) Fld.twinStatusState = 2 ∧
        s'.fld (.twinStatus i) Fld.twinStatusModules = (twinLimit low a2).toNat % 8) ∧
    (twinAgree a b = false → twinAgree (twinLimit low a2) (twinLimit low b2) = false → ∃ s', exec (.twinTraining i a b a2 b2) s = .next s' ∧
      s'.fld (.twinStatus i) Fld.twinStatusState = 3 ∧
      s'.flag (.folioStatus (Fin.ofNat 8 (2 * i.val))) Fld.folioStatusDegraded = true ∧
      s'.flag (.folioStatus (Fin.ofNat 8 (2 * i.val + 1))) Fld.folioStatusDegraded = true)) ∧
  (∀ (s : State) (f : Folio) (b : TwinBlock) (rest : List TwinBlock), s.twin f = b :: rest →
    s.fld (twinStatusOf f) Fld.twinStatusState = 2 → s.clocksStopped = false →
    let u : Tile := Fin.ofNat 192 ((f.val ^^^ 1) * 24 + tileNum b.tile)
    ((s.tile u).inReset = false → s.marks = [] → b.data.length ≤ vatSize →
      ∃ s', exec (.twinBlock f true) s = .next s' ∧ s'.vatRead u b.off b.data.length = b.data ∧
        (∃ fl, .twin f (b.bytes (Store.get (fun _ => 0) s.optics.twinSeq f) fl) ∈ s'.out) ∧
        Store.get (fun _ => 0) s'.optics.twinSeq f = (Store.get (fun _ => 0) s.optics.twinSeq f + 1) % 2 ^ 16 ∧
        s'.twin f = rest.filter (fun k => decide (k.tile ≠ b.tile)) ++ rest.filter (fun k => decide (k.tile = b.tile))) ∧
    (∃ s', exec (.twinBlock f false) s = .next s' ∧ s'.twin f = b :: rest ∧ s'.mem = s.mem ∧
      Store.get (fun _ => 0) s'.optics.twinSeq f = Store.get (fun _ => 0) s.optics.twinSeq f ∧
      s'.fld (.twinErrors (Fin.ofNat 4 (f.val / 2))) Fld.twinErrorsResends
        = s.counted (.twinErrors (Fin.ofNat 4 (f.val / 2))) Fld.twinErrorsResends 1))

/-- Lines are monitored, changed over, lost and recovered, comb sources fail, and ring heaters follow their tables
(R387, R398, R399, R400, R401, R408, R416). -/
def Obligations.LightAndHeatAreControlled : Prop :=
  (∀ (s : State) (l : Line) (taps : Vector (BitVec 16) 8) (a b m : BitVec 16),
    let v := taps.toList.map BitVec.toInt
    let mean : Int := v.foldl (· + ·) 0 / 8
    ∃ s', exec (.linePowerUpdate l taps a b m) s = .next s' ∧
      s'.fld (.linePower l) Fld.linePowerPower = (mean % 65536).toNat ∧
      s'.fld (.lineDrive l) Fld.lineDrivePrimaryMa = a.toNat ∧ s'.fld (.lineDrive l) Fld.lineDriveStandbyMa = b.toNat ∧
      s'.fld (.lineDrive l) Fld.lineDriveMaxMa = m.toNat ∧
      s'.fld (.linePower l) Fld.linePowerMinFibre = (v.foldl min (v.headD 0) % 65536).toNat ∧
      (let due : Prop := s.lineState l = 0 ∧ (s.line l).dueAt = none ∧
        ((s.fld (.lineDrive l) Fld.lineDrivePrimaryMa = a.toNat ∧ mean ≤ s.power l Fld.linePowerCommission - 150) ∨
          (m ≠ 0 ∧ m.toNat * 9 ≤ a.toNat * 10))
       (due → (s'.line l).dueAt = some s.now) ∧ (¬ due → (s'.line l).dueAt = (s.line l).dueAt))) ∧
  (∀ (s : State) (l : Line), s.clocksStopped = false →
    (∀ (t : Nat) (x : BitVec 16), (s.line l).dueAt = some t → s.flag .optCtl Fld.optCtlChangeoverEn = true →
      (s.line l).ramp = none → s.lineState l = 0 → s.standbyFailed l = false →
      (s.inExchange = true ∨ t + 1000000000 * s.fld .optCtl Fld.optCtlGapWaitS ≤ s.now ∨
        s.power l Fld.linePowerPower ≤ s.power l Fld.linePowerCommission - 300) →
      ∃ s', exec (.changeover l x) s = .next s' ∧ (s'.line l).ramp = some 0 ∧ s'.lineState l = 1 ∧
        .lsmSwitch l true true ∈ s'.out ∧ s'.fld (.lineDrive l) Fld.lineDriveStandbyMa = x.toNat) ∧
    (∀ (k : Nat) (a b p : BitVec 16) (failed : Bool), (s.line l).ramp = some k → 64 ≤ k →
      (s.line l).rampAt + 100000 ≤ s.now →
      ∃ s', exec (.changeoverStep l a b p failed) s = .next s' ∧ (s'.line l).ramp = none ∧ s'.lineState l = s.lineState l ∧
        (p.toInt < (s.line l).level - 25 → s'.standbyFailed l = true) ∧
        s'.fld (.linePower l) Fld.linePowerPower = p.toNat ∧ ∀ q, (s'.port q).recalDue = true) ∧
    (∀ (k : Nat) (a b p : BitVec 16), (s.line l).ramp = some k → k < 64 → (s.line l).rampAt + 10000 ≤ s.now →
      let short := s.fld (.lineDrive l) Fld.lineDriveMaxMa * 9 ≤ b.toNat * 10 ∧ p.toInt < (s.line l).level - 25
      (∃ s', exec (.changeoverStep l a b p true) s = .next s' ∧ (s'.line l).ramp = some 64 ∧ s'.lineState l = 2 ∧
        s'.fld (.lineDrive l) Fld.lineDrivePrimaryMa = 0 ∧
        s'.fld (.lineDrive l) Fld.lineDriveStandbyMa = s.fld (.lineDrive l) Fld.lineDriveMaxMa) ∧
      (short → ∃ s', exec (.changeoverStep l a b p false) s = .next s' ∧ (s'.line l).ramp = none ∧ s'.lineState l = 0 ∧
        s'.standbyFailed l = true) ∧
      (¬ short → ∃ s', exec (.changeoverStep l a b p false) s = .next s' ∧ (s'.line l).ramp = some (k + 1) ∧
        s'.fld (.linePower l) Fld.linePowerPower = p.toNat ∧ (s'.line l).rampAt = s.now ∧
        (k < 63 → s'.fld (.lineDrive l) Fld.lineDrivePrimaryMa = a.toNat) ∧
        (k = 63 → s'.lineState l = 2 ∧ s'.fld (.lineDrive l) Fld.lineDrivePrimaryMa = 0))) ∧
    (∀ a b : Vector (BitVec 16) 8, s.lineDark l a b = false → exec (.lineLost ⟨l, a, b⟩) s = .next s) ∧
    (∀ a b : Vector (BitVec 16) 8, s.lineDark l a b = true → (s.line l).recoverAt = none →
      (s.lineState l ≠ 2 → s.lineState l ≠ 3 → s.standbyFailed l = false → ∃ s', exec (.lineLost ⟨l, a, b⟩) s = .next s' ∧
        (s'.line l).recoverAt = some s.now ∧
          (s'.fld .lsmStatus Fld.lsmStatusPrimaryFailed).testBit l.val = true) ∧
      (s.lineState l = 2 ∨ (s.lineState l ≠ 3 ∧ s.standbyFailed l = true) →
        ∃ s', exec (.lineLost ⟨l, a, b⟩) s = .next s' ∧ s'.lineState l = 3 ∧
          (s'.fld .lsmStatus Fld.lsmStatusPrimaryFailed).testBit l.val = true)) ∧
    (∀ (t : Nat) (x : BitVec 16), (s.line l).recoverAt = some t → t + 2000000 ≤ s.now →
      ∃ s', exec (.lineRecoveryDone l x) s = .next s' ∧ s'.lineState l = 2 ∧ (s'.line l).recoverAt = none ∧
        s'.fld (.lineDrive l) Fld.lineDriveStandbyMa = x.toNat ∧
        s'.fld (.linePower l) Fld.linePowerPower = s.fld (.linePower l) Fld.linePowerCommission)) ∧
  (∀ (s : State) (d : Die) (k : Fin 2), 2 * d.val + k.val ∉ s.optics.combFailed →
    ∃ s', exec (.combSourceFail d k) s = .next s' ∧ 2 * d.val + k.val ∈ s'.optics.combFailed ∧
      (2 * d.val + 1 - k.val ∈ s.optics.combFailed → ∀ e : Die, e ≠ d →
        s'.fld (.feltLink (feltIndex d e)) Fld.feltLinkState = 0)) ∧
  (∀ (s : State) (r : Fin 7274), s.clocksStopped = false →
    ∃ s', exec (.heaterUpdate r) s = .next s' ∧
      Store.find? s'.optics.codes r.val = some (s.heaterCode r (s.reading (ringSensor r.val))) ∧ s'.regs = s.regs)

/-- A host queue is enabled, sees its tail, fetches, checks, places, dispatches and completes its entries (R24, R69,
R451, R453, R454, R455, R456, R457, R458, R459). -/
def Obligations.HostQueuesComplete : Prop :=
  (∀ (s : State) (src : Src) (q : HQueue) (ctl : W64) (line : BitVec 32), s.accepts (.hqCtl q) ctl →
    s.heeds src (Reg.hqCtl q).addr ctl →
    s.flag (.hqCtl q) Fld.hqCtlEnable = false → Fld.hqCtlEnable.get ctl = 1 →
    (Fld.hqCtlLoc.get ctl = 0 → line.toNat ≤ s.hqSize q →
      ∃ s', exec (.hqEnable src q ctl line) s = .next s' ∧ s'.hqRuns q = true ∧ s'.hqHead q = 0 ∧
        s'.hqTail q = line.toNat) ∧
    (∀ f off, Fld.hqCtlLoc.get ctl = 1 →
      s.hqPlace (64 * s.fld (.hqTailAddr q) Fld.hqTailAddrAddr) 8 = some (f, off) →
      (s.biasWaits f off 8 = true →
        ∃ s', exec (.hqEnable src q ctl line) s = .next s' ∧ s'.hqRuns q = true ∧ s'.hqHead q = 0 ∧ s'.hqTail q = 0) ∧
      (s.biasWaits f off 8 = false → s.marks = [] → s.noOps f → s.readLe (reamAddr f off) 8 % 2 ^ 32 ≤ s.hqSize q →
      ∃ s', exec (.hqEnable src q ctl line) s = .next s' ∧ s'.hqRuns q = true ∧ s'.hqHead q = 0 ∧
        s'.hqTail q = s.readLe (reamAddr f off) 8 % 2 ^ 32))) ∧
  (∀ (s : State) (q : HQueue) (line : BitVec 32), s.hqRuns q = true → s.clocksStopped = false →
    let n := (line.toNat + 2 ^ 32 - s.hqHead q) % 2 ^ 32
    (s.tailWaits q = true → exec (.hqTailSnoop q line) s = .next s) ∧
    (s.hqLocal q = false → n ≤ s.hqSize q → ∃ s', exec (.hqTailSnoop q line) s = .next s' ∧
      s'.hqTail q = line.toNat ∧ s'.hqRuns q = true ∧
      s'.fld (.hqStatus q) Fld.hqStatusSnoops = s.counted (.hqStatus q) Fld.hqStatusSnoops 1) ∧
    (s.hqLocal q = false → s.hqSize q < n → ∃ s', exec (.hqTailSnoop q line) s = .next s' ∧ s'.hqRuns q = false ∧
      s'.flag (.hqCtl q) Fld.hqCtlError = true ∧ s'.fld (.hqCtl q) Fld.hqCtlErrorCode = 1) ∧
    (∀ f off, s.hqLocal q = true → s.tailWaits q = false → s.marks = [] → s.noOps f →
      s.hqPlace (64 * s.fld (.hqTailAddr q) Fld.hqTailAddrAddr) 8 = some (f, off) →
      let tail := s.readLe (reamAddr f off) 8 % 2 ^ 32
      (tail + 2 ^ 32 - s.hqHead q) % 2 ^ 32 ≤ s.hqSize q →
      ∃ s', exec (.hqTailSnoop q line) s = .next s' ∧ s'.hqTail q = tail ∧
        ∀ r, (∀ m, r ≠ .reamStatus m) → s'.reg r = s.reg r)) ∧
  (∀ (s : State) (lines : Vector (BitVec 32) 64), s.clocksStopped = false → s.marks = [] →
    s.host.lastPoll + 1000 * s.fld .hqGlobal Fld.hqGlobalPollUs ≤ s.now →
    ∃ s', exec (.hqTailPoll lines) s = .next s' ∧ s'.host.lastPoll = s.now ∧
      ∀ q : HQueue, s.hqRuns q = true → s.hqLocal q = false →
        (lines.toList.getD q.val 0).toNat ≠ s.hqTail q →
        ((lines.toList.getD q.val 0).toNat + 2 ^ 32 - s.hqHead q) % 2 ^ 32 ≤ s.hqSize q →
        s'.hqTail q = (lines.toList.getD q.val 0).toNat ∧
        s'.fld (.hqStatus q) Fld.hqStatusPollHits = s.counted (.hqStatus q) Fld.hqStatusPollHits 1) ∧
  (∀ (s : State) (q : HQueue) (entry : Option (Vector W64 16)), s.hqRuns q = true → s.clocksStopped = false →
    s.hqHead q ≠ s.hqTail q → (s.hqLaunches q).length < 32 →
    (∀ l ∈ s.hqLaunches q, l.checked = true ∧ l.index % s.hqSize q ≠ s.hqHead q % s.hqSize q) →
    let taken (s' : State) (ws : List W64) : Prop :=
      s'.host.launches = s.host.launches ++ [⟨s.host.nextId, q, s.hqHead q, ws, false, [], [], [], 0, none, 0, false⟩] ∧
      s'.hqHead q = (s.hqHead q + 1) % 2 ^ 32 ∧
      s'.fld (.hqStatus q) Fld.hqStatusInflight = (s.hqLaunches q).length + 1 ∧ s'.mem = s.mem
    (s.hqLocal q = false →
      (∀ ws, entry = some ws → ∃ s', exec (.hqEntryFetch q entry) s = .next s' ∧ taken s' ws.toList) ∧
      (entry = none → ∃ s', exec (.hqEntryFetch q entry) s = .next s' ∧ s'.hqRuns q = false ∧
        s'.flag (.hqCtl q) Fld.hqCtlError = true ∧ s'.fld (.hqCtl q) Fld.hqCtlErrorCode = 2)) ∧
    (s.ringWaits q (64 * s.fld (.hqSqBase q) Fld.hqSqBaseAddr + s.hqHead q % s.hqSize q * 128) 128 = true →
      exec (.hqEntryFetch q entry) s = .next s) ∧
    (∀ f off, s.hqLocal q = true → s.biasWaits f off 128 = false → s.marks = [] → s.noOps f →
      s.hqPlace (64 * s.fld (.hqSqBase q) Fld.hqSqBaseAddr + s.hqHead q % s.hqSize q * 128) 128 = some (f, off) →
      ∃ s', exec (.hqEntryFetch q entry) s = .next s' ∧
        taken s' ((elements 8 (s.readMem (reamAddr f off) 128)).map (fun b => BitVec.ofNat 64 (leNat b))))) ∧
  (∀ (s : State) (q : HQueue) (l : Launch), s.unchecked q = some l → s.clocksStopped = false →
    (l.kind ≠ 0 → s.launchStatus l ≠ 0 → ∃ s', exec (.launch q) s = .next s' ∧ s'.host.queues = s.host.queues ∧
      ∃ m ∈ s'.host.launches, m.id = l.id ∧ m.checked = true ∧ m.status = s.launchStatus l ∧ m.parts = l.parts) ∧
    (l.kind ≠ 0 → s.launchStatus l = 0 → (∀ f ∈ l.folios, (s.launchQueue f).length < 64) →
      ∃ s', exec (.launch q) s = .next s' ∧
        (∀ f, s'.launchQueue f = s.launchQueue f
          ++ (if f ∈ l.folios ∧ folioDie f ∉ s.downDies then [l.id] else [])) ∧
        ∃ m ∈ s'.host.launches, m.id = l.id ∧ m.checked = true ∧
          m.status = (if ∃ f ∈ l.folios, folioDie f ∈ s.downDies then 0x09 else 0) ∧ m.parts = l.folios.filter (fun f => !s.downDies.contains (folioDie f))) ∧
    (l.kind = 0 → s.ringWaits q (s.cplAddr l) 32 = true → exec (.hqNop q) s = .next s) ∧
    (l.kind = 0 → s.ringWaits q (s.cplAddr l) 32 = false → ∃ s', exec (.hqNop q) s = .next s' ∧ s.completes s' { l with tense := s.tenseNow })) ∧
  (∀ (s : State) (f : Folio) (q : HQueue) (index : BitVec 32) (l : Launch),
    s.host.launches.find? (fun l => l.hq = q && decide (l.index = index.toNat) && l.parts.contains f) = some l →
    s.tense.quiet = false →
    (∀ k ∈ (s.launchQueue f).takeWhile (fun k => k ≠ l.id), ∀ m, s.host.launches.find? (fun m => m.id = k) = some m →
      ∀ t ∈ m.tiles, ¬ (t ∈ l.tiles ∧ tileFolio t = f)) → folioDie f ∉ s.downDies → s.clocksStopped = false →
    (s.tenseLocked = false → ∃ s', exec (.launchDispatch f q index) s = .next s' ∧
      s'.launchQueue f = (s.launchQueue f).filter (fun k => k ≠ l.id) ∧
      s'.tiles = s.tiles ∧ ∃ m ∈ s'.host.launches, m.id = l.id ∧ m.status = 0x07 ∧ f ∉ m.parts) ∧
    (s.tenseLocked = true → (s.tenseNow < l.start ∨ ∃ t ∈ l.tiles, tileFolio t = f ∧ s.tileFree t = false) →
      exec (.launchDispatch f q index) s = .next s) ∧
    (s.tenseLocked = true → l.start ≤ s.tenseNow →
      (∀ t ∈ l.tiles, tileFolio t = f → s.tileFree t = true) →
      ∃ s', exec (.launchDispatch f q index) s = .next s' ∧
      s'.launchQueue f = (s.launchQueue f).filter (fun k => k ≠ l.id) ∧ s'.mem = s.mem ∧
        (∀ t ∈ l.tiles, tileFolio t = f →
          s'.flag (.seqCtl t) Fld.seqCtlRun = true ∧ s'.reg (.seqPc t) = BitVec.ofNat 64 l.program ∧
          s'.reg (.scoreboard t) = 0xF000 ∧ s'.reg (.numStatus t) = 0 ∧ (s'.tile t).job = l.job ∧
          (s'.tile t).vl = 128 ∧
          ∀ i : Fin 32, (s'.tile t).readS i
            = (if 1 ≤ i.val ∧ i.val ≤ 8 then BitVec.ofNat 64 (l.word (7 + i.val)) else 0)) ∧
        (∀ t, ¬ (t ∈ l.tiles ∧ tileFolio t = f) → s'.tile t = s.tile t) ∧
        ∃ m ∈ s'.host.launches, m.id = l.id ∧ f ∉ m.parts ∧
          m.running = l.running ++ l.tiles.filter (fun t => tileFolio t = f))) ∧
  (∀ (s : State) (q : HQueue) (index : BitVec 32) (l : Launch),
    s.host.launches.find? (fun l => l.hq = q && decide (l.index = index.toNat) && l.checked) = some l →
    l.parts = [] → l.running = [] → s.clocksStopped = false →
    (s.ringWaits q (s.cplAddr l) 32 = true → exec (.launchComplete q index) s = .next s) ∧
    (s.ringWaits q (s.cplAddr l) 32 = false →
      ∃ s', exec (.launchComplete q index) s = .next s' ∧ s.completes s' l))

/-- Features, bias, decoders, host memory accesses, management cells, and the accesses of the parser cores (R447,
R449, R450, R451, R460, R465, R466, R467, R472, R524, R537). -/
def Obligations.HostMemoryAndHartsComplete : Prop :=
  (∀ (s : State) (src : Src), s.accepts .featCtl 1 →
    s.heeds src (Reg.addr .featCtl) 1 → s.flag .featCtl Fld.featCtlDone = false →
    ∃ s', exec (.featCommit src) s = .next s' ∧ s'.flag .featCtl Fld.featCtlDone = true ∧
      ∀ w, s'.reg (.featEnabled w) = s.reg (.featDriver w) &&& s.reg (.featDevice w)) ∧
  (∀ (s : State) (src : Src), s.accepts .biasFlipCtl 1 →
    s.heeds src (Reg.addr .biasFlipCtl) 1 →
    let page := s.fld .biasFlipPage Fld.biasFlipPagePage
    let count := s.fld .biasFlipPage Fld.biasFlipPageCount
    let host := s.flag .biasFlipPage Fld.biasFlipPageHost
    (s.flag .biasFlipCtl Fld.biasFlipCtlBusy = true ∨ 2 ^ 20 < page + count →
      ∃ s', exec (.biasFlipGo src) s = .next s' ∧ s'.host = s.host ∧ s'.out = s.out) ∧
    (s.flag .biasFlipCtl Fld.biasFlipCtlBusy = false → page + count ≤ 2 ^ 20 → (host = true → s.net.ready = []) →
    ∃ s', exec (.biasFlipGo src) s = .next s' ∧ s'.flag .biasFlipCtl Fld.biasFlipCtlBusy = true ∧
      s'.host.flip = some (page, count, host) ∧ s'.out = s.out ++ (if host then [] else [.flush page count]))) ∧
  (∀ (s : State) (page count : Nat) (host : Bool), s.host.flip = some (page, count, host) → s.clocksStopped = false →
    s.net.events = [] →
    ∃ s', exec .biasFlipDone s = .next s' ∧ s'.host.flip = none ∧ s'.mem = s.mem ∧
      s'.flag .biasFlipCtl Fld.biasFlipCtlBusy = false ∧ s'.flag .biasFlipCtl Fld.biasFlipCtlDone = true ∧
      (∀ p, p ∈ s'.hostPages ↔ (if page ≤ p ∧ p < page + count then host = true else p ∈ s.hostPages)) ∧
      (host = true → ∀ f, ∀ e ∈ (s'.cache f).lines,
        ¬ (page ≤ f.val * 131072 + e.line / 2 ^ 15 ∧ f.val * 131072 + e.line / 2 ^ 15 < page + count))) ∧
  (∀ (s : State) (d : Fin 2) (base size skip : BitVec 36) (ways : BitVec 4) (lock : Bool),
    ((s.decoder d).locked = true → exec (.hdmCommit d base size skip ways lock) s = .next s) ∧
    ((s.decoder d).locked = false →
    let other := s.decoder (1 - d)
    let start := skip.toNat * 2 ^ 28 + (if d = 1 then other.dpa + other.size else 0)
    let n := size.toNat * 2 ^ 28
    let good := ways = 0 ∧ start + n ≤ 2 ^ 41 ∧ (d = 1 → other.committed = true) ∧
      (other.committed = true → rangesMeet start n other.dpa other.size = false)
    ∃ s', exec (.hdmCommit d base size skip ways lock) s = .next s' ∧ s'.regs = s.regs ∧
      s'.decoder (1 - d) = other ∧ (s'.decoder d).failed = decide (¬ good) ∧ (s'.decoder d).committed = decide good ∧
      (good → s'.decoder d = ⟨base.toNat * 2 ^ 28, n, start, true, false, lock⟩))) ∧
  (∀ (s : State) (hpa : W64) (data : Payload), s.clocksStopped = false →
    (s.memPlace hpa.toNat = none →
      (∃ s', exec (.cxlMemRead hpa) s = .next s' ∧ s'.out = s.out ++ [.readData (List.replicate 64 0)] ∧
        s'.mem = s.mem) ∧
      (∃ s', exec (.cxlMemWrite hpa data) s = .next s' ∧ s'.mem = s.mem ∧ s'.out = s.out)) ∧
    (∀ f off, s.memPlace hpa.toNat = some (f, off) → s.noOps f →
      (s.marks = [] → ∃ s', exec (.cxlMemRead hpa) s = .next s' ∧
        s'.out = s.out ++ [.readData (s.readMem (reamAddr f off) 64)] ∧ s'.mem = s.mem ∧
        ∀ r, (∀ m, r ≠ .reamStatus m) → s'.reg r = s.reg r) ∧
      ((∃ e ∈ s.reamMarks f off 64, e.2 = .uncorrectable) → ∃ s' o, exec (.cxlMemRead hpa) s = .next s' ∧
        s'.out = o ++ [.readData (List.replicate 64 0), .aer]) ∧
      (s.marks = [] → s.regionBlocks f off 64 = false → ∃ s', exec (.cxlMemWrite hpa data) s = .next s' ∧
        s'.mem = s.mem.writeBytes (reamAddr f off) (payloadBytes data)) ∧
      (s.regionBlocks f off 64 = true → ∃ s', exec (.cxlMemWrite hpa data) s = .next s' ∧ s'.mem = s.mem))) ∧
  (∀ (s : State) (off : BitVec 26) (n : BitVec 13) (data : List (Byte × Bool)), s.ready = true →
    (2 ^ 26 < off.toNat + n.toNat → exec (.bar2Read off n) s = .next (s.emit .readError)) ∧
    (2 ^ 26 < off.toNat + data.length → exec (.bar2Write off data) s = .next (s.emit .readError)) ∧
    (s.marks = [] → s.noOps 0 →
    (off.toNat + n.toNat ≤ 2 ^ 26 → ∃ s', exec (.bar2Read off n) s = .next s' ∧
      s'.out = s.out ++ [.readData (s.readMem (reamAddr 0 (bar2Base + off.toNat)) n.toNat)] ∧ s'.mem = s.mem) ∧
    (off.toNat + data.length ≤ 2 ^ 26 → (∀ r, s.fld (.regionState 0 r) Fld.regionStateState = 0) →
      let base := reamAddr 0 (bar2Base + off.toNat)
      ∃ s', exec (.bar2Write off data) s = .next s' ∧ s'.out = s.out ∧
        ∀ a, s'.mem.read a = (if base ≤ a ∧ a < base + data.length ∧ (data.getD (a - base) (0, false)).2 = true
          then (data.getD (a - base) (0, false)).1 else s.mem.read a)))) ∧
  (∀ (s : State) (n : Deckle) (c : Cell), s.ready = true → deckleDie n ∉ s.downDies → c.crcGood = true →
    let d := deckleDie n
    let w := s.land (.die d) c
    let x := leNat (c.data.take 8)
    let off := controlBase n + x
    let good := x % 8 = 0 ∧ x < 0x400000
    w.tooLate c = false → w.endpointCode d c = none → cellsWhole [c] = true →
    (c.type = 0x10 → exec (.mgmtRead n c) s = .next (if good
      then (w.wakeReg off).mgmtReply n c (leBytes 8 ((w.wakeReg off).readSlot off).toNat) else w.refuseAt d 0x4A c)) ∧
    (c.type = 0x11 → exec (.mgmtWrite n c) s = .next (if good
      then (w.access (.cell c.srcChip c.srcDie) off true (BitVec.ofNat 64 (leNat ((c.data.drop 8).take 8))) 0).mgmtReply n c []
      else w.refuseAt d 0x4A c))) ∧
  (∀ (s : State) (f : Folio) (h : Fin 4) (n : Fin 16) (off : BitVec 40) (size : Fin 4) (op : HartOp),
    s.hartWaits f h = false → s.clocksStopped = false → folioDie f ∉ s.downDies →
    let len := 2 ^ size.val
    let r := Reg.aperture f n
    let job := s.allowed 0 f
    let g := s.fld r Fld.apertureOffHi * 2 ^ 40 + off.toNat
    (op = .lr ∨ (∃ d held, op = .sc d held) ∨ (∃ a d, op = .amo a d ∧ size.val < 2) ∨ s.flag r Fld.apertureValid = false ∨ job = 0 ∨ off.toNat % len ≠ 0 →
      ∃ s', exec (.apertureAccess f h n off size op) s = .next s' ∧
        s' = s.emit (.hartFault f h (2 ^ 55 + n.val * 2 ^ 40 + off.toNat))) ∧
    (∀ tag, s.freeTag (folioDie f) = some tag → s.flag r Fld.apertureValid = true → job ≠ 0 → off.toNat % len = 0 →
      ∀ (code : Nat) (bs : List Byte),
      ((op = .load ∧ code = 0 ∧ bs = []) ∨ (∃ d, op = .store d ∧ code = 1 ∧ bs = leBytes len d.toNat) ∨
        (∃ a d, op = .amo a d ∧ 2 ≤ size.val ∧ code = amoCode a ∧ bs = leBytes len d.toNat)) →
      ∃ s' t, exec (.apertureAccess f h n off size op) s = .next s' ∧ s'.net.txns = s.net.txns ++ [t] ∧
        t.user = .hart f h ∧ t.die = folioDie f ∧ t.tag = tag ∧ cellsData t.cells = memRequest g code len bs ∧
        (∀ c ∈ t.cells, c.cls = 2 ∧ c.type = 1 ∧ c.job = BitVec.ofNat 12 job ∧
          c.dstChip = BitVec.ofNat 14 (s.fld r Fld.apertureChip) ∧
          c.dstDie = BitVec.ofNat 4 (s.fld r Fld.apertureDie)) ∧
        (s'.hart f h).access = some (2 ^ 55 + n.val * 2 ^ 40 + off.toNat, opReads op, decide (code ≠ 0)) ∧ s'.out = s.out ∧ s'.mem = s.mem)) ∧
  (∀ (s : State) (f : Folio) (h : Fin 4) (pred : BitVec 4), s.clocksStopped = false →
    (s.hartWaits f h = false → exec (.hartFence f ⟨h, pred⟩) s = .next (s.emit (.fenceDone f h))) ∧
    (∀ addr reads writes, s.hartWaits f h = true → (s.hart f h).access = some (addr, reads, writes) →
      let named := (writes = true ∧ (pred.getLsbD 0 = true ∨ pred.getLsbD 2 = true)) ∨
        (reads = true ∧ (pred.getLsbD 1 = true ∨ pred.getLsbD 3 = true))
      (named → exec (.hartFence f ⟨h, pred⟩) s = .next s) ∧
      (¬ named → exec (.hartFence f ⟨h, pred⟩) s = .next (s.emit (.fenceDone f h))))) ∧
  (∀ (s : State) (f : Folio) (h : Fin 4) (addr : BitVec 56) (size : Fin 4) (host : W64) (d : W64),
    s.hartWaits f h = false → s.ready = true → folioDie f ∉ s.downDies → s.marks = [] →
    let a := addr.toNat
    let len := 2 ^ size.val
    (a + len ≤ reamLimit → s.host.flip = none → (∀ e ∈ (s.cache f).lines, e.marks = []) → s.noOps f →
      (∀ k ∈ s.hostPages, ¬ (f.val * 131072 + a / 2 ^ 21 ≤ k ∧ k ≤ f.val * 131072 + (a + len - 1) / 2 ^ 21)) →
      (∃ s', exec (.hartLoadStore f h addr size .load host) s = .next s' ∧ s'.mem = s.mem ∧
        s'.out = s.out ++ [.readData (s.readMem (reamAddr f a) len)]) ∧
      (4 ≤ len → a % len = 0 → ∃ s', exec (.hartLoadStore f h addr size .lr host) s = .next s' ∧ s'.mem = s.mem ∧
        s'.out = s.out ++ [.readData (s.readMem (reamAddr f a) len)]) ∧
      (s.regionBlocks f a len = true → ∃ s', exec (.hartLoadStore f h addr size (.store d) host) s = .next s' ∧
        s'.out = s.out ∧ s'.mem = s.mem) ∧
      (s.regionBlocks f a len = false →
        (∀ held, 4 ≤ len → a % len = 0 → ∃ s', exec (.hartLoadStore f h addr size (.sc d held) host) s = .next s' ∧
          s'.out = s.out ++ [.readData [if held then 0 else 1]] ∧
          s'.mem = (if held then s.mem.writeBytes (reamAddr f a) (leBytes len d.toNat) else s.mem)) ∧
        (∃ s', exec (.hartLoadStore f h addr size (.store d) host) s = .next s' ∧ s'.out = s.out ∧
          s'.mem = s.mem.writeBytes (reamAddr f a) (leBytes len d.toNat)) ∧
        (∀ op, 4 ≤ len → a % len = 0 → ∃ s', exec (.hartLoadStore f h addr size (.amo op d) host) s = .next s' ∧
          s'.out = s.out ++ [.readData (s.readMem (reamAddr f a) len)] ∧
          s'.mem = s.mem.writeBytes (reamAddr f a)
            (leBytes len (amoResult op len (leNat (s.readMem (reamAddr f a) len)) d.toNat))))) ∧
    (vatBase ≤ a → a + len ≤ vatBase + 24 * vatSize → (a - vatBase) % vatSize + len ≤ vatSize →
      let t : Tile := Fin.ofNat 192 (24 * f.val + (a - vatBase) / vatSize)
      let off := (a - vatBase) % vatSize
      ((s.tile t).inReset = true → exec (.hartLoadStore f h addr size (.store d) host) s = .next (s.emit (.hartFault f h a))) ∧
      ((s.tile t).inReset = false →
      (∃ s', exec (.hartLoadStore f h addr size .load host) s = .next s' ∧ s'.mem = s.mem ∧
        s'.out = s.out ++ [.readData (s.vatRead t off len)]) ∧
      (∃ s', exec (.hartLoadStore f h addr size (.store d) host) s = .next s' ∧ s'.out = s.out ∧
        s'.vatRead t off len = leBytes len d.toNat))) ∧
    (0x8000000000 ≤ a → a + 8 ≤ 0x8000000000 + 2 ^ 27 → size.val = 3 → a % 8 = 0 →
      (∃ s', exec (.hartLoadStore f h addr size .load host) s = .next s' ∧ s'.mem = s.mem ∧
        s'.out = s.out ++ [.readData (leBytes 8 ((s.wakeReg (a - 0x8000000000)).readSlot (a - 0x8000000000)).toNat)]) ∧
      exec (.hartLoadStore f h addr size (.store d) host) s
        = .next (s.access (.hart f h) (a - 0x8000000000) true d (host.setWidth 32))) ∧
    (2 ^ 54 ≤ a → a + len ≤ 2 ^ 54 + 2 ^ 52 → s.host.linkUp = true →
      (∃ s', exec (.hartLoadStore f h addr size .load host) s = .next s' ∧
        s'.out = s.out ++ [.readData (leBytes len (host.toNat % 2 ^ (8 * len)))]) ∧
      (∃ s', exec (.hartLoadStore f h addr size (.store d) host) s = .next s' ∧
        s'.out = s.out ++ [.hostWrite (a - 2 ^ 54) (leBytes len d.toNat)])) ∧
    (2 ^ 55 ≤ a → a + len ≤ 2 ^ 55 + 16 * 2 ^ 40 → ∀ op, (opAtomic op = true → 4 ≤ len ∧ a % len = 0) →
      exec (.hartLoadStore f h addr size op host) s
        = exec (.apertureAccess f h (Fin.ofNat 16 ((a - 2 ^ 55) / 2 ^ 40)) (BitVec.ofNat 40 a) size op) s) ∧
    (2 ^ 54 + 2 ^ 52 ≤ a → a + len ≤ 2 ^ 55 → ∀ op,
      exec (.hartLoadStore f h addr size op host) s = .next (s.emit (.hartFault f h a)))) ∧
  (∀ (s : State) (src : Src) (f : Folio) (index : W32), s.accepts (.evqHead f) (index.setWidth 64) →
    s.heeds src (Reg.evqHead f).addr (index.setWidth 64) →
    ∃ s', exec (.evqHeadWrite src f index) s = .next s' ∧ s'.fld (.evqHead f) Fld.evqHeadIndex = index.toNat ∧
      s'.mem = s.mem)

/-- Peaks, scores and hours, the mailbox commands from their start to their end, and the sentinel runs (R434, R445,
R482, R483, R488, R489, R498, R499, R514, R515, R517, R522). -/
def Obligations.ServicesComplete : Prop :=
  (∀ (s : State) (src : Src) (i : Sensor), s.accepts (.sensor i) (2 ^ 32) →
    ∃ s', exec (.sensorPeakClr src i) s = .next s' ∧
      s'.fld (.sensor i) Fld.sensorPeakC = s.fld (.sensor i) Fld.sensorNowC ∧
      s'.fld (.sensor i) Fld.sensorNowC = s.fld (.sensor i) Fld.sensorNowC) ∧
  (∀ (s : State) (src : Src), s.accepts .scoreClear 1 →
    ∃ s', exec (.scoreClear src) s = .next s' ∧ (∀ r ∈ scoreRegs, s'.reg r = 0) ∧ s'.reg .scoreTotal = 0) ∧
  (∀ s : State,
    let h := s.fld .scoreCtl Fld.scoreCtlHalfLifeH
    h ≠ 0 → h ≤ s.mgmt.decayHours →
    ∃ s', exec .scoreDecay s = .next s' ∧ s'.mgmt.decayHours = s.mgmt.decayHours - h ∧
      ∀ r ∈ scoreRegs, s'.fld r Fld.scoreCeScore = s.fld r Fld.scoreCeScore / 2 ∧
        s'.fld r Fld.scoreCeEvents = s.fld r Fld.scoreCeEvents) ∧
  (∀ s : State, s.mgmt.powered = true →
    ∃ s', exec .poweredHour s = .next s' ∧ s'.mgmt.decayHours = (if s.fld .scoreCtl Fld.scoreCtlHalfLifeH = 0 then 0 else s.mgmt.decayHours + 1) ∧
      s'.fld .marginStatus Fld.marginStatusPoweredHours = s.counted .marginStatus Fld.marginStatusPoweredHours 1) ∧
  (∀ (s : State) (via : Via) (flashOk : Bool) (w : State) (r : MboxRun) (b : Bool) (run : Quire),
    s.mgmt.booted = some (b, run) →
    (s.mboxTake via 0x01 = (w, some r) →
      (w.mgmt.updated = true → ∃ s', exec (.fwUpdate via flashOk) s = .next s' ∧ s'.carriedOut r 8 []) ∧
      (∀ (u : State) (bs : List Byte), w.mgmt.updated = false → w.mboxRead r (r.arg 0) (r.arg 1) = (u, .inr bs) →
        ∃ s', exec (.fwUpdate via flashOk) s = .next s' ∧
          (if b then s'.mgmt.flash.quireA else s'.mgmt.flash.quireB) = Quire.erased ∧
          let good := (quireOf bs).seq = (run.seq + 1) % 2 ^ 32 ∧ u.mgmt.fuses.check (quireOf bs) = 0
          s'.carriedOut r (if good then (if flashOk then 0 else 5) else 4) (if good ∧ flashOk = true then bs else []))) ∧
    (s.mboxTake via 0x02 = (w, some r) → ∃ s', exec (.svnCommit via) s = .next s' ∧ s'.carriedOut r 0 [] ∧
      s'.mgmt.fuses = { w.mgmt.fuses with minSvn := max w.mgmt.fuses.minSvn run.svn })) ∧
  (∀ (s : State) (via : Via) (w : State) (r : MboxRun), s.mboxTake via 0x03 = (w, some r) → w.marks = [] → w.noOps 0 →
    let nonce := (List.range 32).map (Config.nonceByte w.free)
    let bs := leBytes 8 Config.serial.toNat ++ nonce
    (r.i3c = false → reamLimit < r.arg 0 + 40 →
      ∃ s', exec (.debugChallenge via) s = .next s' ∧ s'.carriedOut r 3 [] ∧ s'.mgmt.nonce = w.mgmt.nonce) ∧
    (r.i3c = false → r.arg 0 + 40 ≤ reamLimit →
      ∃ s', exec (.debugChallenge via) s = .next s' ∧ s'.carriedOut r 0 [] ∧ s'.mgmt.nonce = some nonce ∧
        s'.mem = w.mem.writeBytes (reamAddr 0 (r.arg 0)) bs) ∧
    (r.i3c = true → ∃ s', exec (.debugChallenge via) s = .next s' ∧ s'.carriedOut r 0 bs ∧
      s'.mgmt.nonce = some nonce)) ∧
  (∀ (s : State) (via : Via) (w : State) (r : MboxRun) (u : State) (tok : List Byte),
    s.mboxTake via 0x04 = (w, some r) → w.mboxRead r (r.arg 0) 176 = (u, .inr tok) →
    (3 ≤ u.mgmt.rejects → ∃ s', exec (.debugToken via) s = .next s' ∧ s'.carriedOut r 7 [] ∧ s'.regs = u.regs) ∧
    (u.mgmt.rejects < 3 → ∃ s', exec (.debugToken via) s = .next s' ∧
      s'.carriedOut r (if u.tokenGood tok = true then 0 else 6) [] ∧
      s'.mgmt.rejects = u.mgmt.rejects + (if u.tokenGood tok = true then 0 else 1) ∧
      s'.fld .debugStatus Fld.debugStatusLevel
        = (if u.tokenGood tok = true then bytesAt tok 40 1 else u.fld .debugStatus Fld.debugStatusLevel))) ∧
  (∀ (s : State) (via : Via) (w : State) (r : MboxRun), s.mboxTake via 0x10 = (w, some r) →
    (7 < r.arg 1 → ∃ s', exec (.sentLoad via) s = .next s' ∧ s'.carriedOut r 3 [] ∧
      s'.mgmt.sentinels = w.mgmt.sentinels) ∧
    (∀ (u : State) (bs : List Byte), r.arg 1 ≤ 7 → w.mboxRead r (r.arg 0) 128 = (u, .inr bs) →
      (sentinelOf bs = none → ∃ s', exec (.sentLoad via) s = .next s' ∧ s'.carriedOut r 3 [] ∧
        s'.mgmt.sentinels = u.mgmt.sentinels) ∧
      (∀ v, sentinelOf bs = some v → ∃ s' k, exec (.sentLoad via) s = .next s' ∧ s'.carriedOut r 0 [] ∧
        s'.sentinel (Fin.ofNat 8 (r.arg 1)) = some k ∧ k.program = v.program ∧ k.tiles = v.tiles ∧
        k.expect = v.expect ∧ k.args = v.args ∧ k.once = false))) ∧
  (∀ (s : State) (via : Via) (w : State) (r : MboxRun),
    (s.mboxTake via 0x11 = (w, some r) → 1 ≤ r.arg 1 → r.arg 1 ≤ 65535 → r.arg 0 ≤ 255 →
      ∃ s', exec (.sentEnable via) s = .next s' ∧ s'.carriedOut r 0 [] ∧
        ∀ k : Fin 8, s'.sentinel k = (w.sentinel k).map (fun v =>
          if (r.arg 0).testBit k.val then { v with every := r.arg 1, since := 0 } else v)) ∧
    (s.mboxTake via 0x12 = (w, some r) → r.arg 0 ≤ 255 →
      ∃ s', exec (.sentDisable via) s = .next s' ∧ s'.carriedOut r 0 [] ∧
        ∀ k : Fin 8, s'.sentinel k = (w.sentinel k).map (fun v =>
          if (r.arg 0).testBit k.val then { v with every := 0, once := false } else v)) ∧
    (s.mboxTake via 0x13 = (w, some r) → r.arg 0 ≤ 7 →
      ∃ s', exec (.sentRun via) s = .next s' ∧ s'.carriedOut r 0 [] ∧
        ∀ k : Fin 8, s'.sentinel k = (w.sentinel k).map (fun v => if k.val = r.arg 0 then { v with once := true } else v))) ∧
  (∀ (s : State) (via : Via) (w : State) (r : MboxRun), s.mboxTake via 0x14 = (w, some r) →
    let n := r.arg 2
    let digest := sha256 (w.readMem (reamAddr (Fin.ofNat 8 (r.arg 0)) (r.arg 1)) n)
    let bad := 7 < r.arg 0 ∨ n = 0 ∨ n = 2 ^ 64 - 1 ∨ reamLimit < r.arg 1 + n ∨
      (r.i3c = false ∧ reamLimit < r.arg 3 + 32)
    (bad → ∃ s', exec (.hash via) s = .next s' ∧ s'.carriedOut r 3 [] ∧ s'.mem = w.mem) ∧
    (¬ bad → w.marks = [] → w.noOps (Fin.ofNat 8 (r.arg 0)) → r.i3c = true → ∃ s', exec (.hash via) s = .next s' ∧ s'.carriedOut r 0 digest) ∧
    (¬ bad → w.marks = [] → w.noOps (Fin.ofNat 8 (r.arg 0)) → w.noOps 0 → r.i3c = false → ∃ s', exec (.hash via) s = .next s' ∧ s'.carriedOut r 0 [] ∧
      s'.mem = w.mem.writeBytes (reamAddr 0 (r.arg 3)) digest)) ∧
  (∀ (s : State) (via : Via) (code : Byte) (w : State) (r : MboxRun), code.toNat ∉ mboxCodes →
    s.mboxTake via code.toNat = (w, some r) →
    ∃ s', exec (.mboxBadCommand via code) s = .next s' ∧ s'.carriedOut r 2 []) ∧
  (∀ (s : State) (r : MboxRun), s.mgmt.mbox = some r → r.carried = true → s.mgmt.takeover = none →
    (s.sentPending r = true → exec .mboxCommandDone s = .next s) ∧
    (s.sentPending r = false → ∃ s', exec .mboxCommandDone s = .next s' ∧
      s'.mgmt.mbox = s.mgmt.queued.head? ∧ s'.mgmt.queued = s.mgmt.queued.tail ∧
      s'.fld .mboxResult Fld.mboxResultStatus = r.status % 2 ^ 8 ∧
      s'.flag .mboxResult Fld.mboxResultBusy = decide (s.mgmt.queued ≠ []) ∧ s'.flag .mboxResult Fld.mboxResultDone = true ∧
      (r.i3c = true → s'.out = s.out ++ [.message (leBytes 1 r.status ++ (if r.code = 1 then [] else r.result))]) ∧
      (∀ b run, r.code = 1 → r.status = 0 → s.mgmt.booted = some (b, run) → s'.mgmt.updated = true ∧
        (if b then s'.mgmt.flash.quireA else s'.mgmt.flash.quireB) = quireOf r.result))) ∧
  (∀ (s : State) (k : Fin 8) (v : Sentinel), s.sentinel k = some v → s.ready = true →
    let n := s.tenseNow / 50000 - 1
    let len := s.forecastRun n 4096
    let stop := min (n * 50000 + 50000 + 1000 * v.budgetUs) ((n + len) * 50000 - 100000)
    1 ≤ s.tenseNow / 50000 → s.forecastWindow n = true → (0 < n → s.forecastWindow (n - 1) = false) → 20 ≤ len →
    v.seen ≠ n + 1 → (v.once = true ∨ v.every ≠ 0) →
    (v.tiles.all s.tileFree = true → s.partBefore v.folios none (stop + 20000) = false → v.once = false →
      v.since + 1 < v.every →
      ∃ s', exec (.sentinelStart k) s = .next s' ∧ s'.mgmt.sentRuns = s.mgmt.sentRuns ∧ s'.tiles = s.tiles ∧
        s'.sentinel k = some { v with seen := n + 1, since := v.since + 1 }) ∧
    (v.tiles.all s.tileFree = true → s.partBefore v.folios none (stop + 20000) = false →
      (v.once = true ∨ v.every ≤ v.since + 1) →
      ∃ s', exec (.sentinelStart k) s = .next s' ∧ s'.flag .sentStatus Fld.sentStatusRunning = true ∧
        s'.fld .sentRuns Fld.sentRunsRuns = s.counted .sentRuns Fld.sentRunsRuns 1 ∧ s'.mem = s.mem ∧
        (∃ r, s'.mgmt.sentRuns = s.mgmt.sentRuns ++ [r] ∧ r.slot = k ∧ r.tense = s.tenseNow ∧ r.stopAt = stop) ∧
        ∀ t ∈ v.tiles, s'.flag (.seqCtl t) Fld.seqCtlRun = true ∧ s'.reg (.seqPc t) = BitVec.ofNat 64 (v.program % 2 ^ 46)) ∧
    ((v.tiles.all s.tileFree = false ∨ s.partBefore v.folios none (stop + 20000) = true) →
      ∃ s', exec (.sentinelStart k) s = .next s' ∧ s'.mgmt.sentRuns = s.mgmt.sentRuns ∧ s'.tiles = s.tiles ∧
        s'.fld .sentStops Fld.sentStopsSkipped = s.counted .sentStops Fld.sentStopsSkipped 1)) ∧
  (∀ s : State, s.clocksStopped = false →
    ((∀ r ∈ s.mgmt.sentRuns, s.sentEnds r = false) → exec .sentinelStop s = .next s) ∧
    ∀ r ∈ s.mgmt.sentRuns, r.stopAt ≤ s.tenseNow ∨ s.partBefore r.desc.folios (some r.desc.tiles) r.stopAt = true →
    ∃ s', exec .sentinelStop s = .next s' ∧ (∀ x ∈ s'.mgmt.sentRuns, x.slot ≠ r.slot) ∧
      (s.mgmt.sentRuns = [r] → s.marks = [] → s.net.ready = [] → s'.flag .sentStatus Fld.sentStatusRunning = false ∧
      s'.fld .sentRingTail Fld.sentRingTailIndex
        = (s.fld .sentRingTail Fld.sentRingTailIndex + r.desc.tiles.length) % 2 ^ 32))

/-- JTAG unlocking, the CDAT read and the SPDM requests are answered (R448, R486, R487, R488, R489). -/
def Obligations.AttestationCompletes : Prop :=
  (∀ s : State, s.jtagUp = true →
    (let nonce := (List.range 32).map (Config.nonceByte s.free)
     ∃ s', exec .unlockChal s = .next s' ∧ s'.mgmt.nonce = some nonce ∧ s'.free = s.free + 1 ∧
      s'.out = s.out ++ [.message (leBytes 8 Config.serial.toNat ++ nonce)]) ∧
    (∀ tok, ∃ s', exec (.unlockToken tok) s = .next s' ∧
      (3 ≤ s.mgmt.rejects → s' = s) ∧
      (s.mgmt.rejects < 3 →
        s'.mgmt.rejects = s.mgmt.rejects + (if s.tokenGood tok.toList = true then 0 else 1) ∧
        s'.fld .debugStatus Fld.debugStatusLevel = (if s.tokenGood tok.toList = true then bytesAt tok.toList 40 1
          else s.fld .debugStatus Fld.debugStatusLevel) ∧
        s'.fld .debugStatus Fld.debugStatusRejects = (if s.tokenGood tok.toList = true
          then s.fld .debugStatus Fld.debugStatusRejects else s.counted .debugStatus Fld.debugStatusRejects 1)))) ∧
  (∀ (s : State) (entry : W16) (bs : List Byte), s.mgmt.powered = true → s.host.linkUp = true →
    (cdatHeader :: cdatEntries)[entry.toNat]? = some bs →
    ∃ s', exec (.cdatRead entry) s = .next s' ∧ s'.out = s.out ++ [.message
      ([0, 0] ++ leBytes 2 (if entry.toNat = 48 then 0xFFFF else entry.toNat + 1) ++ bs)]) ∧
  (cdatHeader :: cdatEntries).length = 49 ∧
  (∀ (s : State) (mctp : Bool) (req : List Byte), s.spdmUp mctp = true →
    (spdmIs req 0x10 0x84 4 = true → ∃ s', exec (.getVersion mctp req) s = .next s' ∧
      s.answered s' mctp req [0x10, 0x04, 0, 0, 0, 1, 0, 0x12] (fun _ t => ⟨t, [], []⟩)) ∧
    (spdmIs req 0x12 0xE1 4 = true → ∃ s' tail, exec (.getCapabilities mctp req) s = .next s' ∧
      s.answered s' mctp req ([0x12, 0x61, 0, 0, 0, Config.spdmSizes.1, 0, 0, 0x16, 0, 0, 0] ++ tail)
        (fun v t => { v with vca := v.vca ++ t })) ∧
    (spdmIs req 0x12 0xE3 16 = true → ∃ s' spec, exec (.negotiateAlgorithms mctp req) s = .next s' ∧
      s.answered s' mctp req ([0x12, 0x63, 0, 0, 36, 0, spec, 0, 2, 0, 0, 0,
          (if (bytesAt req 8 4).testBit 4 then 0x10 else 0), 0, 0, 0,
          (if (bytesAt req 12 4).testBit 0 then 1 else 0), 0, 0, 0] ++ List.replicate 16 0)
        (fun v t => { v with vca := v.vca ++ t })) ∧
    (spdmIs req 0x12 0x81 4 = true → ∃ s', exec (.getDigests mctp req) s = .next s' ∧
      s.answered s' mctp req ([0x12, 0x01, 0, 1] ++ sha256 s.certChain) (fun v t => { v with certs := v.certs ++ t })) ∧
    (spdmIs req 0x12 0x82 8 = true →
      let off := bytesAt req 4 2
      (bytesAt req 2 1 % 16 = 0 → off < s.certChain.length →
        let part := (s.certChain.drop off).take (bytesAt req 6 2)
        ∃ s', exec (.getCertificate mctp req) s = .next s' ∧
          s.answered s' mctp req ([0x12, 0x02, 0, 0] ++ leBytes 2 part.length
              ++ leBytes 2 (s.certChain.length - off - part.length) ++ part)
            (fun v t => { v with certs := v.certs ++ t })) ∧
      ((bytesAt req 2 1 % 16 ≠ 0 ∨ s.certChain.length ≤ off) →
        ∃ s', exec (.getCertificate mctp req) s = .next s' ∧ s' = s.emit (.message (spdmError 1)))) ∧
    (spdmIs req 0x12 0x83 36 = true → bytesAt req 2 1 = 0 →
      let nonce := (List.range 32).map (Config.nonceByte s.free)
      let summary := if bytesAt req 3 1 = 0 then [] else sha256 (s.measIndexes.flatMap s.measBlock)
      let body : List Byte := [0x12, 0x03, 0, 1] ++ sha256 s.certChain ++ nonce ++ summary ++ [0, 0]
      ∃ s' k, exec (.challenge mctp req) s = .next s' ∧
        s.answered s' mctp req (body ++ ecdsaSign (s.aliasKey.getD deviceKey) k (spdmSigned
            "responder-challenge_auth signing" ((s.spdm mctp).vca ++ (s.spdm mctp).certs ++ req ++ body)))
          (fun v _ => { v with certs := [], meas := [] })) ∧
    (spdmIs req 0x12 0x83 36 = true → bytesAt req 2 1 ≠ 0 →
      ∃ s', exec (.challenge mctp req) s = .next s' ∧ s' = s.emit (.message (spdmError 1))) ∧
    (let op := bytesAt req 3 1
     (op = 0 ∨ op = 0xFF ∨ op ∈ s.measIndexes) →
     let want := if op = 0 then [] else if op = 0xFF then s.measIndexes else [op]
     let rec' := want.flatMap s.measBlock
     let nonce := (List.range 32).map (Config.nonceByte s.free)
     let body : List Byte := [0x12, 0x60] ++ leBytes 1 (if op = 0 then s.measIndexes.length else 0) ++ [0]
       ++ leBytes 1 want.length ++ leBytes 3 rec'.length ++ rec' ++ nonce ++ [0, 0]
     ((bytesAt req 2 1).testBit 0 = false → spdmIs req 0x12 0xE0 4 = true →
       ∃ s', exec (.getMeasurements mctp req) s = .next s' ∧
        s.answered s' mctp req body (fun v t => { v with meas := v.meas ++ t })) ∧
     ((bytesAt req 2 1).testBit 0 = true → spdmIs req 0x12 0xE0 37 = true → bytesAt req 36 1 % 16 = 0 →
       ∃ s' k, exec (.getMeasurements mctp req) s = .next s' ∧
        s.answered s' mctp req (body ++ ecdsaSign (s.aliasKey.getD deviceKey) k (spdmSigned
            "responder-measurements signing" ((s.spdm mctp).vca ++ (s.spdm mctp).meas ++ req ++ body)))
          (fun v _ => { v with meas := [] }))))
end

