-- ==== Sys2Proof/Laws/Store.lean ====
section
/-! SUPPORT. The laws of a `Store`: what a read after a write gives, and that writes keep the canonical form. -/

namespace Sys2Proof.Store

variable {κ α : Type} [DecidableEq κ]

theorem find?_erase_same (m : Store κ α) (k : κ) : find? (erase m k) k = none := by
  induction m with
  | nil => rfl
  | cons e m ih =>
    obtain ⟨j, v⟩ := e
    by_cases h : j = k
    · simp [erase, h, ih]
    · simp [erase, find?, h, ih]

theorem find?_erase_other (m : Store κ α) {k j : κ} (h : j ≠ k) : find? (erase m k) j = find? m j := by
  induction m with
  | nil => rfl
  | cons e m ih =>
    obtain ⟨i, v⟩ := e
    by_cases hi : i = k
    · subst hi
      simp [erase, find?, ih, Ne.symm h]
    · simp [erase, find?, hi, ih]

theorem find?_place_same (rank : κ → Nat) (m : Store κ α) (k : κ) (v : α) (h : find? m k = none) :
    find? (place rank m k v) k = some v := by
  induction m with
  | nil => simp [place, find?]
  | cons e m ih =>
    obtain ⟨j, w⟩ := e
    have hj : j ≠ k := by
      rintro rfl
      simp [find?] at h
    simp only [find?, hj, if_false] at h
    unfold place
    split
    · simp [find?]
    · simp [find?, hj, ih h]

theorem find?_place_other (rank : κ → Nat) (m : Store κ α) (k : κ) (v : α) {j : κ} (h : j ≠ k) :
    find? (place rank m k v) j = find? m j := by
  induction m with
  | nil => simp [place, find?, Ne.symm h]
  | cons e m ih =>
    obtain ⟨i, w⟩ := e
    unfold place
    split
    · simp [find?, Ne.symm h]
    · simp [find?, ih]

theorem find?_set_same (rank : κ → Nat) (m : Store κ α) (k : κ) (v : α) : find? (set rank m k v) k = some v :=
  find?_place_same rank _ k v (find?_erase_same m k)

theorem find?_set_other (rank : κ → Nat) (m : Store κ α) (k : κ) (v : α) {j : κ} (h : j ≠ k) :
    find? (set rank m k v) j = find? m j := by
  unfold set
  rw [find?_place_other rank _ k v h, find?_erase_other m h]

@[simp] theorem get_set_same (rank : κ → Nat) (d : κ → α) (m : Store κ α) (k : κ) (v : α) :
    get d (set rank m k v) k = v := by
  simp [get, find?_set_same]

theorem get_set_other (rank : κ → Nat) (d : κ → α) (m : Store κ α) (k : κ) (v : α) {j : κ} (h : j ≠ k) :
    get d (set rank m k v) j = get d m j := by
  simp [get, find?_set_other rank m k v h]

/-- A read after a write to the same key gives the value written. -/
@[simp] theorem get_put_same [DecidableEq α] (rank : κ → Nat) (d : κ → α) (m : Store κ α) (k : κ) (v : α) :
    get d (put rank d m k v) k = v := by
  unfold put
  split
  · next h => simp [get, find?_erase_same, h]
  · simp

/-- A write leaves every other key alone. -/
theorem get_put_other [DecidableEq α] (rank : κ → Nat) (d : κ → α) (m : Store κ α) (k : κ) (v : α) {j : κ}
    (h : j ≠ k) : get d (put rank d m k v) j = get d m j := by
  unfold put
  split
  · simp [get, find?_erase_other m h]
  · exact get_set_other rank d m k v h

/-! ### The canonical form -/

omit [DecidableEq κ] in
theorem rising_tail {rank : κ → Nat} {e : κ × α} {m : Store κ α} (h : rising rank (e :: m) = true) :
    rising rank m = true := by
  cases m with
  | nil => rfl
  | cons f m => simp_all [rising]

omit [DecidableEq κ] in
/-- Every key of a rising store's tail ranks above its head. -/
theorem rising_head_lt {rank : κ → Nat} {e : κ × α} {m : Store κ α} (h : rising rank (e :: m) = true) :
    ∀ p ∈ m, rank e.1 < rank p.1 := by
  induction m generalizing e with
  | nil => simp
  | cons f m ih =>
    have h1 : rank e.1 < rank f.1 ∧ rising rank (f :: m) = true := by
      simpa [rising] using h
    intro p hp
    rcases List.mem_cons.mp hp with rfl | hp
    · exact h1.1
    · exact lt_trans h1.1 (ih h1.2 p hp)

omit [DecidableEq κ] in
theorem rising_cons {rank : κ → Nat} {e : κ × α} {m : Store κ α} (hm : rising rank m = true)
    (h : ∀ p ∈ m, rank e.1 < rank p.1) : rising rank (e :: m) = true := by
  cases m with
  | nil => rfl
  | cons f m => simp [rising, hm, h f (by simp)]

theorem mem_erase {m : Store κ α} {k : κ} {p : κ × α} (h : p ∈ erase m k) : p ∈ m ∧ p.1 ≠ k := by
  induction m with
  | nil => simp [erase] at h
  | cons e m ih =>
    obtain ⟨j, v⟩ := e
    by_cases hj : j = k
    · simp only [erase, hj, if_true] at h
      exact ⟨List.mem_cons_of_mem _ (ih h).1, (ih h).2⟩
    · simp only [erase, hj, if_false] at h
      rcases List.mem_cons.mp h with rfl | h
      · exact ⟨by simp, hj⟩
      · exact ⟨List.mem_cons_of_mem _ (ih h).1, (ih h).2⟩

theorem rising_erase {rank : κ → Nat} {m : Store κ α} (k : κ) (h : rising rank m = true) :
    rising rank (erase m k) = true := by
  induction m with
  | nil => rfl
  | cons e m ih =>
    obtain ⟨j, v⟩ := e
    by_cases hj : j = k
    · simpa [erase, hj] using ih (rising_tail h)
    · simp only [erase, hj, if_false]
      exact rising_cons (ih (rising_tail h)) (fun p hp => rising_head_lt h p (mem_erase hp).1)

omit [DecidableEq κ] in
theorem mem_place {rank : κ → Nat} {m : Store κ α} {k : κ} {v : α} {p : κ × α} (h : p ∈ place rank m k v) :
    p = (k, v) ∨ p ∈ m := by
  induction m with
  | nil => simpa [place] using h
  | cons e m ih =>
    unfold place at h
    split at h
    · simpa using h
    · rcases List.mem_cons.mp h with rfl | h
      · exact .inr (by simp)
      · exact (ih h).imp id (List.mem_cons_of_mem _)

omit [DecidableEq κ] in
/-- Placing a key whose rank no other key has keeps the order. -/
theorem rising_place {rank : κ → Nat} {m : Store κ α} {k : κ} (v : α) (h : rising rank m = true)
    (hk : ∀ p ∈ m, rank p.1 ≠ rank k) : rising rank (place rank m k v) = true := by
  induction m with
  | nil => rfl
  | cons e m ih =>
    obtain ⟨j, w⟩ := e
    unfold place
    split
    · next hlt =>
      refine rising_cons h (fun p hp => ?_)
      rcases List.mem_cons.mp hp with rfl | hp
      · exact hlt
      · exact lt_trans hlt (rising_head_lt h p hp)
    · next hge =>
      have hne : rank j ≠ rank k := hk (j, w) (by simp)
      refine rising_cons (ih (rising_tail h) (fun p hp => hk p (List.mem_cons_of_mem _ hp))) (fun p hp => ?_)
      rcases mem_place hp with rfl | hp
      · exact Nat.lt_of_le_of_ne (Nat.le_of_not_lt hge) hne
      · exact rising_head_lt h p hp

/-- Writing keeps the ranks rising, where distinct keys have distinct ranks. -/
theorem rising_set {rank : κ → Nat} (inj : ∀ a b, rank a = rank b → a = b) {m : Store κ α} (k : κ) (v : α)
    (h : rising rank m = true) : rising rank (set rank m k v) = true :=
  rising_place v (rising_erase k h) (fun _ hp e => (mem_erase hp).2 (inj _ _ e))

/-- Writing keeps the canonical form. -/
theorem put_wf [DecidableEq α] {rank : κ → Nat} (inj : ∀ a b, rank a = rank b → a = b) {d : κ → α} {m : Store κ α}
    (k : κ) (v : α) (h : wf rank d m = true) : wf rank d (put rank d m k v) = true := by
  simp only [wf, Bool.and_eq_true, List.all_eq_true, decide_eq_true_eq] at h ⊢
  obtain ⟨hr, hd⟩ := h
  unfold put
  split
  · exact ⟨rising_erase k hr, fun p hp => hd p (mem_erase hp).1⟩
  · next hv =>
    refine ⟨rising_set inj k v hr, fun p hp => ?_⟩
    rcases mem_place hp with rfl | hp
    · exact hv
    · exact hd p (mem_erase hp).1

omit [DecidableEq κ] in
/-- Leaving entries out keeps the canonical form. -/
theorem filter_wf [DecidableEq α] {rank : κ → Nat} {d : κ → α} {m : Store κ α} (q : κ × α → Bool)
    (h : wf rank d m = true) : wf rank d (m.filter q) = true := by
  simp only [wf, Bool.and_eq_true, List.all_eq_true, decide_eq_true_eq] at h ⊢
  obtain ⟨hr, hd⟩ := h
  refine ⟨?_, fun p hp => hd p (List.mem_filter.mp hp).1⟩
  clear hd
  induction m with
  | nil => rfl
  | cons e m ih =>
    by_cases hq : q e = true
    · rw [List.filter_cons_of_pos hq]
      exact rising_cons (ih (rising_tail hr)) (fun p hp => rising_head_lt hr p (List.mem_filter.mp hp).1)
    · rw [List.filter_cons_of_neg hq]
      exact ih (rising_tail hr)

end Sys2Proof.Store
end

