-- ==== Sys2Proof/Laws/State.lean ====
section
/-! SUPPORT. One lemma per field of State and named update: the update leaves the field alone; and what the accessors of
registers and tiles read after an update. -/

namespace Sys2Proof.Machine

/-! ### `State.setReg` -/

@[simp] theorem State.setReg_now (s : State) (r : Reg) (v : W64) : (s.setReg r v).now = s.now := rfl
@[simp] theorem State.setReg_free (s : State) (r : Reg) (v : W64) : (s.setReg r v).free = s.free := rfl
@[simp] theorem State.setReg_pending (s : State) (r : Reg) (v : W64) : (s.setReg r v).pending = s.pending := rfl
@[simp] theorem State.setReg_out (s : State) (r : Reg) (v : W64) : (s.setReg r v).out = s.out := rfl
@[simp] theorem State.setReg_mem (s : State) (r : Reg) (v : W64) : (s.setReg r v).mem = s.mem := rfl
@[simp] theorem State.setReg_marks (s : State) (r : Reg) (v : W64) : (s.setReg r v).marks = s.marks := rfl
@[simp] theorem State.setReg_tiles (s : State) (r : Reg) (v : W64) : (s.setReg r v).tiles = s.tiles := rfl
@[simp] theorem State.setReg_caches (s : State) (r : Reg) (v : W64) : (s.setReg r v).caches = s.caches := rfl
@[simp] theorem State.setReg_twins (s : State) (r : Reg) (v : W64) : (s.setReg r v).twins = s.twins := rfl
@[simp] theorem State.setReg_rowErrors (s : State) (r : Reg) (v : W64) : (s.setReg r v).rowErrors = s.rowErrors := rfl
@[simp] theorem State.setReg_spares (s : State) (r : Reg) (v : W64) : (s.setReg r v).spares = s.spares := rfl
@[simp] theorem State.setReg_scrubStep (s : State) (r : Reg) (v : W64) : (s.setReg r v).scrubStep = s.scrubStep := rfl
@[simp] theorem State.setReg_postponed (s : State) (r : Reg) (v : W64) : (s.setReg r v).postponed = s.postponed := rfl
@[simp] theorem State.setReg_banks (s : State) (r : Reg) (v : W64) : (s.setReg r v).banks = s.banks := rfl
@[simp] theorem State.setReg_ecqs (s : State) (r : Reg) (v : W64) : (s.setReg r v).ecqs = s.ecqs := rfl
@[simp] theorem State.setReg_hostPages (s : State) (r : Reg) (v : W64) : (s.setReg r v).hostPages = s.hostPages := rfl
@[simp] theorem State.setReg_net (s : State) (r : Reg) (v : W64) : (s.setReg r v).net = s.net := rfl
@[simp] theorem State.setReg_groups (s : State) (r : Reg) (v : W64) : (s.setReg r v).groups = s.groups := rfl
@[simp] theorem State.setReg_energy (s : State) (r : Reg) (v : W64) : (s.setReg r v).energy = s.energy := rfl
@[simp] theorem State.setReg_host (s : State) (r : Reg) (v : W64) : (s.setReg r v).host = s.host := rfl
@[simp] theorem State.setReg_tense (s : State) (r : Reg) (v : W64) : (s.setReg r v).tense = s.tense := rfl
@[simp] theorem State.setReg_optics (s : State) (r : Reg) (v : W64) : (s.setReg r v).optics = s.optics := rfl
@[simp] theorem State.setReg_mgmt (s : State) (r : Reg) (v : W64) : (s.setReg r v).mgmt = s.mgmt := rfl
@[simp] theorem State.setReg_earlyJoins (s : State) (r : Reg) (v : W64) : (s.setReg r v).earlyJoins = s.earlyJoins := rfl
@[simp] theorem State.setReg_clocks (s : State) (r : Reg) (v : W64) : (s.setReg r v).clocks = s.clocks := rfl
@[simp] theorem State.setReg_downDies (s : State) (r : Reg) (v : W64) : (s.setReg r v).downDies = s.downDies := rfl
@[simp] theorem State.setReg_tense16 (s : State) (r : Reg) (v : W64) : (s.setReg r v).tense16 = s.tense16 := rfl
@[simp] theorem State.setReg_clocksStopped (s : State) (r : Reg) (v : W64) : (s.setReg r v).clocksStopped = s.clocksStopped := rfl

@[simp] theorem State.setReg_tile (s : State) (r : Reg) (v : W64) (u : Tile) : (s.setReg r v).tile u = s.tile u := rfl

/-! ### `State.setFld` -/

@[simp] theorem State.setFld_now (s : State) (r : Reg) (f : Field) (v : Nat) : (s.setFld r f v).now = s.now := rfl
@[simp] theorem State.setFld_free (s : State) (r : Reg) (f : Field) (v : Nat) : (s.setFld r f v).free = s.free := rfl
@[simp] theorem State.setFld_pending (s : State) (r : Reg) (f : Field) (v : Nat) : (s.setFld r f v).pending = s.pending := rfl
@[simp] theorem State.setFld_out (s : State) (r : Reg) (f : Field) (v : Nat) : (s.setFld r f v).out = s.out := rfl
@[simp] theorem State.setFld_mem (s : State) (r : Reg) (f : Field) (v : Nat) : (s.setFld r f v).mem = s.mem := rfl
@[simp] theorem State.setFld_marks (s : State) (r : Reg) (f : Field) (v : Nat) : (s.setFld r f v).marks = s.marks := rfl
@[simp] theorem State.setFld_tiles (s : State) (r : Reg) (f : Field) (v : Nat) : (s.setFld r f v).tiles = s.tiles := rfl
@[simp] theorem State.setFld_caches (s : State) (r : Reg) (f : Field) (v : Nat) : (s.setFld r f v).caches = s.caches := rfl
@[simp] theorem State.setFld_twins (s : State) (r : Reg) (f : Field) (v : Nat) : (s.setFld r f v).twins = s.twins := rfl
@[simp] theorem State.setFld_rowErrors (s : State) (r : Reg) (f : Field) (v : Nat) : (s.setFld r f v).rowErrors = s.rowErrors := rfl
@[simp] theorem State.setFld_spares (s : State) (r : Reg) (f : Field) (v : Nat) : (s.setFld r f v).spares = s.spares := rfl
@[simp] theorem State.setFld_scrubStep (s : State) (r : Reg) (f : Field) (v : Nat) : (s.setFld r f v).scrubStep = s.scrubStep := rfl
@[simp] theorem State.setFld_postponed (s : State) (r : Reg) (f : Field) (v : Nat) : (s.setFld r f v).postponed = s.postponed := rfl
@[simp] theorem State.setFld_banks (s : State) (r : Reg) (f : Field) (v : Nat) : (s.setFld r f v).banks = s.banks := rfl
@[simp] theorem State.setFld_ecqs (s : State) (r : Reg) (f : Field) (v : Nat) : (s.setFld r f v).ecqs = s.ecqs := rfl
@[simp] theorem State.setFld_hostPages (s : State) (r : Reg) (f : Field) (v : Nat) : (s.setFld r f v).hostPages = s.hostPages := rfl
@[simp] theorem State.setFld_net (s : State) (r : Reg) (f : Field) (v : Nat) : (s.setFld r f v).net = s.net := rfl
@[simp] theorem State.setFld_groups (s : State) (r : Reg) (f : Field) (v : Nat) : (s.setFld r f v).groups = s.groups := rfl
@[simp] theorem State.setFld_energy (s : State) (r : Reg) (f : Field) (v : Nat) : (s.setFld r f v).energy = s.energy := rfl
@[simp] theorem State.setFld_host (s : State) (r : Reg) (f : Field) (v : Nat) : (s.setFld r f v).host = s.host := rfl
@[simp] theorem State.setFld_tense (s : State) (r : Reg) (f : Field) (v : Nat) : (s.setFld r f v).tense = s.tense := rfl
@[simp] theorem State.setFld_optics (s : State) (r : Reg) (f : Field) (v : Nat) : (s.setFld r f v).optics = s.optics := rfl
@[simp] theorem State.setFld_mgmt (s : State) (r : Reg) (f : Field) (v : Nat) : (s.setFld r f v).mgmt = s.mgmt := rfl
@[simp] theorem State.setFld_earlyJoins (s : State) (r : Reg) (f : Field) (v : Nat) : (s.setFld r f v).earlyJoins = s.earlyJoins := rfl
@[simp] theorem State.setFld_clocks (s : State) (r : Reg) (f : Field) (v : Nat) : (s.setFld r f v).clocks = s.clocks := rfl
@[simp] theorem State.setFld_downDies (s : State) (r : Reg) (f : Field) (v : Nat) : (s.setFld r f v).downDies = s.downDies := rfl
@[simp] theorem State.setFld_tense16 (s : State) (r : Reg) (f : Field) (v : Nat) : (s.setFld r f v).tense16 = s.tense16 := rfl
@[simp] theorem State.setFld_clocksStopped (s : State) (r : Reg) (f : Field) (v : Nat) : (s.setFld r f v).clocksStopped = s.clocksStopped := rfl

@[simp] theorem State.setFld_tile (s : State) (r : Reg) (f : Field) (v : Nat) (u : Tile) : (s.setFld r f v).tile u = s.tile u := rfl

/-! ### `State.setFlag` -/

@[simp] theorem State.setFlag_now (s : State) (r : Reg) (f : Field) (b : Bool) : (s.setFlag r f b).now = s.now := rfl
@[simp] theorem State.setFlag_free (s : State) (r : Reg) (f : Field) (b : Bool) : (s.setFlag r f b).free = s.free := rfl
@[simp] theorem State.setFlag_pending (s : State) (r : Reg) (f : Field) (b : Bool) : (s.setFlag r f b).pending = s.pending := rfl
@[simp] theorem State.setFlag_out (s : State) (r : Reg) (f : Field) (b : Bool) : (s.setFlag r f b).out = s.out := rfl
@[simp] theorem State.setFlag_mem (s : State) (r : Reg) (f : Field) (b : Bool) : (s.setFlag r f b).mem = s.mem := rfl
@[simp] theorem State.setFlag_marks (s : State) (r : Reg) (f : Field) (b : Bool) : (s.setFlag r f b).marks = s.marks := rfl
@[simp] theorem State.setFlag_tiles (s : State) (r : Reg) (f : Field) (b : Bool) : (s.setFlag r f b).tiles = s.tiles := rfl
@[simp] theorem State.setFlag_caches (s : State) (r : Reg) (f : Field) (b : Bool) : (s.setFlag r f b).caches = s.caches := rfl
@[simp] theorem State.setFlag_twins (s : State) (r : Reg) (f : Field) (b : Bool) : (s.setFlag r f b).twins = s.twins := rfl
@[simp] theorem State.setFlag_rowErrors (s : State) (r : Reg) (f : Field) (b : Bool) : (s.setFlag r f b).rowErrors = s.rowErrors := rfl
@[simp] theorem State.setFlag_spares (s : State) (r : Reg) (f : Field) (b : Bool) : (s.setFlag r f b).spares = s.spares := rfl
@[simp] theorem State.setFlag_scrubStep (s : State) (r : Reg) (f : Field) (b : Bool) : (s.setFlag r f b).scrubStep = s.scrubStep := rfl
@[simp] theorem State.setFlag_postponed (s : State) (r : Reg) (f : Field) (b : Bool) : (s.setFlag r f b).postponed = s.postponed := rfl
@[simp] theorem State.setFlag_banks (s : State) (r : Reg) (f : Field) (b : Bool) : (s.setFlag r f b).banks = s.banks := rfl
@[simp] theorem State.setFlag_ecqs (s : State) (r : Reg) (f : Field) (b : Bool) : (s.setFlag r f b).ecqs = s.ecqs := rfl
@[simp] theorem State.setFlag_hostPages (s : State) (r : Reg) (f : Field) (b : Bool) : (s.setFlag r f b).hostPages = s.hostPages := rfl
@[simp] theorem State.setFlag_net (s : State) (r : Reg) (f : Field) (b : Bool) : (s.setFlag r f b).net = s.net := rfl
@[simp] theorem State.setFlag_groups (s : State) (r : Reg) (f : Field) (b : Bool) : (s.setFlag r f b).groups = s.groups := rfl
@[simp] theorem State.setFlag_energy (s : State) (r : Reg) (f : Field) (b : Bool) : (s.setFlag r f b).energy = s.energy := rfl
@[simp] theorem State.setFlag_host (s : State) (r : Reg) (f : Field) (b : Bool) : (s.setFlag r f b).host = s.host := rfl
@[simp] theorem State.setFlag_tense (s : State) (r : Reg) (f : Field) (b : Bool) : (s.setFlag r f b).tense = s.tense := rfl
@[simp] theorem State.setFlag_optics (s : State) (r : Reg) (f : Field) (b : Bool) : (s.setFlag r f b).optics = s.optics := rfl
@[simp] theorem State.setFlag_mgmt (s : State) (r : Reg) (f : Field) (b : Bool) : (s.setFlag r f b).mgmt = s.mgmt := rfl
@[simp] theorem State.setFlag_earlyJoins (s : State) (r : Reg) (f : Field) (b : Bool) : (s.setFlag r f b).earlyJoins = s.earlyJoins := rfl
@[simp] theorem State.setFlag_clocks (s : State) (r : Reg) (f : Field) (b : Bool) : (s.setFlag r f b).clocks = s.clocks := rfl
@[simp] theorem State.setFlag_downDies (s : State) (r : Reg) (f : Field) (b : Bool) : (s.setFlag r f b).downDies = s.downDies := rfl
@[simp] theorem State.setFlag_tense16 (s : State) (r : Reg) (f : Field) (b : Bool) : (s.setFlag r f b).tense16 = s.tense16 := rfl
@[simp] theorem State.setFlag_clocksStopped (s : State) (r : Reg) (f : Field) (b : Bool) : (s.setFlag r f b).clocksStopped = s.clocksStopped := rfl

@[simp] theorem State.setFlag_tile (s : State) (r : Reg) (f : Field) (b : Bool) (u : Tile) : (s.setFlag r f b).tile u = s.tile u := rfl

/-! ### `State.resetRegs` -/

@[simp] theorem State.resetRegs_now (s : State) (p : Reg → Bool) : (s.resetRegs p).now = s.now := rfl
@[simp] theorem State.resetRegs_free (s : State) (p : Reg → Bool) : (s.resetRegs p).free = s.free := rfl
@[simp] theorem State.resetRegs_pending (s : State) (p : Reg → Bool) : (s.resetRegs p).pending = s.pending := rfl
@[simp] theorem State.resetRegs_out (s : State) (p : Reg → Bool) : (s.resetRegs p).out = s.out := rfl
@[simp] theorem State.resetRegs_mem (s : State) (p : Reg → Bool) : (s.resetRegs p).mem = s.mem := rfl
@[simp] theorem State.resetRegs_marks (s : State) (p : Reg → Bool) : (s.resetRegs p).marks = s.marks := rfl
@[simp] theorem State.resetRegs_tiles (s : State) (p : Reg → Bool) : (s.resetRegs p).tiles = s.tiles := rfl
@[simp] theorem State.resetRegs_caches (s : State) (p : Reg → Bool) : (s.resetRegs p).caches = s.caches := rfl
@[simp] theorem State.resetRegs_twins (s : State) (p : Reg → Bool) : (s.resetRegs p).twins = s.twins := rfl
@[simp] theorem State.resetRegs_rowErrors (s : State) (p : Reg → Bool) : (s.resetRegs p).rowErrors = s.rowErrors := rfl
@[simp] theorem State.resetRegs_spares (s : State) (p : Reg → Bool) : (s.resetRegs p).spares = s.spares := rfl
@[simp] theorem State.resetRegs_scrubStep (s : State) (p : Reg → Bool) : (s.resetRegs p).scrubStep = s.scrubStep := rfl
@[simp] theorem State.resetRegs_postponed (s : State) (p : Reg → Bool) : (s.resetRegs p).postponed = s.postponed := rfl
@[simp] theorem State.resetRegs_banks (s : State) (p : Reg → Bool) : (s.resetRegs p).banks = s.banks := rfl
@[simp] theorem State.resetRegs_ecqs (s : State) (p : Reg → Bool) : (s.resetRegs p).ecqs = s.ecqs := rfl
@[simp] theorem State.resetRegs_hostPages (s : State) (p : Reg → Bool) : (s.resetRegs p).hostPages = s.hostPages := rfl
@[simp] theorem State.resetRegs_net (s : State) (p : Reg → Bool) : (s.resetRegs p).net = s.net := rfl
@[simp] theorem State.resetRegs_groups (s : State) (p : Reg → Bool) : (s.resetRegs p).groups = s.groups := rfl
@[simp] theorem State.resetRegs_energy (s : State) (p : Reg → Bool) : (s.resetRegs p).energy = s.energy := rfl
@[simp] theorem State.resetRegs_host (s : State) (p : Reg → Bool) : (s.resetRegs p).host = s.host := rfl
@[simp] theorem State.resetRegs_tense (s : State) (p : Reg → Bool) : (s.resetRegs p).tense = s.tense := rfl
@[simp] theorem State.resetRegs_optics (s : State) (p : Reg → Bool) : (s.resetRegs p).optics = s.optics := rfl
@[simp] theorem State.resetRegs_mgmt (s : State) (p : Reg → Bool) : (s.resetRegs p).mgmt = s.mgmt := rfl
@[simp] theorem State.resetRegs_earlyJoins (s : State) (p : Reg → Bool) : (s.resetRegs p).earlyJoins = s.earlyJoins := rfl
@[simp] theorem State.resetRegs_clocks (s : State) (p : Reg → Bool) : (s.resetRegs p).clocks = s.clocks := rfl
@[simp] theorem State.resetRegs_downDies (s : State) (p : Reg → Bool) : (s.resetRegs p).downDies = s.downDies := rfl
@[simp] theorem State.resetRegs_tense16 (s : State) (p : Reg → Bool) : (s.resetRegs p).tense16 = s.tense16 := rfl
@[simp] theorem State.resetRegs_clocksStopped (s : State) (p : Reg → Bool) : (s.resetRegs p).clocksStopped = s.clocksStopped := rfl

@[simp] theorem State.resetRegs_tile (s : State) (p : Reg → Bool) (u : Tile) : (s.resetRegs p).tile u = s.tile u := rfl

/-! ### `State.setFlags` -/

@[simp] theorem State.setFlags_now (s : State) (t : Tile) (f : Flags) : (s.setFlags t f).now = s.now := rfl
@[simp] theorem State.setFlags_free (s : State) (t : Tile) (f : Flags) : (s.setFlags t f).free = s.free := rfl
@[simp] theorem State.setFlags_pending (s : State) (t : Tile) (f : Flags) : (s.setFlags t f).pending = s.pending := rfl
@[simp] theorem State.setFlags_out (s : State) (t : Tile) (f : Flags) : (s.setFlags t f).out = s.out := rfl
@[simp] theorem State.setFlags_mem (s : State) (t : Tile) (f : Flags) : (s.setFlags t f).mem = s.mem := rfl
@[simp] theorem State.setFlags_marks (s : State) (t : Tile) (f : Flags) : (s.setFlags t f).marks = s.marks := rfl
@[simp] theorem State.setFlags_tiles (s : State) (t : Tile) (f : Flags) : (s.setFlags t f).tiles = s.tiles := rfl
@[simp] theorem State.setFlags_caches (s : State) (t : Tile) (f : Flags) : (s.setFlags t f).caches = s.caches := rfl
@[simp] theorem State.setFlags_twins (s : State) (t : Tile) (f : Flags) : (s.setFlags t f).twins = s.twins := rfl
@[simp] theorem State.setFlags_rowErrors (s : State) (t : Tile) (f : Flags) : (s.setFlags t f).rowErrors = s.rowErrors := rfl
@[simp] theorem State.setFlags_spares (s : State) (t : Tile) (f : Flags) : (s.setFlags t f).spares = s.spares := rfl
@[simp] theorem State.setFlags_scrubStep (s : State) (t : Tile) (f : Flags) : (s.setFlags t f).scrubStep = s.scrubStep := rfl
@[simp] theorem State.setFlags_postponed (s : State) (t : Tile) (f : Flags) : (s.setFlags t f).postponed = s.postponed := rfl
@[simp] theorem State.setFlags_banks (s : State) (t : Tile) (f : Flags) : (s.setFlags t f).banks = s.banks := rfl
@[simp] theorem State.setFlags_ecqs (s : State) (t : Tile) (f : Flags) : (s.setFlags t f).ecqs = s.ecqs := rfl
@[simp] theorem State.setFlags_hostPages (s : State) (t : Tile) (f : Flags) : (s.setFlags t f).hostPages = s.hostPages := rfl
@[simp] theorem State.setFlags_net (s : State) (t : Tile) (f : Flags) : (s.setFlags t f).net = s.net := rfl
@[simp] theorem State.setFlags_groups (s : State) (t : Tile) (f : Flags) : (s.setFlags t f).groups = s.groups := rfl
@[simp] theorem State.setFlags_energy (s : State) (t : Tile) (f : Flags) : (s.setFlags t f).energy = s.energy := rfl
@[simp] theorem State.setFlags_host (s : State) (t : Tile) (f : Flags) : (s.setFlags t f).host = s.host := rfl
@[simp] theorem State.setFlags_tense (s : State) (t : Tile) (f : Flags) : (s.setFlags t f).tense = s.tense := rfl
@[simp] theorem State.setFlags_optics (s : State) (t : Tile) (f : Flags) : (s.setFlags t f).optics = s.optics := rfl
@[simp] theorem State.setFlags_mgmt (s : State) (t : Tile) (f : Flags) : (s.setFlags t f).mgmt = s.mgmt := rfl
@[simp] theorem State.setFlags_earlyJoins (s : State) (t : Tile) (f : Flags) : (s.setFlags t f).earlyJoins = s.earlyJoins := rfl
@[simp] theorem State.setFlags_clocks (s : State) (t : Tile) (f : Flags) : (s.setFlags t f).clocks = s.clocks := rfl
@[simp] theorem State.setFlags_downDies (s : State) (t : Tile) (f : Flags) : (s.setFlags t f).downDies = s.downDies := rfl
@[simp] theorem State.setFlags_tense16 (s : State) (t : Tile) (f : Flags) : (s.setFlags t f).tense16 = s.tense16 := rfl
@[simp] theorem State.setFlags_clocksStopped (s : State) (t : Tile) (f : Flags) : (s.setFlags t f).clocksStopped = s.clocksStopped := rfl

@[simp] theorem State.setFlags_tile (s : State) (t : Tile) (f : Flags) (u : Tile) : (s.setFlags t f).tile u = s.tile u := rfl

/-! ### `State.busyTag` -/

@[simp] theorem State.busyTag_now (s : State) (t : Tile) (i : Nat) : (s.busyTag t i).now = s.now := rfl
@[simp] theorem State.busyTag_free (s : State) (t : Tile) (i : Nat) : (s.busyTag t i).free = s.free := rfl
@[simp] theorem State.busyTag_pending (s : State) (t : Tile) (i : Nat) : (s.busyTag t i).pending = s.pending := rfl
@[simp] theorem State.busyTag_out (s : State) (t : Tile) (i : Nat) : (s.busyTag t i).out = s.out := rfl
@[simp] theorem State.busyTag_mem (s : State) (t : Tile) (i : Nat) : (s.busyTag t i).mem = s.mem := rfl
@[simp] theorem State.busyTag_marks (s : State) (t : Tile) (i : Nat) : (s.busyTag t i).marks = s.marks := rfl
@[simp] theorem State.busyTag_tiles (s : State) (t : Tile) (i : Nat) : (s.busyTag t i).tiles = s.tiles := rfl
@[simp] theorem State.busyTag_caches (s : State) (t : Tile) (i : Nat) : (s.busyTag t i).caches = s.caches := rfl
@[simp] theorem State.busyTag_twins (s : State) (t : Tile) (i : Nat) : (s.busyTag t i).twins = s.twins := rfl
@[simp] theorem State.busyTag_rowErrors (s : State) (t : Tile) (i : Nat) : (s.busyTag t i).rowErrors = s.rowErrors := rfl
@[simp] theorem State.busyTag_spares (s : State) (t : Tile) (i : Nat) : (s.busyTag t i).spares = s.spares := rfl
@[simp] theorem State.busyTag_scrubStep (s : State) (t : Tile) (i : Nat) : (s.busyTag t i).scrubStep = s.scrubStep := rfl
@[simp] theorem State.busyTag_postponed (s : State) (t : Tile) (i : Nat) : (s.busyTag t i).postponed = s.postponed := rfl
@[simp] theorem State.busyTag_banks (s : State) (t : Tile) (i : Nat) : (s.busyTag t i).banks = s.banks := rfl
@[simp] theorem State.busyTag_ecqs (s : State) (t : Tile) (i : Nat) : (s.busyTag t i).ecqs = s.ecqs := rfl
@[simp] theorem State.busyTag_hostPages (s : State) (t : Tile) (i : Nat) : (s.busyTag t i).hostPages = s.hostPages := rfl
@[simp] theorem State.busyTag_net (s : State) (t : Tile) (i : Nat) : (s.busyTag t i).net = s.net := rfl
@[simp] theorem State.busyTag_groups (s : State) (t : Tile) (i : Nat) : (s.busyTag t i).groups = s.groups := rfl
@[simp] theorem State.busyTag_energy (s : State) (t : Tile) (i : Nat) : (s.busyTag t i).energy = s.energy := rfl
@[simp] theorem State.busyTag_host (s : State) (t : Tile) (i : Nat) : (s.busyTag t i).host = s.host := rfl
@[simp] theorem State.busyTag_tense (s : State) (t : Tile) (i : Nat) : (s.busyTag t i).tense = s.tense := rfl
@[simp] theorem State.busyTag_optics (s : State) (t : Tile) (i : Nat) : (s.busyTag t i).optics = s.optics := rfl
@[simp] theorem State.busyTag_mgmt (s : State) (t : Tile) (i : Nat) : (s.busyTag t i).mgmt = s.mgmt := rfl
@[simp] theorem State.busyTag_earlyJoins (s : State) (t : Tile) (i : Nat) : (s.busyTag t i).earlyJoins = s.earlyJoins := rfl
@[simp] theorem State.busyTag_clocks (s : State) (t : Tile) (i : Nat) : (s.busyTag t i).clocks = s.clocks := rfl
@[simp] theorem State.busyTag_downDies (s : State) (t : Tile) (i : Nat) : (s.busyTag t i).downDies = s.downDies := rfl
@[simp] theorem State.busyTag_tense16 (s : State) (t : Tile) (i : Nat) : (s.busyTag t i).tense16 = s.tense16 := rfl
@[simp] theorem State.busyTag_clocksStopped (s : State) (t : Tile) (i : Nat) : (s.busyTag t i).clocksStopped = s.clocksStopped := rfl

@[simp] theorem State.busyTag_tile (s : State) (t : Tile) (i : Nat) (u : Tile) : (s.busyTag t i).tile u = s.tile u := rfl

/-! ### `State.clearTag` -/

@[simp] theorem State.clearTag_now (s : State) (t : Tile) (i : Nat) : (s.clearTag t i).now = s.now := rfl
@[simp] theorem State.clearTag_free (s : State) (t : Tile) (i : Nat) : (s.clearTag t i).free = s.free := rfl
@[simp] theorem State.clearTag_pending (s : State) (t : Tile) (i : Nat) : (s.clearTag t i).pending = s.pending := rfl
@[simp] theorem State.clearTag_out (s : State) (t : Tile) (i : Nat) : (s.clearTag t i).out = s.out := rfl
@[simp] theorem State.clearTag_mem (s : State) (t : Tile) (i : Nat) : (s.clearTag t i).mem = s.mem := rfl
@[simp] theorem State.clearTag_marks (s : State) (t : Tile) (i : Nat) : (s.clearTag t i).marks = s.marks := rfl
@[simp] theorem State.clearTag_tiles (s : State) (t : Tile) (i : Nat) : (s.clearTag t i).tiles = s.tiles := rfl
@[simp] theorem State.clearTag_caches (s : State) (t : Tile) (i : Nat) : (s.clearTag t i).caches = s.caches := rfl
@[simp] theorem State.clearTag_twins (s : State) (t : Tile) (i : Nat) : (s.clearTag t i).twins = s.twins := rfl
@[simp] theorem State.clearTag_rowErrors (s : State) (t : Tile) (i : Nat) : (s.clearTag t i).rowErrors = s.rowErrors := rfl
@[simp] theorem State.clearTag_spares (s : State) (t : Tile) (i : Nat) : (s.clearTag t i).spares = s.spares := rfl
@[simp] theorem State.clearTag_scrubStep (s : State) (t : Tile) (i : Nat) : (s.clearTag t i).scrubStep = s.scrubStep := rfl
@[simp] theorem State.clearTag_postponed (s : State) (t : Tile) (i : Nat) : (s.clearTag t i).postponed = s.postponed := rfl
@[simp] theorem State.clearTag_banks (s : State) (t : Tile) (i : Nat) : (s.clearTag t i).banks = s.banks := rfl
@[simp] theorem State.clearTag_ecqs (s : State) (t : Tile) (i : Nat) : (s.clearTag t i).ecqs = s.ecqs := rfl
@[simp] theorem State.clearTag_hostPages (s : State) (t : Tile) (i : Nat) : (s.clearTag t i).hostPages = s.hostPages := rfl
@[simp] theorem State.clearTag_net (s : State) (t : Tile) (i : Nat) : (s.clearTag t i).net = s.net := rfl
@[simp] theorem State.clearTag_groups (s : State) (t : Tile) (i : Nat) : (s.clearTag t i).groups = s.groups := rfl
@[simp] theorem State.clearTag_energy (s : State) (t : Tile) (i : Nat) : (s.clearTag t i).energy = s.energy := rfl
@[simp] theorem State.clearTag_host (s : State) (t : Tile) (i : Nat) : (s.clearTag t i).host = s.host := rfl
@[simp] theorem State.clearTag_tense (s : State) (t : Tile) (i : Nat) : (s.clearTag t i).tense = s.tense := rfl
@[simp] theorem State.clearTag_optics (s : State) (t : Tile) (i : Nat) : (s.clearTag t i).optics = s.optics := rfl
@[simp] theorem State.clearTag_mgmt (s : State) (t : Tile) (i : Nat) : (s.clearTag t i).mgmt = s.mgmt := rfl
@[simp] theorem State.clearTag_earlyJoins (s : State) (t : Tile) (i : Nat) : (s.clearTag t i).earlyJoins = s.earlyJoins := rfl
@[simp] theorem State.clearTag_clocks (s : State) (t : Tile) (i : Nat) : (s.clearTag t i).clocks = s.clocks := rfl
@[simp] theorem State.clearTag_downDies (s : State) (t : Tile) (i : Nat) : (s.clearTag t i).downDies = s.downDies := rfl
@[simp] theorem State.clearTag_tense16 (s : State) (t : Tile) (i : Nat) : (s.clearTag t i).tense16 = s.tense16 := rfl
@[simp] theorem State.clearTag_clocksStopped (s : State) (t : Tile) (i : Nat) : (s.clearTag t i).clocksStopped = s.clocksStopped := rfl

@[simp] theorem State.clearTag_tile (s : State) (t : Tile) (i : Nat) (u : Tile) : (s.clearTag t i).tile u = s.tile u := rfl

/-! ### `State.setTile` -/

@[simp] theorem State.setTile_regs (s : State) (t : Tile) (v : TileState) : (s.setTile t v).regs = s.regs := rfl
@[simp] theorem State.setTile_now (s : State) (t : Tile) (v : TileState) : (s.setTile t v).now = s.now := rfl
@[simp] theorem State.setTile_free (s : State) (t : Tile) (v : TileState) : (s.setTile t v).free = s.free := rfl
@[simp] theorem State.setTile_pending (s : State) (t : Tile) (v : TileState) : (s.setTile t v).pending = s.pending := rfl
@[simp] theorem State.setTile_out (s : State) (t : Tile) (v : TileState) : (s.setTile t v).out = s.out := rfl
@[simp] theorem State.setTile_mem (s : State) (t : Tile) (v : TileState) : (s.setTile t v).mem = s.mem := rfl
@[simp] theorem State.setTile_marks (s : State) (t : Tile) (v : TileState) : (s.setTile t v).marks = s.marks := rfl
@[simp] theorem State.setTile_caches (s : State) (t : Tile) (v : TileState) : (s.setTile t v).caches = s.caches := rfl
@[simp] theorem State.setTile_twins (s : State) (t : Tile) (v : TileState) : (s.setTile t v).twins = s.twins := rfl
@[simp] theorem State.setTile_rowErrors (s : State) (t : Tile) (v : TileState) : (s.setTile t v).rowErrors = s.rowErrors := rfl
@[simp] theorem State.setTile_spares (s : State) (t : Tile) (v : TileState) : (s.setTile t v).spares = s.spares := rfl
@[simp] theorem State.setTile_scrubStep (s : State) (t : Tile) (v : TileState) : (s.setTile t v).scrubStep = s.scrubStep := rfl
@[simp] theorem State.setTile_postponed (s : State) (t : Tile) (v : TileState) : (s.setTile t v).postponed = s.postponed := rfl
@[simp] theorem State.setTile_banks (s : State) (t : Tile) (v : TileState) : (s.setTile t v).banks = s.banks := rfl
@[simp] theorem State.setTile_ecqs (s : State) (t : Tile) (v : TileState) : (s.setTile t v).ecqs = s.ecqs := rfl
@[simp] theorem State.setTile_hostPages (s : State) (t : Tile) (v : TileState) : (s.setTile t v).hostPages = s.hostPages := rfl
@[simp] theorem State.setTile_net (s : State) (t : Tile) (v : TileState) : (s.setTile t v).net = s.net := rfl
@[simp] theorem State.setTile_groups (s : State) (t : Tile) (v : TileState) : (s.setTile t v).groups = s.groups := rfl
@[simp] theorem State.setTile_energy (s : State) (t : Tile) (v : TileState) : (s.setTile t v).energy = s.energy := rfl
@[simp] theorem State.setTile_host (s : State) (t : Tile) (v : TileState) : (s.setTile t v).host = s.host := rfl
@[simp] theorem State.setTile_tense (s : State) (t : Tile) (v : TileState) : (s.setTile t v).tense = s.tense := rfl
@[simp] theorem State.setTile_optics (s : State) (t : Tile) (v : TileState) : (s.setTile t v).optics = s.optics := rfl
@[simp] theorem State.setTile_mgmt (s : State) (t : Tile) (v : TileState) : (s.setTile t v).mgmt = s.mgmt := rfl
@[simp] theorem State.setTile_earlyJoins (s : State) (t : Tile) (v : TileState) : (s.setTile t v).earlyJoins = s.earlyJoins := rfl
@[simp] theorem State.setTile_clocks (s : State) (t : Tile) (v : TileState) : (s.setTile t v).clocks = s.clocks := rfl
@[simp] theorem State.setTile_downDies (s : State) (t : Tile) (v : TileState) : (s.setTile t v).downDies = s.downDies := rfl
@[simp] theorem State.setTile_tense16 (s : State) (t : Tile) (v : TileState) : (s.setTile t v).tense16 = s.tense16 := rfl
@[simp] theorem State.setTile_clocksStopped (s : State) (t : Tile) (v : TileState) : (s.setTile t v).clocksStopped = s.clocksStopped := rfl

@[simp] theorem State.setTile_reg (s : State) (t : Tile) (v : TileState) (q : Reg) : (s.setTile t v).reg q = s.reg q := rfl

/-! ### `State.updTile` -/

@[simp] theorem State.updTile_regs (s : State) (t : Tile) (f : TileState → TileState) : (s.updTile t f).regs = s.regs := rfl
@[simp] theorem State.updTile_now (s : State) (t : Tile) (f : TileState → TileState) : (s.updTile t f).now = s.now := rfl
@[simp] theorem State.updTile_free (s : State) (t : Tile) (f : TileState → TileState) : (s.updTile t f).free = s.free := rfl
@[simp] theorem State.updTile_pending (s : State) (t : Tile) (f : TileState → TileState) : (s.updTile t f).pending = s.pending := rfl
@[simp] theorem State.updTile_out (s : State) (t : Tile) (f : TileState → TileState) : (s.updTile t f).out = s.out := rfl
@[simp] theorem State.updTile_mem (s : State) (t : Tile) (f : TileState → TileState) : (s.updTile t f).mem = s.mem := rfl
@[simp] theorem State.updTile_marks (s : State) (t : Tile) (f : TileState → TileState) : (s.updTile t f).marks = s.marks := rfl
@[simp] theorem State.updTile_caches (s : State) (t : Tile) (f : TileState → TileState) : (s.updTile t f).caches = s.caches := rfl
@[simp] theorem State.updTile_twins (s : State) (t : Tile) (f : TileState → TileState) : (s.updTile t f).twins = s.twins := rfl
@[simp] theorem State.updTile_rowErrors (s : State) (t : Tile) (f : TileState → TileState) : (s.updTile t f).rowErrors = s.rowErrors := rfl
@[simp] theorem State.updTile_spares (s : State) (t : Tile) (f : TileState → TileState) : (s.updTile t f).spares = s.spares := rfl
@[simp] theorem State.updTile_scrubStep (s : State) (t : Tile) (f : TileState → TileState) : (s.updTile t f).scrubStep = s.scrubStep := rfl
@[simp] theorem State.updTile_postponed (s : State) (t : Tile) (f : TileState → TileState) : (s.updTile t f).postponed = s.postponed := rfl
@[simp] theorem State.updTile_banks (s : State) (t : Tile) (f : TileState → TileState) : (s.updTile t f).banks = s.banks := rfl
@[simp] theorem State.updTile_ecqs (s : State) (t : Tile) (f : TileState → TileState) : (s.updTile t f).ecqs = s.ecqs := rfl
@[simp] theorem State.updTile_hostPages (s : State) (t : Tile) (f : TileState → TileState) : (s.updTile t f).hostPages = s.hostPages := rfl
@[simp] theorem State.updTile_net (s : State) (t : Tile) (f : TileState → TileState) : (s.updTile t f).net = s.net := rfl
@[simp] theorem State.updTile_groups (s : State) (t : Tile) (f : TileState → TileState) : (s.updTile t f).groups = s.groups := rfl
@[simp] theorem State.updTile_energy (s : State) (t : Tile) (f : TileState → TileState) : (s.updTile t f).energy = s.energy := rfl
@[simp] theorem State.updTile_host (s : State) (t : Tile) (f : TileState → TileState) : (s.updTile t f).host = s.host := rfl
@[simp] theorem State.updTile_tense (s : State) (t : Tile) (f : TileState → TileState) : (s.updTile t f).tense = s.tense := rfl
@[simp] theorem State.updTile_optics (s : State) (t : Tile) (f : TileState → TileState) : (s.updTile t f).optics = s.optics := rfl
@[simp] theorem State.updTile_mgmt (s : State) (t : Tile) (f : TileState → TileState) : (s.updTile t f).mgmt = s.mgmt := rfl
@[simp] theorem State.updTile_earlyJoins (s : State) (t : Tile) (f : TileState → TileState) : (s.updTile t f).earlyJoins = s.earlyJoins := rfl
@[simp] theorem State.updTile_clocks (s : State) (t : Tile) (f : TileState → TileState) : (s.updTile t f).clocks = s.clocks := rfl
@[simp] theorem State.updTile_downDies (s : State) (t : Tile) (f : TileState → TileState) : (s.updTile t f).downDies = s.downDies := rfl
@[simp] theorem State.updTile_tense16 (s : State) (t : Tile) (f : TileState → TileState) : (s.updTile t f).tense16 = s.tense16 := rfl
@[simp] theorem State.updTile_clocksStopped (s : State) (t : Tile) (f : TileState → TileState) : (s.updTile t f).clocksStopped = s.clocksStopped := rfl

@[simp] theorem State.updTile_reg (s : State) (t : Tile) (f : TileState → TileState) (q : Reg) : (s.updTile t f).reg q = s.reg q := rfl

/-! ### `State.emit` -/

@[simp] theorem State.emit_regs (s : State) (o : Output) : (s.emit o).regs = s.regs := rfl
@[simp] theorem State.emit_now (s : State) (o : Output) : (s.emit o).now = s.now := rfl
@[simp] theorem State.emit_free (s : State) (o : Output) : (s.emit o).free = s.free := rfl
@[simp] theorem State.emit_pending (s : State) (o : Output) : (s.emit o).pending = s.pending := rfl
@[simp] theorem State.emit_mem (s : State) (o : Output) : (s.emit o).mem = s.mem := rfl
@[simp] theorem State.emit_marks (s : State) (o : Output) : (s.emit o).marks = s.marks := rfl
@[simp] theorem State.emit_tiles (s : State) (o : Output) : (s.emit o).tiles = s.tiles := rfl
@[simp] theorem State.emit_caches (s : State) (o : Output) : (s.emit o).caches = s.caches := rfl
@[simp] theorem State.emit_twins (s : State) (o : Output) : (s.emit o).twins = s.twins := rfl
@[simp] theorem State.emit_rowErrors (s : State) (o : Output) : (s.emit o).rowErrors = s.rowErrors := rfl
@[simp] theorem State.emit_spares (s : State) (o : Output) : (s.emit o).spares = s.spares := rfl
@[simp] theorem State.emit_scrubStep (s : State) (o : Output) : (s.emit o).scrubStep = s.scrubStep := rfl
@[simp] theorem State.emit_postponed (s : State) (o : Output) : (s.emit o).postponed = s.postponed := rfl
@[simp] theorem State.emit_banks (s : State) (o : Output) : (s.emit o).banks = s.banks := rfl
@[simp] theorem State.emit_ecqs (s : State) (o : Output) : (s.emit o).ecqs = s.ecqs := rfl
@[simp] theorem State.emit_hostPages (s : State) (o : Output) : (s.emit o).hostPages = s.hostPages := rfl
@[simp] theorem State.emit_net (s : State) (o : Output) : (s.emit o).net = s.net := rfl
@[simp] theorem State.emit_groups (s : State) (o : Output) : (s.emit o).groups = s.groups := rfl
@[simp] theorem State.emit_energy (s : State) (o : Output) : (s.emit o).energy = s.energy := rfl
@[simp] theorem State.emit_host (s : State) (o : Output) : (s.emit o).host = s.host := rfl
@[simp] theorem State.emit_tense (s : State) (o : Output) : (s.emit o).tense = s.tense := rfl
@[simp] theorem State.emit_optics (s : State) (o : Output) : (s.emit o).optics = s.optics := rfl
@[simp] theorem State.emit_mgmt (s : State) (o : Output) : (s.emit o).mgmt = s.mgmt := rfl
@[simp] theorem State.emit_earlyJoins (s : State) (o : Output) : (s.emit o).earlyJoins = s.earlyJoins := rfl
@[simp] theorem State.emit_clocks (s : State) (o : Output) : (s.emit o).clocks = s.clocks := rfl
@[simp] theorem State.emit_downDies (s : State) (o : Output) : (s.emit o).downDies = s.downDies := rfl
@[simp] theorem State.emit_tense16 (s : State) (o : Output) : (s.emit o).tense16 = s.tense16 := rfl
@[simp] theorem State.emit_clocksStopped (s : State) (o : Output) : (s.emit o).clocksStopped = s.clocksStopped := rfl

@[simp] theorem State.emit_reg (s : State) (o : Output) (q : Reg) : (s.emit o).reg q = s.reg q := rfl
@[simp] theorem State.emit_tile (s : State) (o : Output) (u : Tile) : (s.emit o).tile u = s.tile u := rfl

/-! ### `State.draw` -/

@[simp] theorem State.draw_regs (s : State) : (s.draw).regs = s.regs := rfl
@[simp] theorem State.draw_now (s : State) : (s.draw).now = s.now := rfl
@[simp] theorem State.draw_pending (s : State) : (s.draw).pending = s.pending := rfl
@[simp] theorem State.draw_out (s : State) : (s.draw).out = s.out := rfl
@[simp] theorem State.draw_mem (s : State) : (s.draw).mem = s.mem := rfl
@[simp] theorem State.draw_marks (s : State) : (s.draw).marks = s.marks := rfl
@[simp] theorem State.draw_tiles (s : State) : (s.draw).tiles = s.tiles := rfl
@[simp] theorem State.draw_caches (s : State) : (s.draw).caches = s.caches := rfl
@[simp] theorem State.draw_twins (s : State) : (s.draw).twins = s.twins := rfl
@[simp] theorem State.draw_rowErrors (s : State) : (s.draw).rowErrors = s.rowErrors := rfl
@[simp] theorem State.draw_spares (s : State) : (s.draw).spares = s.spares := rfl
@[simp] theorem State.draw_scrubStep (s : State) : (s.draw).scrubStep = s.scrubStep := rfl
@[simp] theorem State.draw_postponed (s : State) : (s.draw).postponed = s.postponed := rfl
@[simp] theorem State.draw_banks (s : State) : (s.draw).banks = s.banks := rfl
@[simp] theorem State.draw_ecqs (s : State) : (s.draw).ecqs = s.ecqs := rfl
@[simp] theorem State.draw_hostPages (s : State) : (s.draw).hostPages = s.hostPages := rfl
@[simp] theorem State.draw_net (s : State) : (s.draw).net = s.net := rfl
@[simp] theorem State.draw_groups (s : State) : (s.draw).groups = s.groups := rfl
@[simp] theorem State.draw_energy (s : State) : (s.draw).energy = s.energy := rfl
@[simp] theorem State.draw_host (s : State) : (s.draw).host = s.host := rfl
@[simp] theorem State.draw_tense (s : State) : (s.draw).tense = s.tense := rfl
@[simp] theorem State.draw_optics (s : State) : (s.draw).optics = s.optics := rfl
@[simp] theorem State.draw_mgmt (s : State) : (s.draw).mgmt = s.mgmt := rfl
@[simp] theorem State.draw_earlyJoins (s : State) : (s.draw).earlyJoins = s.earlyJoins := rfl
@[simp] theorem State.draw_clocks (s : State) : (s.draw).clocks = s.clocks := rfl
@[simp] theorem State.draw_downDies (s : State) : (s.draw).downDies = s.downDies := rfl
@[simp] theorem State.draw_tense16 (s : State) : (s.draw).tense16 = s.tense16 := rfl
@[simp] theorem State.draw_clocksStopped (s : State) : (s.draw).clocksStopped = s.clocksStopped := rfl

@[simp] theorem State.draw_reg (s : State) (q : Reg) : (s.draw).reg q = s.reg q := rfl
@[simp] theorem State.draw_tile (s : State) (u : Tile) : (s.draw).tile u = s.tile u := rfl

/-! ### `State.writeMem` -/

@[simp] theorem State.writeMem_regs (s : State) (a : Nat) (bs : List Byte) : (s.writeMem a bs).regs = s.regs := rfl
@[simp] theorem State.writeMem_now (s : State) (a : Nat) (bs : List Byte) : (s.writeMem a bs).now = s.now := rfl
@[simp] theorem State.writeMem_free (s : State) (a : Nat) (bs : List Byte) : (s.writeMem a bs).free = s.free := rfl
@[simp] theorem State.writeMem_pending (s : State) (a : Nat) (bs : List Byte) : (s.writeMem a bs).pending = s.pending := rfl
@[simp] theorem State.writeMem_out (s : State) (a : Nat) (bs : List Byte) : (s.writeMem a bs).out = s.out := rfl
@[simp] theorem State.writeMem_marks (s : State) (a : Nat) (bs : List Byte) : (s.writeMem a bs).marks = s.marks := rfl
@[simp] theorem State.writeMem_tiles (s : State) (a : Nat) (bs : List Byte) : (s.writeMem a bs).tiles = s.tiles := rfl
@[simp] theorem State.writeMem_caches (s : State) (a : Nat) (bs : List Byte) : (s.writeMem a bs).caches = s.caches := rfl
@[simp] theorem State.writeMem_twins (s : State) (a : Nat) (bs : List Byte) : (s.writeMem a bs).twins = s.twins := rfl
@[simp] theorem State.writeMem_rowErrors (s : State) (a : Nat) (bs : List Byte) : (s.writeMem a bs).rowErrors = s.rowErrors := rfl
@[simp] theorem State.writeMem_spares (s : State) (a : Nat) (bs : List Byte) : (s.writeMem a bs).spares = s.spares := rfl
@[simp] theorem State.writeMem_scrubStep (s : State) (a : Nat) (bs : List Byte) : (s.writeMem a bs).scrubStep = s.scrubStep := rfl
@[simp] theorem State.writeMem_postponed (s : State) (a : Nat) (bs : List Byte) : (s.writeMem a bs).postponed = s.postponed := rfl
@[simp] theorem State.writeMem_banks (s : State) (a : Nat) (bs : List Byte) : (s.writeMem a bs).banks = s.banks := rfl
@[simp] theorem State.writeMem_ecqs (s : State) (a : Nat) (bs : List Byte) : (s.writeMem a bs).ecqs = s.ecqs := rfl
@[simp] theorem State.writeMem_hostPages (s : State) (a : Nat) (bs : List Byte) : (s.writeMem a bs).hostPages = s.hostPages := rfl
@[simp] theorem State.writeMem_net (s : State) (a : Nat) (bs : List Byte) : (s.writeMem a bs).net = s.net := rfl
@[simp] theorem State.writeMem_groups (s : State) (a : Nat) (bs : List Byte) : (s.writeMem a bs).groups = s.groups := rfl
@[simp] theorem State.writeMem_energy (s : State) (a : Nat) (bs : List Byte) : (s.writeMem a bs).energy = s.energy := rfl
@[simp] theorem State.writeMem_host (s : State) (a : Nat) (bs : List Byte) : (s.writeMem a bs).host = s.host := rfl
@[simp] theorem State.writeMem_tense (s : State) (a : Nat) (bs : List Byte) : (s.writeMem a bs).tense = s.tense := rfl
@[simp] theorem State.writeMem_optics (s : State) (a : Nat) (bs : List Byte) : (s.writeMem a bs).optics = s.optics := rfl
@[simp] theorem State.writeMem_mgmt (s : State) (a : Nat) (bs : List Byte) : (s.writeMem a bs).mgmt = s.mgmt := rfl
@[simp] theorem State.writeMem_earlyJoins (s : State) (a : Nat) (bs : List Byte) : (s.writeMem a bs).earlyJoins = s.earlyJoins := rfl
@[simp] theorem State.writeMem_clocks (s : State) (a : Nat) (bs : List Byte) : (s.writeMem a bs).clocks = s.clocks := rfl
@[simp] theorem State.writeMem_downDies (s : State) (a : Nat) (bs : List Byte) : (s.writeMem a bs).downDies = s.downDies := rfl
@[simp] theorem State.writeMem_tense16 (s : State) (a : Nat) (bs : List Byte) : (s.writeMem a bs).tense16 = s.tense16 := rfl
@[simp] theorem State.writeMem_clocksStopped (s : State) (a : Nat) (bs : List Byte) : (s.writeMem a bs).clocksStopped = s.clocksStopped := rfl

@[simp] theorem State.writeMem_reg (s : State) (a : Nat) (bs : List Byte) (q : Reg) : (s.writeMem a bs).reg q = s.reg q := rfl
@[simp] theorem State.writeMem_tile (s : State) (a : Nat) (bs : List Byte) (u : Tile) : (s.writeMem a bs).tile u = s.tile u := rfl

/-! ### `State.updNet` -/

@[simp] theorem State.updNet_regs (s : State) (f : Net → Net) : (s.updNet f).regs = s.regs := rfl
@[simp] theorem State.updNet_now (s : State) (f : Net → Net) : (s.updNet f).now = s.now := rfl
@[simp] theorem State.updNet_free (s : State) (f : Net → Net) : (s.updNet f).free = s.free := rfl
@[simp] theorem State.updNet_pending (s : State) (f : Net → Net) : (s.updNet f).pending = s.pending := rfl
@[simp] theorem State.updNet_out (s : State) (f : Net → Net) : (s.updNet f).out = s.out := rfl
@[simp] theorem State.updNet_mem (s : State) (f : Net → Net) : (s.updNet f).mem = s.mem := rfl
@[simp] theorem State.updNet_marks (s : State) (f : Net → Net) : (s.updNet f).marks = s.marks := rfl
@[simp] theorem State.updNet_tiles (s : State) (f : Net → Net) : (s.updNet f).tiles = s.tiles := rfl
@[simp] theorem State.updNet_caches (s : State) (f : Net → Net) : (s.updNet f).caches = s.caches := rfl
@[simp] theorem State.updNet_twins (s : State) (f : Net → Net) : (s.updNet f).twins = s.twins := rfl
@[simp] theorem State.updNet_rowErrors (s : State) (f : Net → Net) : (s.updNet f).rowErrors = s.rowErrors := rfl
@[simp] theorem State.updNet_spares (s : State) (f : Net → Net) : (s.updNet f).spares = s.spares := rfl
@[simp] theorem State.updNet_scrubStep (s : State) (f : Net → Net) : (s.updNet f).scrubStep = s.scrubStep := rfl
@[simp] theorem State.updNet_postponed (s : State) (f : Net → Net) : (s.updNet f).postponed = s.postponed := rfl
@[simp] theorem State.updNet_banks (s : State) (f : Net → Net) : (s.updNet f).banks = s.banks := rfl
@[simp] theorem State.updNet_ecqs (s : State) (f : Net → Net) : (s.updNet f).ecqs = s.ecqs := rfl
@[simp] theorem State.updNet_hostPages (s : State) (f : Net → Net) : (s.updNet f).hostPages = s.hostPages := rfl
@[simp] theorem State.updNet_groups (s : State) (f : Net → Net) : (s.updNet f).groups = s.groups := rfl
@[simp] theorem State.updNet_energy (s : State) (f : Net → Net) : (s.updNet f).energy = s.energy := rfl
@[simp] theorem State.updNet_host (s : State) (f : Net → Net) : (s.updNet f).host = s.host := rfl
@[simp] theorem State.updNet_tense (s : State) (f : Net → Net) : (s.updNet f).tense = s.tense := rfl
@[simp] theorem State.updNet_optics (s : State) (f : Net → Net) : (s.updNet f).optics = s.optics := rfl
@[simp] theorem State.updNet_mgmt (s : State) (f : Net → Net) : (s.updNet f).mgmt = s.mgmt := rfl
@[simp] theorem State.updNet_earlyJoins (s : State) (f : Net → Net) : (s.updNet f).earlyJoins = s.earlyJoins := rfl
@[simp] theorem State.updNet_clocks (s : State) (f : Net → Net) : (s.updNet f).clocks = s.clocks := rfl
@[simp] theorem State.updNet_downDies (s : State) (f : Net → Net) : (s.updNet f).downDies = s.downDies := rfl
@[simp] theorem State.updNet_tense16 (s : State) (f : Net → Net) : (s.updNet f).tense16 = s.tense16 := rfl
@[simp] theorem State.updNet_clocksStopped (s : State) (f : Net → Net) : (s.updNet f).clocksStopped = s.clocksStopped := rfl

@[simp] theorem State.updNet_reg (s : State) (f : Net → Net) (q : Reg) : (s.updNet f).reg q = s.reg q := rfl
@[simp] theorem State.updNet_tile (s : State) (f : Net → Net) (u : Tile) : (s.updNet f).tile u = s.tile u := rfl

/-! ### `State.updGroup` -/

@[simp] theorem State.updGroup_regs (s : State) (g : Coll) (f : Group → Group) : (s.updGroup g f).regs = s.regs := rfl
@[simp] theorem State.updGroup_now (s : State) (g : Coll) (f : Group → Group) : (s.updGroup g f).now = s.now := rfl
@[simp] theorem State.updGroup_free (s : State) (g : Coll) (f : Group → Group) : (s.updGroup g f).free = s.free := rfl
@[simp] theorem State.updGroup_pending (s : State) (g : Coll) (f : Group → Group) : (s.updGroup g f).pending = s.pending := rfl
@[simp] theorem State.updGroup_out (s : State) (g : Coll) (f : Group → Group) : (s.updGroup g f).out = s.out := rfl
@[simp] theorem State.updGroup_mem (s : State) (g : Coll) (f : Group → Group) : (s.updGroup g f).mem = s.mem := rfl
@[simp] theorem State.updGroup_marks (s : State) (g : Coll) (f : Group → Group) : (s.updGroup g f).marks = s.marks := rfl
@[simp] theorem State.updGroup_tiles (s : State) (g : Coll) (f : Group → Group) : (s.updGroup g f).tiles = s.tiles := rfl
@[simp] theorem State.updGroup_caches (s : State) (g : Coll) (f : Group → Group) : (s.updGroup g f).caches = s.caches := rfl
@[simp] theorem State.updGroup_twins (s : State) (g : Coll) (f : Group → Group) : (s.updGroup g f).twins = s.twins := rfl
@[simp] theorem State.updGroup_rowErrors (s : State) (g : Coll) (f : Group → Group) : (s.updGroup g f).rowErrors = s.rowErrors := rfl
@[simp] theorem State.updGroup_spares (s : State) (g : Coll) (f : Group → Group) : (s.updGroup g f).spares = s.spares := rfl
@[simp] theorem State.updGroup_scrubStep (s : State) (g : Coll) (f : Group → Group) : (s.updGroup g f).scrubStep = s.scrubStep := rfl
@[simp] theorem State.updGroup_postponed (s : State) (g : Coll) (f : Group → Group) : (s.updGroup g f).postponed = s.postponed := rfl
@[simp] theorem State.updGroup_banks (s : State) (g : Coll) (f : Group → Group) : (s.updGroup g f).banks = s.banks := rfl
@[simp] theorem State.updGroup_ecqs (s : State) (g : Coll) (f : Group → Group) : (s.updGroup g f).ecqs = s.ecqs := rfl
@[simp] theorem State.updGroup_hostPages (s : State) (g : Coll) (f : Group → Group) : (s.updGroup g f).hostPages = s.hostPages := rfl
@[simp] theorem State.updGroup_net (s : State) (g : Coll) (f : Group → Group) : (s.updGroup g f).net = s.net := rfl
@[simp] theorem State.updGroup_energy (s : State) (g : Coll) (f : Group → Group) : (s.updGroup g f).energy = s.energy := rfl
@[simp] theorem State.updGroup_host (s : State) (g : Coll) (f : Group → Group) : (s.updGroup g f).host = s.host := rfl
@[simp] theorem State.updGroup_tense (s : State) (g : Coll) (f : Group → Group) : (s.updGroup g f).tense = s.tense := rfl
@[simp] theorem State.updGroup_optics (s : State) (g : Coll) (f : Group → Group) : (s.updGroup g f).optics = s.optics := rfl
@[simp] theorem State.updGroup_mgmt (s : State) (g : Coll) (f : Group → Group) : (s.updGroup g f).mgmt = s.mgmt := rfl
@[simp] theorem State.updGroup_earlyJoins (s : State) (g : Coll) (f : Group → Group) : (s.updGroup g f).earlyJoins = s.earlyJoins := rfl
@[simp] theorem State.updGroup_clocks (s : State) (g : Coll) (f : Group → Group) : (s.updGroup g f).clocks = s.clocks := rfl
@[simp] theorem State.updGroup_downDies (s : State) (g : Coll) (f : Group → Group) : (s.updGroup g f).downDies = s.downDies := rfl
@[simp] theorem State.updGroup_tense16 (s : State) (g : Coll) (f : Group → Group) : (s.updGroup g f).tense16 = s.tense16 := rfl
@[simp] theorem State.updGroup_clocksStopped (s : State) (g : Coll) (f : Group → Group) : (s.updGroup g f).clocksStopped = s.clocksStopped := rfl

@[simp] theorem State.updGroup_reg (s : State) (g : Coll) (f : Group → Group) (q : Reg) : (s.updGroup g f).reg q = s.reg q := rfl
@[simp] theorem State.updGroup_tile (s : State) (g : Coll) (f : Group → Group) (u : Tile) : (s.updGroup g f).tile u = s.tile u := rfl

/-! ### `State.updHost` -/

@[simp] theorem State.updHost_regs (s : State) (f : HostSide → HostSide) : (s.updHost f).regs = s.regs := rfl
@[simp] theorem State.updHost_now (s : State) (f : HostSide → HostSide) : (s.updHost f).now = s.now := rfl
@[simp] theorem State.updHost_free (s : State) (f : HostSide → HostSide) : (s.updHost f).free = s.free := rfl
@[simp] theorem State.updHost_pending (s : State) (f : HostSide → HostSide) : (s.updHost f).pending = s.pending := rfl
@[simp] theorem State.updHost_out (s : State) (f : HostSide → HostSide) : (s.updHost f).out = s.out := rfl
@[simp] theorem State.updHost_mem (s : State) (f : HostSide → HostSide) : (s.updHost f).mem = s.mem := rfl
@[simp] theorem State.updHost_marks (s : State) (f : HostSide → HostSide) : (s.updHost f).marks = s.marks := rfl
@[simp] theorem State.updHost_tiles (s : State) (f : HostSide → HostSide) : (s.updHost f).tiles = s.tiles := rfl
@[simp] theorem State.updHost_caches (s : State) (f : HostSide → HostSide) : (s.updHost f).caches = s.caches := rfl
@[simp] theorem State.updHost_twins (s : State) (f : HostSide → HostSide) : (s.updHost f).twins = s.twins := rfl
@[simp] theorem State.updHost_rowErrors (s : State) (f : HostSide → HostSide) : (s.updHost f).rowErrors = s.rowErrors := rfl
@[simp] theorem State.updHost_spares (s : State) (f : HostSide → HostSide) : (s.updHost f).spares = s.spares := rfl
@[simp] theorem State.updHost_scrubStep (s : State) (f : HostSide → HostSide) : (s.updHost f).scrubStep = s.scrubStep := rfl
@[simp] theorem State.updHost_postponed (s : State) (f : HostSide → HostSide) : (s.updHost f).postponed = s.postponed := rfl
@[simp] theorem State.updHost_banks (s : State) (f : HostSide → HostSide) : (s.updHost f).banks = s.banks := rfl
@[simp] theorem State.updHost_ecqs (s : State) (f : HostSide → HostSide) : (s.updHost f).ecqs = s.ecqs := rfl
@[simp] theorem State.updHost_hostPages (s : State) (f : HostSide → HostSide) : (s.updHost f).hostPages = s.hostPages := rfl
@[simp] theorem State.updHost_net (s : State) (f : HostSide → HostSide) : (s.updHost f).net = s.net := rfl
@[simp] theorem State.updHost_groups (s : State) (f : HostSide → HostSide) : (s.updHost f).groups = s.groups := rfl
@[simp] theorem State.updHost_energy (s : State) (f : HostSide → HostSide) : (s.updHost f).energy = s.energy := rfl
@[simp] theorem State.updHost_tense (s : State) (f : HostSide → HostSide) : (s.updHost f).tense = s.tense := rfl
@[simp] theorem State.updHost_optics (s : State) (f : HostSide → HostSide) : (s.updHost f).optics = s.optics := rfl
@[simp] theorem State.updHost_mgmt (s : State) (f : HostSide → HostSide) : (s.updHost f).mgmt = s.mgmt := rfl
@[simp] theorem State.updHost_earlyJoins (s : State) (f : HostSide → HostSide) : (s.updHost f).earlyJoins = s.earlyJoins := rfl
@[simp] theorem State.updHost_clocks (s : State) (f : HostSide → HostSide) : (s.updHost f).clocks = s.clocks := rfl
@[simp] theorem State.updHost_downDies (s : State) (f : HostSide → HostSide) : (s.updHost f).downDies = s.downDies := rfl
@[simp] theorem State.updHost_tense16 (s : State) (f : HostSide → HostSide) : (s.updHost f).tense16 = s.tense16 := rfl
@[simp] theorem State.updHost_clocksStopped (s : State) (f : HostSide → HostSide) : (s.updHost f).clocksStopped = s.clocksStopped := rfl

@[simp] theorem State.updHost_reg (s : State) (f : HostSide → HostSide) (q : Reg) : (s.updHost f).reg q = s.reg q := rfl
@[simp] theorem State.updHost_tile (s : State) (f : HostSide → HostSide) (u : Tile) : (s.updHost f).tile u = s.tile u := rfl

/-! ### `State.updOptics` -/

@[simp] theorem State.updOptics_regs (s : State) (f : Optics → Optics) : (s.updOptics f).regs = s.regs := rfl
@[simp] theorem State.updOptics_now (s : State) (f : Optics → Optics) : (s.updOptics f).now = s.now := rfl
@[simp] theorem State.updOptics_free (s : State) (f : Optics → Optics) : (s.updOptics f).free = s.free := rfl
@[simp] theorem State.updOptics_pending (s : State) (f : Optics → Optics) : (s.updOptics f).pending = s.pending := rfl
@[simp] theorem State.updOptics_out (s : State) (f : Optics → Optics) : (s.updOptics f).out = s.out := rfl
@[simp] theorem State.updOptics_mem (s : State) (f : Optics → Optics) : (s.updOptics f).mem = s.mem := rfl
@[simp] theorem State.updOptics_marks (s : State) (f : Optics → Optics) : (s.updOptics f).marks = s.marks := rfl
@[simp] theorem State.updOptics_tiles (s : State) (f : Optics → Optics) : (s.updOptics f).tiles = s.tiles := rfl
@[simp] theorem State.updOptics_caches (s : State) (f : Optics → Optics) : (s.updOptics f).caches = s.caches := rfl
@[simp] theorem State.updOptics_twins (s : State) (f : Optics → Optics) : (s.updOptics f).twins = s.twins := rfl
@[simp] theorem State.updOptics_rowErrors (s : State) (f : Optics → Optics) : (s.updOptics f).rowErrors = s.rowErrors := rfl
@[simp] theorem State.updOptics_spares (s : State) (f : Optics → Optics) : (s.updOptics f).spares = s.spares := rfl
@[simp] theorem State.updOptics_scrubStep (s : State) (f : Optics → Optics) : (s.updOptics f).scrubStep = s.scrubStep := rfl
@[simp] theorem State.updOptics_postponed (s : State) (f : Optics → Optics) : (s.updOptics f).postponed = s.postponed := rfl
@[simp] theorem State.updOptics_banks (s : State) (f : Optics → Optics) : (s.updOptics f).banks = s.banks := rfl
@[simp] theorem State.updOptics_ecqs (s : State) (f : Optics → Optics) : (s.updOptics f).ecqs = s.ecqs := rfl
@[simp] theorem State.updOptics_hostPages (s : State) (f : Optics → Optics) : (s.updOptics f).hostPages = s.hostPages := rfl
@[simp] theorem State.updOptics_net (s : State) (f : Optics → Optics) : (s.updOptics f).net = s.net := rfl
@[simp] theorem State.updOptics_groups (s : State) (f : Optics → Optics) : (s.updOptics f).groups = s.groups := rfl
@[simp] theorem State.updOptics_energy (s : State) (f : Optics → Optics) : (s.updOptics f).energy = s.energy := rfl
@[simp] theorem State.updOptics_host (s : State) (f : Optics → Optics) : (s.updOptics f).host = s.host := rfl
@[simp] theorem State.updOptics_tense (s : State) (f : Optics → Optics) : (s.updOptics f).tense = s.tense := rfl
@[simp] theorem State.updOptics_mgmt (s : State) (f : Optics → Optics) : (s.updOptics f).mgmt = s.mgmt := rfl
@[simp] theorem State.updOptics_earlyJoins (s : State) (f : Optics → Optics) : (s.updOptics f).earlyJoins = s.earlyJoins := rfl
@[simp] theorem State.updOptics_clocks (s : State) (f : Optics → Optics) : (s.updOptics f).clocks = s.clocks := rfl
@[simp] theorem State.updOptics_downDies (s : State) (f : Optics → Optics) : (s.updOptics f).downDies = s.downDies := rfl
@[simp] theorem State.updOptics_tense16 (s : State) (f : Optics → Optics) : (s.updOptics f).tense16 = s.tense16 := rfl
@[simp] theorem State.updOptics_clocksStopped (s : State) (f : Optics → Optics) : (s.updOptics f).clocksStopped = s.clocksStopped := rfl

@[simp] theorem State.updOptics_reg (s : State) (f : Optics → Optics) (q : Reg) : (s.updOptics f).reg q = s.reg q := rfl
@[simp] theorem State.updOptics_tile (s : State) (f : Optics → Optics) (u : Tile) : (s.updOptics f).tile u = s.tile u := rfl

/-! ### `State.updEnergy` -/

@[simp] theorem State.updEnergy_regs (s : State) (f : Energy → Energy) : (s.updEnergy f).regs = s.regs := rfl
@[simp] theorem State.updEnergy_now (s : State) (f : Energy → Energy) : (s.updEnergy f).now = s.now := rfl
@[simp] theorem State.updEnergy_free (s : State) (f : Energy → Energy) : (s.updEnergy f).free = s.free := rfl
@[simp] theorem State.updEnergy_pending (s : State) (f : Energy → Energy) : (s.updEnergy f).pending = s.pending := rfl
@[simp] theorem State.updEnergy_out (s : State) (f : Energy → Energy) : (s.updEnergy f).out = s.out := rfl
@[simp] theorem State.updEnergy_mem (s : State) (f : Energy → Energy) : (s.updEnergy f).mem = s.mem := rfl
@[simp] theorem State.updEnergy_marks (s : State) (f : Energy → Energy) : (s.updEnergy f).marks = s.marks := rfl
@[simp] theorem State.updEnergy_tiles (s : State) (f : Energy → Energy) : (s.updEnergy f).tiles = s.tiles := rfl
@[simp] theorem State.updEnergy_caches (s : State) (f : Energy → Energy) : (s.updEnergy f).caches = s.caches := rfl
@[simp] theorem State.updEnergy_twins (s : State) (f : Energy → Energy) : (s.updEnergy f).twins = s.twins := rfl
@[simp] theorem State.updEnergy_rowErrors (s : State) (f : Energy → Energy) : (s.updEnergy f).rowErrors = s.rowErrors := rfl
@[simp] theorem State.updEnergy_spares (s : State) (f : Energy → Energy) : (s.updEnergy f).spares = s.spares := rfl
@[simp] theorem State.updEnergy_scrubStep (s : State) (f : Energy → Energy) : (s.updEnergy f).scrubStep = s.scrubStep := rfl
@[simp] theorem State.updEnergy_postponed (s : State) (f : Energy → Energy) : (s.updEnergy f).postponed = s.postponed := rfl
@[simp] theorem State.updEnergy_banks (s : State) (f : Energy → Energy) : (s.updEnergy f).banks = s.banks := rfl
@[simp] theorem State.updEnergy_ecqs (s : State) (f : Energy → Energy) : (s.updEnergy f).ecqs = s.ecqs := rfl
@[simp] theorem State.updEnergy_hostPages (s : State) (f : Energy → Energy) : (s.updEnergy f).hostPages = s.hostPages := rfl
@[simp] theorem State.updEnergy_net (s : State) (f : Energy → Energy) : (s.updEnergy f).net = s.net := rfl
@[simp] theorem State.updEnergy_groups (s : State) (f : Energy → Energy) : (s.updEnergy f).groups = s.groups := rfl
@[simp] theorem State.updEnergy_host (s : State) (f : Energy → Energy) : (s.updEnergy f).host = s.host := rfl
@[simp] theorem State.updEnergy_tense (s : State) (f : Energy → Energy) : (s.updEnergy f).tense = s.tense := rfl
@[simp] theorem State.updEnergy_optics (s : State) (f : Energy → Energy) : (s.updEnergy f).optics = s.optics := rfl
@[simp] theorem State.updEnergy_mgmt (s : State) (f : Energy → Energy) : (s.updEnergy f).mgmt = s.mgmt := rfl
@[simp] theorem State.updEnergy_earlyJoins (s : State) (f : Energy → Energy) : (s.updEnergy f).earlyJoins = s.earlyJoins := rfl
@[simp] theorem State.updEnergy_clocks (s : State) (f : Energy → Energy) : (s.updEnergy f).clocks = s.clocks := rfl
@[simp] theorem State.updEnergy_downDies (s : State) (f : Energy → Energy) : (s.updEnergy f).downDies = s.downDies := rfl
@[simp] theorem State.updEnergy_tense16 (s : State) (f : Energy → Energy) : (s.updEnergy f).tense16 = s.tense16 := rfl
@[simp] theorem State.updEnergy_clocksStopped (s : State) (f : Energy → Energy) : (s.updEnergy f).clocksStopped = s.clocksStopped := rfl

@[simp] theorem State.updEnergy_reg (s : State) (f : Energy → Energy) (q : Reg) : (s.updEnergy f).reg q = s.reg q := rfl
@[simp] theorem State.updEnergy_tile (s : State) (f : Energy → Energy) (u : Tile) : (s.updEnergy f).tile u = s.tile u := rfl

/-! ### `State.updMgmt` -/

@[simp] theorem State.updMgmt_regs (s : State) (f : Mgmt → Mgmt) : (s.updMgmt f).regs = s.regs := rfl
@[simp] theorem State.updMgmt_now (s : State) (f : Mgmt → Mgmt) : (s.updMgmt f).now = s.now := rfl
@[simp] theorem State.updMgmt_free (s : State) (f : Mgmt → Mgmt) : (s.updMgmt f).free = s.free := rfl
@[simp] theorem State.updMgmt_pending (s : State) (f : Mgmt → Mgmt) : (s.updMgmt f).pending = s.pending := rfl
@[simp] theorem State.updMgmt_out (s : State) (f : Mgmt → Mgmt) : (s.updMgmt f).out = s.out := rfl
@[simp] theorem State.updMgmt_mem (s : State) (f : Mgmt → Mgmt) : (s.updMgmt f).mem = s.mem := rfl
@[simp] theorem State.updMgmt_marks (s : State) (f : Mgmt → Mgmt) : (s.updMgmt f).marks = s.marks := rfl
@[simp] theorem State.updMgmt_tiles (s : State) (f : Mgmt → Mgmt) : (s.updMgmt f).tiles = s.tiles := rfl
@[simp] theorem State.updMgmt_caches (s : State) (f : Mgmt → Mgmt) : (s.updMgmt f).caches = s.caches := rfl
@[simp] theorem State.updMgmt_twins (s : State) (f : Mgmt → Mgmt) : (s.updMgmt f).twins = s.twins := rfl
@[simp] theorem State.updMgmt_rowErrors (s : State) (f : Mgmt → Mgmt) : (s.updMgmt f).rowErrors = s.rowErrors := rfl
@[simp] theorem State.updMgmt_spares (s : State) (f : Mgmt → Mgmt) : (s.updMgmt f).spares = s.spares := rfl
@[simp] theorem State.updMgmt_scrubStep (s : State) (f : Mgmt → Mgmt) : (s.updMgmt f).scrubStep = s.scrubStep := rfl
@[simp] theorem State.updMgmt_postponed (s : State) (f : Mgmt → Mgmt) : (s.updMgmt f).postponed = s.postponed := rfl
@[simp] theorem State.updMgmt_banks (s : State) (f : Mgmt → Mgmt) : (s.updMgmt f).banks = s.banks := rfl
@[simp] theorem State.updMgmt_ecqs (s : State) (f : Mgmt → Mgmt) : (s.updMgmt f).ecqs = s.ecqs := rfl
@[simp] theorem State.updMgmt_hostPages (s : State) (f : Mgmt → Mgmt) : (s.updMgmt f).hostPages = s.hostPages := rfl
@[simp] theorem State.updMgmt_net (s : State) (f : Mgmt → Mgmt) : (s.updMgmt f).net = s.net := rfl
@[simp] theorem State.updMgmt_groups (s : State) (f : Mgmt → Mgmt) : (s.updMgmt f).groups = s.groups := rfl
@[simp] theorem State.updMgmt_energy (s : State) (f : Mgmt → Mgmt) : (s.updMgmt f).energy = s.energy := rfl
@[simp] theorem State.updMgmt_host (s : State) (f : Mgmt → Mgmt) : (s.updMgmt f).host = s.host := rfl
@[simp] theorem State.updMgmt_tense (s : State) (f : Mgmt → Mgmt) : (s.updMgmt f).tense = s.tense := rfl
@[simp] theorem State.updMgmt_optics (s : State) (f : Mgmt → Mgmt) : (s.updMgmt f).optics = s.optics := rfl
@[simp] theorem State.updMgmt_earlyJoins (s : State) (f : Mgmt → Mgmt) : (s.updMgmt f).earlyJoins = s.earlyJoins := rfl
@[simp] theorem State.updMgmt_clocks (s : State) (f : Mgmt → Mgmt) : (s.updMgmt f).clocks = s.clocks := rfl
@[simp] theorem State.updMgmt_downDies (s : State) (f : Mgmt → Mgmt) : (s.updMgmt f).downDies = s.downDies := rfl
@[simp] theorem State.updMgmt_tense16 (s : State) (f : Mgmt → Mgmt) : (s.updMgmt f).tense16 = s.tense16 := rfl
@[simp] theorem State.updMgmt_clocksStopped (s : State) (f : Mgmt → Mgmt) : (s.updMgmt f).clocksStopped = s.clocksStopped := rfl

@[simp] theorem State.updMgmt_reg (s : State) (f : Mgmt → Mgmt) (q : Reg) : (s.updMgmt f).reg q = s.reg q := rfl
@[simp] theorem State.updMgmt_tile (s : State) (f : Mgmt → Mgmt) (u : Tile) : (s.updMgmt f).tile u = s.tile u := rfl

/-! ### `State.updTense` -/

@[simp] theorem State.updTense_regs (s : State) (f : TenseRec → TenseRec) : (s.updTense f).regs = s.regs := rfl
@[simp] theorem State.updTense_now (s : State) (f : TenseRec → TenseRec) : (s.updTense f).now = s.now := rfl
@[simp] theorem State.updTense_free (s : State) (f : TenseRec → TenseRec) : (s.updTense f).free = s.free := rfl
@[simp] theorem State.updTense_pending (s : State) (f : TenseRec → TenseRec) : (s.updTense f).pending = s.pending := rfl
@[simp] theorem State.updTense_out (s : State) (f : TenseRec → TenseRec) : (s.updTense f).out = s.out := rfl
@[simp] theorem State.updTense_mem (s : State) (f : TenseRec → TenseRec) : (s.updTense f).mem = s.mem := rfl
@[simp] theorem State.updTense_marks (s : State) (f : TenseRec → TenseRec) : (s.updTense f).marks = s.marks := rfl
@[simp] theorem State.updTense_tiles (s : State) (f : TenseRec → TenseRec) : (s.updTense f).tiles = s.tiles := rfl
@[simp] theorem State.updTense_caches (s : State) (f : TenseRec → TenseRec) : (s.updTense f).caches = s.caches := rfl
@[simp] theorem State.updTense_twins (s : State) (f : TenseRec → TenseRec) : (s.updTense f).twins = s.twins := rfl
@[simp] theorem State.updTense_rowErrors (s : State) (f : TenseRec → TenseRec) : (s.updTense f).rowErrors = s.rowErrors := rfl
@[simp] theorem State.updTense_spares (s : State) (f : TenseRec → TenseRec) : (s.updTense f).spares = s.spares := rfl
@[simp] theorem State.updTense_scrubStep (s : State) (f : TenseRec → TenseRec) : (s.updTense f).scrubStep = s.scrubStep := rfl
@[simp] theorem State.updTense_postponed (s : State) (f : TenseRec → TenseRec) : (s.updTense f).postponed = s.postponed := rfl
@[simp] theorem State.updTense_banks (s : State) (f : TenseRec → TenseRec) : (s.updTense f).banks = s.banks := rfl
@[simp] theorem State.updTense_ecqs (s : State) (f : TenseRec → TenseRec) : (s.updTense f).ecqs = s.ecqs := rfl
@[simp] theorem State.updTense_hostPages (s : State) (f : TenseRec → TenseRec) : (s.updTense f).hostPages = s.hostPages := rfl
@[simp] theorem State.updTense_net (s : State) (f : TenseRec → TenseRec) : (s.updTense f).net = s.net := rfl
@[simp] theorem State.updTense_groups (s : State) (f : TenseRec → TenseRec) : (s.updTense f).groups = s.groups := rfl
@[simp] theorem State.updTense_energy (s : State) (f : TenseRec → TenseRec) : (s.updTense f).energy = s.energy := rfl
@[simp] theorem State.updTense_host (s : State) (f : TenseRec → TenseRec) : (s.updTense f).host = s.host := rfl
@[simp] theorem State.updTense_optics (s : State) (f : TenseRec → TenseRec) : (s.updTense f).optics = s.optics := rfl
@[simp] theorem State.updTense_mgmt (s : State) (f : TenseRec → TenseRec) : (s.updTense f).mgmt = s.mgmt := rfl
@[simp] theorem State.updTense_earlyJoins (s : State) (f : TenseRec → TenseRec) : (s.updTense f).earlyJoins = s.earlyJoins := rfl
@[simp] theorem State.updTense_clocks (s : State) (f : TenseRec → TenseRec) : (s.updTense f).clocks = s.clocks := rfl
@[simp] theorem State.updTense_downDies (s : State) (f : TenseRec → TenseRec) : (s.updTense f).downDies = s.downDies := rfl
@[simp] theorem State.updTense_tense16 (s : State) (f : TenseRec → TenseRec) : (s.updTense f).tense16 = s.tense16 := rfl
@[simp] theorem State.updTense_clocksStopped (s : State) (f : TenseRec → TenseRec) : (s.updTense f).clocksStopped = s.clocksStopped := rfl

@[simp] theorem State.updTense_reg (s : State) (f : TenseRec → TenseRec) (q : Reg) : (s.updTense f).reg q = s.reg q := rfl
@[simp] theorem State.updTense_tile (s : State) (f : TenseRec → TenseRec) (u : Tile) : (s.updTense f).tile u = s.tile u := rfl

/-! ### `State.setBank` -/

@[simp] theorem State.setBank_regs (s : State) (key : Nat) (b : BankRec) : (s.setBank key b).regs = s.regs := rfl
@[simp] theorem State.setBank_now (s : State) (key : Nat) (b : BankRec) : (s.setBank key b).now = s.now := rfl
@[simp] theorem State.setBank_free (s : State) (key : Nat) (b : BankRec) : (s.setBank key b).free = s.free := rfl
@[simp] theorem State.setBank_pending (s : State) (key : Nat) (b : BankRec) : (s.setBank key b).pending = s.pending := rfl
@[simp] theorem State.setBank_out (s : State) (key : Nat) (b : BankRec) : (s.setBank key b).out = s.out := rfl
@[simp] theorem State.setBank_mem (s : State) (key : Nat) (b : BankRec) : (s.setBank key b).mem = s.mem := rfl
@[simp] theorem State.setBank_marks (s : State) (key : Nat) (b : BankRec) : (s.setBank key b).marks = s.marks := rfl
@[simp] theorem State.setBank_tiles (s : State) (key : Nat) (b : BankRec) : (s.setBank key b).tiles = s.tiles := rfl
@[simp] theorem State.setBank_caches (s : State) (key : Nat) (b : BankRec) : (s.setBank key b).caches = s.caches := rfl
@[simp] theorem State.setBank_twins (s : State) (key : Nat) (b : BankRec) : (s.setBank key b).twins = s.twins := rfl
@[simp] theorem State.setBank_rowErrors (s : State) (key : Nat) (b : BankRec) : (s.setBank key b).rowErrors = s.rowErrors := rfl
@[simp] theorem State.setBank_spares (s : State) (key : Nat) (b : BankRec) : (s.setBank key b).spares = s.spares := rfl
@[simp] theorem State.setBank_scrubStep (s : State) (key : Nat) (b : BankRec) : (s.setBank key b).scrubStep = s.scrubStep := rfl
@[simp] theorem State.setBank_postponed (s : State) (key : Nat) (b : BankRec) : (s.setBank key b).postponed = s.postponed := rfl
@[simp] theorem State.setBank_ecqs (s : State) (key : Nat) (b : BankRec) : (s.setBank key b).ecqs = s.ecqs := rfl
@[simp] theorem State.setBank_hostPages (s : State) (key : Nat) (b : BankRec) : (s.setBank key b).hostPages = s.hostPages := rfl
@[simp] theorem State.setBank_net (s : State) (key : Nat) (b : BankRec) : (s.setBank key b).net = s.net := rfl
@[simp] theorem State.setBank_groups (s : State) (key : Nat) (b : BankRec) : (s.setBank key b).groups = s.groups := rfl
@[simp] theorem State.setBank_energy (s : State) (key : Nat) (b : BankRec) : (s.setBank key b).energy = s.energy := rfl
@[simp] theorem State.setBank_host (s : State) (key : Nat) (b : BankRec) : (s.setBank key b).host = s.host := rfl
@[simp] theorem State.setBank_tense (s : State) (key : Nat) (b : BankRec) : (s.setBank key b).tense = s.tense := rfl
@[simp] theorem State.setBank_optics (s : State) (key : Nat) (b : BankRec) : (s.setBank key b).optics = s.optics := rfl
@[simp] theorem State.setBank_mgmt (s : State) (key : Nat) (b : BankRec) : (s.setBank key b).mgmt = s.mgmt := rfl
@[simp] theorem State.setBank_earlyJoins (s : State) (key : Nat) (b : BankRec) : (s.setBank key b).earlyJoins = s.earlyJoins := rfl
@[simp] theorem State.setBank_clocks (s : State) (key : Nat) (b : BankRec) : (s.setBank key b).clocks = s.clocks := rfl
@[simp] theorem State.setBank_downDies (s : State) (key : Nat) (b : BankRec) : (s.setBank key b).downDies = s.downDies := rfl
@[simp] theorem State.setBank_tense16 (s : State) (key : Nat) (b : BankRec) : (s.setBank key b).tense16 = s.tense16 := rfl
@[simp] theorem State.setBank_clocksStopped (s : State) (key : Nat) (b : BankRec) : (s.setBank key b).clocksStopped = s.clocksStopped := rfl

@[simp] theorem State.setBank_reg (s : State) (key : Nat) (b : BankRec) (q : Reg) : (s.setBank key b).reg q = s.reg q := rfl
@[simp] theorem State.setBank_tile (s : State) (key : Nat) (b : BankRec) (u : Tile) : (s.setBank key b).tile u = s.tile u := rfl

/-! ### `State.setCache` -/

@[simp] theorem State.setCache_regs (s : State) (f : Folio) (c : Cache) : (s.setCache f c).regs = s.regs := rfl
@[simp] theorem State.setCache_now (s : State) (f : Folio) (c : Cache) : (s.setCache f c).now = s.now := rfl
@[simp] theorem State.setCache_free (s : State) (f : Folio) (c : Cache) : (s.setCache f c).free = s.free := rfl
@[simp] theorem State.setCache_pending (s : State) (f : Folio) (c : Cache) : (s.setCache f c).pending = s.pending := rfl
@[simp] theorem State.setCache_out (s : State) (f : Folio) (c : Cache) : (s.setCache f c).out = s.out := rfl
@[simp] theorem State.setCache_mem (s : State) (f : Folio) (c : Cache) : (s.setCache f c).mem = s.mem := rfl
@[simp] theorem State.setCache_marks (s : State) (f : Folio) (c : Cache) : (s.setCache f c).marks = s.marks := rfl
@[simp] theorem State.setCache_tiles (s : State) (f : Folio) (c : Cache) : (s.setCache f c).tiles = s.tiles := rfl
@[simp] theorem State.setCache_twins (s : State) (f : Folio) (c : Cache) : (s.setCache f c).twins = s.twins := rfl
@[simp] theorem State.setCache_rowErrors (s : State) (f : Folio) (c : Cache) : (s.setCache f c).rowErrors = s.rowErrors := rfl
@[simp] theorem State.setCache_spares (s : State) (f : Folio) (c : Cache) : (s.setCache f c).spares = s.spares := rfl
@[simp] theorem State.setCache_scrubStep (s : State) (f : Folio) (c : Cache) : (s.setCache f c).scrubStep = s.scrubStep := rfl
@[simp] theorem State.setCache_postponed (s : State) (f : Folio) (c : Cache) : (s.setCache f c).postponed = s.postponed := rfl
@[simp] theorem State.setCache_banks (s : State) (f : Folio) (c : Cache) : (s.setCache f c).banks = s.banks := rfl
@[simp] theorem State.setCache_ecqs (s : State) (f : Folio) (c : Cache) : (s.setCache f c).ecqs = s.ecqs := rfl
@[simp] theorem State.setCache_hostPages (s : State) (f : Folio) (c : Cache) : (s.setCache f c).hostPages = s.hostPages := rfl
@[simp] theorem State.setCache_net (s : State) (f : Folio) (c : Cache) : (s.setCache f c).net = s.net := rfl
@[simp] theorem State.setCache_groups (s : State) (f : Folio) (c : Cache) : (s.setCache f c).groups = s.groups := rfl
@[simp] theorem State.setCache_energy (s : State) (f : Folio) (c : Cache) : (s.setCache f c).energy = s.energy := rfl
@[simp] theorem State.setCache_host (s : State) (f : Folio) (c : Cache) : (s.setCache f c).host = s.host := rfl
@[simp] theorem State.setCache_tense (s : State) (f : Folio) (c : Cache) : (s.setCache f c).tense = s.tense := rfl
@[simp] theorem State.setCache_optics (s : State) (f : Folio) (c : Cache) : (s.setCache f c).optics = s.optics := rfl
@[simp] theorem State.setCache_mgmt (s : State) (f : Folio) (c : Cache) : (s.setCache f c).mgmt = s.mgmt := rfl
@[simp] theorem State.setCache_earlyJoins (s : State) (f : Folio) (c : Cache) : (s.setCache f c).earlyJoins = s.earlyJoins := rfl
@[simp] theorem State.setCache_clocks (s : State) (f : Folio) (c : Cache) : (s.setCache f c).clocks = s.clocks := rfl
@[simp] theorem State.setCache_downDies (s : State) (f : Folio) (c : Cache) : (s.setCache f c).downDies = s.downDies := rfl
@[simp] theorem State.setCache_tense16 (s : State) (f : Folio) (c : Cache) : (s.setCache f c).tense16 = s.tense16 := rfl
@[simp] theorem State.setCache_clocksStopped (s : State) (f : Folio) (c : Cache) : (s.setCache f c).clocksStopped = s.clocksStopped := rfl

@[simp] theorem State.setCache_reg (s : State) (f : Folio) (c : Cache) (q : Reg) : (s.setCache f c).reg q = s.reg q := rfl
@[simp] theorem State.setCache_tile (s : State) (f : Folio) (c : Cache) (u : Tile) : (s.setCache f c).tile u = s.tile u := rfl

/-! ### Registers -/

@[simp] theorem State.reg_setReg_same (s : State) (r : Reg) (v : W64) : (s.setReg r v).reg r = v :=
  Store.get_put_same Reg.addr Reg.resetValue s.regs r v

theorem State.reg_setReg_other (s : State) {r q : Reg} (v : W64) (h : q ≠ r) : (s.setReg r v).reg q = s.reg q :=
  Store.get_put_other Reg.addr Reg.resetValue s.regs r v h

@[simp] theorem State.reg_setFld_same (s : State) (r : Reg) (f : Field) (v : Nat) :
    (s.setFld r f v).reg r = f.set (s.reg r) v := State.reg_setReg_same s r _

theorem State.reg_setFld_other (s : State) {r q : Reg} (f : Field) (v : Nat) (h : q ≠ r) :
    (s.setFld r f v).reg q = s.reg q := State.reg_setReg_other s _ h

theorem State.reg_setFlag_other (s : State) {r q : Reg} (f : Field) (b : Bool) (h : q ≠ r) :
    (s.setFlag r f b).reg q = s.reg q := State.reg_setReg_other s _ h

theorem State.reg_busyTag_other (s : State) (t : Tile) (i : Nat) {q : Reg} (h : q ≠ .scoreboard t) :
    (s.busyTag t i).reg q = s.reg q := State.reg_setReg_other s _ h

theorem State.reg_clearTag_other (s : State) (t : Tile) (i : Nat) {q : Reg} (h : q ≠ .scoreboard t) :
    (s.clearTag t i).reg q = s.reg q := State.reg_setReg_other s _ h

theorem State.tagBusy_busyTag_same (s : State) (t : Tile) {i : Nat} (h : i < 64) : (s.busyTag t i).tagBusy t i = true := by
  simp [State.tagBusy, State.busyTag, bit64, h]

theorem State.tagBusy_clearTag_same (s : State) (t : Tile) {i : Nat} (h : i < 64) :
    (s.clearTag t i).tagBusy t i = false := by
  simp [State.tagBusy, State.clearTag, bit64, h]

/-! ### Tiles -/

@[simp] theorem State.tile_setTile_same (s : State) (t : Tile) (v : TileState) : (s.setTile t v).tile t = v :=
  Store.get_set_same _ _ s.tiles t v

theorem State.tile_setTile_other (s : State) {t u : Tile} (v : TileState) (h : u ≠ t) :
    (s.setTile t v).tile u = s.tile u := Store.get_set_other _ _ s.tiles t v h

@[simp] theorem State.tile_updTile_same (s : State) (t : Tile) (f : TileState → TileState) :
    (s.updTile t f).tile t = f (s.tile t) := State.tile_setTile_same s t _

theorem State.tile_updTile_other (s : State) {t u : Tile} (f : TileState → TileState) (h : u ≠ t) :
    (s.updTile t f).tile u = s.tile u := State.tile_setTile_other s _ h

/-- s0 reads zero whatever is written (R67). -/
@[simp] theorem TileState.readS_zero (x : TileState) : x.readS 0 = 0 := rfl

theorem TileState.readS_writeS_same (x : TileState) (i : Fin 32) (v : W64) (h : i ≠ 0) : (x.writeS i v).readS i = v := by
  have h' : i.val ≠ 0 := fun e => h (Fin.ext e)
  simp [TileState.writeS, TileState.readS, h']

theorem TileState.readS_writeS_other (x : TileState) {i j : Fin 32} (v : W64) (h : j ≠ i) :
    (x.writeS i v).readS j = x.readS j := by
  unfold TileState.writeS
  split
  · rfl
  · unfold TileState.readS
    split
    · rfl
    · exact Store.get_put_other _ _ _ _ _ h

@[simp] theorem TileState.readA_writeA_same (x : TileState) (i : Fin 16) (v : W64) : (x.writeA i v).readA i = v :=
  Store.get_put_same _ _ _ _ _

end Sys2Proof.Machine
end

