-- ==== Sys2Proof/Laws/Access.lean ====
section
/-! SUPPORT. What the shared accesses to vats and reams do, said once: the clean case, in which no error mark stands, no remote
operation waits and no page is in host bias, and what an access to the stacks leaves alone. -/

namespace Sys2Proof.Machine

/-! ### Vats (R187-R189) -/

@[simp] theorem State.vatMarksAt_nil {s : State} (h : s.marks = []) (t : Tile) (off n : Nat) : s.vatMarksAt t off n = [] := by
  simp [State.vatMarksAt, State.wordMarks, h]

@[simp] theorem State.vatReadMarks_nil (s : State) (t : Tile) : s.vatReadMarks t [] = (s, none) := rfl

/-- A read of a vat without marks changes nothing and meets no error. -/
theorem State.vatScan_clean {s : State} (h : s.marks = []) (t : Tile) (off n : Nat) : s.vatScan t off n = (s, none) := by
  simp [State.vatScan, h]

/-- A write of a vat without marks puts its bytes and meets no error. -/
theorem State.vatWrite_clean {s : State} (h : s.marks = []) (t : Tile) (off : Nat) (bs : List Byte) :
    s.vatWrite t off bs = (s.vatPut t off bs, none) := by
  simp [State.vatWrite, h]

/-! ### Reams (R222, R225, R227) -/

/-- Waking a domain writes no memory and makes no mark. -/
theorem State.wake_mem (s : State) (d : Domain) : (s.wake d).mem = s.mem ∧ (s.wake d).marks = s.marks := by
  cases d <;> simp only [State.wake, State.chargeRestart, State.chargeFolio] <;>
    (repeat' split) <;> exact ⟨rfl, rfl⟩

/-- An access to the stacks wakes them and opens rows: it writes no memory and makes no mark. -/
theorem State.touchReam_mem (s : State) (f : Folio) (off n : Nat) :
    (s.touchReam f off n).mem = s.mem ∧ (s.touchReam f off n).marks = s.marks := by
  unfold State.touchReam
  induction blocksOf off n generalizing s with
  | nil => exact ⟨rfl, rfl⟩
  | cons x xs ih =>
    obtain ⟨h1, h2⟩ := ih _
    simp only [List.foldl_cons]
    rw [h1, h2]
    split
    · exact State.wake_mem s _
    · exact ⟨rfl, rfl⟩

@[simp] theorem State.reamMarks_nil {s : State} (h : s.marks = []) (f : Folio) (off n : Nat) : s.reamMarks f off n = [] := by
  simp [State.reamMarks, State.lineMarks, h]

/-- A read of a ream without marks opens its rows and meets no error. -/
theorem State.reamScan_clean {s : State} (h : s.marks = []) (f : Folio) (off n : Nat) :
    s.reamScan f off n = (s.touchReam f off n, false) := by
  have h' : (s.touchReam f off n).marks = [] := by rw [(s.touchReam_mem f off n).2, h]
  simp [State.reamScan, h', State.meetMarks]

/-- A write of a ream without marks opens its rows and writes its bytes. -/
theorem State.reamWrite_clean {s : State} (h : s.marks = []) (f : Folio) (off : Nat) (bs : List Byte) (atOnce : Bool) :
    s.reamWrite f off bs atOnce = ((s.touchReam f off bs.length).writeMem (reamAddr f off) bs, false) := by
  have h' : (s.touchReam f off bs.length).marks = [] := by rw [(s.touchReam_mem f off bs.length).2, h]
  simp [State.reamWrite, h']

/-- Where no page is in host bias no ownership is resolved (R253). -/
theorem State.resolveHost_device {s : State} (h : s.hostPages = []) (f : Folio) (off n : Nat) : s.resolveHost f off n = s := by
  simp [State.resolveHost, h]

/-- Where no operation of the folio waits none is performed ahead of an access (R232). -/
theorem State.settleOps_idle {s : State} {f : Folio} (h : ∀ o ∈ s.net.ready, o.folio ≠ f) (off n : Nat) :
    s.settleOps f off n = s := by
  have : s.net.ready.filter (fun o => decide (o.folio = f) && !o.inVat) = [] := by
    apply List.filter_eq_nil_iff.mpr
    intro o ho
    simp [h o ho]
  simp [State.settleOps, this]

/-! ### The press queue (R125) -/

/-- With an empty press queue nothing starts. -/
theorem pumpPress_nil {s : State} {t : Tile} (h : (s.tile t).pressQueue = []) : pumpPress t s = s := by
  simp [pumpPress, h, startEntries]

end Sys2Proof.Machine
end

