-- ==== Sys2Proof/Laws/Field.lean ====
section
/-! SUPPORT. The laws of register fields: reading a field after writing it, and that a write of one field leaves the others
alone. -/

namespace Sys2Proof

theorem Field.getLsbD_mask (f : Field) (i : Nat) (h : f.lo + f.width ≤ 64) :
    f.mask.getLsbD i = (decide (f.lo ≤ i) && decide (i < f.lo + f.width)) := by
  simp only [Field.mask, BitVec.getLsbD_shiftLeft, BitVec.getLsbD_setWidth, BitVec.getLsbD_allOnes]
  rw [Bool.eq_iff_iff]
  simp only [Bool.and_eq_true, Bool.not_eq_true', decide_eq_true_eq, decide_eq_false_iff_not]
  omega

theorem Field.getLsbD_set (f : Field) (w : W64) (v i : Nat) (h : f.lo + f.width ≤ 64) (hi : i < 64) :
    (f.set w v).getLsbD i =
      if f.lo ≤ i ∧ i < f.lo + f.width then v.testBit (i - f.lo) else w.getLsbD i := by
  simp only [Field.set, BitVec.getLsbD_or, BitVec.getLsbD_and, BitVec.getLsbD_not, Field.getLsbD_mask f i h,
    BitVec.getLsbD_shiftLeft, BitVec.getLsbD_setWidth, BitVec.getLsbD_ofNat, hi, decide_true, Bool.true_and]
  split
  · next c =>
    have h1 : i - f.lo < f.width := by omega
    have h2 : i - f.lo < 64 := by omega
    have h3 : ¬ i < f.lo := by omega
    simp [c.1, c.2, h1, h2, h3]
  · next c =>
    by_cases h1 : f.lo ≤ i
    · have h2 : ¬ i < f.lo + f.width := fun h2 => c ⟨h1, h2⟩
      have h3 : ¬ i - f.lo < f.width := by omega
      simp [h2, h3]
    · have h2 : i < f.lo := by omega
      simp [h1, h2]

/-- A field reads what was written into it, modulo its width. -/
theorem Field.get_set (f : Field) (w : W64) (v : Nat) (h : f.lo + f.width ≤ 64) :
    f.get (f.set w v) = v % 2 ^ f.width := by
  unfold Field.get
  have e : (f.set w v).extractLsb' f.lo f.width = BitVec.ofNat f.width v := by
    apply BitVec.eq_of_getLsbD_eq
    intro i hi
    rw [BitVec.getLsbD_extractLsb', Field.getLsbD_set f w v _ h (by omega)]
    rw [BitVec.getLsbD_ofNat]
    simp [hi]
  rw [e, BitVec.toNat_ofNat]

/-- A write of a field leaves a field that does not meet it alone. -/
theorem Field.get_set_other (f g : Field) (w : W64) (v : Nat) (h : f.lo + f.width ≤ 64) (hg : g.lo + g.width ≤ 64)
    (d : f.lo + f.width ≤ g.lo ∨ g.lo + g.width ≤ f.lo) : g.get (f.set w v) = g.get w := by
  unfold Field.get
  congr 1
  apply BitVec.eq_of_getLsbD_eq
  intro i hi
  rw [BitVec.getLsbD_extractLsb', BitVec.getLsbD_extractLsb', Field.getLsbD_set f w v _ h (by omega)]
  have : ¬ (f.lo ≤ g.lo + i ∧ g.lo + i < f.lo + f.width) := by omega
  simp [hi, this]

end Sys2Proof

namespace Sys2Proof.Machine

theorem State.fld_setFld_same (s : State) (r : Reg) (f : Field) (v : Nat) (h : f.lo + f.width ≤ 64) :
    (s.setFld r f v).fld r f = v % 2 ^ f.width := by
  rw [State.fld, State.reg_setFld_same, Field.get_set f _ v h]

theorem State.fld_setFld_field (s : State) (r : Reg) (f g : Field) (v : Nat) (h : f.lo + f.width ≤ 64)
    (hg : g.lo + g.width ≤ 64) (d : f.lo + f.width ≤ g.lo ∨ g.lo + g.width ≤ f.lo) :
    (s.setFld r f v).fld r g = s.fld r g := by
  rw [State.fld, State.reg_setFld_same, Field.get_set_other f g _ v h hg d, State.fld]

theorem State.fld_setFld_other (s : State) {r q : Reg} (f g : Field) (v : Nat) (h : q ≠ r) :
    (s.setFld r f v).fld q g = s.fld q g := by
  rw [State.fld, State.reg_setFld_other s f v h, State.fld]

theorem State.flag_setFlag_same (s : State) (r : Reg) (f : Field) (b : Bool) (h : f.lo + f.width ≤ 64)
    (w : 0 < f.width) : (s.setFlag r f b).flag r f = b := by
  have hw : 1 < 2 ^ f.width := Nat.one_lt_two_pow (by omega)
  cases b <;> simp [State.flag, State.setFlag, State.fld_setFld_same s r f _ h, Nat.mod_eq_of_lt hw]

end Sys2Proof.Machine
end

