-- ==== Sys2Proof/Laws/Issue.lean ====
section
/-! SUPPORT. What an attempt to issue can do, said once: it stalls, it raises, or its effect happens and execution goes on. -/

namespace Sys2Proof.Machine

/-- The three outcomes of an instruction that is attempted. -/
theorem State.issueTo_cases (s : State) (t : Tile) (i : Issue) (target : Option W64) (eff : State → State) :
    (s.attempt t i = .stalls ∧ s.issueTo t i target eff = s) ∨
    (∃ c v, s.attempt t i = .raises c v ∧ s.issueTo t i target eff = s.raise t c v) ∨
    (s.attempt t i = .issues ∧
      s.issueTo t i target eff = (eff s).advance t (target.getD (s.pc t + BitVec.ofNat 64 i.size))) := by
  unfold State.issueTo
  cases h : s.attempt t i with
  | stalls => exact .inl ⟨rfl, rfl⟩
  | raises c v => exact .inr (.inl ⟨c, v, rfl, rfl⟩)
  | issues => exact .inr (.inr ⟨rfl, rfl⟩)

/-- When an instruction issues. -/
theorem State.attempt_issues {s : State} {t : Tile} {i : Issue} (h : s.issuable t i.tags) (hl : i.legal = true)
    (hf : i.full = false) (hg : i.grant = true → s.granted t) (he : i.exc = none) : s.attempt t i = .issues := by
  obtain ⟨h1, h2, h3⟩ := h
  have ht : i.tags.any (s.tagBusy t) = false := by simpa using h3
  have hb : (i.grant && s.tagBusy t tagGrant) = false := by
    cases g : i.grant with
    | false => rfl
    | true => simpa using (hg g).1
  have hn : (i.grant && (s.tile t).energySection.isNone) = false := by
    cases g : i.grant with
    | false => rfl
    | true => simpa using (hg g).2
  simp [State.attempt, h1, h2, hl, ht, hb, hf, he, hn]

/-- When an instruction raises a condition of its operands: it needs no grant, or the condition has a code below NO_GRANT. -/
theorem State.attempt_raises {s : State} {t : Tile} {i : Issue} {c : Nat} {v : W64} (h : s.issuable t i.tags)
    (hl : i.legal = true) (hf : i.full = false) (hg : i.grant = true → s.granted t) (he : i.exc = some (c, v)) :
    s.attempt t i = .raises c v := by
  obtain ⟨h1, h2, h3⟩ := h
  have ht : i.tags.any (s.tagBusy t) = false := by simpa using h3
  have hb : (i.grant && s.tagBusy t tagGrant) = false := by
    cases g : i.grant with
    | false => rfl
    | true => simpa using (hg g).1
  have hn : (i.grant && (s.tile t).energySection.isNone) = false := by
    cases g : i.grant with
    | false => rfl
    | true => simpa using (hg g).2
  simp [State.attempt, h1, h2, hl, ht, hb, hf, he, hn]

/-- A word that R72 forbids raises ILLEGAL_ENCODING. -/
theorem State.attempt_illegal {s : State} {t : Tile} {i : Issue} (h1 : s.tileReady t = true)
    (h2 : badPc (s.pc t) = false) (hl : i.legal = false) : s.attempt t i = .raises 2 i.word := by
  simp [State.attempt, h1, h2, hl]

theorem State.issue_issues {s : State} {t : Tile} {i : Issue} (eff : State → State) (h : s.attempt t i = .issues) :
    s.issue t i eff = (eff s).advance t (s.pc t + BitVec.ofNat 64 i.size) := by
  simp [State.issue, State.issueTo, h]

theorem State.issueTo_issues {s : State} {t : Tile} {i : Issue} (target : W64) (eff : State → State)
    (h : s.attempt t i = .issues) : s.issueTo t i (some target) eff = (eff s).advance t target := by
  simp [State.issueTo, h]

theorem State.issue_raises {s : State} {t : Tile} {i : Issue} {c : Nat} {v : W64} (eff : State → State)
    (h : s.attempt t i = .raises c v) : s.issue t i eff = s.raise t c v := by
  simp [State.issue, State.issueTo, h]

theorem State.issueTo_raises {s : State} {t : Tile} {i : Issue} {c : Nat} {v : W64} (target : Option W64)
    (eff : State → State) (h : s.attempt t i = .raises c v) : s.issueTo t i target eff = s.raise t c v := by
  simp [State.issueTo, h]

theorem State.issue_stalls {s : State} {t : Tile} {i : Issue} (eff : State → State) (h : s.attempt t i = .stalls) :
    s.issue t i eff = s := by
  simp [State.issue, State.issueTo, h]

/-- A word without an extension word has one word. -/
theorem RWord.legal_never {w : RWord} {u : RUse} (h : w.legal u = true) (hu : u.ext = .never) : w.x = false := by
  simp only [RWord.legal, Bool.and_eq_true, hu, ExtRule.ok] at h
  simpa using h.1.1.1.1.1.1.1.1

end Sys2Proof.Machine
end

