-- ==== Sys2Proof/Laws/Memory.lean ====
section
/-! SUPPORT. The laws of the byte memory: reads after writes, and that every memory operation keeps the canonical form. -/

namespace Sys2Proof.Machine

@[simp] theorem Memory.read_write_same (m : Memory) (a : Nat) (b : Byte) : (m.write a b).read a = b :=
  Store.get_put_same id m.dflt m.cells a b

theorem Memory.read_write_other (m : Memory) {a c : Nat} (b : Byte) (h : c ≠ a) : (m.write a b).read c = m.read c :=
  Store.get_put_other id m.dflt m.cells a b h

@[simp] theorem Memory.write_epoch (m : Memory) (a : Nat) (b : Byte) : (m.write a b).epoch = m.epoch := rfl

theorem Memory.write_wf {m : Memory} (a : Nat) (b : Byte) (h : m.wf = true) : (m.write a b).wf = true :=
  Store.put_wf (rank := id) (d := m.dflt) (fun _ _ e => e) a b h

theorem Memory.writeBytes_wf {m : Memory} (a : Nat) (bs : List Byte) (h : m.wf = true) :
    (m.writeBytes a bs).wf = true := by
  induction bs generalizing m a with
  | nil => exact h
  | cons b bs ih => exact ih (a + 1) (Memory.write_wf a b h)

theorem Memory.writeAll_wf {m : Memory} (base : Nat) (es : List (Nat × Byte)) (h : m.wf = true) :
    (m.writeAll base es).wf = true := by
  induction es generalizing m with
  | nil => exact h
  | cons e es ih => exact ih (Memory.write_wf (base + e.1) e.2 h)

/-- A write of bytes leaves every byte outside its range alone. -/
theorem Memory.read_writeBytes_outside (m : Memory) (a : Nat) (bs : List Byte) {c : Nat}
    (h : c < a ∨ a + bs.length ≤ c) : (m.writeBytes a bs).read c = m.read c := by
  induction bs generalizing m a with
  | nil => rfl
  | cons b bs ih =>
    simp only [List.length_cons] at h
    rw [Memory.writeBytes, ih _ _ (by omega), Memory.read_write_other _ _ (by omega)]

theorem State.vatPut_mem_wf (s : State) (t : Tile) (off : Nat) (bs : List Byte) (h : s.mem.wf = true) :
    (s.vatPut t off bs).mem.wf = true := by
  induction bs generalizing s off with
  | nil => exact h
  | cons b bs ih => exact ih _ (off + 1) (Memory.write_wf _ b h)

theorem State.writeMem_mem_wf (s : State) (a : Nat) (bs : List Byte) (h : s.mem.wf = true) :
    (s.writeMem a bs).mem.wf = true := Memory.writeBytes_wf a bs h

/-- Memory after a whole-device reset lists nothing (R490). -/
theorem Memory.empty_wf (n : Nat) : (Memory.mk n []).wf = true := rfl

theorem State.reset_mem_wf : State.reset.mem.wf = true := rfl

end Sys2Proof.Machine
end

