-- ==== Sys2Proof/Tests/Slice0.lean ====
section
/-! SUPPORT. The model's own tests: ill-formed commands, the spec's worked examples, small steps, and for every statement
with hypotheses a state and operands that meet them. -/

namespace Sys2Proof.Tests

open Sys2Proof Sys2Proof.Machine

set_option Elab.async false

/-! ### Ill-formed commands -/

def cellOf (type : BitVec 6) (cls : BitVec 3) (bs : List Byte) : Cell :=
  { Cell.blank with type := type, cls := cls, length := BitVec.ofNat 7 bs.length, payload := payloadOf bs }

theorem test_wf_bad_size : (Instr.badSizeAccess 8 8 true).wellFormed = false ∧ (Instr.badSizeAccess 8 0 true).wellFormed = false
    ∧ (Instr.badSizeAccess 4 8 true).wellFormed = true ∧ (Instr.badSizeAccess 8 2 false).wellFormed = true := by decide
theorem test_wf_memReply : (Instr.memReply 0 (cellOf 3 1 [])).wellFormed = false := by decide
theorem test_wf_nak : (Instr.nak 0 (cellOf 2 1 [])).wellFormed = false := by decide
theorem test_wf_mgmtRead : (Instr.mgmtRead 0 (cellOf 0x11 0 [])).wellFormed = false := by decide
theorem test_wf_mgmtWrite : (Instr.mgmtWrite 0 (cellOf 0x10 0 [])).wellFormed = false := by decide
theorem test_wf_join : (Instr.join 0 (cellOf 9 3 [])).wellFormed = false := by decide
theorem test_wf_arrive : (Instr.arrive 0 (cellOf 8 3 [])).wellFormed = false := by decide
theorem test_wf_contrib : (Instr.contrib 0 (cellOf 0x0B 3 [])).wellFormed = false := by decide
theorem test_wf_carry : (Instr.carry 0 (cellOf 0x0A 3 [])).wellFormed = false := by decide
theorem test_wf_gather : (Instr.gather 0 (cellOf 0x0A 3 [])).wellFormed = false := by decide
theorem test_wf_credit : (Instr.credit 0 (cellOf 0x0C 3 [])).wellFormed = false := by decide
theorem test_wf_digest : (Instr.digest 0 (cellOf 0x0F 3 [])).wellFormed = false := by decide
theorem test_wf_abort : (Instr.abort 0 (cellOf 0x0E 3 [])).wellFormed = false := by decide

/-! ### The spec's worked examples -/

/-- The cell of R288's example: RED_ADD. -/
theorem test_crc16 : crc16 [0x31, 0x32, 0x33, 0x34, 0x35, 0x36, 0x37, 0x38, 0x39] = 0x29B1 := by decide +kernel
theorem test_crc32c : crc32c [0x31, 0x32, 0x33, 0x34, 0x35, 0x36, 0x37, 0x38, 0x39] = 0xE3069283 := by decide +kernel

/-- 07's example of R220. -/
theorem test_reamLoc : reamLoc 2 0x17058340 = ⟨11, 4, 0, 0, 1, 23, 3⟩ ∧ (reamLoc 2 0x1000000000).ream = 8
    ∧ (reamLoc 6 0x1000000000).ream = 24 ∧ (reamLoc 6 0x1000000000).row = 4096 := by decide +kernel

/-- The offsets of 17's table. -/
theorem test_register_offsets : (Reg.checkLast 132).addr = 0x03980C20 ∧ (Reg.portViolLimit 42).addr = 0x05430548
    ∧ (Reg.portPhy 42).addr = 0x05810A80 ∧ (Reg.hqCtl 3).addr = 0x000210E8 ∧ (Reg.reamCorrected 21).addr = 0x062A0008 := by
  decide +kernel
theorem test_offset_registers : Reg.ofAddr 0x03980C20 = .reg (.checkLast 132)
    ∧ Reg.ofAddr 0x05430548 = .reg (.portViolLimit 42) ∧ Reg.ofAddr 0x000210E8 = .reg (.hqCtl 3)
    ∧ Reg.ofAddr 0x062A0008 = .reg (.reamCorrected 21) := by decide +kernel

/-- The value that resets FOLIO_5.TILE_12. -/
theorem test_dev_reset_value : resetValueOf false false 0 0 (some 0x84) = 0x00000084040000A5 := by decide

/-- The words of R74's example. -/
theorem test_words : (RWord.mk false 3 4 5 0 0 0).word 1 0 = 0x1003214000000000
    ∧ (RWord.mk false 3 4 0 1 0xFFFFFFF8 0).word 1 0 = 0x10032001FFFFFFF8
    ∧ (PWord.mk false 1 1 3 7 true true 0 0).word 3 2 = 0x308899F000000000 := by decide +kernel

/-- 02's example of R55: the draw decides between the neighbours. -/
theorem test_sr_bf16 : (convertCode .fp32 .bf16 .sr false 2684354560 0x3F806000).1 = 0x3F81
    ∧ (convertCode .fp32 .bf16 .sr false 2684354559 0x3F806000).1 = 0x3F80 := by decide +kernel

/-- 02's example of R47. -/
theorem test_mxfp4 : (mxConvert .e2m1 .rne (fun _ => 0) [ofF32 0x41400000, ofF32 0x40200000, ofF32 0xBE99999A]).2.1
    = [7, 2, 8] ∧ (mxConvert .e2m1 .rne (fun _ => 0) [ofF32 0x41400000, ofF32 0x40200000, ofF32 0xBE99999A]).1 = 0x80 := by
  decide +kernel

/-- 02's example of the carry word. -/
theorem test_carry : encodeCarry ((LongAcc.clear.add (.fin false 1 30)).1.add (.fin false 1 0)).1 = 0x2540000040000001 := by
  decide +kernel

/-- 15's example of R481. -/
theorem test_seqNewer : seqNewer 1 0xFFFFFFFE = true ∧ seqNewer 0xFFFFFFFE 1 = false ∧ seqNewer 2 1 = true := by decide

/-- 07's record of the Octavo step. -/
theorem test_adamw_record : (cmdOf [0x059682F010100012]).code = 0x12 ∧ (cmdOf [0x059682F010100012]).count = 93750000
    ∧ (cmdOf [0x059682F010100012]).flags = 2 ∧ (cmdOf [0x059682F010100012]).dstFmt = 1 := by decide +kernel

/-- 09's header of the RED_ADD. -/
theorem test_header : (Cell.mk 0x1F4B 6 0x4D2 3 0x12A 2 0 1 1 0x42 0 64 2 0 0 0 0 0).header
    = 0x0000001400000042044212A313499F4B := by decide +kernel

/-- 14's packet: KIND, IRQ, JOB, CPL_TAG, envelope. -/
theorem test_packet :
    let l : Launch := ⟨0, 3, 130, [0x11800007012A0101], false, [], [], [], 0, none, 0, false⟩
    l.kind = 1 ∧ (l.word 0).testBit 8 = true ∧ l.job = 0x12A ∧ l.envelopeW = 4480 ∧ l.word 0 / 2 ^ 32 % 2 ^ 16 = 7 := by
  decide +kernel

/-! ### Single steps -/

/-- A device that is ready, in service, under tense lock. -/
def on : State :=
  ((State.reset.setFld .devStatus Fld.devStatusState 1).setFld .devStatus Fld.devStatusMode 1).setFld .tenseStatus
    Fld.tenseStatusState 4

/-- The same with tile 0 running from address 64. -/
def run : State := (on.setFlag (.seqCtl 0) Fld.seqCtlRun true).setReg (.seqPc 0) 64

def setS (s : State) (i : Fin 32) (v : W64) : State := s.updTile 0 (fun x => x.writeS i v)
def setA (s : State) (i : Fin 16) (v : W64) : State := s.updTile 0 (fun x => x.writeA i v)
def rw (d a b : BitVec 5) (m : BitVec 6) (imm : W32) : RWord := ⟨false, d, a, b, m, imm, 0⟩
def next (o : Host.Outcome State Fault Refusal) : State :=
  match o with
  | .next s => s
  | .fault _ => State.reset
  | .refused _ => State.reset

def isNext (o : Host.Outcome State Fault Refusal) : Bool :=
  match o with
  | .next _ => true
  | .fault _ => false
  | .refused _ => false

theorem test_sub_wraps : ((next (execSub 0 (rw 3 0 5 0 0) (setS run 5 1))).tile 0).readS 3 = 0xFFFFFFFFFFFFFFFF := by
  decide +kernel
theorem test_mulhu : ((next (execMulhu 0 (rw 4 4 4 0 0) (setS run 4 0x8000000000000000))).tile 0).readS 4
    = 0x4000000000000000 := by decide +kernel
theorem test_remu_by_zero : ((next (execRemu 0 (rw 3 4 0 0 0) (setS run 4 77))).tile 0).readS 3 = 77 := by decide +kernel
theorem test_sra_takes_six_bits : ((next (execSra 0 (rw 3 4 0 1 65) (setS run 4 0x8000000000000000))).tile 0).readS 3
    = 0xC000000000000000 := by decide +kernel
theorem test_call_links : (next (execCall 0 (rw 31 0 0 0 0xFFFFFFFF) run)).pc 0 = 56
    ∧ ((next (execCall 0 (rw 31 0 0 0 0xFFFFFFFF) run)).tile 0).readS 31 = 72 := by decide +kernel
theorem test_ld_sign_extends :
    ((next (execLd 0 (rw 3 2 0 0b1010 1) ((setA run 2 1).writeMem (vatAddr 0 2) [0, 0x80]))).tile 0).readS 3
      = 0xFFFFFFFFFFFF8000 := by decide +kernel
theorem test_st_top_of_vat : (next (execSt 0 (rw 0 2 3 0b0110 0) (setS (setA run 2 0x3FFFF8) 3 0x0102030405060708))).vatRead 0
    0x3FFFF8 8 = [8, 7, 6, 5, 4, 3, 2, 1] := by decide +kernel
theorem test_ld_misaligned : (next (execLd 0 (rw 3 2 0 0b0010 0) (setA run 2 1))).reg (.excCause 0) = 4 := by decide +kernel
theorem test_brk_cause : (next (execBrk 0 (rw 0 0 0 0 0) run)).reg (.excCause 0) = 0x0B := by decide +kernel
theorem test_setvl_zero : (next (execSetvl 0 (rw 0 0 0 1 0) run)).reg (.excCause 0) = 3 := by decide +kernel
theorem test_bar2_write : (next (execBar2Write 300 [(1, true), (2, false), (3, true)] on)).readMem (reamAddr 0 (bar2Base + 300)) 3
    = [1, 0, 3] := by decide +kernel
theorem test_hart_amo : (next (execHartLoadStore 2 1 0x1004 2 (.amo .add 5) 0
    (on.writeMem (reamAddr 2 0x1004) [255, 255, 0, 0]))).readMem (reamAddr 2 0x1004) 4 = [4, 0, 1, 0] := by decide +kernel
theorem test_half_write : (next (execRegisterWrite .host (BitVec.ofNat 27 ((Reg.mboxArg 2).addr + 4)) false 0x9ABCDEF0 0
    (on.setReg (.mboxArg 2) 0x1111111122222222))).reg (.mboxArg 2) = 0x9ABCDEF022222222 := by decide +kernel
theorem test_event_mirror : (0x3F80000 + 3 * 0x10000 + 1030 % 1024 * 64 = 0x3FB0180) ∧ 1 - 1030 / 1024 % 2 = 0 := by decide

/-! ### States that meet the hypotheses of the statements -/

/-- `run` inside an energy section whose grant has come. -/
def sect : State := run.updTile 0 (fun x => { x with energySection := some ⟨1, 1, some 256, none, 0, 0⟩ })
def iw (td ta tb pg : BitVec 3) (fmt : BitVec 4) (sr : BitVec 5) (opx : BitVec 21) : IWord :=
  ⟨false, td, ta, tb, 0, pg, false, 0, false, fmt, sr, 0, opx, 0⟩

theorem witness_idle : on.pending = [] ∧ on.mgmt.powered = true ∧ on.clocksStopped = false := by decide +kernel
theorem witness_canonical : on.wf = true ∧ isNext (step on) = true := by decide +kernel
theorem witness_commands : isNext (exec .powerOn State.reset) = true := by decide +kernel

theorem witness_control : run.issuable 0 [] ∧ (rw 0 0 0 0 0).legal {} = true
    ∧ (rw 0 0 0 0 0xFFFFFFFF).legal { imm := BitVec.allOnes 32 } = true
    ∧ (rw 0 4 5 0 1).legal { a := true, b := true, m := 7, imm := BitVec.allOnes 32 } = true
    ∧ (rw 0 4 5 7 1).legal { a := true, b := true, m := 7, imm := BitVec.allOnes 32 } = true
    ∧ brCond 7 0 0 = none ∧ brCond 0 0 0 = some true ∧ brCond 1 0 0 = some false
    ∧ (rw 0 31 0 0 0).legal { a := true } = true
    ∧ (rw 31 0 0 0 8).legal { d := true, imm := BitVec.allOnes 32 } = true := by unfold State.issuable; decide +kernel

theorem witness_loop : run.issuable 0 [] ∧ (rw 0 4 0 3 5).legal { a := true, m := 3, imm := BitVec.allOnes 32 } = true
    ∧ (run.tile 0).loopActive 3 = false ∧ (run.tile 0).readS 4 = 0
    ∧ 2 ^ 32 - 1 ≤ ((setS run 4 0xFFFFFFFF).tile 0).readS 4 ∧ ((setS run 4 0xFFFFFFFE).tile 0).readS 4 < 2 ^ 32 - 1
    ∧ ((run.updTile 0 (fun x => { x with loops := [⟨3, 8, 16, 1⟩] })).tile 0).loopActive 3 = true
    ∧ (rw 0 0 0 3 0).legal { m := 3 } = true
    ∧ (∀ l ∈ [(⟨3, 8, 16, 1⟩ : LoopCounter)], l.lend = 16 → l.lc.toNat ≤ 1) ∧ 1 < (⟨2, 8, 16, 2⟩ : LoopCounter).lc.toNat := by
  unfold State.issuable; decide +kernel

theorem witness_scalar : run.issuable 0 [] ∧ (rw 3 4 5 0 0).legal ((rw 3 4 5 0 0).useB { d := true, a := true }) = true
    ∧ (rw 3 4 0 1 0xFFFFFFFF).legal ((rw 3 4 0 1 0xFFFFFFFF).useB { d := true, a := true }) = true
    ∧ (RWord.mk true 3 4 0 1 0 5).legal ((RWord.mk true 3 4 0 1 0 5).useB { d := true, a := true }) = true := by
  unfold State.issuable; decide +kernel

theorem witness_moves : run.issuable 0 [] ∧ (rw 3 0 0 0 7).legal { d := true, imm := BitVec.allOnes 32, ext := .optional } = true
    ∧ (rw 15 4 0 0 0).legal { d := true, dA := true, a := true } = true
    ∧ (rw 3 15 0 0 0).legal { d := true, a := true, aA := true } = true
    ∧ (rw 15 15 0 1 8).legal ((rw 15 15 0 1 8).useB { d := true, dA := true, a := true, aA := true }) = true
    ∧ (rw 3 0 0 0 0).legal { d := true, imm := BitVec.allOnes 32 } = true
    ∧ (specialValue run 0 0).isSome = true ∧ specialValue run 0 0xFFFF = none
    ∧ (rw 0 0 0 1 128).legal ((rw 0 0 0 1 128).useB {}) = true ∧ (rw 0 0 0 1 128).valueB (run.tile 0) = 128
    ∧ (rw 0 0 0 1 129).legal ((rw 0 0 0 1 129).useB {}) = true ∧ (rw 0 0 0 1 129).valueB (run.tile 0) = 129
    ∧ (rw 0 4 0 0 6).legal { a := true, imm := BitVec.allOnes 32 } = true
    ∧ ((setS run 4 1).tile 0).readS 4 = 1 ∧ (run.tile 0).readS 4 = 0
    ∧ (1 : W32) ∉ ([0, 3, 4, 5, 6] : List W32) := by unfold State.issuable; decide +kernel

theorem witness_vat_access : run.issuable 0 []
    ∧ (rw 3 2 0 0b1110 0).legal { d := true, a := true, aA := true, m := 0b1110, imm := BitVec.allOnes 32 } = true
    ∧ (rw 0 2 3 0b0110 0).legal { a := true, aA := true, b := true, m := 0b0110, imm := BitVec.allOnes 32 } = true
    ∧ ((setA run 2 0x3FFFF8).tile 0).readA 2 = 0x3FFFF8 ∧ ¬ (0x3FFFF8 % 8 ≠ 0 ∨ 0x3FFFF8 + 8 > 0x400000)
    ∧ 0x3FFFFC % 8 ≠ 0 ∧ 0x400000 + 8 > 0x400000 ∧ run.vatMarksAt 0 0x3FFFF8 8 = [] := by
  unfold State.issuable; decide +kernel

theorem witness_frame : run.marks = [] ∧ isNext (exec (.add 0 (rw 3 4 5 0 0)) run) = true := by decide +kernel

theorem witness_exceptions :
    run.attempt 0 { legal := true, word := 0, size := 8, exc := some (4, 1) } = .raises 4 1 := by decide +kernel

theorem witness_illegal : run.tileReady 0 = true ∧ badPc (run.pc 0) = false ∧ (run.setReg (.seqPc 0) 4).tileReady 0 = true
    ∧ badPc ((run.setReg (.seqPc 0) 4).pc 0) = true ∧ badPc ((run.setReg (.seqPc 0) 0x4000000000).pc 0) = true
    ∧ badPc ((run.setReg (.seqPc 0) 0x3FFFFFFFF8).pc 0) = false ∧ (rw 0 0 0 1 0).legal {} = false := by decide +kernel

theorem witness_fetch : run.tileReady 0 = true ∧ badPc (run.pc 0) = false
    ∧ (run.tile 0).ibuf.find? (fun e => e.1 = 64) = none
    ∧ ((run.updTile 0 (fun x => { x with ibuf := [(64, 0)] })).tile 0).ibuf.find? (fun e => e.1 = 64) = some (64, 0)
    ∧ (decodeSx 0 (lineWord 64 0) 0).isSome = true ∧ (decodeSx 0 (lineWord 64 (BitVec.ofNat 512 (7 * 2 ^ 60))) 0).isSome = false
    ∧ (run.folioRead 0 (.fetch 0) 0 64 64).2.isSome = true ∧ badPc ((run.setReg (.seqPc 0) 4).pc 0) = true := by decide +kernel

theorem witness_dma : sect.issuable 0 [tagDma 31] ∧ sect.granted 0 ∧ (sect.tile 0).dmaQueue.length < 32
    ∧ (rw 0 2 0 0 31).legal { a := true, aA := true, imm := 0x1F } = true
    ∧ (((setA sect 2 0x3FFFE0).tile 0).readA 2).toNat % 32 = 0 ∧ (((setA sect 2 0x3FFFE0).tile 0).readA 2).toNat < 0x400000
    ∧ (((setA sect 2 0x400000).tile 0).readA 2).toNat ≥ 0x400000
    ∧ (rw 0 2 5 0 0).legal { a := true, aA := true, b := true } = true := by
  unfold State.issuable State.granted; decide +kernel

theorem witness_no_section : run.issuable 0 [] ∧ run.issuable 0 [tagDma 31, tagT 3, tagT 4, tagP 1, tagShadow, tagPress] ∧ run.sectionless 0
    ∧ ¬ run.granted 0 ∧ (run.tile 0).dmaQueue.length < 32 ∧ (run.tile 0).infl.length < 16 ∧ (run.tile 0).pressQueue.length < 8
    ∧ (run.setReg (.scoreboard 0) (BitVec.ofNat 64 (2 ^ tagGrant))).tagBusy 0 tagGrant = true ∧ State.reset.tileReady 0 = false
    ∧ 32 ≤ ((run.updTile 0 (fun x => { x with dmaQueue := List.replicate 32 ⟨0, 0⟩ })).tile 0).dmaQueue.length
    ∧ 16 ≤ ((run.updTile 0 (fun x => { x with infl := List.replicate 16 ⟨0, 0, false, false⟩ })).tile 0).infl.length
    ∧ (let s := (run.setReg (.scoreboard 0) 0xE000).updTile 0 (fun x => { x with couch := [⟨0, []⟩] })
       s.tileReady 0 = true ∧ badPc (s.pc 0) = false ∧ (s.tile 0).couch ≠ [] ∧ s.tagBusy 0 (tagCouch (s.tile 0).oldestSlot) = false
         ∧ s.tagBusy 0 (tagT 3) = false ∧ s.tagBusy 0 tagGrant = false ∧ (s.tile 0).energySection = none) := by
  unfold State.issuable State.granted State.sectionless; decide +kernel

def fetchReady : State := on.updTile 0 (fun x => { x with dmaQueue := [⟨3, 64⟩] })

/-- A descriptor of one row of 32 bytes from 0x100 to 0x200 in the own vat, of a kind. -/
def rowDesc (kind : Nat) : Desc :=
  { length := 32, kind := kind, srcBuf := 0, dstBuf := 0, srcFmt := 0, dstFmt := 0, srcOff := 0x100, srcPitch := 32, dstOff := 0x3FFFE0,
    dstPitch := 0, count := 1, rm := 0, satc := false, wbits := 0, idxOff := 0, reservedBits := false }
def xferOf (d : Desc) (idx : List Nat) : Xfer :=
  { tag := 3, off := 0, desc := d, src := on.bufView 0 0, dst := on.bufView 0 0, idx := idx, row := 0, part := 0,
    loaded := none, asked := false, finished := false, status := 0, bytes := 0, flags := 0, seed := 0, step := 0 }
def moving (x : Xfer) : State := on.updTile 0 (fun y => { y with xfers := [x] })

theorem witness_descriptor : (fetchReady.tile 0).dmaQueue = [⟨3, 64⟩] ∧ fetchReady.marks = []
    ∧ (fetchReady.tile 0).xfers.length < 8 ∧ (fetchReady.tile 0).inReset = false ∧ fetchReady.clocksStopped = false
    ∧ validate (rowDesc 6) (fetchReady.bufView 0 0) (fetchReady.bufView 0 0) (fetchReady.indexList 0 (rowDesc 6)) false ≠ 0
    ∧ validate (rowDesc 0) (fetchReady.bufView 0 0) (fetchReady.bufView 0 0) (fetchReady.indexList 0 (rowDesc 0)) false = 0 := by
  decide +kernel

theorem witness_dma_row : ∀ k ∈ [0, 1, 2, 5], let x := xferOf (rowDesc k) (if (rowDesc k).indexed then [0] else [])
    let s := moving x
    (s.tile 0).xfers = [x] ∧ x.tag = 3 ∧ x.desc.kind = k ∧ x.src = s.bufView 0 0 ∧ x.dst = s.bufView 0 0 ∧ x.desc.count = 1
    ∧ 0 < x.desc.length ∧ x.desc.length ≤ 16384 ∧ x.desc.srcFmt = x.desc.dstFmt ∧ s.marks = [] ∧ (s.tile 0).inReset = false
    ∧ s.clocksStopped = false ∧ x.desc.srcOff + x.desc.length ≤ 0x400000 ∧ x.desc.dstOff + x.desc.length ≤ 0x400000 := by
  decide +kernel

theorem witness_dma_skew : ∀ n ∈ [3, 4], ∀ b ∈ [4, 64], let d := { rowDesc n with wbits := b, length := 16 * b, dstOff := 0x1000 }
    let x := xferOf d (if n = 4 then [0] else [])
    let s := moving x
    (s.tile 0).xfers = [x] ∧ x.desc.kind = n ∧ x.src = s.bufView 0 0 ∧ x.dst = s.bufView 0 0 ∧ x.desc.count = 1
    ∧ x.desc.wbits ∈ [4, 6, 8, 12, 16, 24, 32, 64] ∧ x.desc.length = 16 * x.desc.wbits ∧ s.marks = []
    ∧ x.desc.srcOff + x.desc.length ≤ 0x400000 ∧ x.desc.dstOff + (x.desc.dstPitch + 129) * x.desc.length ≤ 0x400000 := by
  decide +kernel

theorem witness_dma_rows : ∀ k ∈ [0, 1, 2, 5], let d := { rowDesc k with count := 2, dstOff := 0x3FFF00, dstPitch := 128 }
    let x := xferOf d (if d.indexed then [1, 0xFFFFFFFF] else [])
    (moving x |>.tile 0).xfers = [x] ∧ 0 < d.count ∧ d.converts = false ∧ d.srcOff + d.length + 64 ≤ 0x400000
    ∧ (if k = 2 then d.dstOff + 128 + d.rowOut else d.dstOff + d.dstPitch + d.rowOut) ≤ 0x400000
    ∧ d.dstOff + d.rowOut ≤ d.dstOff + d.dstPitch ∧ d.srcOff + 64 ≤ d.dstOff := by decide +kernel
theorem witness_dma_converts : let d := { rowDesc 0 with dstFmt := 1, rm := 2, dstOff := 0x1000 }
    d.converts = true ∧ Fmt.ofCode d.srcFmt = some .fp32 ∧ Fmt.ofCode d.dstFmt = some .bf16 ∧ Rm.ofCode d.rm = some .sr
    ∧ fmtWidth d.srcFmt / 8 = 4 ∧ fmtWidth d.dstFmt / 8 = 2 ∧ d.length % 4 = 0 := by decide +kernel
def farOf (k : Nat) (loaded : Option (List Byte)) : Xfer :=
  let at' (a : Nat) : BufView := { on.bufView 0 0 with addr := a }
  { xferOf { rowDesc k with wbits := 8 } [0] with src := at' (2 ^ 46), loaded := loaded, dst := at' (3 * 2 ^ 46) }
theorem witness_dma_far : (∀ k ∈ [0, 1, 2, 3, 4], let x := farOf k none
      x.isPad = false ∧ (moving x).place 0 x.srcAddr = .far 0 1 0x100 ∧ (moving x).replyRoom 0 x = true)
    ∧ (∀ k ∈ [0, 1, 2, 5], let x := farOf k (some [1])
      twinDst (moving x) 0 x.dstAddr = none ∧ (moving x).place 0 x.dstAddr = .far 0 3 0x3FFFE0
        ∧ (moving x).blockPending 0 0 3 0x3FFFE0 1 = false)
    ∧ (moving (farOf 0 none)).freeTag (folioDie 0) = some 0 := by decide +kernel

theorem witness_dma_complete : ∀ st ∈ [0, 1], let x := { xferOf (rowDesc 0) [] with finished := true, status := st }
    let s := moving x
    (s.tile 0).xfers.find? (fun y => y.tag = 3) = some x ∧ x.finished = true ∧ s.waits (.dma 0 3) = false
    ∧ (s.tile 0).inReset = false ∧ s.clocksStopped = false := by decide +kernel

theorem witness_press : sect.issuable 0 [tagShadow] ∧ sect.granted 0 ∧ (sect.tile 0).pressQueue.length < 8
    ∧ 8 ≤ ((sect.updTile 0 (fun x => { x with pressQueue := List.replicate 8 .wswap })).tile 0).pressQueue.length
    ∧ (sect.tile 0).pressQueue = [] ∧ (sect.tile 0).press = [] ∧ (sect.tile 0).frozen = false ∧ (sect.tile 0).loading = false
    ∧ (PWord.mk false 0 1 3 0 false false 0 0).legal { fmt := true, aa := true } = true ∧ sect.tagBusy 0 tagShadow = false
    ∧ sect.marks = [] ∧ (((setA sect 3 0x3FFFFF).tile 0).readA 3).toNat < 0x400000
    ∧ 0x400000 ≤ (((setA sect 3 0x400000).tile 0).readA 3).toNat
    ∧ (PWord.mk false 0 0 0 0 false false 0 0).legal {} = true
    ∧ (PWord.mk false 1 1 3 7 true true 0 0).legal { acc := true, fmt := true, aa := true, sb := true, mode := true, fin := true } = true
    ∧ sect.flag (.strict 0) Fld.strictCheck = false
    ∧ (((setS sect 7 128).tile 0).readS 7).toNat = 128 ∧ ((sect.tile 0).readS 7).toNat = 0
    ∧ (((setS sect 7 129).tile 0).readS 7).toNat = 129
    ∧ Fmt.bf16.isInt = (sect.tile 0).issueFmt.isInt ∧ Fmt.int8.isInt ≠ (sect.tile 0).issueFmt.isInt
    ∧ (let s := sect.setFlag (.strict 0) Fld.strictCheck true
       s.flag (.strict 0) Fld.strictCheck = true ∧ (s.tileReady 0 = true ∧ badPc (s.pc 0) = false ∧
         ∀ i ∈ [tagShadow, tagPress], s.tagBusy 0 i = false))
    ∧ (let x := (sect.updTile 0 (fun x => { x with pressQueue := [.wld .bf16 0 0], loading := true })).tile 0
       x.pressQueue = .wld .bf16 0 0 :: [] ∧ x.canStart (.wld .bf16 0 0) = false ∧ x.loading = true ∧ x.frozen = false)
    ∧ (sect.tile 0).canStart .wswap = true ∧ sect.clocksStopped = false := by
  unfold State.issuable State.granted; decide +kernel

def jobOf (rows done : Nat) (fin : Bool) : StreamJob :=
  { acc := 1, fmt := .bf16, base := 0, scaleOff := 0, rows := rows, add := false, fin := fin, weights := WBlock.zero, done := done,
    strict := false, staged := [], missed := none, pc := 0 }
def streaming (j : StreamJob) (couch : List CouchTile) : State := on.updTile 0 (fun x => { x with press := [j], couch := couch })
def fullCouch : List CouchTile := [⟨0, []⟩, ⟨1, []⟩, ⟨2, []⟩, ⟨3, []⟩]

theorem witness_stream_row : ((streaming (jobOf 64 63 true) []).tile 0).press = [jobOf 64 63 true]
    ∧ (streaming (jobOf 64 63 true) []).marks = [] ∧ ((streaming (jobOf 64 63 true) []).tile 0).inReset = false
    ∧ ((streaming (jobOf 64 63 true) []).tile 0).frozen = false ∧ (jobOf 64 63 true).done < (jobOf 64 63 true).rows
    ∧ completesTile (jobOf 64 63 true) 63 = true ∧ completesTile (jobOf 64 63 false) 63 = false
    ∧ ((streaming (jobOf 64 63 true) []).tile 0).couch.length < 4
    ∧ 4 ≤ ((streaming (jobOf 64 63 true) fullCouch).tile 0).couch.length
    ∧ ((streaming (jobOf 64 63 true) fullCouch).tile 0).halting = none
    ∧ (((streaming (jobOf 64 63 true) fullCouch).updTile 0 (fun x => { x with halting := some ⟨1, 0, 0, 72, 0⟩ })).tile 0).halting ≠ none
    ∧ ((streaming (jobOf 64 63 true) []).tile 0).pressQueue = [] ∧ (streaming (jobOf 64 63 true) []).clocksStopped = false
    ∧ ((on.updTile 0 (fun x => { x with frozen := true })).tile 0).frozen = true := by decide +kernel

theorem witness_couch :
    let s := (sect.setReg (.scoreboard 0) 0xE000).updTile 0 (fun x => { x with couch := [⟨0, []⟩] })
    (s.tile 0).couch = [⟨0, []⟩] ∧ s.issuable 0 [tagT (iw 5 0 0 0 0 0 0).dt, tagCouch 0] ∧ s.granted 0
    ∧ (s.tile 0).infl.length < 16 ∧ (iw 5 0 0 0 0 0 0).legal { td := true } = true
    ∧ (sect.setReg (.scoreboard 0) 0xF000).tagBusy 0 (tagCouch (sect.tile 0).oldestSlot) = true := by
  unfold State.issuable State.granted; decide +kernel

def stUse : IUse :=
  { ta := true, rm := [0, 1, 2], satc := true, sr := true, ar := true, extMx := true, fmt := [1, 2, 3, 4, 5, 6, 7, 8, 9, 10, 11, 12] }
def cvtUse : IUse :=
  { td := true, ta := true, rm := [0, 1, 2], satc := true, sr := true, opx := 1, fmt := [1, 2, 3, 4, 5, 6, 7, 8, 9, 10, 11, 12] }
def ldw : IWord := { iw 5 0 0 0 1 4 0 with ar := 2 }
def stw : IWord := { iw 0 5 0 0 1 4 0 with ar := 2 }
theorem witness_vat_tiles : sect.issuable 0 [tagT 5] ∧ sect.granted 0
    ∧ ldw.legal { td := true, sr := true, ar := true, fmt := List.range 13, extMx := true } = true
    ∧ stw.legal stUse = true
    ∧ sect.marks = [] ∧ vlExc ldw (sect.tile 0) = none ∧ rowsRange .bf16 (0x400000 - 32 * 256) 256 0 128 = none
    ∧ (rowsRange .bf16 (0x400000 - 31 * 256) 256 0 128).isSome = true ∧ (rowsRange .bf16 1 256 0 128).isSome = true
    ∧ Fmt.bf16.isMx = false ∧ rowBytes .bf16 128 ≤ 256 := by
  unfold State.issuable State.granted; decide +kernel

theorem witness_inflection : sect.issuable 0 [tagT 3, tagT 4, tagT 5, tagT 6, tagP 1] ∧ sect.granted 0
    ∧ (sect.tile 0).infl.length < 16
    ∧ (iw 3 4 5 0 0 0 0).legal { td := true, ta := true, tb := true, fmt := [0, 12], rm := [0, 1] } = true
    ∧ (iw 3 4 5 0 12 0 0).legal { td := true, ta := true, tb := true, fmt := [0, 12], rm := [0] } = true
    ∧ ({ iw 3 4 5 0 0 0 0 with tc := 6, rm := 1 } : IWord).legal
        { td := true, ta := true, tb := true, tc := true, fmt := [0, 12], rm := [0, 1] } = true
    ∧ (iw 3 4 5 0 12 0 0).legal { td := true, ta := true, tb := true, fmt := [0, 12] } = true
    ∧ (iw 3 4 0 0 12 0 0).legal { td := true, ta := true, fmt := [0, 12] } = true
    ∧ (iw 3 4 0 0 0 0 0).legal { td := true, ta := true, rm := [0, 1] } = true
    ∧ ({ iw 3 4 5 1 0 0 0 with ax := true } : IWord).legal { td := true, ta := true, tb := true, pg := true, ax := true } = true
    ∧ (iw 3 0 0 0 11 7 0).legal { td := true, sr := true, fmt := [0, 1, 2, 3, 4, 10, 11, 12] } = true
    ∧ (iw 3 4 0 0 0 0 0).legal { td := true, ta := true } = true
    ∧ (iw 3 4 0 0 0 7 0).legal { td := true, ta := true, sr := true, rm := [0, 1] } = true
    ∧ (iw 3 4 5 0 0 0 0).legal { td := true, ta := true, tb := true, rm := [0, 1] } = true
    ∧ ({ iw 3 4 0 0 1 7 1 with rm := 2, satc := true } : IWord).legal cvtUse = true
    ∧ (iw 3 4 0 0 1 7 1).format.isMx = false ∧ vlExc (iw 3 4 0 0 1 7 1) (sect.tile 0) = none := by
  unfold State.issuable State.granted; decide +kernel

def pset : State := sect.updTile 0 (fun x => { x.writeT 5 [(127, 128)] with vl := 128 })
theorem witness_predicates : sect.issuable 0 [tagP 1, tagT 4, tagT 5, tagP 2, tagP 7] ∧ sect.granted 0
    ∧ (sect.tile 0).infl.length < 16
    ∧ (iw 1 4 5 0 0 0 0x1F0017).legal { td := true, ta := true, tb := true, opx := 0x1F001F } = true
    ∧ ¬ ((iw 1 4 5 0 0 0 0x1F0017).opx.getLsbD 3 = true ∧ (iw 1 4 5 0 0 0 0x1F0017).opx.toNat / 2 ^ 16 ≠ 0)
    ∧ (iw 1 4 5 0 0 0 0x8).legal { td := true, ta := true, tb := true, opx := 0x1F001F } = true
    ∧ (iw 1 2 7 0 0 0 3).legal { td := true, ta := true, tb := true, opx := 3 } = true
    ∧ (iw 1 0 0 0 0 4 0).legal { td := true, sr := true } = true ∧ (iw 0 1 0 0 0 4 0).legal { ta := true, sr := true } = true
    ∧ ({ iw 1 4 0 0 0 0 0x70E with ax := true } : IWord).legal { td := true, ta := true, ax := true, opx := 0x70F } = true
    ∧ (iw 1 4 0 0 0 0 0x70E).opx.toNat % 8 ≠ 7
    ∧ (iw 1 4 5 0 0 0 0).legal { td := true, ta := true, tb := true } = true ∧ firstOutOfRange (sect.tile 0) 5 = none
    ∧ firstOutOfRange (pset.tile 0) 5 = some (0, 127) ∧ pset.flag (.strict 0) Fld.strictLane = false
    ∧ (pset.setFlag (.strict 0) Fld.strictLane true).flag (.strict 0) Fld.strictLane = true
    ∧ ({ iw 1 4 0 2 0 20 0 with ax := true } : IWord).legal { td := true, ta := true, pg := true, ax := true, sr := true } = true
    ∧ (iw 1 4 0 2 0 0 0).legal { td := true, ta := true, pg := true, ax := true } = true := by
  unfold State.issuable State.granted; decide +kernel

theorem witness_infl_complete :
    let s := on.updTile 0 (fun x => { x with infl := [⟨3, 0, false, true⟩, ⟨4, 0, false, true⟩] })
    s.clocksStopped = false ∧ (s.tile 0).infl = [⟨3, 0, false, true⟩] ++ ⟨4, 0, false, true⟩ :: []
    ∧ ∀ p ∈ [(⟨3, 0, false, true⟩ : InflOp)], p.tag ≠ 4 := by decide +kernel

def grouped : State :=
  (sect.setFld (.collStatus 5) Fld.collStatusState 2).setReg (.collTiles0 5) (BitVec.allOnes 64)
theorem witness_sync : run.issuable 0 [] ∧ (RWord.mk true 0 0 0 0 0 0x10000).legal { ext := .required } = true
    ∧ run.reg (.scoreboard 0) &&& 0x10000 = 0 ∧ run.reg (.tagError 0) &&& 0x10000 = 0
    ∧ (run.setReg (.scoreboard 0) 0x10000).reg (.scoreboard 0) &&& 0x10000 ≠ 0
    ∧ (∀ k ∈ [16, 56, 60, 63], lowestTag ((run.setReg (.tagError 0) (1#64 <<< k)).reg (.tagError 0)) = some k)
    ∧ (rw 3 4 0 0 0).legal { d := true, a := true } = true ∧ run.tenseLocked = true ∧ ((run.tile 0).readS 4).toNat ≤ run.tenseNow
    ∧ run.tenseNow < ((setS run 4 1).tile 0 |>.readS 4).toNat
    ∧ (run.setFld .tenseStatus Fld.tenseStatusState 5).tenseLocked = false
    ∧ (rw 0 0 0 0 5).legal { imm := 0x3F } = true ∧ run.tagBusy 0 tagBarrier = false
    ∧ (grouped.collRuns 5 && grouped.inTileSet 5 0) = true ∧ (grouped.group 5).exchange = false
    ∧ ((grouped.setGroup 5 { grouped.group 5 with exchange := true }).group 5).exchange = true
    ∧ (run.collRuns 5 && run.inTileSet 5 0) = false
    ∧ (rw 0 4 5 0 0).legal { a := true, b := true } = true
    ∧ ((setS run 4 (2 ^ 40 - 2)).tile 0 |>.readS 4).toNat < 2 ^ 40 - 1 ∧ 2 ^ 40 - 1 ≤ ((setS run 4 (2 ^ 40 - 1)).tile 0 |>.readS 4).toNat
    ∧ (rw 0 0 0 0 0).legal {} = true ∧ (rw 0 0 0 3 0).legal { m := 3 } = true ∧ run.writesPending 0 3 = false
    ∧ (run.updTile 0 (fun x => { x with dmaQueue := [⟨3, 64⟩] })).writesPending 0 0 = true ∧ run.writesPending 0 1 = false
    ∧ (run.tile 0).lastDepart + run.boundNs 0 ≤ run.tenseNow ∧ run.writesUnsent 0 = false
    ∧ (run.updTile 0 (fun x => { x with dmaQueue := [⟨3, 64⟩] })).writesUnsent 0 = true
    ∧ run.tenseNow < ((run.updTile 0 (fun x => { x with lastDepart := 1 })).tile 0).lastDepart + run.boundNs 3 := by unfold State.issuable; decide +kernel

theorem witness_post_no_section : let s := grouped.updTile 0 (fun x => { x with energySection := none })
    s.issuable 0 [tagPost 3] ∧ s.sectionless 0 ∧ s.collState 5 ≠ 0 ∧ (s.group 5).queue.length < 16 := by
  unfold State.issuable State.sectionless; decide +kernel
theorem witness_post : grouped.issuable 0 [tagPost 3] ∧ grouped.granted 0 ∧ grouped.marks = []
    ∧ (rw 0 2 0 0 0x305).legal { a := true, aA := true, imm := 0x33F } = true ∧ sect.collState 5 = 0 ∧ grouped.collState 5 ≠ 0
    ∧ ((setA grouped 2 0x3FFFC0).tile 0 |>.readA 2).toNat % 64 = 0 ∧ ((setA grouped 2 0x3FFFC0).tile 0 |>.readA 2).toNat < 0x400000
    ∧ 0x400000 ≤ ((setA grouped 2 0x400000).tile 0 |>.readA 2).toNat ∧ (grouped.group 5).queue.length < 16
    ∧ 16 ≤ ((grouped.setGroup 5 { grouped.group 5 with queue := List.replicate 16 ⟨[], 0, 3, [], false, false, 0, false, 0⟩ }).group 5).queue.length := by
  unfold State.issuable State.granted; decide +kernel

theorem witness_halt :
    let s := run.updTile 0 (fun x => { x with halting := some ⟨1, 0, 0, 72, 0⟩ })
    (s.tile 0).halting = some ⟨1, 0, 0, 72, 0⟩ ∧ (s.tile 0).quiet = true ∧ s.tagBusy 0 tagShadow = false
    ∧ run.mgmt.powered = true ∧ run.answers (Reg.seqCtl 0).addr = true ∧ run.mgmt.takeover = none
    ∧ run.regDown (Reg.seqCtl 0).addr (.seqCtl 0) = false ∧ run.devMode ≠ 3 ∧ run.flag (.seqCtl 0) Fld.seqCtlRun = true
    ∧ (run.tile 0).halting = none ∧ on.flag (.seqCtl 0) Fld.seqCtlRun = false
    ∧ (on.setFld (.seqCtl 0) Fld.seqCtlHaltKind 3).fld (.seqCtl 0) Fld.seqCtlHaltKind = 3
    ∧ 0 < ((run.updTile 0 (fun x => { x with dispatching := 32 })).tile 0).dispatching ∧ (run.tile 0).dispatching = 0
    ∧ (s.tile 0).halting.isSome = true ∧ Src.host ≠ Src.island := by decide +kernel

def off : State := State.reset.updMgmt (fun m => { m with powered := false })
def bootOk : Boot :=
  { railFail := none, folioRev := Vector.replicate 8 1, deckleRev := Vector.replicate 2 1, baseRev := Vector.replicate 32 1,
    twins := Vector.replicate 4 (Vector.replicate 4 6), feltFail := false, drives := none, lsmDigest := none, reamFail := false,
    lanes := Vector.replicate 32 0, tests := [], minMv := Vector.replicate 8 (Vector.replicate 8 600), railMw := Vector.replicate 8 0, ms := 5 }
def noQuire : State := State.reset.updMgmt (fun m => m.setQuire false Quire.erased)
/-- Quire A's matched-set table holds revision 1 throughout. -/
def matched : State := State.reset.updMgmt (fun m => m.setQuire false { m.flash.quireA with sets := [(1, 1, 1)] })

def lowFor (ns : Nat) : State := { on.updMgmt (fun m => { m with resetLow := some 0 }) with now := ns }

theorem witness_bringup : off.mgmt.powered = false ∧ State.reset.devState = 0 ∧ State.reset.mgmt.powered = true
    ∧ State.reset.clocksStopped = false ∧ State.reset.mgmt.boots.isSome = true ∧ bootOk.railFail = none
    ∧ (∀ f, bootOk.folioRev.get f = bootOk.folioRev.get 0) ∧ (∀ n, bootOk.deckleRev.get n = bootOk.deckleRev.get 0)
    ∧ (∀ m, bootOk.baseRev.get m = bootOk.baseRev.get 0) ∧ bootOk.feltFail = false
    ∧ bootOk.reamFail = false ∧ noQuire.mgmt.boots = none ∧ noQuire.devState = 0
    ∧ ({ bootOk with railFail := some 29 } : Boot).railFail = some 29 ∧ State.reset.pinReset = false := by decide +kernel
theorem witness_matched_sets : matched.mgmt.boots = some (false, matched.mgmt.flash.quireA) ∧ matched.devState = 0
    ∧ matched.mgmt.flash.quireA.sets.contains (bootOk.folioRev.get 0, bootOk.deckleRev.get 0, bootOk.baseRev.get 0) = true
    ∧ (let b := { bootOk with folioRev := Vector.replicate 8 2 }
       matched.mgmt.flash.quireA.sets.contains (b.folioRev.get 0, b.deckleRev.get 0, b.baseRev.get 0) = false)
    ∧ (let b := { bootOk with baseRev := bootOk.baseRev.set 31 2 }
       b.baseRev.get 31 ≠ b.baseRev.get 0) := by decide +kernel
theorem witness_rail_steps : (⟨29, by omega⟩ : Fin 32) ∈ railSteps.getD 2 [] ∧ (⟨0, by omega⟩ : Fin 32) ∈ railSteps.getD 9 []
    ∧ (lowFor 10000).pinReset = true ∧ railsDown [30, 31, 29, 26] = [[26], [29], [30], [31]] := by decide +kernel

def tripped : State := { on.updMgmt (fun m => { m with tripped := true }) with
  now := 1000000000, energy := { on.energy with coolSince := some 0 } }
theorem witness_whole_reset : on.mgmt.powered = true ∧ on.mgmt.unlogged = false ∧ on.mgmt.tripped = false
    ∧ on.mgmt.takeover = none ∧ tripped.mgmt.powered = true ∧ tripped.mgmt.unlogged = false
    ∧ tripped.energy.coolSince = some 0 ∧ tripped.mgmt.tripped = true ∧ 0 + 1000000000 ≤ tripped.now
    ∧ on.mgmt.resetLow = none ∧ (lowFor 9999).mgmt.resetLow = some 0 ∧ 0 + 1000 ≤ (lowFor 9999).now ∧ (lowFor 9999).now < 0 + 10000
    ∧ 0 + 10000 = (lowFor 9999).now + 1 ∧ (lowFor 9999).pending = [] ∧ (lowFor 999).now < 0 + 1000
    ∧ (lowFor 9999).mgmt.powered = true ∧ (lowFor 9999).mgmt.unlogged = false ∧ (lowFor 9999).mgmt.tripped = false := by decide +kernel

def downs : State := { on.updTile 30 (fun x => { x with inReset := true }) with downDies := [7, 9] }
theorem witness_domain_reset : on.reaches .devReset ∧ on.devState = 1 ∧ on.mgmt.tripped = false
    ∧ (∀ f : Folio, (0x81 : BitVec 8).getLsbD f.val = true → folioDie f ∉ on.downDies) ∧ deckleDie 1 ∉ on.downDies
    ∧ grouped.collRuns 5 = true ∧ (on.tile 191).inReset = false ∧ downs.clocksStopped = false ∧ folioDie 7 ∈ downs.downDies
    ∧ deckleDie 1 ∈ downs.downDies ∧ (downs.tile 30).inReset = true ∧ folioDie (tileFolio 30) ∉ downs.downDies := by
  unfold State.reaches; decide +kernel

theorem witness_host_link : isNext (exec (.cxlReset true) on) = true ∧ isNext (exec (.cxlReset false) on) = true
    ∧ ({ on with energy := { on.energy with rails := [] } } : State).energy.rails.contains 28 = false ∧ ({ on with energy := { on.energy with rails := [28] } } : State).energy.rails.contains 28 = true := by
  decide +kernel

def mode (n : Nat) : State := on.setFld .devStatus Fld.devStatusMode n
def committing (r : Nat) : State := on.updMgmt (fun m => { m with commit := some (r, Quire.erased) })
theorem witness_modes : on.reaches .modeCtl ∧ on.devState = 1 ∧ (mode 2).reaches .modeCtl ∧ (mode 2).devMode = 2
    ∧ (mode 1).devMode = 1 ∧ (∀ g, on.collState g = 0) ∧ (∀ q, on.flag (.hqCtl q) Fld.hqCtlEnable = false)
    ∧ (mode 3).mgmt.powered = true ∧ (mode 3).mgmt.takeover = none ∧ (mode 3).devMode = 3
    ∧ (mode 3).mgmt.staging.length + 8 ≤ 64 * 2 ^ 20 ∧ (mode 3).mgmt.commit = none
    ∧ (∃ g, grouped.collState g ≠ 0) ∧ (∃ q, (on.setFlag (.hqCtl 3) Fld.hqCtlEnable true).flag (.hqCtl q) Fld.hqCtlEnable = true)
    ∧ ((mode 3).updMgmt (fun m => { m with commit := some (0, Quire.erased) })).mgmt.commit ≠ none
    ∧ (committing 0).mgmt.commit = some (0, Quire.erased) ∧ (committing 255).mgmt.commit = some (255, Quire.erased) := by
  unfold State.reaches; decide +kernel

def takeover : State := on.updMgmt (fun m => { m with takeover := some ⟨1, 0, [], 0, 0, none, []⟩ })
theorem witness_stops : on.mgmt.powered = true ∧ on.mgmt.tripped = false ∧ tripAt 0 ≤ (0x7FFF : BitVec 16).toInt
    ∧ tripAt 817 ≤ (0x7FFF : BitVec 16).toInt
    ∧ (let s := ({ on with energy := { on.energy with coolantLow := 1 } } : State).setFlag .coolantStatus Fld.coolantStatusStopArmed true
       s.energy.coolantLow = 1 ∧ s.flag .coolantStatus Fld.coolantStatusStopArmed = true ∧ s.clocksStopped = false)
    ∧ on.devState = 1 ∧ on.mgmt.takeover = none
    ∧ (on.setFlag .mcStatus Fld.mcStatusStandbyReady true).flag .mcStatus Fld.mcStatusStandbyReady = true
    ∧ takeover.mgmt.takeover = some ⟨1, 0, [], 0, 0, none, []⟩
    ∧ (on.updMgmt (fun m => { m with failed := true })).mgmt.failed = true := by decide +kernel

theorem witness_plain_write : ∀ wide : Bool, ∀ off ∈ [(Reg.switchCtl 1).addr, (Reg.switchCtl 1).addr + (if wide then 0 else 4)],
    off / 8 * 8 = (Reg.switchCtl 1).addr ∧ off % (if wide then 8 else 4) = 0 := by decide +kernel
theorem witness_plain_reaches : on.reaches (.switchCtl 1) ∧ on.reaches (.bufBase 7 255) ∧ on.lockedWrite (.switchCtl 1) 0 = false
    ∧ on.badCombination (.switchCtl 1) 0 0 = false ∧ (reservedFields (.switchCtl 1)).all (fun e => !e.2 (e.1.get 0)) = true
    ∧ (reservedFields (.switchCtl 1)).all (fun e => !e.2 (e.1.get (Fld.switchCtlTransitMax.set 0 192))) = true
    ∧ run.lockedWrite (.strict 0) 1 = true ∧ on.lockedWrite (.strict 0) 1 = false := by
  unfold State.reaches; decide +kernel

theorem witness_heeds : on.ready = true ∧ islandBarred (Reg.switchCtl 1).addr 1 = true ∧ islandBarred (Reg.seqCtl 0).addr 2 = true
    ∧ islandBarred (Reg.seqCtl 191).addr 4 = false ∧ islandBarred (Reg.portAdmit 63).addr 1 = false
    ∧ islandBarred 0xFFF8 1 = false ∧ islandBarred 0x10000 1 = true ∧ (Reg.switchCtl 1).addr % 8 = 0 ∧ Src.host ≠ .island := by
  decide +kernel

theorem witness_refused : on.mgmt.powered = true ∧ ¬ ((2 = 4 ∨ 2 = 8) ∧ 0x10000 % 2 = 0) ∧ ¬ ((8 = 4 ∨ 8 = 8) ∧ 0x10004 % 8 = 0)
    ∧ on.answers 0x10000 = true ∧ State.reset.answers 0x10000 = false ∧ State.reset.answers 0xFFF8 = true
    ∧ on.mgmt.takeover = none ∧ on.devMode ≠ 3 ∧ Reg.ofAddr 0x7FFFFF8 = .reserved ∧ 0x7FFFFF8 % 8 = 0
    ∧ downs.regDown (Reg.seqPc 190).addr (.seqPc 190) = true ∧ Reg.ofAddr (Reg.seqPc 190).addr = .reg (.seqPc 190)
    ∧ run.regDown (Reg.seqPc 0).addr (.seqPc 0) = false ∧ run.flag (.seqCtl 0) Fld.seqCtlRun = true
    ∧ on.regDown (Reg.ecqSize 0 0).addr (.ecqSize 0 0) = false ∧ Fld.ecqSizeLog2.get 3 < 4 ∧ 16 < Fld.ecqSizeLog2.get 17
    ∧ on.reaches .faultRingAck ∧ (0#64).toNat ≤ on.fld .faultRingTail Fld.faultRingTailIndex := by
  unfold State.reaches; decide +kernel
/-- A reserved value, a reserved combination and a reserved pair of actions, each in a 32-bit write. -/
theorem witness_reserved : (∀ r ∈ [Reg.ecqSize 7 15, .folioDvfs 7, .seqCtl 0], on.modeAccepts r = true ∧ on.featureOff r = false
      ∧ on.regDown r.addr r = false ∧ on.answers r.addr = true ∧ Reg.ofAddr (r.addr / 8 * 8) = .reg r ∧ r.addr % 4 = 0)
    ∧ (∃ e ∈ reservedFields (.ecqSize 7 15), e.1.mask &&& writtenBits (Reg.ecqSize 7 15).addr false ≠ 0
        ∧ e.2 (e.1.get (Fld.ecqSizeLog2.set 0 17)) = true)
    ∧ on.badCombination (.folioDvfs 7) 0 (Fld.folioDvfsFastest.set 0 1) = true
    ∧ badActions (.seqCtl 0) 0 0 (Fld.seqCtlStop.set (Fld.seqCtlStart.set 0 1) 1) = true := by decide +kernel

theorem witness_gating :
    let s := { on with now := 50000, clocks := [⟨.reamBase 31, 0, true⟩] }
    (∃ c ∈ s.clocks, c.domain = .reamBase 31 ∧ c.hw = true ∧ c.active + 50000 ≤ s.now)
    ∧ (on.tile 191).inReset = false ∧ on.clocksStopped = false := by decide +kernel

def asking (c : Option Section) : State :=
  (run.setReg (.scoreboard 0) (1#64 <<< tagGrant)).updTile 0 (fun x => { x with energySection := c })
def slewed : State := sect.updTile 0 (fun x => { x with energySection := some ⟨1, 1, some 0, none, 0, 0⟩ })
theorem witness_grant : (asking none).tagBusy 0 tagGrant = true ∧ ((asking none).tile 0).energySection = none
    ∧ ((asking (some ⟨0, 5, none, none, 0, 0⟩)).tile 0).energySection = some ⟨0, 5, none, none, 0, 0⟩
    ∧ (asking (some ⟨7, 5, none, none, 0, 0⟩)).tagBusy 0 tagGrant = true ∧ slewed.slewing 0 = true
    ∧ on.tagBusy 0 tagGrant = false ∧ (sect.tile 0).energySection = some ⟨1, 1, some 256, none, 0, 0⟩ := by decide +kernel
/-- A step to the targets from what the microsecond began with, a step at the limit, and a folio that does not move. -/
theorem witness_slew : (let s := slewed.updTile 0 (fun x => { x with target := 256 })
      s.slewing 0 = true ∧ on.slewing 0 = false ∧ (s.slewFrom 0).power.length = 24
      ∧ (s.tilesUw 0 TileState.aim).foldl (· + ·) 0 ≤ (s.slewFrom 0).power.foldl (· + ·) 0 + 400000 * s.voltage 0
      ∧ (s.slewFrom 0).power.foldl (· + ·) 0 ≤ (s.tilesUw 0 TileState.aim).foldl (· + ·) 0 + 400000 * s.voltage 0)
    ∧ (let s := (folioTiles 0).foldl (fun s t => s.updTile t (fun x =>
         { x with target := 256, energySection := some ⟨10 ^ 9, 1, some 1, none, 0, 0⟩ })) run
       s.slewing 0 = true ∧ (s.slewFrom 0).power.length = 24 ∧ (s.tile 0).holds = true ∧ s.demandOf 0 ≠ 0
       ∧ (s.slewFrom 0).limited = false
       ∧ ¬ ((s.tilesUw 0 TileState.aim).foldl (· + ·) 0 ≤ (s.slewFrom 0).power.foldl (· + ·) 0 + 400000 * s.voltage 0)) := by
  decide +kernel

def packet (w0 w2 : W64) : Launch := ⟨1, 3, 130, [w0, 64, w2, 1, 0, 0, 0, 0], true, [0], [], [], 0, none, 0, false⟩
def queued : State := on.updHost (fun h => { h with launches := [packet 0x11800007012A0101 1] })
theorem witness_pulp : queued.host.launches.find? (fun l => l.hq = 3 && l.index = 130) = some (packet 0x11800007012A0101 1)
    ∧ (packet 0x11800007012A0101 1).envelopeW ≠ 0 ∧ (packet 0x11800007012A0101 1).start ≠ 0
    ∧ (packet 0x11800007012A0101 1).parts ≠ []
    ∧ (packet 0x11800007012A0101 1).start ≤ queued.tenseNow + 1000 * queued.fld .energyCtl Fld.energyCtlPulpLeadUs
    ∧ (0 : Tile) ∈ (packet 0x11800007012A0101 1).tiles ∧ (queued.tile 0).energySection = none
    ∧ ((on.updTile 0 (fun x => { x with pulp := some ⟨5, 0, 0, 0⟩ })).tile 0).pulp = some ⟨5, 0, 0, 0⟩ := by decide +kernel

theorem witness_power_controller :
    (on.setFlag .energyCtl Fld.energyCtlDvfsEn true).flag .energyCtl Fld.energyCtlDvfsEn = true ∧ on.devState = 1
    ∧ on.mgmt.takeover = none ∧ on.energy.lost = [] ∧ (([(0, 5), (31, 6)] : List (Fin 32 × BitVec 24)).map Prod.fst).Nodup
    ∧ (31 : Fin 32).val ∉ on.energy.lost
    ∧ Store.get (fun _ => 0) ({ on with now := 10000001 } : State).energy.reportAt 31 + 10000000 < 10000001 := by decide +kernel

theorem witness_sensors :
    let s := { on with now := 5, energy := { on.energy with sensors := [(817, { on.sensor 817 with fastUntil := some 5 })] } }
    (s.sensor 817).fastUntil = some 5 ∧ 5 ≤ s.now := by decide +kernel

/-! ### Witnesses of the statements about tense, cells and the ream -/

/-- A good marker of 30 bytes, its CRC after them. -/
def sealed (bs : List Byte) : BitVec 256 := BitVec.ofNat 256 (leNat (bs ++ leBytes 2 (crc16 bs).toNat))
/-- A marker of a root at depth 0 that is 5 ns on. -/
def rootMarker (state depth epoch : Nat) : BitVec 256 :=
  sealed (leBytes 9 (5 * 1) ++ leBytes 1 (depth + 32 * state) ++ leBytes 1 epoch ++ leBytes 19 0)
def tensed (st : Nat) : State :=
  (((on.setFld (.portPhy 63) Fld.portPhyState 3).setFlag .tenseCtl Fld.tenseCtlEnable true).setFld .tenseStatus
    Fld.tenseStatusState st).setFld .tenseStatus Fld.tenseStatusParent (if st = 0 then 0x7F else 63)
def listed : State := (tensed 0).setFld .tenseParents (Fld.tenseParents 3) 63

theorem witness_tense_states : on.reaches .tenseCtl ∧ on.tenseEnabled = false ∧ (1 : BitVec 3).getLsbD 0 = true
    ∧ (on.setFlag .tenseCtl Fld.tenseCtlRoot true).reaches .tenseCtl
    ∧ (on.setFlag .tenseCtl Fld.tenseCtlRoot true).tenseEnabled = false
    ∧ on.clocksStopped = false ∧ (tensed 6).tenseState = 6 ∧ (tensed 6).carriesMarkers 63 = true
    ∧ markerGood (rootMarker 6 0 0) = true ∧ markerGood (rootMarker 6 0 0 ^^^ 1) = false
    ∧ listed.clocksStopped = false ∧ listed.carriesMarkers 63 = true ∧ listed.tenseEnabled = true
    ∧ blockField (rootMarker 6 17 0) 80 8 = listed.fld .tenseStatus Fld.tenseStatusEpoch ∧ listed.tenseState = 0
    ∧ markerGood (rootMarker 6 17 0) = true
    ∧ (listed.setNbr 63 (listed.hear 63 (rootMarker 6 17 0))).qualifies 63 = true ∧ (63 : Fin 66).val ∈ listed.parents
    ∧ (tensed 3).tenseState = 3 ∧ (tensed 3).parent = (63 : Fin 66).val ∧ (tensed 3).carriesMarkers 63 = true
    ∧ (tensed 3).tenseEnabled = true ∧ (tensed 3).clocksStopped = false
    ∧ blockField (rootMarker 4 31 0) 77 3 ∈ [3, 4, 6] ∧ markerGood (rootMarker 4 31 0) = true
    ∧ blockField (rootMarker 4 31 0) 80 8 = (tensed 3).fld .tenseStatus Fld.tenseStatusEpoch := by
  unfold State.reaches; decide +kernel

theorem witness_tense_losses :
    (let s := { (tensed 3).setNbr 63 ⟨1000, 0, 0, 3, 0, 0, 0, 0, 0, [], false⟩ with now := 5000 }
     s.nbr (63 : Fin 66).val = some ⟨1000, 0, 0, 3, 0, 0, 0, 0, 0, [], false⟩ ∧ 1000 + 4000 ≤ s.now ∧ s.clocksStopped = false
       ∧ s.parent = (63 : Fin 66).val ∧ s.tenseState = 3)
    ∧ (let s := { (tensed 4).updTense (fun t => { t with holdoverAt := 7 }) with now := 200007 }
       s.tenseState = 4 ∧ s.tense.holdoverAt + 200000 ≤ s.now)
    ∧ (let s := { ((tensed 4).setFlag .tenseCtl Fld.tenseCtlStandbyRoot true).updTense
          (fun t => { t with heardTick := some (3, 7) }) with now := 100007 }
       s.tense.heardTick = some (3, 7) ∧ s.tenseEnabled = true ∧ s.flag .tenseCtl Fld.tenseCtlStandbyRoot = true
       ∧ s.tenseState ≠ 6 ∧ 7 + 100000 ≤ s.now ∧ s.clocksStopped = false) := by decide +kernel

def quiesceAt (at' now : Nat) : State := { on.setReg .tenseQuiesce (BitVec.ofNat 64 at') with tense16 := 16 * now }
def bypassed : State := on.setFlag .ringStatus Fld.ringStatusBypassOpen true
theorem witness_quiesce : on.reaches .tenseQuiesce ∧ (quiesceAt 9 9).reg .tenseQuiesce ≠ 0
    ∧ ((quiesceAt 9 9).reg .tenseQuiesce).toNat ≤ (quiesceAt 9 9).tenseNow
    ∧ (let s := quiesceAt 9 (9 + on.boundNs 3)
       s.reg .tenseQuiesce ≠ 0 ∧ (s.reg .tenseQuiesce).toNat + s.boundNs 3 ≤ s.tenseNow ∧ s.net.txns = []
       ∧ s.ecqsDrained = true ∧ ∀ t, s.flag (.seqCtl t) Fld.seqCtlRun = false)
    ∧ bypassed.bypassOpen = true ∧ bypassed.clocksStopped = false
    ∧ (let s := { bypassed with now := 1001 }
       s.optics.helloAt + 1000 < s.now)
    ∧ on.clocksStopped = false ∧ deckleDie 0 ∉ on.downDies := by
  unfold State.reaches; decide +kernel

/-! Cells -/

/-- A last cell of some data from chip 5, die 8, for a die of this chip. -/
def cell (cls : Nat) (type : Nat) (d : Nat) (data : List Byte) : Cell :=
  ({ Cell.blank with
    srcChip := 5, srcDie := 8, dstDie := BitVec.ofNat 4 d, cls := BitVec.ofNat 3 cls, rank := 1
    type := BitVec.ofNat 6 type, job := 7, tag := 9, length := BitVec.ofNat 7 data.length, flags := 2
    payload := payloadOf data } : Cell)
theorem crcOf_crc (c : Cell) (v : W32) : ({ c with crc := v } : Cell).crcOf = c.crcOf := by
  simp only [Cell.crcOf, Cell.header]
/-- A sealed cell's CRC passes, and one with a bit of its CRC flipped does not. -/
theorem seal_crcGood (c : Cell) : c.seal.crcGood = true := by
  simp [Cell.seal, Cell.crcGood, crcOf_crc]
theorem flipped_crcGood (c : Cell) : ({ c with crc := c.crcOf ^^^ 1 } : Cell).crcGood = false := by
  simp only [Cell.crcGood, crcOf_crc, beq_eq_false_iff_ne, ne_eq]
  intro h
  have h := congrArg (c.crcOf ^^^ ·) h
  simp [← BitVec.xor_assoc] at h
def atNode : State := on.updNet (fun w => { w with outbox := [⟨7, 0, 39, cell 2 1 7 [], 0, 0⟩], meshCredit := [(meshKey 7 0 39, 3)] })

theorem witness_mesh : atNode.net.outbox.find? (fun e => e.folio = 7 && e.src = 0 && atNode.mayInject e) = some ⟨7, 0, 39, cell 2 1 7 [], 0, 0⟩
    ∧ atNode.clocksStopped = false ∧ (cell 2 1 7 []).cls ≠ 1
    ∧ atNode.creditsUsed ⟨7, 0, 39, cell 2 1 7 [], 0, 0⟩ = 3 := by decide +kernel

/-- Port 63 live, its neighbour chip 5, and folio 7 allowed job 7. -/
def linked : State :=
  (((on.setPortLive 63 true).setFld (.portPhy 63) Fld.portPhyFarChip 5).setReg (.allowList1 1) (7#64 <<< 48)).setFlag (.switchCtl 1)
    Fld.switchCtlCutThroughEn false
def inEgress (q : Fin 48) (c : Cell) : State :=
  ((([(9, 0), (9, 7), (9, 8)] : List (Die × Die)).foldl (fun s e => s.setFld (.feltLink (feltIndex e.1 e.2)) Fld.feltLinkState 2)
    linked).setLinkCredit 63 { linked.linkCredit 63 with granted := [(32, 1)] }).updXbar 1
    (fun x => { x with held := [⟨.egress q, c, .s2, some q, 0, false, 0, none, 0⟩] })

theorem witness_ingress : linked.clocksStopped = false ∧ deckleDie 1 ∉ linked.downDies ∧ linked.portLiveBit (portOf 1 31) = true
    ∧ linked.firstHopDrop (portOf 1 31) (cell 2 1 7 []).seal = false ∧ linked.firstHopCode 1 (cell 2 1 7 []).seal = none
    ∧ (linked.land (.core 1 31) (cell 2 1 7 []).seal).deckleCode 1 false (cell 2 1 7 []).seal = none
    ∧ linked.flag (.switchCtl 1) Fld.switchCtlCutThroughEn = false
    ∧ (∀ k, linked.flag (.mirrorCtl 1 k) Fld.mirrorCtlEnable = false) ∧ (∀ h ∈ (linked.xbar 1).held, h.point ≠ .ingress 31) := by decide +kernel
theorem witness_ingress_crc : (cell 2 1 7 []).seal.crcGood = true
    ∧ ({ cell 2 1 7 [] with crc := (cell 2 1 7 []).crcOf ^^^ 1 } : Cell).crcGood = false :=
  ⟨seal_crcGood _, flipped_crcGood _⟩

theorem witness_transmit : (∀ q ∈ [31, 32, 39, 40], (inEgress q (cell 2 1 7 [])).egressNext 1 q
      = some ⟨.egress q, cell 2 1 7 [], .s2, some q, 0, false, 0, none, 0⟩)
    ∧ (inEgress 31 (cell 2 1 7 [])).clocksStopped = false ∧ deckleDie 1 ∉ (inEgress 31 (cell 2 1 7 [])).downDies
    ∧ (cell 2 1 7 []).cls ≠ 6 := by decide +kernel

theorem crc32c_parts (a b c : List Byte) (x y : W32) (ha : a.foldl crcByte 0xFFFFFFFF = x) (hb : b.foldl crcByte x = y) :
    crc32c (a ++ b ++ c) = c.foldl crcByte y ^^^ 0xFFFFFFFF := by
  subst ha hb
  simp [crc32c]

/-- The first 20 bytes of a control block; `f` 1 is a remote fault, and the first reserved credit counters are 15. -/
def ctlHead (f : Nat) : List Byte := [0xB5, 0, BitVec.ofNat 8 f, 0, 0, 0, 0, 0] ++ List.replicate 12 0xFF
def ctlBlock (f crc : Nat) : BitVec 512 := BitVec.ofNat 512 (leNat (ctlHead f ++ List.replicate 40 0 ++ leBytes 4 crc))
theorem witness_control_block : (tensed 0).trained 63 = true
    ∧ (∀ e ∈ [(0, 4109237588), (1, 1100489632)], let b := ctlBlock e.1 e.2
      blockField b 0 8 = 0xB5 ∧ blockField b 16 1 = e.1 ∧ blockField b 64 4 = 15 ∧ blockField b (64 + 4 * 31) 4 = 0
      ∧ blockBytes 60 b = ctlHead e.1 ++ List.replicate 20 0 ++ List.replicate 20 0 ∧ blockField b 480 32 = e.2)
    ∧ blockField (ctlBlock 0 0 ^^^ 1) 0 8 ≠ 0xB5 := by
  decide +kernel
theorem witness_control_block_crc : (crc32c (ctlHead 0 ++ List.replicate 20 0 ++ List.replicate 20 0)).toNat = 4109237588
    ∧ (crc32c (ctlHead 1 ++ List.replicate 20 0 ++ List.replicate 20 0)).toNat = 1100489632 := by
  rw [crc32c_parts (ctlHead 0) _ _ 3922825001 853204541 (by decide +kernel) (by decide +kernel),
    crc32c_parts (ctlHead 1) _ _ 3870854402 1901428253 (by decide +kernel) (by decide +kernel)]
  decide +kernel

/-! Transactions -/

/-- The data of an operation: its two header words and what it carries. -/
def opData (off op len : Nat) (data : List Byte) : List Byte := leBytes 8 (off + op * 2 ^ 46) ++ leBytes 8 len ++ data

theorem witness_transaction_cell : (∀ e ∈ [(0, 2), (3, 5), (reamLimit - 8, 3), (reamLimit, 2)], let c := (cell e.2 1 7 (opData e.1 1 8 [1])).seal
      on.clocksStopped = false ∧ folioDie 7 ∉ on.downDies ∧ c.cls ≠ 1
      ∧ (on.land (.die 7) c).tooLate c = false ∧ (on.land (.die 7) c).endpointCode 7 c = none ∧ c.isLast = true ∧ c.seq = 0
      ∧ on.net.assemblies = [] ∧ on.net.dups = []
      ∧ (on.land (.die 7) c).addressCode 7 c (BitVec.ofNat 64 (leNat (c.data.take 8))) = none) := by decide +kernel

def txn (sends : Nat) : Txn := ⟨9, 9, .dma 191 31, [cell 2 1 7 []], 0, 0, sends, []⟩
def awaiting (sends : Nat) : State := on.updNet (fun w => { w with txns := [{ txn sends with cells := [{ cell 2 1 7 [] with dstChip := 5 }] }] })
theorem witness_replies : (awaiting 1).clocksStopped = false ∧ (9 : Die) ∉ (awaiting 1).downDies ∧ (awaiting 1).net.done = []
    ∧ (∀ e ∈ [(2, [1]), (3, 0x4A :: List.replicate 23 0)], let c := (cell 1 e.1 9 e.2).seal
      let u := (awaiting 1).land (.die 9) c
      c.cls = 1 ∧ u.tooLate c = false ∧ u.endpointCode 9 c = none ∧ c.isLast = true ∧ c.seq = 0
      ∧ (c.type = 3 ↔ e.1 = 3) ∧ u.txnFor 9 c = some { txn 1 with cells := [{ cell 2 1 7 [] with dstChip := 5 }] }
      ∧ u.net.txns.find? (fun t => t.die = 9 && decide (t.tag = c.tag.toNat))
        = some { txn 1 with cells := [{ cell 2 1 7 [] with dstChip := 5 }] }) := by decide +kernel

def held9 : Assembly := ⟨9, 5, 8, 9, [cell 2 1 7 []], []⟩
def recorded (now : Nat) : State :=
  let s := on.updNet (fun w => { w with assemblies := [held9], dups := [⟨9, 5, 8, 9, .reply [], 0, none⟩] })
  { s with tense16 := 16 * now }
theorem witness_expiries : let key : Cell := { Cell.blank with srcChip := 5, srcDie := 8, tag := 9 }
    let b := on.boundNs (on.scopeOf 5)
    (recorded (b + 1)).net.assemblies.find? (fun a => a.is 9 key) = some held9
    ∧ (recorded (b + 1)).boundNs ((recorded (b + 1)).scopeOf 5)
      < (recorded (b + 1)).recordAge ((recorded (b + 1)).earliest held9).1 ((recorded (b + 1)).earliest held9).2
    ∧ (recorded b).net.dups.find? (fun r => r.is 9 key) = some ⟨9, 5, 8, 9, .reply [], 0, none⟩
    ∧ (recorded b).boundNs ((recorded b).scopeOf 5) ≤ (recorded b).recordAge 0 none := by decide +kernel

theorem witness_timers :
    let t (n : Nat) : Txn := { txn n with cells := [{ cell 2 1 7 [] with dstChip := 5 }] }
    let u (n ns : Nat) : State := { awaiting n with now := on.txnTimer (t n), tense16 := 16 * ns }
    let b := on.boundNs (on.scopeOf (t 1).dstChip)
    (u 1 b).net.txns.find? (fun k => k.die = 9 && k.tag = (9 : Fin 65536).val) = some (t 1)
    ∧ (t 1).sentAt + (u 1 b).txnTimer (t 1) ≤ (u 1 b).now ∧ (t 1).sends < 2
    ∧ (t 1).cells.filter (fun c => decide ((u 1 b).ageOf c.depart ≤ (u 1 b).boundNs ((u 1 b).scopeOf (t 1).dstChip))) ≠ []
    ∧ ¬ ((9 : Die).val < 8 ∧ (t 1).dstChip = (u 1 b).chip ∧ (t 1).dstDie = 9) ∧ (u 1 b).clocksStopped = false
    ∧ (u 1 b).tenseNow ≤ (t 1).tense + (u 1 b).boundNs ((u 1 b).scopeOf (t 1).dstChip)
    ∧ (u 2 b).net.txns.find? (fun k => k.die = 9 && k.tag = (9 : Fin 65536).val) = some (t 2)
    ∧ (t 2).sentAt + (u 2 b).txnTimer (t 2) ≤ (u 2 b).now ∧ 2 ≤ (t 2).sends
    ∧ (t 2).tense + (u 2 b).boundNs ((u 2 b).scopeOf (t 2).dstChip) ≤ (u 2 b).tenseNow ∧ (u 2 b).net.done = [] := by
  decide +kernel

/-! Operations at a ream -/

def op7 (off code fmt len : Nat) (data : List Byte) (cls : Nat := 2) : ReadyOp :=
  ⟨7, BitVec.ofNat 64 (off + code * 2 ^ 46 + fmt * 2 ^ 52), BitVec.ofNat 64 len, data, BitVec.ofNat 3 cls, cell cls 1 7 [], 0, none⟩
/-- Folio 7 with that operation in front and its region 0 open: four FP32 elements at 0x100, slots at 0x1000. -/
def ops7 (o : ReadyOp) : State :=
  ((((on.updNet (fun w => { w with ready := [o] })).setFld (.regionState 7 0) Fld.regionStateState 1).setFld (.regionTarget 7 0)
    Fld.regionTargetOffset 0x100).setFld (.regionCount 7 0) Fld.regionCountCount 4).setFld (.regionSlot 7 0) Fld.regionSlotAddr 0x40

theorem witness_ream_operations : (∀ o ∈ [op7 (reamLimit - 8) 0 0 8 [], op7 (reamLimit - 8) 1 0 8 [1, 2, 3, 4, 5, 6, 7, 8],
      op7 0x808 8 0 8 [1, 2, 3, 4, 5, 6, 7, 8], op7 0x804 0x11 0 4 [1, 2, 3, 4, 5, 6, 7, 8], op7 0x804 0x12 0 4 [1, 2, 3, 4],
      op7 0x800 0x18 0 8 [1, 2, 3, 4, 5, 6, 7, 8], op7 0x802 0x19 1 2 [1, 2], op7 0x804 0x1A 12 4 [1, 2, 3, 4],
      op7 0x10C 0x20 0 4 [1, 2, 3, 4], op7 0x100 0x21 0 16 (List.replicate 16 0), op7 0x108 0x22 0 48 (List.replicate 48 0),
      op7 reamLimit 0 0 8 [], op7 (reamLimit + vatSize - 1) 1 0 2 [1, 2]],
      (ops7 o).headOp 7 = some o ∧ (ops7 o).clocksStopped = false ∧ (ops7 o).biasWaits 7 o.off o.length = false
      ∧ opStatus (ops7 o) 7 o = 0 ∧ (ops7 o).marks = []
      ∧ ∀ p ∈ vatParts 7 o.off o.length, ((ops7 o).tile p.1).inReset = false)
    ∧ (∀ o ∈ [op7 reamLimit 0 0 0 [], op7 (reamLimit - 8) 0 0 9 [], op7 0x804 8 0 8 [1, 2, 3, 4, 5, 6, 7, 8],
      op7 0x800 0x18 5 4 [1, 2, 3, 4], op7 0x110 0x20 0 4 [1, 2, 3, 4], op7 0x10C 1 0 4 [1, 2, 3, 4],
      op7 0x804 0x10 0 2 [1, 2]], (ops7 o).headOp 7 = some o ∧ opStatus (ops7 o) 7 o ≠ 0) := by decide +kernel

/-! Engine queues -/

def scrubbing (k : Nat) : State :=
  { on.setFlag (.reamScrub 31) Fld.reamScrubEnable true with scrubStep := if k = 0 then [] else [(31, k)] }
theorem witness_upkeep : ∀ k ∈ [0, scrubPass - 1], (scrubbing k).flag (.reamScrub 31) Fld.reamScrubEnable = true
    ∧ (scrubbing k).clocksStopped = false ∧ (scrubbing k).marks = [] ∧ Store.get (fun _ => 0) (scrubbing k).scrubStep 31 = k
    ∧ (scrubbing k).flag (.reamStatus 31) Fld.reamStatusSelfRefresh = false
    ∧ ((scrubbing k).setFlag (.reamStatus 31) Fld.reamStatusSelfRefresh true).flag (.reamStatus 31) Fld.reamStatusSelfRefresh = true := by
  decide +kernel
theorem witness_refresh : let key := (31 : Ream).val * 2048 + (2047 : Fin 2048).val
    Store.get (fun _ => 0) ({ on with postponed := [(key, 7)] } : State).postponed key < 8
    ∧ ¬ Store.get (fun _ => 0) ({ on with postponed := [(key, 8)] } : State).postponed key < 8 ∧ on.clocksStopped = false := by
  decide +kernel

/-- The words of a command: code, region, formats and flags from bit 8 up in `hi`, COUNT, offsets, row bytes and pitch. -/
def words (code hi count src dst rows pitch aux : Nat) : List W64 :=
  [BitVec.ofNat 64 (code + hi * 2 ^ 8 + count * 2 ^ 32), BitVec.ofNat 64 src, BitVec.ofNat 64 dst,
    BitVec.ofNat 64 (rows + pitch * 2 ^ 32), BitVec.ofNat 64 aux, 0, 0, 0x2000]
/-- Queue 15 of folio 7: its ring of 16 at 0x4000, its tail word at 0x100, enabled. -/
def ecq7 : State :=
  (((on.setFld (.ecqBase 7 15) Fld.ecqBaseAddr 0x100).setFld (.ecqTailAddr 7 15) Fld.ecqTailAddrAddr 0x20).setFld (.ecqSize 7 15)
    Fld.ecqSizeLog2 4).setFlag (.ecqCtl 7 15) Fld.ecqCtlEnable true
def tailed (n : Nat) : State := ecq7.writeMem (reamAddr 7 0x100) (leBytes 8 n)
def holding (ws : List W64) (done : Bool) : State := ecq7.setEcq 7 15 ⟨1, false, some ⟨ws, 0, done, 0, 0, 0, 0, false⟩⟩
def placed (ws : List W64) : State :=
  (ecq7.setEcq 7 15 ⟨1, false, none⟩).writeMem (reamAddr 7 0x4000) (ws.flatMap (fun w => leBytes 8 w.toNat))

theorem witness_engine_queue : on.reaches (.ecqCtl 7 15) ∧ on.flag (.ecqCtl 7 15) Fld.ecqCtlEnable = false
    ∧ Fld.ecqCtlEnable.get 1 = 1 ∧ Fld.ecqCtlEnable.get 2 = 0 ∧ on.flag (.ecqCtl 7 15) Fld.ecqCtlError = false ∧ on.marks = []
    ∧ on.readLe (reamAddr 7 (8 * on.fld (.ecqTailAddr 7 15) Fld.ecqTailAddrAddr)) 8 % 2 ^ 32
      ≤ 2 ^ on.fld (.ecqSize 7 15) Fld.ecqSizeLog2
    ∧ (∀ n ∈ [0, 16], (tailed n).enginesUp 7 = true ∧ (tailed n).marks = []
      ∧ (tailed n).flag (.ecqCtl 7 15) Fld.ecqCtlEnable = true
      ∧ (tailed n).readLe (reamAddr 7 (8 * (tailed n).fld (.ecqTailAddr 7 15) Fld.ecqTailAddrAddr)) 8 % 2 ^ 32 = n
      ∧ (n + 2 ^ 32 - (tailed n).fld (.ecqHead 7 15) Fld.ecqHeadIndex) % 2 ^ 32 ≤ 2 ^ (tailed n).fld (.ecqSize 7 15) Fld.ecqSizeLog2)
    ∧ (tailed 17).enginesUp 7 = true ∧ (tailed 17).flag (.ecqCtl 7 15) Fld.ecqCtlEnable = true
    ∧ ¬ (17 + 2 ^ 32 - (tailed 17).fld (.ecqHead 7 15) Fld.ecqHeadIndex) % 2 ^ 32 ≤ 2 ^ (tailed 17).fld (.ecqSize 7 15) Fld.ecqSizeLog2
    ∧ (tailed 17).net.ready = [] := by
  unfold State.reaches; decide +kernel

theorem witness_record_fetch : ∀ e ∈ [(words 0x0A 0 0 0 0 0 0 0, false), ((words 0x0A 0 0 0 0 0 0 0).take 7 ++ [0x2001], true)],
    let s := placed e.1
    let ws := (elements 8 (s.readMem (reamAddr 7 (64 * s.fld (.ecqBase 7 15) Fld.ecqBaseAddr)) 64)).map (fun b => BitVec.ofNat 64 (leNat b))
    s.enginesUp 7 = true ∧ s.marks = [] ∧ s.flag (.ecqCtl 7 15) Fld.ecqCtlEnable = true ∧ (s.ecq 7 15).run = none
    ∧ (s.ecq 7 15).tail ≠ s.fld (.ecqHead 7 15) Fld.ecqHeadIndex ∧ ws = e.1 ∧ badCpl s 7 (cmdOf ws) = e.2
    ∧ (s.ecq 7 15).unread = false ∧ s.host.flip = none := by decide +kernel
/-- A bias change of the whole of folio 7 holds its tail word, its ring and its completions. -/
theorem witness_engine_bias : let s := (tailed 0).updHost (fun h => { h with flip := some (7 * 131072, 131072, false) })
    s.biasWaits 7 (8 * s.fld (.ecqTailAddr 7 15) Fld.ecqTailAddrAddr) 8 = true
    ∧ s.biasWaits 7 (64 * s.fld (.ecqBase 7 15) Fld.ecqBaseAddr) 64 = true ∧ s.biasWaits 7 0x2000 32 = true
    ∧ (tailed 0).biasWaits 7 (8 * s.fld (.ecqTailAddr 7 15) Fld.ecqTailAddrAddr) 8 = false := by decide +kernel

theorem witness_command_complete : ∀ c ∈ [0x08, 0x0A], let r : EcqRun := ⟨words c 0 0 0 0 0 0 0, 0, true, 0, 0, 0, 0, false⟩
    let s := holding (words c 0 0 0 0 0 0 0) true
    (s.ecq 7 15).run = some r ∧ r.done = true ∧ s.flag (.ecqCtl 7 15) Fld.ecqCtlEvent = false
    ∧ s.enginesUp 7 = true ∧ s.marks = [] := by decide +kernel

/-- Region 1 of folio 7 open: one FP32 element at 0x9000, its slot at 0xA000. -/
def opened (s : State) : State :=
  (((s.setFld (.regionState 7 1) Fld.regionStateState 1).setFld (.regionTarget 7 1) Fld.regionTargetOffset 0x9000).setFld
    (.regionCount 7 1) Fld.regionCountCount 1).setFld (.regionSlot 7 1) Fld.regionSlotAddr 0x280
/-- Mask 0101 and indices 5, 2 at 0x5000; an optimizer's parameter block at 0x6000. -/
def stocked (s : State) : State :=
  (s.writeMem (reamAddr 7 0x5000) [5, 0, 0, 0, 2, 0, 0, 0]).writeMem (reamAddr 7 0x6000)
    (leBytes 8 0x10000 ++ leBytes 8 0x20000 ++ leBytes 8 0x30000 ++ leBytes 8 0x40000)

theorem witness_engine_commands : ∀ e ∈ [(0x01, words 0x01 0x1000 2 0x1000 0x1100 0 0 0),
      (0x02, words 0x02 0 2 0x8000 0x1000 8 16 0x5000), (0x03, words 0x03 0 2 0x1000 0x8000 8 16 0x5000),
      (0x04, words 0x04 0 4 0x8000 0x1000 8 16 0x5000), (0x05, words 0x05 (2 * 2 ^ 19) 4 0x1000 0x8000 8 16 0x5000),
      (0x08, words 0x08 2 1 0 0x1000 0 0 0xB000), (0x09, words 0x09 1 0 0 0 0 0 0), (0x0A, words 0x0A 1 0 0 0 0 0 0),
      (0x10, words 0x10 0 1 0 0 0 0 0x6000), (0x11, words 0x11 0 1 0 0 0 0 0x6000), (0x12, words 0x12 0 1 0 0 0 0 0x6000)],
    let s := stocked (opened (holding e.2 false))
    let c := cmdOf e.2
    (s.ecq 7 15).run = some ⟨e.2, 0, false, 0, 0, 0, 0, false⟩ ∧ s.enginesUp 7 = true ∧ s.biasWaits 7 0 reamLimit = false
    ∧ s.marks = [] ∧ c.code = e.1 ∧ c.badField = false ∧ (runCmd s 7 c).2.status = 0 := by decide +kernel
theorem witness_engine_conversion : let c := cmdOf (words 0x01 0x1000 2 0x1000 0x1100 0 0 0)
    Fmt.ofCode c.srcFmt = some .fp32 ∧ Fmt.ofCode c.dstFmt = some .bf16 ∧ Rm.ofCode c.rm = some .rne
    ∧ Fmt.bf16.width % 8 = 0 ∧ (cmdOf (words 0x05 (2 * 2 ^ 19) 4 0x1000 0x8000 8 16 0x5000)).flags.testBit 1 = true := by decide
theorem witness_closed_region : (ecq7.fld (.regionState 7 1) Fld.regionStateState ≠ 1)
    ∧ (opened ecq7).fld (.regionState 7 1) Fld.regionStateState = 1 := by decide +kernel

/-! ### Witnesses of the statements about collectives -/

/-- Group 5 on this chip 0 in state `st`: local members by mask, a ring of the groups 0, 1, …, `cap` chunks, job 7, key 0x77,
the tile set tile 0. -/
def team (mask len cap st : Nat) : State :=
  (((((((((on.setReg (.collShape 5) (BitVec.ofNat 64 (mask + len * 2 ^ 16 + cap * 2 ^ 40))).setReg (.ringTable 5 0) 0x10000).setReg
    (.collKey 5) 0x77).setFld (.collCtl 5) Fld.collCtlJob 7).setFld (.collStatus 5) Fld.collStatusState st).setReg
    (.collTiles0 5) 1).setReg (.allowList0 0) 7).setReg (.allowList0 1) 7).setFld (.collStage 5) Fld.collStageBytes
    (3 * 65600)).setFld (.collCtl 5) Fld.collCtlFeatures 0x7F
def inGroup (s : State) (f : Group → Group) : State := s.updGroup 5 f

/-- An entry of step 1: words 0 from its fields, SRC_OFF, DST_OFF, LENGTH, CPL_ADDR at 0x7000 of folio 0. -/
def entry (w0 src dst len : Nat) : Entry :=
  ⟨[BitVec.ofNat 64 (w0 + 2 ^ 32), 0, BitVec.ofNat 64 src, BitVec.ofNat 64 dst, BitVec.ofNat 64 len, 0, 0, 0, 0x7000], 0, 3, [],
    true, false, 0, false, 0⟩
def started (e : Entry) : Entry := { e with started := true }
/-- The group with entries in its queue, in the exchange of step 1. -/
def queuedIn (s : State) (es : List Entry) : State :=
  inGroup s (fun v => { v with queue := es, exchange := true, nextEntry := es.length })

/-- The words that COLL_CTL gets for an action. -/
def ctl5 : W64 := BitVec.ofNat 64 (3 * 2 ^ 5 + 7 * 2 ^ 8 + 0x7F * 2 ^ 32)
theorem witness_group_accepts : ∀ e ∈ [(Fld.collCtlCreate, 0, 0), (Fld.collCtlCreate, 1, 0), (Fld.collCtlCreate, 3, 0),
      (Fld.collCtlDestroy, 1, 5), (Fld.collCtlPreempt, 1, 2), (Fld.collCtlResume, 1, 3), (Fld.collCtlForceArrive, 1, 3)],
    (team e.2.1 1 1 e.2.2).accepts (.collCtl 5) (e.1.set ctl5 1) := by
  unfold State.accepts State.reaches; decide +kernel
theorem witness_group_reasons : ∀ e ∈ [(0, false), (1, true), (3, true)], let s := team e.1 1 1 0
    s.collState 5 = 0 ∧ s.earlyJoins = [] ∧ (s.allOthers 5 = [] ↔ e.1 ≠ 3)
    ∧ ((s.setReg (.collCtl 5) (s.stores (.collCtl 5) (Fld.collCtlCreate.set ctl5 1))).createReason 5 = 0 ↔ e.2 = true) := by
  decide +kernel
theorem witness_groups : (∀ f ∈ [Fld.collCtlCreate, Fld.collCtlDestroy, Fld.collCtlPreempt, Fld.collCtlResume,
      Fld.collCtlForceArrive], f.get ctl5 = 0) ∧ (team 1 1 1 5).collState 5 ≠ 0 ∧ (team 1 1 1 2).collState 5 = 2
    ∧ (team 1 1 1 3).collState 5 = 3 ∧ (team 1 1 1 3).collRuns 5 = true ∧ ((team 1 1 1 3).group 5).arrival = none
    ∧ ((team 1 1 1 3).group 5).exchange = false := by decide +kernel

/-- A cell from chip 1 or 16 that carries a whole collective transaction. -/
def msg (chip type die : Nat) (data : List Byte) : Cell :=
  { cell 3 type die data with srcChip := BitVec.ofNat 14 chip }
/-- The transaction of one cell at a deckle, age-checked. -/
def single (n : Deckle) (c : Cell) : Assembly := ⟨deckleDie n, c.srcChip, c.srcDie, c.tag, [c], []⟩
/-- The device once a cell has come to a deckle. -/
def come (s : State) (n : Deckle) (c : Cell) : State := (s.land (.die (deckleDie n)) c).wake (.deckle n)
theorem takes_of {s : State} {type : Nat} {n : Deckle} {c : Cell} {g : Coll} (hc : c.crcGood = true)
    (h : s.clocksStopped = false ∧ deckleDie n ∉ s.downDies ∧ c.cls = 3 ∧ c.type.toNat = type ∧ c.job ≠ 0 ∧
      (come s n c).tooLate c = false ∧ (come s n c).endpointCode (deckleDie n) c = none ∧
      (come s n c).discards (deckleDie n) type c = none ∧
      (come s n c).net.assemblies = [] ∧ (come s n c).net.dups = [] ∧ (come s n c).net.ready = [] ∧
      cellsWhole [c] = true ∧ (come s n c).ageChecked c = true ∧
      (come s n c).groupOf (bytesNat (cellsData [c]) 0 4) = some g ∧ c.job = (come s n c).collJob g) :
    s.takesColl type n c g (single n c) (come s n c) := by
  obtain ⟨h1, h2, h3, h4, hj, h5, h6, hd, h7, h8, hr, h9, h10, h11, h12⟩ := h
  refine ⟨h1, h2, h3, h4, hj, hc, h5, h6, hd, ?_, ?_, h11, h12⟩
  · change (come s n c).assemble (deckleDie n) c = _
    simp [State.assemble, State.occupying, State.assembling, State.newAssembly, State.stampCell, State.cameOf, h7, h8, hr, h9, h10,
      single]
  · intro r hr
    rw [h8] at hr
    cases hr

def joinOf (s : State) (round : Nat) : JoinMsg := ⟨0x77, 1, round, s.reg (.collShape 5) &&& 0xFFFFFF0007FFFFFF, 0x7F, 0, 7⟩
def joining : State := inGroup (team 3 1 1 1) (fun v => { v with joins := [joinOf (team 3 1 1 1) 0] })
def joinCell : Cell := (msg 1 0x08 8 (joining.joinData 5 1)).seal
theorem witness_join : joining.takesColl 0x08 0 joinCell 5 (single 0 joinCell) (come joining 0 joinCell) :=
  takes_of (seal_crcGood _) (by decide +kernel)
theorem witness_join_last : let joins := (joining.group 5).joins ++ [joinMsg joinCell (cellsData [joinCell])]
    joining.collState 5 = 1 ∧ (∀ k ∈ joins, k.chip ∈ joining.allOthers 5 → joining.joinAgrees 5 k = true)
    ∧ joining.strangeJoins 5 = []
    ∧ ∀ m ∈ joining.allOthers 5, (∃ k ∈ joins, k.chip = m ∧ k.round = 0) ∧ ∃ k ∈ joins, k.chip = m ∧ k.round = 1 := by
  decide +kernel
/-- A JOIN with other FEATURES. -/
def misfit : Cell := (msg 1 0x08 8 ((joining.setFld (.collCtl 5) Fld.collCtlFeatures 1).joinData 5 0)).seal
theorem witness_join_mismatch : joining.takesColl 0x08 0 misfit 5 (single 0 misfit) (come joining 0 misfit) :=
  takes_of (seal_crcGood _) (by decide +kernel)
theorem witness_join_differs : let j := joinMsg misfit (cellsData [misfit])
    joining.collState 5 = 1 ∧ j.chip ∈ joining.allOthers 5 ∧ joining.joinAgrees 5 j = false := by decide +kernel
theorem witness_create_timeout : let s := { (team 3 1 1 1).setFld (.collTimeout 5) Fld.collTimeoutCreateMs 2 with now := 2000000 }
    s.collState 5 = 1 ∧ (s.group 5).createdAt + 1000000 * s.fld (.collTimeout 5) Fld.collTimeoutCreateMs ≤ s.now := by decide +kernel

def unread (op : Nat) : State := inGroup (team 3 1 1 2) (fun v => { v with queue := [{ entry op 0 0x10000 8 with valid := false }] })
theorem witness_entries : (∀ e ∈ [(1, true), (2, false), (3, true)], ∃ x, ((unread e.1).group 5).candidate = some x ∧ x.number = 0
      ∧ (unread e.1).clocksStopped = false ∧ ((unread e.1).entryStatus 5 x ≠ 0 ↔ e.2 = true)) := by
  intro e he
  refine ⟨{ entry e.1 0 0x10000 8 with valid := false }, ?_⟩
  revert e
  decide +kernel

def arriving (thermal capped : Bool) : State :=
  inGroup (team 3 1 1 2) (fun v => { v with nextEntry := 1, tilesNow := [0], thermal := thermal, capped := capped })
theorem witness_arrival : ∀ b k, (arriving b k).collRuns 5 = true ∧ ((arriving b k).group 5).arrival = none
    ∧ ((arriving b k).group 5).exchange = false ∧ (arriving b k).arrivalReady 5 = true ∧ (arriving b k).clocksStopped = false
    ∧ ((arriving b k).group 5).thermal = b ∧ ((arriving b k).group 5).capped = k
    ∧ (arriving b k).tenseNow ≤ ((arriving b k).group 5).firstTense
    ∧ ((arriving b k).group 5).firstTense < { arriving b k with tense16 := 16 }.tenseNow
    ∧ ∀ t ∈ (arriving b k).tileSet 5, t ∈ ((arriving b k).group 5).tilesNow := by decide +kernel

def allHeld : State :=
  inGroup (team 3 1 1 2) (fun v => { v with nextEntry := 1, tilesNow := [0], heldAt := some 0, arrival := some ⟨1, 0, 0, 0, 0, false⟩ })
theorem witness_exchange : (allHeld.group 5).heldAt = some 0 ∧ (allHeld.group 5).arrival = some ⟨1, 0, 0, 0, 0, false⟩
    ∧ allHeld.collState 5 = 2 ∧ (allHeld.group 5).exchange = false ∧ allHeld.entryZero 5 = true
    ∧ (allHeld.group 5).firstTense ≤ allHeld.tenseNow ∧ (0 : Tile) ∈ allHeld.tileSet 5 ∧ (0 : Tile) ∈ (allHeld.group 5).tilesNow := by
  decide +kernel

theorem witness_starts : ∀ op ∈ [1, 2], let e := entry op 0 0x10000 8
    let s := queuedIn (team 3 1 1 2) [e]
    (s.group 5).queue = [e] ∧ s.mayStart 5 e = true ∧ e.op = op ∧ e.update = false ∧ s.clocksStopped = false := by decide +kernel

def arriveMsg (step : Nat) : Cell :=
  msg 1 0x09 8 ((team 3 1 1 2).arriveData 5 ⟨step, 1, 5, 1, 0, false⟩)
theorem witness_arrive_cell (k : Nat) (h : k ∈ [1, 2]) : (team 3 1 1 2).takesColl 0x09 0 (arriveMsg k).seal 5
    (single 0 (arriveMsg k).seal) (come (team 3 1 1 2) 0 (arriveMsg k).seal) :=
  takes_of (seal_crcGood _) (by revert k; decide +kernel)
theorem witness_arrive_step : ∀ k ∈ [1, 2], (team 3 1 1 2).currentStep 5 ≤ bytesNat (cellsData [(arriveMsg k).seal]) 4 4 := by
  decide +kernel

/-! Chunks: a reduce-scatter of FP32 whose elements are 1 in each shard, two members and rings of two -/

def rs : Entry := started (entry 1 0 0x10000 1)
def scatter (len : Nat) : State := queuedIn (team 3 len 1 2) [rs]
theorem witness_send_contrib : (∀ e ∈ [((0 : BitVec 14), 0), (1, 0), (1, 1)], let s := inGroup (scatter 2) (fun v =>
      { v with sentX := if e.2 = 0 then [] else [(e.1.toNat, e.2)] })
      s.collRuns 5 = true ∧ s.clocksStopped = false ∧ s.marks = [] ∧ s.rsEntry 5 = some rs ∧ rs.started = true
      ∧ (e.1.toNat = s.chip ∨ e.1.toNat ∈ s.localPeers 5) ∧ Store.get (fun _ => 0) (s.group 5).sentX e.1.toNat = e.2
      ∧ e.2 < s.accumCount 5 ∧ e.2 < 0 + 4 ∧ (s.group 5).base = 0 ∧ (s.freeTag (deckleDie s.engineDeckle)).isSome = true) := by
  decide +kernel
theorem witness_send_carry : ∀ x ∈ [1, 3], let s := inGroup (scatter 2) (fun v => { v with carries := [⟨x, x - 1, [1]⟩] })
    (s.group 5).carries.find? (fun c => decide (c.x < Store.get (fun _ => 0) (s.group 5).creditOf
      (rs.number * 2 ^ 14 + s.ringNext 5) + 4)) = some ⟨x, x - 1, [1]⟩ ∧ s.rsEntry 5 = some rs
    ∧ (s.freeTag (deckleDie s.engineDeckle)).isSome = true := by decide +kernel
def ag : Entry := started (entry 2 0 0x10000 1)
def gatherIn (len : Nat) (outs : List OutChunk) : State :=
  inGroup (queuedIn (team 3 len 1 2) [ag]) (fun v => { v with outChunks := outs })
def outChunk : OutChunk := ⟨0, 0, [1, 2], true, true, none⟩
theorem witness_send_chunks : (let s := gatherIn 2 []
      (s.group 5).queue.find? (fun e => decide (e.op = 2) && e.started && decide (e.step = s.currentStep 5)) = some ag
      ∧ (s.group 5).ownChunk < s.capChunks 5 ∧ s.chunkReady 5 ag (s.group 5).ownChunk = true ∧ ag.commit = false
      ∧ s.collRuns 5 = true ∧ s.clocksStopped = false ∧ s.marks = [])
    ∧ (let s := gatherIn 2 [outChunk]
       (s.group 5).outChunks.find? (fun o => o.toRing) = some outChunk ∧ s.roomFor 5 outChunk (s.ringNext 5) = true
       ∧ (s.freeTag (deckleDie s.engineDeckle)).isSome = true
       ∧ (s.group 5).outChunks.find? (fun o => o.toLocal) = some outChunk
       ∧ (∀ c ∈ s.localPeers 5, s.roomFor 5 outChunk c = true)
       ∧ (s.openCopies 5 s.engineDeckle outChunk (s.localPeers 5)).isSome = true) := by decide +kernel

/-- A chunk of step 1, entry 0, with its data. -/
def chunk (e : Entry) (shard rstep valid : Nat) (data : List Byte) : List Byte :=
  chunkBytes ⟨0x77, 1, 0, e.sig, shard, 0, rstep, 0, 0, valid, decide (valid = 0), false⟩ data
def contribMsg (x : Nat) : Cell := msg 1 0x0A (8 + x) (chunk rs ((scatter 2).shardOf 5 0 x) x 1 [0, 0, 0x80, 0x3F])
theorem witness_contrib_0 : (scatter 2).takesColl 0x0A 0 (contribMsg 0).seal 5 (single 0 (contribMsg 0).seal)
    (come (scatter 2) 0 (contribMsg 0).seal) := takes_of (seal_crcGood _) (by decide +kernel)
theorem witness_contrib_1 : (scatter 2).takesColl 0x0A 1 (contribMsg 1).seal 5 (single 1 (contribMsg 1).seal)
    (come (scatter 2) 1 (contribMsg 1).seal) := takes_of (seal_crcGood _) (by decide +kernel)
theorem witness_contrib_fits : ∀ x ∈ [0, 1], let bs := cellsData [(contribMsg x).seal]
    let h := chunkHeader bs
    let s := scatter 2
    chunkData bs = some [0, 0, 0x80, 0x3F] ∧ rs.valid = true ∧ s.namedEntry 5 h = some rs ∧ h.sig = rs.sig ∧ h.chunk < s.capChunks 5
    ∧ h.pad = decide (h.valid = 0) ∧ h.valid ≤ rs.perChunk ∧ s.marks = [] ∧ rs.op = 1
    ∧ (s.rsEntry 5).map Entry.number = some rs.number ∧ (s.group 5).base ≤ h.chunk * 2 + h.rstep
    ∧ h.chunk * 2 + h.rstep < (s.group 5).base + 4 ∧ s.ringLen 5 = 2 ∧ h.rstep < 2 ∧ h.chunk * 2 + h.rstep = x
    ∧ h.shard = s.shardOf 5 (s.rank 5) x ∧ h.seg = 0 ∧ h.esc = 0 ∧ (4 : Nat) = (h.valid * fmtWidth rs.inFmt + 7) / 8
    ∧ 1 ∈ s.localPeers 5 ∧ 1 ∉ ((s.group 5).accum x).came := by decide +kernel

def carryMsg (valid : Nat) : Cell :=
  msg 16 0x0B 9 (chunk rs ((scatter 2).shardOf 5 0 1) 1 valid (if valid = 0 then [] else leBytes 8 0x2540000040000001))
theorem witness_carry (v : Nat) (h : v ∈ [0, 1]) : (scatter 2).takesColl 0x0B 1 (carryMsg v).seal 5
    (single 1 (carryMsg v).seal) (come (scatter 2) 1 (carryMsg v).seal) :=
  takes_of (seal_crcGood _) (by revert v; decide +kernel)
theorem witness_carry_fits : ∀ v ∈ [0, 1], let bs := cellsData [(carryMsg v).seal]
    let h := chunkHeader bs
    let s := scatter 2
    let data := if v = 0 then [] else leBytes 8 0x2540000040000001
    let i' : CarryIn := ⟨h.valid, h.esc, [(h.seg, data)]⟩
    chunkData bs = some data ∧ s.namedEntry 5 h = some rs ∧ h.sig = rs.sig ∧ 0 < h.rstep ∧ 1 < s.ringLen 5 ∧ 16 = s.ringPrev 5
    ∧ ((s.group 5).accum 1).carried = false ∧ ((s.group 5).accum 1).carry = none ∧ rs.redop = 0
    ∧ h.seg < segCount true h.valid h.esc ∧ data.length = (if h.valid = 0 then 0 else segLength true h.valid h.esc h.seg)
    ∧ (∀ b ∈ elements 8 data, decodeCarry (BitVec.ofNat 64 (leNat b)) ≠ .invalid)
    ∧ i'.segs.length = segCount true i'.valid i'.esc
    ∧ (({ (s.group 5).accum 1 with carry := some i' } : Accum).applyCarry rs i').isSome = true := by decide +kernel

def gatherMsg (v : Nat) : Cell := msg 1 0x0C 9 (chunk ag 1 0 v (if v = 0 then [] else [0, 0, 0x80, 0x3F]))
theorem witness_gather (v : Nat) (h : v ∈ [0, 1]) : (gatherIn 1 []).takesColl 0x0C 1 (gatherMsg v).seal 5
    (single 1 (gatherMsg v).seal) (come (gatherIn 1 []) 1 (gatherMsg v).seal) :=
  takes_of (seal_crcGood _) (by revert v; decide +kernel)
theorem witness_gather_fits : ∀ v ∈ [0, 1], let bs := cellsData [(gatherMsg v).seal]
    let h := chunkHeader bs
    let s := gatherIn 1 []
    let data : List Byte := if v = 0 then [] else [0, 0, 0x80, 0x3F]
    chunkData bs = some data ∧ ag.valid = true ∧ s.namedEntry 5 h = some ag ∧ h.sig = ag.sig ∧ h.rstep = 0
    ∧ h.pad = decide (h.elems = 0) ∧ h.elems ≤ ag.perChunk ∧ h.chunk < s.capChunks 5 ∧ s.marks = [] ∧ h.shard < s.memberCount 5
    ∧ data.length = (h.elems * fmtWidth ag.inFmt + 7) / 8 ∧ h.shard / 1 = s.localRank 5 (1 % 16) ∧ ag.commit = false
    ∧ (s.group 5).written = [] ∧ (s.group 5).stage = [] ∧ 9 = 8 + (h.shard * s.capChunks 5 + h.chunk) % 2
    ∧ ag.outFmt = ag.inFmt ∧ fmtWidth ag.inFmt % 8 = 0 := by decide +kernel

/-- R367: a full chunk of a 4-bit format, 131,072 elements, has VALID 0 without PAD. -/
theorem test_full_chunk : let h : ChunkHeader := ⟨0x77, 1, 0, 0, 1, 0, 0, 0, 0, 0, false, false⟩
    h.elems = 131072 ∧ { h with pad := true }.elems = 0 := by decide
def creditMsg : Cell := msg 1 0x0D 8 ((scatter 1).creditData 5 255 3)
theorem witness_credit : (scatter 1).takesColl 0x0D 0 creditMsg.seal 5 (single 0 creditMsg.seal)
    (come (scatter 1) 0 creditMsg.seal) := takes_of (seal_crcGood _) (by decide +kernel)
theorem witness_credit_step : bytesNat (cellsData [creditMsg.seal]) 4 4 = (scatter 1).currentStep 5 := by decide +kernel

/-- Accumulation `x` with both contributions, and the carry where it takes one. -/
def fullAccum (x : Nat) : Accum := { Accum.fresh x with came := [0, 1], valid := 1, sum := [LongAcc.clear], carried := decide (x = 1) }
theorem witness_finish : ∀ x ∈ [0, 1], let s := inGroup (scatter 2) (fun v => { v with accums := [fullAccum x] })
    s.rsEntry 5 = some rs ∧ (s.group 5).accums.find? (fun a => a.x = x) = some (fullAccum x) ∧ s.collRuns 5 = true
    ∧ s.clocksStopped = false ∧ s.marks = [] ∧ (fullAccum x).finished = false ∧ s.accumFull 5 (fullAccum x) = true
    ∧ s.ringLen 5 = 2 ∧ (fullAccum x).valid ≠ 0 ∧ fmtWidth rs.outFmt % 8 = 0 := by decide +kernel
/-- The fused update of R372: an SGDM template at 0x3000, its parameter block at 0x6000. -/
def fused : State :=
  inGroup (((queuedIn (team 3 1 1 2) [{ rs with words := rs.words.set 5 0x3000 }]).writeMem (reamAddr 0 0x3000) (leBytes 8 0x10 ++
    List.replicate 24 0 ++ leBytes 8 0x6000)).writeMem (reamAddr 0 0x6000) (leBytes 8 0x10000 ++ leBytes 8 0x20000 ++ leBytes 8 0x30000))
    (fun v => { v with accums := [{ fullAccum 0 with finished := true, updating := true }] })
theorem witness_fused : let e := { rs with words := rs.words.set 5 0x3000 }
    let t := cmdOf ((elements 8 (fused.readMem (reamAddr 0 e.updOff) 64)).map (fun b => BitVec.ofNat 64 (leNat b)))
    let k := { t with count := 1 }
    fused.rsEntry 5 = some e
    ∧ (fused.group 5).accums.find? (fun a => a.x = 0) = some { fullAccum 0 with finished := true, updating := true }
    ∧ fused.collRuns 5 = true ∧ fused.clocksStopped = false ∧ fused.marks = [] ∧ k.badField = false
    ∧ k.code ∈ [0x10, 0x11, 0x12] ∧ (runOptimizerAt fused 0 k (0 / max 1 (fused.ringLen 5) / 8 * e.perChunk)).2.status = 0 := by
  decide +kernel
theorem witness_slot_free : ∀ o ∈ [none, some (⟨0, gatherMsg 1, 0, none⟩ : Owed)],
    let s := inGroup (scatter 1) (fun v => { v with stage := [⟨2, 0, 1, 9, o⟩], outChunks := [outChunk] })
    (s.group 5).stage.find? (fun q => q.slot = 2) = some ⟨2, 0, 1, 9, o⟩ ∧ s.clocksStopped = false
    ∧ ∀ o ∈ (s.group 5).outChunks, o.slot ≠ some 2 := by decide +kernel

/-! The end of a step -/

def cm : Entry := started (entry (2 + 2 ^ 17) 0 0x10000 1)
def digesting (own : Option (BitVec 256)) : State := inGroup (queuedIn (team 3 1 1 2) [cm]) (fun v => { v with digest := own })
def digestMsg : Cell := msg 1 0x0E 8 ((digesting none).digestData 5 0xABC false false)
theorem witness_digest (o : Option (BitVec 256)) (h : o ∈ [none, some 0xABC]) : (digesting o).takesColl 0x0E 0 digestMsg.seal 5
    (single 0 digestMsg.seal) (come (digesting o) 0 digestMsg.seal) := by
  apply takes_of (seal_crcGood _)
  rcases List.mem_cons.1 h with rfl | h
  · decide +kernel
  · rcases List.mem_singleton.1 h with rfl
    decide +kernel
theorem witness_digest_agrees : let s := digesting (some 0xABC)
    let bs := cellsData [digestMsg.seal]
    let d : DigestMsg := ⟨bytesNat bs 4 4, 1, BitVec.ofNat 256 (beNat ((bs.drop 16).take 32)), (bytesNat bs 8 8).testBit 0,
      (bytesNat bs 8 8).testBit 1⟩
    d.step = s.currentStep 5 ∧ (s.group 5).digest = some 0xABC
    ∧ (s.group 5).queue.find? (fun e => e.commit && e.started && decide (e.step = s.currentStep 5)) = some cm
    ∧ s.counterparts 5 = [] ∧ s.localPeers 5 = [1] ∧ d.sender = 1 ∧ d.summary = false ∧ (s.group 5).digests = [] ∧ d.digest = 0xABC
    ∧ ((digesting none).group 5).digest = none := by decide +kernel

def abortMsg (kind : Nat) : Cell := msg 1 0x0F 8 ((scatter 1).abortData 5 kind 0x29)
theorem witness_abort (k : Nat) (h : k ∈ [0, 1]) : (scatter 1).takesColl 0x0F 0 (abortMsg k).seal 5
    (single 0 (abortMsg k).seal) (come (scatter 1) 0 (abortMsg k).seal) :=
  takes_of (seal_crcGood _) (by revert k; decide +kernel)
theorem witness_abort_kind : (∀ k ∈ [0, 1], bytesNat (cellsData [(abortMsg k).seal]) 8 8 = k
      ∧ bytesNat (cellsData [(abortMsg k).seal]) 4 4 = (scatter 1).currentStep 5) ∧ (scatter 1).collRuns 5 = true
    ∧ (∃ e ∈ ((scatter 1).group 5).queue, e.step = (scatter 1).currentStep 5) := by decide +kernel
theorem witness_step_timeout : let s := { (allHeld.setFld (.collTimeout 5) Fld.collTimeoutStepUs 3) with tense16 := 16 * 3000 }
    s.collRuns 5 = true ∧ s.entryZero 5 = true ∧ s.clocksStopped = false
    ∧ max (s.group 5).firstTense (((s.group 5).arrival.map ArriveMsg.tense).getD 0)
      + 1000 * s.fld (.collTimeout 5) Fld.collTimeoutStepUs ≤ s.tenseNow := by decide +kernel
theorem witness_completion : ∀ st ∈ [0, 0x27], let r : Ended := ⟨rs, st, false, 0, 0, false, false, ArriveMsg.none⟩
    let s := inGroup on (fun v => { v with ended := [r] })
    (s.group 5).ended = [r] ∧ s.clocksStopped = false ∧ s.marks = [] ∧ r.entry.cplBad s.chip = false := by decide +kernel

/-! ### Witnesses of the statements about ports, lanes, light and heat -/

/-- Port 63 at a bring-up step `n` since time 0, in PORT_PHY state `st`, in PORT_MODE `m`. -/
def port63 (st n m : Nat) : State :=
  (((on.setFld (.portPhy 63) Fld.portPhyState st).setFld (.portMode 1) ⟨62, 2⟩ m).updPort 63 (fun r => { r with step := n }))
def atTime (s : State) (t : Nat) : State := { s with now := t }

theorem witness_port_bringup : (port63 0 0 1).portUp 63 = true ∧ (port63 0 0 1).portMode 63 = 1 ∧ ((port63 0 0 1).port 63).step = 0
    ∧ (port63 0 0 1).phyState 63 = 0
    ∧ (∀ st ∈ [1, 5], (atTime (port63 st 0 1) 100000000).phyState 63 = st ∧ (atTime (port63 st 0 1) 100000000).portUp 63 = true
      ∧ ((atTime (port63 st 0 1) 100000000).port 63).downAt + 100000000 ≤ (atTime (port63 st 0 1) 100000000).now)
    ∧ (∀ n ∈ [1, 2, 3, 4], ((port63 1 n 1).port 63).step = n ∧ ¬ ((port63 1 n 1).portMode 63 = 2 ∧ ((port63 1 n 1).port 63).step = 2)
      ∧ ((port63 1 n 1).port 63).since + stepLimit n ≥ (atTime (port63 1 n 1) (stepLimit n)).now
      ∧ ((port63 1 n 1).port 63).since + stepLimit n < (atTime (port63 1 n 1) (stepLimit n + 1)).now)
    ∧ ((port63 1 2 2).port 63).since + stepLimit 2 ≥ (port63 1 2 2).now
    ∧ (port63 1 2 2).portMode 63 = 2 ∧ ((port63 1 2 2).port 63).step = 2
    ∧ (∀ n ∈ [1, 2, 3, 4, 5], let s := atTime (port63 1 n 1) (stepLimit n)
      s.portUp 63 = true ∧ (s.port 63).step = n ∧ (s.port 63).since + stepLimit (s.port 63).step ≤ s.now) := by decide +kernel

/-- The 60 bytes of an identity block of chip 5, in three parts. -/
def identHead : List Byte := [0xB6, 5] ++ List.replicate 18 0
def identOf (crc : Nat) : BitVec 512 := BitVec.ofNat 512 (leNat (identHead ++ List.replicate 40 0 ++ leBytes 4 crc))
theorem witness_identity : ((port63 1 5 1).port 63).step = 5 ∧ (port63 1 5 1).portUp 63 = true
    ∧ blockField (identOf 1532549133) 0 8 = 0xB6 ∧ blockField (identOf 1532549133) 480 32 = 1532549133
    ∧ blockBytes 60 (identOf 1532549133) = identHead ++ List.replicate 20 0 ++ List.replicate 20 0 := by decide +kernel
theorem witness_identity_crc : (crc32c (identHead ++ List.replicate 20 0 ++ List.replicate 20 0)).toNat = 1532549133 := by
  rw [crc32c_parts identHead _ _ 4140545688 4096553445 (by decide +kernel) (by decide +kernel)]
  decide +kernel
theorem witness_recheck : let s := atTime ((port63 2 0 1).setFld (.portPhy 63) Fld.portPhyFailReason 4) 1000000000
    s.portUp 63 = true ∧ s.refused 63 = true ∧ (s.port 63).checkedAt + 1000000000 ≤ s.now := by decide +kernel
def admissible : State :=
  ((port63 2 0 1).updPort 63 (fun r => { r with identified := true })).setFlag (.portAdmit 63) Fld.portAdmitEnable true
theorem witness_admission : let s := admissible
    s.portUp 63 = true ∧ s.phyState 63 = 2 ∧ (s.port 63).identified = true ∧ s.flag (.portAdmit 63) Fld.portAdmitEnable = true
    ∧ s.flag (.portViol 63) Fld.portViolQuarantined = false ∧ s.portMode 63 = 1 ∧ s.tenseLocked = true ∧ s.devMode ≠ 2 := by
  decide +kernel
theorem witness_port_writes : on.accepts (.portAdmit 63) 0 ∧ on.accepts (.portAdmit 63) 1
    ∧ on.accepts (.portMode 1) 0x5555555555555555 ∧ on.reaches (.portViol 63) ∧ mayRelease .host = true
    ∧ mayRelease .island = false := by
  unfold State.accepts State.reaches; decide +kernel
theorem witness_loss_of_frame : ∀ st ∈ [2, 3], (port63 st 0 1).clocksStopped = false ∧ (port63 st 0 1).phyState 63 = st
    ∧ ¬ ((port63 0 0 1).phyState 63 = 2 ∨ (port63 0 0 1).phyState 63 = 3) := by decide +kernel

/-- Port 63 live with its lanes mapped to 0-7 and a spare. -/
def laned (spare : Nat) : State :=
  let s := ((port63 3 0 1).setPortLive 63 true).setReg (.laneMapRx 63) 0x76543210
  let s := (s.setFld (.laneMapRx 63) Fld.laneMapTxSpare spare).setReg (.laneMapTx 63) 0x76543210
  s.setFld (.laneMapTx 63) Fld.laneMapTxSpare spare
theorem witness_lane_fault : ∀ sp ∈ [8, 0xF], (laned sp).trained 63 = true ∧ (laned sp).laneOf (.laneMapRx 63) 7 = some 7
    ∧ (∀ k < 9, ((0x80 : BitVec 34).getLsbD k = true ∧ ((laned sp).laneOf (.laneMapRx 63) k).isSome = true) ↔ k = 7)
    ∧ (laned sp).spareOf (.laneMapRx 63) = sp ∧ (0x80 : BitVec 34).getLsbD 8 = false ∧ ((laned sp).port 63).recal = none
    ∧ ((laned sp).port 63).rxCal = none := by
  decide +kernel
theorem witness_lane_loss : (∀ k < 9, ((0x180 : BitVec 34).getLsbD k = true ∧ ((laned 8).laneOf (.laneMapRx 63) k).isSome = true) ↔ k = 7)
    ∧ (0x180 : BitVec 34).getLsbD ((laned 8).spareOf (.laneMapRx 63)) = true
    ∧ (let s := (laned 8).updPort 63 (fun r => { r with recal := some 3, rxCal := some 8 })
       (s.port 63).recal.isSome = true ∧ (s.port 63).paused = false ∧ (s.port 63).rxCal.isSome = true)
    ∧ (0x81 : BitVec 34).getLsbD 0 = true ∧ (0x81 : BitVec 34).getLsbD 7 = true
    ∧ ((laned 8).laneOf (.laneMapRx 63) 0).isSome = true := by decide +kernel
def felt (st : Nat) : State := on.setFld (.feltLink 44) Fld.feltLinkState st
/-- No spare, one spare and both spares for the lanes lost: an idle spare, two lanes, three lanes. -/
theorem witness_felt_lanes : (felt 2).clocksStopped = false ∧ 2 ≤ (felt 2).fld (.feltLink 44) Fld.feltLinkState
    ∧ (felt 2).feltDir 44 true = ⟨[], [32, 33]⟩
    ∧ (∀ e ∈ [((0x200000000 : BitVec 34), 0), (0x3, 2), (0x7, 3)],
      ((lanesOf e.1.toNat 34).filter (fun l => decide (l ∉ [32, 33]))).length = e.2)
    ∧ (0 : Fin 34).val ∉ ((felt 2).feltDir 44 true).down ∧ (0 : Fin 34).val ∉ 32 :: [33]
    ∧ (felt 3).fld (.feltLink 44) Fld.feltLinkState = 3 ∧ 1280 < (1281 : BitVec 24).toNat := by decide +kernel
theorem witness_fault_time : let s := atTime ((port63 4 0 1).updPort 63 (fun r => { r with faultAt := some 7 })) 20007
    s.phyState 63 = 4 ∧ (s.port 63).faultAt = some 7 ∧ 7 + 20000 ≤ s.now := by decide +kernel
theorem witness_recalibration :
    let due := ((laned 8).setFlag .optCtl Fld.optCtlRecalEn true).updPort 63 (fun r => { r with recalDue := true })
    let rx := (laned 8).updPort 63 (fun r => { r with rxCal := some 8 })
    let again := ((laned 8).updPort 63 (fun r => { r with rxCal := some 8, retry := some 8 })).port 63
    let halted := ((laned 8).setFlag .optCtl Fld.optCtlRecalEn true).updPort 63 (fun r => { r with recal := some 3, paused := true })
    let tx (k : Nat) (c : Option Nat) := (laned 8).updPort 63 (fun r => { r with recal := some k, swept := c })
    let barred (k : Nat) := (tx k (some 5)).updLine 8 (fun l => { l with ramp := some 0 })
    due.trained 63 = true ∧ due.flag .optCtl Fld.optCtlRecalEn = true ∧ (due.port 63).recal = none ∧ due.recalIsDue 63 = true
    ∧ due.recalAllowed 63 = true ∧ rx.trained 63 = true ∧ (rx.port 63).rxCal = some 8
    ∧ (rx.port 63).retry ≠ some 8 ∧ again.rxCal = some 8 ∧ again.retry = some 8 ∧ 64 < (65 : BitVec 32).toNat
    ∧ halted.flag .optCtl Fld.optCtlRecalEn = true ∧ halted.recalAllowed 63 = true ∧ (halted.port 63).recal = some 3
    ∧ (halted.port 63).paused = true ∧ (halted.port 63).txSwap = none ∧ halted.trained 63 = true
    ∧ (halted.updLine 8 (fun l => { l with ramp := some 0 })).recalAllowed 63 = false
    ∧ (laned 0xF).spareOf (.laneMapRx 63) = 0xF ∧ (laned 0xF).laneOf (.laneMapRx 63) 8 = none
    ∧ ((laned 0xF).fld (.laneMapRx 63) Fld.laneMapRxRetired).testBit 8 = false
    ∧ ∀ k ∈ [0, 8], ∀ c ∈ [none, some 5], (tx k c).trained 63 = true ∧ ((tx k c).port 63).recal = some k
      ∧ ((tx k c).port 63).paused = false ∧ (tx k c).spareOf (.laneMapTx 63) < 9 ∧ ((tx k c).port 63).txSwap = none
      ∧ ((tx k c).port 63).swept = c ∧ (tx k c).recalAllowed 63 = true ∧ (barred k).recalAllowed 63 = false := by decide +kernel
def twinned (st : Nat) : State :=
  (on.setFld (.twinStatus 3) Fld.twinStatusState st).setTwin 7 [⟨0, 3, vatSize - 2, [1, 2]⟩]
theorem witness_twin : (twinned 1).fld (.twinStatus 3) Fld.twinStatusState = 1 ∧ (twinned 1).clocksStopped = false
    ∧ twinAgree 4 4 = true ∧ twinAgree 9 9 = true ∧ twinAgree 4 3 = false ∧ twinAgree 0 0 = false ∧ twinAgree 5 5 = false
    ∧ twinAgree (twinLimit 3 4) (twinLimit 3 3) = true ∧ twinAgree (twinLimit 3 2) (twinLimit 3 4) = false
    ∧ Store.get (fun _ => 0) (twinned 2).optics.twinSeq 7 = 0 ∧ ([1, 2] : List Byte).length ≤ vatSize
    ∧ (twinned 2).twin 7 = [⟨0, 3, vatSize - 2, [1, 2]⟩] ∧ (twinned 2).fld (twinStatusOf 7) Fld.twinStatusState = 2
    ∧ ((twinned 2).tile (Fin.ofNat 192 (((7 : Folio).val ^^^ 1) * 24 + tileNum 0))).inReset = false ∧ (twinned 2).marks = [] := by
  decide +kernel
/-- R412: the tile that was served goes behind the other, and keeps the order of its own blocks. -/
theorem test_twin_turns :
    let s := ((on.setFld (.twinStatus 3) Fld.twinStatusState 2).updTile 144 (fun x => { x with inReset := true })).setTwin 7
      [⟨168, 3, 0, [1]⟩, ⟨168, 3, 1, [2]⟩, ⟨169, 3, 0, [3]⟩]
    (doTwinBlock 7 true s).twin 7 = [⟨169, 3, 0, [3]⟩, ⟨168, 3, 1, [2]⟩] := by decide +kernel

/-- Line 8 in LINE_DRIVE state `st`, its record as given, COMMISSION 500. -/
def line8 (st : Nat) (r : LineRec) : State :=
  ((((on.setFld (.lineDrive 8) Fld.lineDriveState st).setFld (.linePower 8) Fld.linePowerCommission 500).setFld (.lineDrive 8)
    Fld.lineDrivePrimaryMa 90).setFlag .optCtl Fld.optCtlChangeoverEn true).updLine 8 (fun _ => r)
theorem witness_line_power : (line8 0 LineRec.reset).lineState 8 = 0 ∧ ((line8 0 LineRec.reset).line 8).dueAt = none
    ∧ (line8 0 LineRec.reset).fld (.lineDrive 8) Fld.lineDrivePrimaryMa = (90 : BitVec 16).toNat
    ∧ (350 : Int) ≤ (line8 0 LineRec.reset).power 8 Fld.linePowerCommission - 150
    ∧ ((100 : BitVec 16) ≠ 0 ∧ (100 : BitVec 16).toNat * 9 ≤ (90 : BitVec 16).toNat * 10) := by decide +kernel
theorem witness_changeover : (let s := line8 0 ⟨some 0, none, 0, 0, none⟩
      s.clocksStopped = false ∧ (s.line 8).dueAt = some 0 ∧ s.flag .optCtl Fld.optCtlChangeoverEn = true
      ∧ (s.line 8).ramp = none ∧ s.lineState 8 = 0 ∧ s.standbyFailed 8 = false
      ∧ s.power 8 Fld.linePowerPower ≤ s.power 8 Fld.linePowerCommission - 300
      ∧ 0 + 1000000000 * s.fld .optCtl Fld.optCtlGapWaitS
        ≤ (atTime s (1000000000 * s.fld .optCtl Fld.optCtlGapWaitS)).now)
    ∧ ∀ k ∈ [0, 63], let s := atTime (line8 1 ⟨none, some k, 0, 0, none⟩) 10000
      (s.line 8).ramp = some k ∧ k < 64 ∧ (s.line 8).rampAt + 10000 ≤ s.now ∧ s.clocksStopped = false
      ∧ ¬ (s.fld (.lineDrive 8) Fld.lineDriveMaxMa * 9 ≤ (0 : BitVec 16).toNat * 10 ∧ (0 : BitVec 16).toInt < (s.line 8).level - 25)
      ∧ (let s := atTime (line8 1 ⟨none, some k, 0, 500, none⟩) 10000
         s.fld (.lineDrive 8) Fld.lineDriveMaxMa * 9 ≤ (0 : BitVec 16).toNat * 10 ∧ (0 : BitVec 16).toInt < (s.line 8).level - 25)
      ∧ (let s := atTime (line8 2 ⟨none, some 64, 0, 0, none⟩) 100000
         (s.line 8).ramp = some 64 ∧ (s.line 8).rampAt + 100000 ≤ s.now
         ∧ (-26 : BitVec 16).toInt < (s.line 8).level - 25) := by
  decide +kernel
theorem witness_line_lost : ((line8 0 LineRec.reset).line 8).recoverAt = none ∧ (line8 0 LineRec.reset).lineState 8 ≠ 2
    ∧ (line8 0 LineRec.reset).lineState 8 ≠ 3 ∧ (line8 2 LineRec.reset).lineState 8 = 2
    ∧ (line8 0 LineRec.reset).standbyFailed 8 = false
    ∧ ((line8 2 LineRec.reset).line 8).recoverAt = none
    ∧ (let a : Vector (BitVec 16) 8 := Vector.replicate 8 (BitVec.ofInt 16 (-101))
       let b : Vector (BitVec 16) 8 := Vector.replicate 8 (BitVec.ofInt 16 (-100))
       (line8 0 LineRec.reset).lineDark 8 a a = true ∧ (line8 0 LineRec.reset).lineDark 8 a b = false
       ∧ (line8 0 LineRec.reset).lineDark 8 b a = false)
    ∧ ((line8 0 LineRec.reset).setFld .lsmStatus Fld.lsmStatusStandbyFailed 0x100).standbyFailed 8 = true
    ∧ (let s := atTime (line8 0 ⟨none, none, 0, 0, some 7⟩) 2000007
       (s.line 8).recoverAt = some 7 ∧ 7 + 2000000 ≤ s.now ∧ s.clocksStopped = false) := by decide +kernel
theorem witness_comb : 2 * (9 : Die).val + (1 : Fin 2).val ∉ on.optics.combFailed
    ∧ 2 * (9 : Die).val + 1 - (1 : Fin 2).val ∈ (on.updOptics (fun o => { o with combFailed := [18] })).optics.combFailed
    ∧ 2 * (9 : Die).val + (1 : Fin 2).val ∉ (on.updOptics (fun o => { o with combFailed := [18] })).optics.combFailed := by
  decide +kernel

/-! ### Witnesses of the statements about the host -/

/-- Features negotiated, queue 3 of 64 entries at 0, its tail at 64. -/
def hosted : State :=
  ((on.setReg (.featEnabled 0) 0x1F).setFlag .featCtl Fld.featCtlDone true).setFld (.hqSqSize 3) Fld.hqSqSizeLog2 6
/-- The queue runs with HEAD and tail; `loc` 1 lies in the device. -/
def hq3 (loc head tail : Nat) : State :=
  let s := (hosted.setReg (.hqCtl 3) (BitVec.ofNat 64 (1 + 2 * loc))).setFld (.hqHead 3) Fld.hqHeadIndex head
  s.updHost (fun h => { h with tails := [(3, tail)] })
def withLaunch (s : State) (l : Launch) : State :=
  s.updHost (fun h => { h with launches := [l], queues := if l.parts = [] then [] else [(0, [l.id])] })

theorem witness_hq_accepts : ∀ loc ∈ [0, 1], hosted.accepts (.hqCtl 3) (BitVec.ofNat 64 (1 + 2 * loc)) := by
  unfold State.accepts State.reaches; decide +kernel
theorem witness_hq_enable : hosted.flag (.hqCtl 3) Fld.hqCtlEnable = false ∧ Fld.hqCtlEnable.get 3 = 1 ∧ Fld.hqCtlLoc.get 1 = 0
    ∧ Fld.hqCtlLoc.get 3 = 1 ∧ (64 : BitVec 32).toNat ≤ hosted.hqSize 3 ∧ hosted.marks = []
    ∧ hosted.hqPlace (64 * hosted.fld (.hqTailAddr 3) Fld.hqTailAddrAddr) 8 = some (0, 0)
    ∧ hosted.readLe (reamAddr 0 0) 8 % 2 ^ 32 ≤ hosted.hqSize 3 := by decide +kernel
theorem witness_hq_tail : (hq3 0 0xFFFFFFFF 0).hqRuns 3 = true ∧ (hq3 0 0xFFFFFFFF 0).clocksStopped = false
    ∧ (hq3 0 0xFFFFFFFF 0).hqLocal 3 = false ∧ ((63 : BitVec 32).toNat + 2 ^ 32 - (hq3 0 0xFFFFFFFF 0).hqHead 3) % 2 ^ 32 = 64
    ∧ (hq3 0 0xFFFFFFFF 0).hqSize 3 = 64
    ∧ ((64 : BitVec 32).toNat + 2 ^ 32 - (hq3 0 0xFFFFFFFF 0).hqHead 3) % 2 ^ 32 = 65
    ∧ (hq3 1 0 0).hqRuns 3 = true ∧ (hq3 1 0 0).hqLocal 3 = true ∧ (hq3 1 0 0).marks = []
    ∧ (hq3 1 0 0).hqPlace (64 * (hq3 1 0 0).fld (.hqTailAddr 3) Fld.hqTailAddrAddr) 8 = some (0, 0)
    ∧ ((hq3 1 0 0).readLe (reamAddr 0 0) 8 % 2 ^ 32 + 2 ^ 32 - (hq3 1 0 0).hqHead 3) % 2 ^ 32 ≤ (hq3 1 0 0).hqSize 3 := by
  decide +kernel
/-- A bias change of the page that holds the tail word and the ring of a LOC 1 queue, and of another page. -/
theorem witness_hq_bias : let at' (p : Nat) := (hq3 1 0 1).updHost (fun h => { h with flip := some (p, 1, true) })
    (at' 0).tailWaits 3 = true ∧ (at' 0).ringWaits 3 0 128 = true ∧ (at' 0).biasWaits 0 0 8 = true
    ∧ (at' 1).tailWaits 3 = false ∧ (at' 1).ringWaits 3 0 128 = false ∧ (at' 1).biasWaits 0 0 8 = false
    ∧ hosted.biasWaits 0 0 8 = false ∧ hosted.biasWaits 0 0 128 = false
    ∧ (let l : Launch := ⟨1, 3, 130, [0x100, 64, 0, 1, 0, 0, 0, 0], true, [], [], [], 0, none, 0, false⟩
       (at' 0).ringWaits 3 ((at' 0).cplAddr l) 32 = true ∧ (at' 1).ringWaits 3 ((at' 1).cplAddr l) 32 = false) := by decide +kernel
theorem witness_hq_poll : let s := { hq3 0 0 1 with now := 1000 * hosted.fld .hqGlobal Fld.hqGlobalPollUs }
    let lines : Vector (BitVec 32) 64 := Vector.replicate 64 64
    s.clocksStopped = false ∧ s.marks = [] ∧ s.host.lastPoll + 1000 * s.fld .hqGlobal Fld.hqGlobalPollUs ≤ s.now
    ∧ s.hqRuns 3 = true ∧ s.hqLocal 3 = false ∧ (lines.toList.getD 3 0).toNat ≠ s.hqTail 3
    ∧ ((lines.toList.getD 3 0).toNat + 2 ^ 32 - s.hqHead 3) % 2 ^ 32 ≤ s.hqSize 3 := by decide +kernel
theorem witness_hq_fetch : ∀ loc ∈ [0, 1], ∀ h ∈ [0, 0xFFFFFFFF], let s := hq3 loc h (h + 1)
    s.hqRuns 3 = true ∧ s.clocksStopped = false ∧ s.hqHead 3 ≠ s.hqTail 3 ∧ s.hqLaunches 3 = [] ∧ s.hqLocal 3 = decide (loc = 1)
    ∧ s.marks = [] ∧ (loc = 1 → s.hqPlace (64 * s.fld (.hqSqBase 3) Fld.hqSqBaseAddr + s.hqHead 3 % s.hqSize 3 * 128) 128
      = some (0, h % 64 * 128)) := by decide +kernel

/-- A launch of the tiles of word 3 with job 0x12A, entry 130 of queue 3; folio 0 allows that job. -/
def entry3 (w0 w3 : W64) (checked : Bool) (parts : List Folio) : Launch :=
  ⟨1, 3, 130, [w0, 64, 0, w3, 0, 0, 0, 0], checked, parts, [], [], 0, none, 0, false⟩
def launched (l : Launch) : State :=
  let s := (hq3 0 131 131).setReg (.allowList0 0) 0x12A
  let s := (s.setFlag (.pressService 0) Fld.pressServiceInService true).setFlag (.pressService 23) Fld.pressServiceInService true
  withLaunch s l
theorem witness_launch : ∀ e ∈ [1, 0x800001, 0x1000000],
    let l := entry3 0x11800007012A0101 (BitVec.ofNat 64 e) false []
    let s := launched l
    s.unchecked 3 = some l ∧ s.clocksStopped = false ∧ l.kind ≠ 0 := by decide +kernel
theorem witness_launch_status : ∀ e ∈ [(1, false), (0x800001, false), (0x1000000, true)],
    let l := entry3 0x11800007012A0101 (BitVec.ofNat 64 e.1) false []
    ((launched l).launchStatus l ≠ 0 ↔ e.2 = true) := by decide +kernel
theorem witness_launch_room : ∀ e ∈ [1, 0x800001],
    let l := entry3 0x11800007012A0101 (BitVec.ofNat 64 e) false []
    ∀ f ∈ l.folios, ((launched l).launchQueue f).length < 64 := by decide +kernel
theorem witness_nop : let l := entry3 0x100 0 false []
    let s := launched l
    s.unchecked 3 = some l ∧ l.kind = 0 ∧ s.clocksStopped = false ∧ (s.hqLocal 3 = true → s.marks = []) := by decide +kernel
theorem witness_dispatch : let l := entry3 0x11800007012A0101 0x800001 true [0]
    let s := launched l
    s.host.launches.find? (fun l => l.hq = 3 && decide (l.index = (130 : BitVec 32).toNat) && l.parts.contains 0) = some l
    ∧ s.tense.quiet = false ∧ (s.launchQueue 0).takeWhile (fun k => k ≠ l.id) = [] ∧ folioDie 0 ∉ s.downDies
    ∧ s.clocksStopped = false ∧ s.tenseLocked = true ∧ l.start ≤ s.tenseNow
    ∧ (∀ t ∈ l.tiles, tileFolio t = 0 → s.tileFree t = true) ∧ (23 : Tile) ∈ l.tiles
    ∧ (s.setFld .tenseStatus Fld.tenseStatusState 5).tenseLocked = false
    ∧ folioDie 0 ∉ (s.setFld .tenseStatus Fld.tenseStatusState 5).downDies := by decide +kernel
theorem witness_launch_complete : let l := entry3 0x11800007012A0101 0x800001 true []
    let s := launched l
    s.host.launches.find? (fun l => l.hq = 3 && decide (l.index = (130 : BitVec 32).toNat) && l.checked) = some l
    ∧ l.parts = [] ∧ l.running = [] ∧ s.clocksStopped = false ∧ (s.hqLocal 3 = true → s.marks = [])
    ∧ (l.word 0).testBit 8 = true ∧ s.feature 1 = true := by decide +kernel

/-! Memory and parser cores -/

def flipping (host : Bool) : State := hosted.updHost (fun h => { h with flip := some (2 ^ 20 - 1, 1, host) })
theorem witness_bias : on.accepts .featCtl 1 ∧ on.flag .featCtl Fld.featCtlDone = false ∧ hosted.accepts .biasFlipCtl 1
    ∧ hosted.flag .biasFlipCtl Fld.biasFlipCtlBusy = false
    ∧ (let s := (hosted.setFld .biasFlipPage Fld.biasFlipPagePage (2 ^ 20 - 1)).setFld .biasFlipPage Fld.biasFlipPageCount 1
       s.fld .biasFlipPage Fld.biasFlipPagePage + s.fld .biasFlipPage Fld.biasFlipPageCount = 2 ^ 20)
    ∧ ∀ host, (flipping host).host.flip = some (2 ^ 20 - 1, 1, host) ∧ (flipping host).clocksStopped = false
      ∧ (flipping host).net.events = [] := by
  unfold State.accepts State.reaches; decide +kernel
/-- Decoder 0 maps the whole of the device at 2^42. -/
def decoded : State := on.updHost (fun h => { h with decoders := [(0, ⟨2 ^ 42, 2 ^ 41, 0, true, false, false⟩)], memActive := true })
theorem witness_decoders : (on.decoder 0).locked = false ∧ (decoded.decoder 1).locked = false ∧ decoded.clocksStopped = false
    ∧ decoded.memPlace (2 ^ 42 - 64) = none ∧ decoded.memPlace (2 ^ 42) = some (0, 0)
    ∧ decoded.memPlace (2 ^ 42 + 2 ^ 41 - 1) = some (7, 2 ^ 38 - 64) ∧ decoded.marks = []
    ∧ decoded.regionBlocks 7 (2 ^ 38 - 64) 64 = false
    ∧ (let s := { decoded with marks := [(reamAddr 7 (2 ^ 38 - 64), 3)] }
       ∃ e ∈ s.reamMarks 7 (2 ^ 38 - 64) 64, e.2 = .uncorrectable) := by decide +kernel
def regionOpen7 : State :=
  ((decoded.setFld (.regionState 7 0) Fld.regionStateState 1).setFld (.regionTarget 7 0) Fld.regionTargetOffset
    (2 ^ 38 - 64)).setFld (.regionCount 7 0) Fld.regionCountCount 1
theorem witness_region_blocks : regionOpen7.memPlace (2 ^ 42 + 2 ^ 41 - 1) = some (7, 2 ^ 38 - 64)
    ∧ regionOpen7.regionBlocks 7 (2 ^ 38 - 64) 64 = true := by decide +kernel
theorem witness_bar2 : on.ready = true ∧ on.marks = [] ∧ (2 ^ 26 - 8 : BitVec 26).toNat + (8 : BitVec 13).toNat = 2 ^ 26
    ∧ (∀ r, on.fld (.regionState 0 r) Fld.regionStateState = 0) := by decide +kernel
theorem witness_mgmt_cells : ∀ e ∈ [(0x10, leBytes 8 0x3FFFF8), (0x11, leBytes 8 0 ++ leBytes 8 5)],
    let c := (cell 0 e.1 9 e.2).seal
    let w := on.land (.die (deckleDie 1)) c
    on.ready = true ∧ deckleDie 1 ∉ on.downDies ∧ w.tooLate c = false ∧ w.endpointCode 9 c = none ∧ cellsWhole [c] = true
    ∧ leNat (c.data.take 8) % 8 = 0 ∧ leNat (c.data.take 8) < 0x400000 ∧ c.type = BitVec.ofNat 6 e.1 := by decide +kernel
def windowed : State :=
  (on.setReg (.aperture 7 15) (BitVec.ofNat 64 (63 + 7 * 2 ^ 6 + 5 * 2 ^ 10 + 2 ^ 24))).setReg (.allowList1 0) (7#64 <<< 48)
theorem witness_apertures : windowed.hartWaits 7 3 = false ∧ windowed.clocksStopped = false ∧ folioDie 7 ∉ windowed.downDies
    ∧ windowed.freeTag (folioDie 7) = some 0 ∧ windowed.flag (.aperture 7 15) Fld.apertureValid = true ∧ windowed.allowed 0 7 ≠ 0
    ∧ (2 ^ 40 - 8 : BitVec 40).toNat % 2 ^ (3 : Fin 4).val = 0 ∧ (2 ^ 40 - 4 : BitVec 40).toNat % 2 ^ (3 : Fin 4).val ≠ 0
    ∧ on.flag (.aperture 7 15) Fld.apertureValid = false := by decide +kernel
/-- A store outstanding at hart 3 of folio 7: named by a FENCE after writes, and not by one after reads. -/
def storing : State :=
  (on.updHart 7 3 (fun r => { r with access := some (2 ^ 55, false, true) })).updNet (fun w =>
    { w with txns := [⟨7, 0, .hart 7 3, [cell 2 1 7 []], 0, 0, 1, []⟩] })
theorem witness_hart_fence : storing.hartWaits 7 3 = true ∧ (storing.hart 7 3).access = some (2 ^ 55, false, true)
    ∧ storing.clocksStopped = false ∧ (1 : BitVec 4).getLsbD 0 = true ∧ (0xA : BitVec 4).getLsbD 0 = false
    ∧ (0xA : BitVec 4).getLsbD 2 = false ∧ on.hartWaits 7 3 = false := by decide +kernel
theorem witness_harts : on.hartWaits 7 3 = false ∧ on.ready = true ∧ folioDie 7 ∉ on.downDies ∧ on.marks = [] ∧ on.host.flip = none
    ∧ (on.cache 7).lines = [] ∧ on.regionBlocks 7 (reamLimit - 8) 8 = false
    ∧ (on.tile (Fin.ofNat 192 (24 * (7 : Folio).val + (vatBase + 24 * vatSize - 8 - vatBase) / vatSize))).inReset = false
    ∧ (vatBase + 24 * vatSize - 8 - vatBase) % vatSize + 8 = vatSize
    ∧ ({ on with host := { on.host with linkUp := true } } : State).host.linkUp = true
    ∧ 2 ^ 54 + 2 ^ 52 ≤ 2 ^ 55 - 8 ∧ 0x8000000000 + 2 ^ 27 - 8 + 8 = 0x8000000000 + 2 ^ 27 := by decide +kernel
theorem witness_evq_head : (on.setFld (.evqTail 7) Fld.evqTailIndex 9).accepts (.evqHead 7) ((9 : W32).setWidth 64) := by
  unfold State.accepts State.reaches; decide +kernel

/-! ### Witnesses of the statements about services and attestation -/

/-- Firmware has booted, VDD_IO is up and the CXL link too. -/
def serving : State :=
  let s := on.updMgmt (fun m => { m with booted := some (true, { Quire.erased with seq := 0xFFFFFFFF, svn := 3 }) })
  { s with host := { s.host with linkUp := true }, energy := { s.energy with rails := [29, 30, 31] } }
def asked (code : Nat) (args : List Nat) (data : List Byte) (i3c : Bool) : MboxRun := ⟨code, args, data, [], i3c, false, 0⟩
def mboxing (r : MboxRun) : State := serving.updMgmt (fun m => { m with mbox := some r })

theorem witness_services : on.accepts (.sensor 849) (2 ^ 32) ∧ on.accepts .scoreClear 1
    ∧ (let s := (on.setFld .scoreCtl Fld.scoreCtlHalfLifeH 5).updMgmt (fun m => { m with decayHours := 5 })
       s.fld .scoreCtl Fld.scoreCtlHalfLifeH ≠ 0 ∧ s.fld .scoreCtl Fld.scoreCtlHalfLifeH ≤ s.mgmt.decayHours)
    ∧ on.mgmt.powered = true := by
  unfold State.accepts State.reaches; decide +kernel
/-- Every mailbox command is taken, from the engine and as it arrives over I3C. -/
theorem witness_mbox_take : serving.mgmt.booted.isSome = true ∧ ∀ code ∈ 0xFF :: mboxCodes, ∀ i3c,
    let r := asked code [0, 0, 0, 0] [] i3c
    ((mboxing r).mboxTake .bar code).2 = some r
    ∧ ((mboxing r).mboxTake .bar code).1.marks = [] := by decide +kernel
theorem witness_mbox_fresh : ∀ code ∈ 0xFF :: mboxCodes,
    (serving.mboxTake (.i3c (Vector.replicate 4 0) []) code).2 = some (asked code [0, 0, 0, 0] [] true)
    ∧ (serving.mboxTake (.i3c (Vector.replicate 4 0) []) code).1.marks = [] := by decide +kernel
theorem witness_fw_update : let r := asked 1 [0, 4, 0, 0] [] false
    (mboxing r).mgmt.updated = false ∧ ((mboxing r).mboxRead r (r.arg 0) (r.arg 1)).2 = .inr [0, 0, 0, 0]
    ∧ (serving.updMgmt (fun m => { m with updated := true })).mgmt.updated = true := by decide +kernel
theorem witness_debug_commands : ∀ off ∈ [0, reamLimit - 40, reamLimit - 39], let r := asked 3 [off, 0, 0, 0] [] false
    (mboxing r).marks = [] ∧ r.i3c = false ∧ (off ≤ reamLimit - 40 ↔ r.arg 0 + 40 ≤ reamLimit) := by decide +kernel
theorem witness_token : let r := asked 4 [0, 0, 0, 0] [] false
    ((mboxing r).mboxRead r (r.arg 0) 176).2 = .inr (List.replicate 176 0)
    ∧ ((mboxing r).mboxRead r (r.arg 0) 176).1.mgmt.rejects < 3
    ∧ 3 ≤ (((mboxing r).updMgmt (fun m => { m with rejects := 3 })).mboxRead r (r.arg 0) 176).1.mgmt.rejects := by decide +kernel

/-- A descriptor of tile 191: a program at 64, output of 64 bytes, 850 us, a ring of 16. -/
def descriptor : List Byte :=
  leBytes 8 64 ++ List.replicate 23 0 ++ [0x80] ++ List.replicate 32 0 ++ leBytes 8 0 ++ leBytes 4 64 ++ leBytes 4 850 ++ leBytes 8 0x10000
    ++ [4] ++ List.replicate 39 0
theorem witness_sentinel_load : (sentinelOf descriptor).isSome = true ∧ sentinelOf (List.replicate 128 0) = none
    ∧ (asked 0x10 [0, 7, 0, 0] [] false).arg 1 ≤ 7 ∧ 7 < (asked 0x10 [0, 8, 0, 0] [] false).arg 1
    ∧ (let r := asked 0x10 [0, 7, 0, 0] descriptor true
       ((mboxing r).mboxRead r (r.arg 0) 128).2 = .inr descriptor) := by decide +kernel
theorem witness_sentinel_args : (∀ e ∈ [1, 65535], let r := asked 0x11 [255, e, 0, 0] [] false
      1 ≤ r.arg 1 ∧ r.arg 1 ≤ 65535 ∧ r.arg 0 ≤ 255) ∧ (asked 0x13 [7, 0, 0, 0] [] false).arg 0 ≤ 7 := by decide +kernel
theorem witness_hash : (let r := asked 0x14 [7, reamLimit - 64, 64, reamLimit - 32] [] false
      ¬ (7 < r.arg 0 ∨ r.arg 2 = 0 ∨ r.arg 2 = 2 ^ 64 - 1 ∨ reamLimit < r.arg 1 + r.arg 2 ∨
        (r.i3c = false ∧ reamLimit < r.arg 3 + 32)) ∧ (mboxing r).marks = [])
    ∧ (let r := asked 0x14 [0, 0, 0, 0] [] true; r.arg 2 = 0) := by decide +kernel
theorem witness_mbox_done : ∀ e ∈ [(1, 0, false), (3, 0, true), (0x14, 3, true)],
    let r : MboxRun := ⟨e.1, [], [], [], e.2.2, true, e.2.1⟩
    let s := mboxing r
    s.mgmt.mbox = some r ∧ r.carried = true ∧ s.mgmt.takeover = none ∧ s.sentPending r = false
    ∧ s.mgmt.booted = some (true, { Quire.erased with seq := 0xFFFFFFFF, svn := 3 }) := by decide +kernel

/-- A slot of the sentinel descriptor due every 1 run, in the second window of a plan from 0 of 2 ms. -/
def slot7 : Option Sentinel := (sentinelOf descriptor).map (fun v => { v with every := 1 })
def planned : State :=
  let s := (serving.setReg .exchPlanStart 50000).setFld .exchPlanShape Fld.exchPlanShapeLengthUs 2000
  { s.updMgmt (fun m => { m with sentinels := slot7.toList.map (fun v => (7, v)) }) with tense16 := 16 * 100000 }
theorem witness_sentinel_start : planned.ready = true ∧ planned.mgmt.sentRuns = [] ∧ planned.sentinel 7 = slot7
    ∧ 1 ≤ planned.tenseNow / 50000 ∧ planned.forecastWindow (planned.tenseNow / 50000 - 1) = true
    ∧ planned.forecastWindow (planned.tenseNow / 50000 - 1 - 1) = false
    ∧ 20 ≤ planned.forecastRun (planned.tenseNow / 50000 - 1) 4096
    ∧ ∀ v ∈ slot7.toList, v.seen ≠ planned.tenseNow / 50000 - 1 + 1 ∧ (v.once = true ∨ (v.every ≠ 0 ∧ v.every ≤ v.since + 1))
      ∧ v.tiles.all planned.tileFree = true ∧ planned.partBefore v.folios none 0x1000000 = false
      ∧ v.tiles.all (planned.setFlag (.seqCtl 191) Fld.seqCtlRun true).tileFree = false := by decide +kernel
theorem witness_sentinel_stop : ∀ v ∈ slot7.toList, let r : SentRun := ⟨7, v, 0, 0, 100000, 0, []⟩
    let s := planned.updMgmt (fun m => { m with sentRuns := [r] })
    s.mgmt.sentRuns = [r] ∧ s.clocksStopped = false ∧ s.marks = [] ∧ r.stopAt ≤ s.tenseNow
    ∧ s.net.ready = [] ∧ s.sentEnds { r with stopAt := 100001 } = false := by decide +kernel
/-- SENT_RUN ends with the run it asked for. -/
theorem witness_sent_pending : ∀ v ∈ slot7.toList, let r : MboxRun := ⟨0x13, [7], [], [], true, true, 0⟩
    let s := planned.updMgmt (fun m => { m with mbox := some r, sentinels := [(7, { v with once := true })],
                                                queued := [asked 3 [] [] true] })
    s.sentPending r = true ∧ s.sentPending { r with status := 3 } = false ∧ s.mgmt.queued ≠ [] := by decide +kernel

theorem witness_jtag : serving.jtagUp = true ∧ serving.mgmt.rejects < 3
    ∧ (serving.updMgmt (fun m => { m with rejects := 3 })).jtagUp = true := by decide +kernel
theorem witness_cdat : serving.mgmt.powered = true ∧ serving.host.linkUp = true
    ∧ ∀ k ∈ [0, 48], ((cdatHeader :: cdatEntries)[k]?).isSome = true := by decide +kernel
theorem witness_spdm : (∀ mctp, serving.spdmUp mctp = true) ∧ 1 ∈ serving.measIndexes
    ∧ ∀ e ∈ [(0x10, 0x84, 4), (0x12, 0xE1, 4), (0x12, 0xE3, 16), (0x12, 0x81, 4), (0x12, 0x82, 8), (0x12, 0x83, 36), (0x12, 0xE0, 37)],
      spdmIs (BitVec.ofNat 8 e.1 :: BitVec.ofNat 8 e.2.1 :: List.replicate (e.2.2 - 2) 0) e.1 e.2.1 e.2.2 = true := by decide +kernel
theorem witness_spdm_requests : bytesAt [0x12, 0x82, 1, 0, 0, 0, 0, 0] 2 1 % 16 ≠ 0 ∧ bytesAt [0x12, 0x82, 0, 0, 0, 0, 0, 1] 2 1 % 16 = 0
    ∧ bytesAt [0x12, 0xE0, 1, 0xFF] 3 1 = 0xFF ∧ (bytesAt [0x12, 0xE0, 1, 0xFF] 2 1).testBit 0 = true
    ∧ (bytesAt [0x12, 0xE0, 0, 0] 2 1).testBit 0 = false := by decide +kernel
theorem witness_certificate (s : State) : 0 < s.certChain.length := by
  simp only [State.certChain, List.length_append]
  have h : (leBytes 2 0).length = 2 := by decide
  omega

/-! ### Further clauses -/

theorem witness_heeds_other (s : State) (off : Nat) (v : W64) : s.heeds .host off v := fun h => nomatch h
theorem witness_no_ops (f : Folio) : on.noOps f := by
  intro o ho
  have h : on.net.ready = [] := by decide +kernel
  rw [h] at ho
  cases ho

theorem witness_energy_window : on.tenseNow / 50000 = (on.reg .energyWindow).toNat
    ∧ ({ on with tense16 := 16 * 50000 } : State).tenseNow / 50000
      ≠ (({ on with tense16 := 16 * 50000 } : State).reg .energyWindow).toNat
    ∧ (7 : Folio) ∉ on.energy.metered := by decide +kernel

/-- A fetch that waits for a bias change, and one by a sentinel's tile from its image. -/
theorem witness_fetch_bias : (run.updHost (fun h => { h with flip := some (0, 1, true) })).biasWaits 0 64 64 = true
    ∧ run.biasWaits 0 64 64 = false
    ∧ (let s := run.updTile 0 (fun x => { x with image := some (64, 128, ⟨0, []⟩) })
       (s.tile 0).image = some (64, 128, ⟨0, []⟩) ∧ (s.tile 0).ibuf.find? (fun e => e.1 = 64) = none
       ∧ s.biasWaits 0 64 64 = false) := by decide +kernel
theorem witness_halt_kinds : on.fld (.seqCtl 0) Fld.seqCtlHaltKind = 0
    ∧ (on.setFld (.seqCtl 0) Fld.seqCtlHaltKind 4).fld (.seqCtl 0) Fld.seqCtlHaltKind = 4 ∧ (on.tile 0).dispatching = 0 := by decide +kernel
theorem witness_link_launch : ∀ loc ∈ [0, 1],
    let l := entry3 0x11800007012A0101 1 false []
    let s := withLaunch { hq3 loc 0 1 with host := { (hq3 loc 0 1).host with linkUp := true } } l
    s.host.launches = [l] ∧ l.kind ≠ 0 ∧ l.checked = false ∧ l.status = 0 ∧ s.hqLocal l.hq = decide (loc = 1)
    ∧ s.host.linkUp = true ∧ s.net.events = [] := by decide +kernel
theorem witness_marker_pace : let s (now : Nat) := { on.updTense (fun t => { t with sentAt := some 7 }) with now := now }
    (s 1006).tense.sentAt = some 7 ∧ (s 1006).now < 7 + 1000 ∧ 7 + 1000 ≤ (s 1007).now ∧ (s 1007).clocksStopped = false := by
  decide +kernel
theorem witness_leaving : let t : Txn := { txn 1 with cells := [{ cell 2 1 7 [] with dstChip := 5 }] }
    (awaiting 1).leaving t = false
    ∧ (((awaiting 1).updXbar 1 (fun x => { x with origins := [⟨[({ cell 2 1 7 [] with srcChip := 0, srcDie := 9 }, none)], none⟩] })).leaving
      t = true) := by decide +kernel
theorem witness_half_life : (on.setFld .scoreCtl Fld.scoreCtlHalfLifeH 0).fld .scoreCtl Fld.scoreCtlHalfLifeH = 0
    ∧ (on.setFld .scoreCtl Fld.scoreCtlHalfLifeH 5).fld .scoreCtl Fld.scoreCtlHalfLifeH ≠ 0 := by decide +kernel
/-- 100 microseconds of metered tile work, for the calibration of k. -/
theorem witness_calibration : let s := on.updTile 0 (fun x => { x with mcMeter := 10 ^ 12 })
    powerUw (((folioTiles 0).map (fun t => (s.tile t).mcMeter)).foldl (· + ·) 0) 100000 ≠ 0 ∧ s.mgmt.takeover = none
    ∧ s.energy.lost = [] := by decide +kernel
/-- The slots of an ACC operation lie in a page that a bias change holds. -/
theorem witness_acc_waits : let o := op7 0x100 0x20 0 4 [1, 2, 3, 4]
    let s := (ops7 o).updHost (fun h => { h with flip := some (7 * 131072, 1, false) })
    s.headOp 7 = some o ∧ o.inVat = false ∧ o.isAcc = true ∧ (o.span s 7).1 = 0x1000
    ∧ s.biasWaits 7 (o.span s 7).1 (o.span s 7).2 = true := by decide +kernel

/-- The first of two cells of a request, and a whole request with data. -/
def firstCell : Cell := ({ cell 2 1 7 (opData 0 1 48 (List.replicate 48 7)) with flags := 0 } : Cell).seal
theorem witness_held_cell : firstCell.crcGood = true ∧ on.clocksStopped = false ∧ folioDie 7 ∉ on.downDies ∧ firstCell.cls ≠ 1
    ∧ (on.land (.die 7) firstCell).tooLate firstCell = false ∧ (on.land (.die 7) firstCell).endpointCode 7 firstCell = none
    ∧ (match (on.land (.die 7) firstCell).assemble 7 firstCell with | .held _ => true | _ => false) = true :=
  ⟨seal_crcGood _, by decide +kernel⟩
def known : State := on.updNet (fun w => { w with dups := [⟨7, 5, 8, 9, .reply [], 0, none⟩] })
theorem witness_duplicate : ∀ op ∈ [0, 1], let c := (cell 2 1 7 (opData 0 op 8 [1])).seal
    (match (known.land (.die 7) c).assemble 7 c with
      | .whole a w => (w.net.dups.find? (fun r => r.is 7 c)).isSome
          && decide (opCode (BitVec.ofNat 64 (leNat ((cellsData a.cells).take 8))) = op)
      | _ => false) = true := by decide +kernel
theorem witness_bad_address : let c := (cell 3 1 7 (opData reamLimit 0 8 [])).seal
    (match (on.land (.die 7) c).assemble 7 c with
      | .whole _ w => (w.addressCode 7 c (BitVec.ofNat 64 reamLimit)).isSome
      | _ => false) = true := by decide +kernel
theorem witness_reply_held : let c := ({ cell 1 2 9 [1] with flags := 0 } : Cell).seal
    badSequence (txn 1).replies c = false ∧ cellsWhole ((txn 1).replies ++ [c]) = false := by decide +kernel

theorem witness_ream_other : let o := op7 reamLimit 1 0 2 [1, 2]
    let s := (ops7 o).updTile 168 (fun x => { x with inReset := true })
    s.headOp 7 = some o ∧ opStatus s 7 o = 0 ∧ o.inVat = true ∧ (∃ p ∈ vatParts 7 o.off o.length, (s.tile p.1).inReset = true)
    ∧ (let s := { ops7 (op7 0x100 0 0 8 []) with marks := [(reamAddr 7 0x100, 3)] }
       opStatus s 7 (op7 0x100 0 0 8 []) = 0 ∧ ∃ e ∈ s.reamMarks 7 0x100 8, e.2 = .uncorrectable)
    ∧ (let s := (ops7 o).updHost (fun h => { h with flip := some (7 * 131072, 131072, false) })
       s.biasWaits 7 0x100 8 = true) := by decide +kernel

theorem witness_early_arrive : (team 3 1 1 2).takesColl 0x09 0 (arriveMsg 0).seal 5
    (single 0 (arriveMsg 0).seal) (come (team 3 1 1 2) 0 (arriveMsg 0).seal) :=
  takes_of (seal_crcGood _) (by decide +kernel)
theorem witness_early_step : ¬ (team 3 1 1 2).currentStep 5 ≤ bytesNat (cellsData [(arriveMsg 0).seal]) 4 4 := by decide +kernel
/-- A reduce-scatter with UPDATE, its template at 0x3000, its parameter block at 0x6000 naming gradients at `g`. -/
def updater : Entry := { entry (1 + 2 ^ 18) 0 0x10000 1 with words := (entry (1 + 2 ^ 18) 0 0x10000 1).words.set 5 0x3000 }
def templated (g : Nat) : State :=
  ((queuedIn (team 3 1 1 2) [updater]).writeMem (reamAddr 0 0x3000) (leBytes 8 0x10 ++ List.replicate 24 0 ++ leBytes 8 0x6000)).writeMem
    (reamAddr 0 0x6000) (leBytes 8 0x20000 ++ leBytes 8 g ++ leBytes 8 0x30000)
theorem witness_update : ∀ e ∈ [(0x10000, 0), (0x18000, 0x20)], let s := templated e.1
    (s.group 5).queue = [updater] ∧ s.mayStart 5 updater = true ∧ updater.op = 1 ∧ updater.update = true
    ∧ (s.templateStatus 5 updater).2 = some e.2 := by decide +kernel
def follower : Entry := entry (2 + 2 ^ 19 + 2 ^ 24) 0x10000 0x20000 1
theorem witness_follow : let s := queuedIn (team 3 1 1 2) [rs, follower]
    (s.group 5).queue = [rs, follower] ∧ rs.op = 1 ∧ rs.started = true ∧ follower.op = 2 ∧ follower.follow = true
    ∧ s.mayStart 5 { follower with words := follower.words.set 1 0 } = true ∧ s.clocksStopped = false := by decide +kernel
theorem witness_commit_copy : let s := queuedIn (team 3 1 2 2) [cm]
    (s.group 5).queue.find? (fun e => decide (e.op = 2) && e.started && decide (e.step = s.currentStep 5)) = some cm
    ∧ (s.group 5).ownChunk < s.capChunks 5 ∧ s.chunkReady 5 cm (s.group 5).ownChunk = true ∧ cm.commit = true
    ∧ ((s.group 5).written.filter (fun w => w.1 = cm.number)).length + 1 < s.memberCount 5 * s.capChunks 5 := by decide +kernel

theorem witness_dispatch_waits : let l := entry3 0x11800007012A0101 0x800001 true [0]
    ∃ t ∈ l.tiles, tileFolio t = 0 ∧ ((launched l).setFlag (.seqCtl 23) Fld.seqCtlRun true).tileFree t = false := by decide +kernel
theorem witness_launch_reset : let l := entry3 0x11800007012A0101 0x1000001 false []
    folioDie 0 ∈ ({ launched l with downDies := [0] } : State).downDies := by decide +kernel
theorem witness_refused_services : (hosted.setFlag .biasFlipCtl Fld.biasFlipCtlBusy true).flag .biasFlipCtl Fld.biasFlipCtlBusy = true
    ∧ (hosted.setFlag .biasFlipCtl Fld.biasFlipCtlBusy true).accepts .biasFlipCtl 1
    ∧ ((on.updHost (fun h => { h with decoders := [(1, ⟨0, 0, 0, false, false, true⟩)] })).decoder 1).locked = true
    ∧ 2 ^ 26 < (2 ^ 26 - 8 : BitVec 26).toNat + (9 : BitVec 13).toNat := by
  unfold State.accepts State.reaches; decide +kernel
theorem witness_hart_more : on.hostPages = [] ∧ (reamLimit - 8) % 8 = 0 ∧ 2 ^ 55 + (2 ^ 40 - 8) + 8 ≤ 2 ^ 55 + 16 * 2 ^ 40
    ∧ (∀ op ∈ [HartOp.lr, .sc 1 true, .amo .add 1], opAtomic op = true) ∧ opAtomic .load = false
    ∧ (let s := (on.setFld (.regionState 7 0) Fld.regionStateState 1).setFld (.regionCount 7 0) Fld.regionCountCount 1
       s.regionBlocks 7 0 8 = true)
    ∧ ((on.updTile 191 (fun x => { x with inReset := true })).tile 191).inReset = true := by decide +kernel
theorem witness_sentinel_waits : ∀ v ∈ slot7.toList, let u := { v with every := 2 }
    u.once = false ∧ u.since + 1 < u.every ∧ (u.once = true ∨ u.every ≠ 0) := by decide +kernel
theorem witness_challenge_slot : bytesAt (0x12 :: 0x83 :: 1 :: List.replicate 33 0) 2 1 ≠ 0
    ∧ spdmIs (0x12 :: 0x83 :: 1 :: List.replicate 33 0) 0x12 0x83 36 = true := by decide +kernel

/-! ### The words of SX (R70, R71) -/

/-- The three encoded instructions of the example after R74. -/
theorem test_decode_example : decodeSx 3 0x1003214000000000 0 = some (.add 3 ⟨false, 3, 4, 5, 0, 0, 0⟩)
    ∧ decodeSx 3 0x10032001FFFFFFF8 0 = some (.add 3 ⟨false, 3, 4, 0, 1, 0xFFFFFFF8, 0⟩)
    ∧ decodeSx 3 0x308899F000000000 0 = some (.stream 3 ⟨false, 1, 1, 3, 7, true, true, 0, 0⟩) := by decide
/-- cvt t1, t2, p3 of class 4, OP 0x0D, X = 1: TD 1, TA 2, PG 3, RM 2, SATC 1, FMT 5, OPX 1. -/
theorem test_decode_inflection : decodeSx 0 (BitVec.ofNat 64 (4 * 2 ^ 60 + 13 * 2 ^ 54 + 2 ^ 53 + 2 ^ 50 + 2 * 2 ^ 47 + 3 * 2 ^ 38
      + 2 * 2 ^ 35 + 2 ^ 34 + 5 * 2 ^ 30 + 1)) 77
    = some (.cvt 0 ⟨true, 1, 2, 0, 0, 3, false, 2, true, 5, 0, 0, 1, 77⟩) := by decide
/-- halt 7, dma, sbwait, post: CLASS 0, 2, 5 and 6. -/
theorem test_decode_classes : decodeSx 0 (2 ^ 54 + 7) 0 = some (.halt 0 ⟨false, 0, 0, 0, 0, 7, 0⟩)
    ∧ decodeSx 0 (BitVec.ofNat 64 (2 * 2 ^ 60 + 5 * 2 ^ 43 + 31)) 0 = some (.dma 0 ⟨false, 0, 5, 0, 0, 31, 0⟩)
    ∧ decodeSx 0 (BitVec.ofNat 64 (5 * 2 ^ 60 + 2 ^ 53)) 0x10000 = some (.sbwait 0 ⟨true, 0, 0, 0, 0, 0, 0x10000⟩)
    ∧ decodeSx 0 (BitVec.ofNat 64 (6 * 2 ^ 60 + 2 * 2 ^ 43 + 0x305)) 0 = some (.post 0 ⟨false, 0, 2, 0, 0, 0x305, 0⟩) := by decide
/-- Reserved CLASS 0x7 and 0xF, and reserved OPs of every class. -/
theorem test_decode_reserved : (∀ c ∈ [7, 15], decodeSx 0 (BitVec.ofNat 64 (c * 2 ^ 60)) 0 = none)
    ∧ ∀ p ∈ [(0, 9), (1, 0x1B), (2, 2), (3, 3), (4, 0x21), (5, 7), (6, 1)],
      decodeSx 0 (BitVec.ofNat 64 (p.1 * 2 ^ 60 + p.2 * 2 ^ 54)) 0 = none := by decide

/-- 13's example of R422: a pool of 3,787.2 W, 748.4 W wanted by each folio, 473.4 W for each. -/
theorem test_allocate : allocate 3787200000 (fun _ => 748400000) (fun _ => 8)
    = (List.finRange 8).map (fun f => (f, 473400000)) := by decide +kernel
/-- R422 by hand: folio 0 wants 10 of 90 and the others want more than there is; what folio 0 leaves goes to the others. -/
theorem test_allocate_uneven : allocate 90 (fun f => if f = 0 then 6 else 1000) (fun _ => 1)
    = (List.finRange 8).map (fun f => (f, if f = 0 then 6 else 12)) := by decide +kernel
/-- A window that begins 50 microseconds on evaluates, and every section of an idle device would get its whole request. -/
theorem test_energy_window : (next (execEnergyWindow (Vector.replicate 8 1000)
    ({ on with tense16 := 16 * 50000 } : State))).fld (.folioGrant 7) Fld.folioGrantFraction = 256 := by decide +kernel

end Sys2Proof.Tests
end

section
/-! PROOFS. One step of the device and the state after reset. -/

open Sys2Proof Sys2Proof.Machine

/-- Settles O1: `step` takes the command at the front of the queue by definition. -/
theorem stepRunsTheFrontCommand : Obligations.StepRunsTheFrontCommand := by
  intro c rest s
  rfl

/-- Settles O4: the reset state lists no register and no address, so each reads as it does after reset. -/
theorem resetStateIsCanonical : Obligations.ResetStateIsCanonical := by
  refine ⟨?_, ?_, fun r => ?_⟩
  · rfl
  · rfl
  · rfl

end

section
/-! PROOFS. The register map: each register answers at its own offset, and no two registers share one (R523). -/

namespace Sys2Proof.Reg

/-! What a table names at an offset lies at the table plus that offset. -/

theorem addr_of_tileSlot {t : Tile} {o : Nat} {r : Reg} (h : tileSlot t o = .reg r) :
    r.addr = 0x01000000 + (t.val / 24) * 0x00800000 + 0x00100000 + (t.val % 24) * 0x1000 + o := by
  unfold tileSlot at h
  split at h <;> cases h <;> rfl

theorem addr_of_pressSlot {t : Tile} {o : Nat} {r : Reg} (h : pressSlot t o = .reg r) :
    r.addr = 0x01000000 + (t.val / 24) * 0x00800000 + 0x00180000 + (t.val % 24) * 0x100 + o := by
  unfold pressSlot at h
  split at h <;> cases h <;> rfl

theorem addr_of_inflSlot {t : Tile} {o : Nat} {r : Reg} (h : inflSlot t o = .reg r) :
    r.addr = 0x01000000 + (t.val / 24) * 0x00800000 + 0x001C0000 + (t.val % 24) * 0x100 + o := by
  unfold inflSlot at h
  split at h <;> cases h <;> rfl

theorem addr_of_vatSlot {t : Tile} {o : Nat} {r : Reg} (h : vatSlot t o = .reg r) :
    r.addr = 0x01000000 + (t.val / 24) * 0x00800000 + 0x001E0000 + (t.val % 24) * 0x100 + o := by
  unfold vatSlot at h
  split at h <;> cases h <;> rfl

theorem addr_of_bufSlot {f : Folio} {e : Fin 256} {o : Nat} {r : Reg} (h : bufSlot f e o = .reg r) :
    r.addr = 0x01000000 + f.val * 0x00800000 + 0x00200000 + e.val * 0x20 + o := by
  unfold bufSlot at h
  split at h <;> cases h <;> rfl

theorem addr_of_cacheSlot {f : Folio} {o : Nat} {r : Reg} (h : cacheSlot f o = .reg r) :
    r.addr = 0x01000000 + f.val * 0x00800000 + 0x00220000 + o := by
  unfold cacheSlot at h
  split at h <;> cases h <;> rfl

theorem addr_of_xportSlot {d : Die} {o : Nat} {r : Reg} (h : xportSlot d o = .reg r) : r.addr = xportBase d + o := by
  unfold xportSlot at h
  split at h <;> cases h <;> rfl

theorem addr_of_ecqSlot {f : Folio} {q : Ecq} {o : Nat} {r : Reg} (h : ecqSlot f q o = .reg r) :
    r.addr = 0x01000000 + f.val * 0x00800000 + 0x00300000 + q.val * 0x40 + o := by
  unfold ecqSlot at h
  split at h <;> cases h <;> rfl

theorem addr_of_engineSlot {f : Folio} {o : Nat} {r : Reg} (h : engineSlot f o = .reg r) :
    r.addr = 0x01000000 + f.val * 0x00800000 + 0x00300400 + o := by
  unfold engineSlot at h
  split at h <;> cases h <;> rfl

theorem addr_of_accRegionSlot {f : Folio} {i : Fin 256} {o : Nat} {r : Reg} (h : accRegionSlot f i o = .reg r) :
    r.addr = 0x01000000 + f.val * 0x00800000 + 0x00301000 + i.val * 0x20 + o := by
  unfold accRegionSlot at h
  split at h <;> cases h <;> rfl

theorem addr_of_evqSlot {f : Folio} {o : Nat} {r : Reg} (h : evqSlot f o = .reg r) :
    r.addr = 0x01000000 + f.val * 0x00800000 + 0x00400000 + o := by
  unfold evqSlot at h
  split at h <;> cases h <;> rfl

theorem addr_of_reamSlot {m : Ream} {o : Nat} {r : Reg} (h : reamSlot m o = .reg r) :
    r.addr = 0x06000000 + m.val * 0x20000 + o := by
  unfold reamSlot at h
  split at h <;> cases h <;> rfl

theorem addr_of_tenseSlot {o : Nat} {r : Reg} (h : tenseSlot o = .reg r) : r.addr = 0x00200000 + o := by
  unfold tenseSlot at h
  split at h <;> cases h <;> rfl

theorem addr_of_switchSlot {n : Deckle} {o : Nat} {r : Reg} (h : switchSlot n o = .reg r) :
    r.addr = 0x05000000 + n.val * 0x00400000 + 0x8000 + o := by
  unfold switchSlot at h
  split at h <;> cases h <;> rfl

theorem addr_of_mirrorSlot {n : Deckle} {i : Fin 8} {o : Nat} {r : Reg} (h : mirrorSlot n i o = .reg r) :
    r.addr = 0x05000000 + n.val * 0x00400000 + 0x9000 + i.val * 0x40 + o := by
  unfold mirrorSlot at h
  split at h <;> cases h <;> rfl

theorem addr_of_violSlot {p : Port} {o : Nat} {r : Reg} (h : violSlot p o = .reg r) :
    r.addr = 0x05000000 + (p.val / 32) * 0x00400000 + 0x30000 + p.val * 0x20 + o := by
  unfold violSlot at h
  split at h <;> cases h <;> rfl

theorem addr_of_collSlot {c : Coll} {o : Nat} {r : Reg} (h : collSlot c o = .reg r) :
    r.addr = 0x05100000 + c.val * 0x100 + o := by
  unfold collSlot at h
  split at h <;> cases h <;> rfl

theorem addr_of_portSlot {p : Port} {o : Nat} {r : Reg} (h : portSlot p o = .reg r) :
    r.addr = 0x05810000 + p.val * 0x40 + o := by
  unfold portSlot at h
  split at h <;> cases h <;> rfl

theorem addr_of_lineSlot {l : Line} {o : Nat} {r : Reg} (h : lineSlot l o = .reg r) :
    r.addr = 0x05800100 + l.val * 0x10 + o := by
  unfold lineSlot at h
  split at h <;> cases h <;> rfl

theorem addr_of_feltSlot {k : Felt} {o : Nat} {r : Reg} (h : feltSlot k o = .reg r) :
    r.addr = 0x05820000 + k.val * 0x20 + o := by
  unfold feltSlot at h
  split at h <;> cases h <;> rfl

theorem addr_of_twinSlot {i : Pair} {o : Nat} {r : Reg} (h : twinSlot i o = .reg r) :
    r.addr = 0x05830000 + i.val * 0x20 + o := by
  unfold twinSlot at h
  split at h <;> cases h <;> rfl

theorem addr_of_energySlot {o : Nat} {r : Reg} (h : energySlot o = .reg r) : r.addr = 0x00100000 + o := by
  unfold energySlot at h
  split at h <;> cases h <;> rfl

theorem addr_of_folioEnergySlot {f : Folio} {o : Nat} {r : Reg} (h : folioEnergySlot f o = .reg r) :
    r.addr = 0x00100100 + f.val * 0x20 + o := by
  unfold folioEnergySlot at h
  split at h <;> cases h <;> rfl

theorem addr_of_featSlot {o : Nat} {r : Reg} (h : featSlot o = .reg r) : r.addr = 0x00010000 + o := by
  unfold featSlot at h
  split at h <;> cases h <;> rfl

theorem addr_of_hqSlot {q : HQueue} {o : Nat} {r : Reg} (h : hqSlot q o = .reg r) :
    r.addr = 0x00021000 + q.val * 0x40 + o := by
  unfold hqSlot at h
  split at h <;> cases h <;> rfl

theorem addr_of_identSlot {o : Nat} {r : Reg} (h : identSlot o = .reg r) : r.addr = o := by
  unfold identSlot at h
  split at h <;> cases h <;> rfl

theorem addr_of_faultRingSlot {o : Nat} {r : Reg} (h : faultRingSlot o = .reg r) : r.addr = 0x00400000 + o := by
  unfold faultRingSlot at h
  split at h <;> cases h <;> rfl

theorem addr_of_fleetSlot {o : Nat} {r : Reg} (h : fleetSlot o = .reg r) : r.addr = 0x00430000 + o := by
  unfold fleetSlot at h
  split at h <;> cases h <;> rfl

theorem addr_of_mboxSlot {o : Nat} {r : Reg} (h : mboxSlot o = .reg r) : r.addr = 0x07000000 + o := by
  unfold mboxSlot at h
  split at h <;> cases h <;> rfl

/-! The parts that an offset is cut into. -/

theorem index_div {b w o : Nat} (i : Nat) (h : o < w) : (b + i * w + o - b) / w = i := by
  rw [Nat.add_assoc, Nat.add_sub_cancel_left, Nat.add_comm, Nat.add_mul_div_right _ _ (Nat.zero_lt_of_lt h),
    Nat.div_eq_of_lt h, Nat.zero_add]

theorem index_mod {b w o : Nat} (i : Nat) (h : o < w) : (b + i * w + o - b) % w = o := by
  rw [Nat.add_assoc, Nat.add_sub_cancel_left, Nat.add_comm, Nat.add_mul_mod_self_right, Nat.mod_eq_of_lt h]

theorem ofNat_val {n : Nat} [NeZero n] (i : Fin n) : Fin.ofNat n i.val = i := by
  apply Fin.ext
  exact Nat.mod_eq_of_lt i.2

theorem tileOf_div_mod (t : Tile) : tileOf (t.val / 24) (t.val % 24) = t := by
  apply Fin.ext
  simp only [tileOf, Fin.val_ofNat]
  omega

/-! An offset in a window, and in one of its tables, reaches what the window and the table name there. -/

theorem ofAddr_folio (f : Folio) {o : Nat} (h : o < 0x00800000) :
    ofAddr (0x01000000 + f.val * 0x00800000 + o) = folioWindow f o := by
  unfold ofAddr
  iterate 10 rw [if_neg (by omega)]
  rw [if_pos (by omega), index_div _ h, index_mod _ h, ofNat_val]

theorem ofAddr_deckle (n : Deckle) {o : Nat} (h : o < 0x00400000) :
    ofAddr (0x05000000 + n.val * 0x00400000 + o) = deckleWindow n o := by
  unfold ofAddr
  iterate 11 rw [if_neg (by omega)]
  rw [if_pos (by omega), index_div _ h, index_mod _ h, ofNat_val]

theorem ofAddr_ream (m : Ream) {o : Nat} (h : o < 0x20000) :
    ofAddr (0x06000000 + m.val * 0x20000 + o) = reamSlot m o := by
  unfold ofAddr
  iterate 13 rw [if_neg (by omega)]
  rw [if_pos (by omega), index_div _ h, index_mod _ h, ofNat_val]

theorem ofAddr_hq (q : HQueue) {o : Nat} (h : o < 0x40) :
    ofAddr (0x00021000 + q.val * 0x40 + o) = hqSlot q o := by
  unfold ofAddr
  iterate 2 rw [if_neg (by omega)]
  rw [if_pos (by omega), index_div _ h, index_mod _ h, ofNat_val]

theorem ofAddr_folioEnergy (f : Folio) {o : Nat} (h : o < 0x20) :
    ofAddr (0x00100100 + f.val * 0x20 + o) = folioEnergySlot f o := by
  unfold ofAddr
  iterate 4 rw [if_neg (by omega)]
  rw [if_pos (by omega), index_div _ h, index_mod _ h, ofNat_val]

theorem ofAddr_optics {o : Nat} (h : o < 0x00800000) : ofAddr (0x05800000 + o) = opticsWindow o := by
  unfold ofAddr
  iterate 12 rw [if_neg (by omega)]
  rw [if_pos (by omega), Nat.add_sub_cancel_left]

theorem ofAddr_tile (t : Tile) (o : Nat) (h : o < 0x1000) :
    ofAddr (0x01000000 + (t.val / 24) * 0x00800000 + 0x00100000 + (t.val % 24) * 0x1000 + o) = tileSlot t o := by
  have e := ofAddr_folio ⟨t.val / 24, by omega⟩ (o := 0x00100000 + (t.val % 24) * 0x1000 + o) (by omega)
  simp only [← Nat.add_assoc] at e
  rw [e]
  unfold folioWindow
  iterate 1 rw [if_neg (by omega)]
  rw [if_pos (by omega), index_div _ h, index_mod _ h, tileOf_div_mod]

theorem ofAddr_press (t : Tile) (o : Nat) (h : o < 0x100) :
    ofAddr (0x01000000 + (t.val / 24) * 0x00800000 + 0x00180000 + (t.val % 24) * 0x100 + o) = pressSlot t o := by
  have e := ofAddr_folio ⟨t.val / 24, by omega⟩ (o := 0x00180000 + (t.val % 24) * 0x100 + o) (by omega)
  simp only [← Nat.add_assoc] at e
  rw [e]
  unfold folioWindow
  iterate 2 rw [if_neg (by omega)]
  rw [if_pos (by omega), index_div _ h, index_mod _ h, tileOf_div_mod]

theorem ofAddr_infl (t : Tile) (o : Nat) (h : o < 0x100) :
    ofAddr (0x01000000 + (t.val / 24) * 0x00800000 + 0x001C0000 + (t.val % 24) * 0x100 + o) = inflSlot t o := by
  have e := ofAddr_folio ⟨t.val / 24, by omega⟩ (o := 0x001C0000 + (t.val % 24) * 0x100 + o) (by omega)
  simp only [← Nat.add_assoc] at e
  rw [e]
  unfold folioWindow
  iterate 3 rw [if_neg (by omega)]
  rw [if_pos (by omega), index_div _ h, index_mod _ h, tileOf_div_mod]

theorem ofAddr_vat (t : Tile) (o : Nat) (h : o < 0x100) :
    ofAddr (0x01000000 + (t.val / 24) * 0x00800000 + 0x001E0000 + (t.val % 24) * 0x100 + o) = vatSlot t o := by
  have e := ofAddr_folio ⟨t.val / 24, by omega⟩ (o := 0x001E0000 + (t.val % 24) * 0x100 + o) (by omega)
  simp only [← Nat.add_assoc] at e
  rw [e]
  unfold folioWindow
  iterate 4 rw [if_neg (by omega)]
  rw [if_pos (by omega), index_div _ h, index_mod _ h, tileOf_div_mod]

theorem ofAddr_blankBuf (f : Folio) (o : Nat) (h : o < 0x18) :
    ofAddr (0x01000000 + f.val * 0x00800000 + 0x00200000 + o) = .blank := by
  have e := ofAddr_folio f (o := 0x00200000 + o) (by omega)
  simp only [← Nat.add_assoc] at e
  rw [e]
  unfold folioWindow
  iterate 5 rw [if_neg (by omega)]
  rw [if_pos (by omega)]

theorem ofAddr_buf (f : Folio) {e : Fin 256} (he : e ≠ 0) (o : Nat) (h : o < 0x20) :
    ofAddr (0x01000000 + f.val * 0x00800000 + 0x00200000 + e.val * 0x20 + o) = bufSlot f e o := by
  have he : e.val ≠ 0 := fun h => he (Fin.ext h)
  have h1 := ofAddr_folio f (o := 0x00200000 + e.val * 0x20 + o) (by omega)
  simp only [← Nat.add_assoc] at h1
  rw [h1]
  unfold folioWindow
  iterate 6 rw [if_neg (by omega)]
  rw [if_pos (by omega), index_div _ h, index_mod _ h, ofNat_val]

theorem ofAddr_cache (f : Folio) (o : Nat) (h : o < 0x40) :
    ofAddr (0x01000000 + f.val * 0x00800000 + 0x00220000 + o) = cacheSlot f o := by
  have e := ofAddr_folio f (o := 0x00220000 + o) (by omega)
  simp only [← Nat.add_assoc] at e
  rw [e]
  unfold folioWindow
  iterate 7 rw [if_neg (by omega)]
  rw [if_pos (by omega), Nat.add_sub_cancel_left]

theorem ofAddr_folioXport (f : Folio) (o : Nat) (h : o < 0x50) :
    ofAddr (0x01000000 + f.val * 0x00800000 + 0x00240000 + o) = xportSlot (Fin.ofNat 10 f.val) o := by
  have e := ofAddr_folio f (o := 0x00240000 + o) (by omega)
  simp only [← Nat.add_assoc] at e
  rw [e]
  unfold folioWindow
  iterate 8 rw [if_neg (by omega)]
  rw [if_pos (by omega), Nat.add_sub_cancel_left]

theorem ofAddr_ecq (f : Folio) (q : Ecq) (o : Nat) (h : o < 0x40) :
    ofAddr (0x01000000 + f.val * 0x00800000 + 0x00300000 + q.val * 0x40 + o) = ecqSlot f q o := by
  have e := ofAddr_folio f (o := 0x00300000 + q.val * 0x40 + o) (by omega)
  simp only [← Nat.add_assoc] at e
  rw [e]
  unfold folioWindow
  iterate 9 rw [if_neg (by omega)]
  rw [if_pos (by omega), index_div _ h, index_mod _ h, ofNat_val]

theorem ofAddr_engine (f : Folio) (o : Nat) (h : o < 0x18) :
    ofAddr (0x01000000 + f.val * 0x00800000 + 0x00300400 + o) = engineSlot f o := by
  have e := ofAddr_folio f (o := 0x00300400 + o) (by omega)
  simp only [← Nat.add_assoc] at e
  rw [e]
  unfold folioWindow
  iterate 10 rw [if_neg (by omega)]
  rw [if_pos (by omega), Nat.add_sub_cancel_left]

theorem ofAddr_accRegion (f : Folio) (i : Fin 256) (o : Nat) (h : o < 0x20) :
    ofAddr (0x01000000 + f.val * 0x00800000 + 0x00301000 + i.val * 0x20 + o) = accRegionSlot f i o := by
  have e := ofAddr_folio f (o := 0x00301000 + i.val * 0x20 + o) (by omega)
  simp only [← Nat.add_assoc] at e
  rw [e]
  unfold folioWindow
  iterate 11 rw [if_neg (by omega)]
  rw [if_pos (by omega), index_div _ h, index_mod _ h, ofNat_val]

theorem ofAddr_aperture (f : Folio) (i : Fin 16) :
    ofAddr (0x01000000 + f.val * 0x00800000 + 0x00400000 + i.val * 8) = .reg (.aperture f i) := by
  have e := ofAddr_folio f (o := 0x00400000 + i.val * 8) (by omega)
  simp only [← Nat.add_assoc] at e
  rw [e]
  unfold folioWindow
  iterate 12 rw [if_neg (by omega)]
  rw [if_pos (by omega), Nat.add_sub_cancel_left, if_pos (Nat.mul_mod_left _ _), Nat.mul_div_cancel _ (by decide),
    ofNat_val]

theorem ofAddr_evq (f : Folio) (o : Nat) (h : 0x80 ≤ o) (h' : o < 0xB0) :
    ofAddr (0x01000000 + f.val * 0x00800000 + 0x00400000 + o) = evqSlot f o := by
  have e := ofAddr_folio f (o := 0x00400000 + o) (by omega)
  simp only [← Nat.add_assoc] at e
  rw [e]
  unfold folioWindow
  iterate 13 rw [if_neg (by omega)]
  rw [if_pos (by omega), Nat.add_sub_cancel_left]

theorem ofAddr_deckleXport (n : Deckle) (o : Nat) (h : o < 0x50) :
    ofAddr (0x05000000 + n.val * 0x00400000 + 0x4000 + o) = xportSlot (Fin.ofNat 10 (8 + n.val)) o := by
  have e := ofAddr_deckle n (o := 0x4000 + o) (by omega)
  simp only [← Nat.add_assoc] at e
  rw [e]
  unfold deckleWindow
  rw [if_neg (by omega), if_pos (by omega), Nat.add_sub_cancel_left]

theorem ofAddr_xport (d : Die) (o : Nat) (h : o < 0x50) : ofAddr (xportBase d + o) = xportSlot d o := by
  unfold xportBase
  split
  next hd => exact (ofAddr_folioXport ⟨d.val, hd⟩ o h).trans (congrArg (xportSlot · o) (ofNat_val d))
  next hd =>
    have e : Fin.ofNat 10 (8 + (d.val - 8)) = d := by
      rw [Nat.add_sub_cancel' (Nat.not_lt.mp hd)]
      exact ofNat_val d
    exact (ofAddr_deckleXport ⟨d.val - 8, by omega⟩ o h).trans (congrArg (xportSlot · o) e)

theorem ofAddr_switch (n : Deckle) (o : Nat) (h : o < 0x50) :
    ofAddr (0x05000000 + n.val * 0x00400000 + 0x8000 + o) = switchSlot n o := by
  have e := ofAddr_deckle n (o := 0x8000 + o) (by omega)
  simp only [← Nat.add_assoc] at e
  rw [e]
  unfold deckleWindow
  iterate 2 rw [if_neg (by omega)]
  rw [if_pos (by omega), Nat.add_sub_cancel_left]

theorem ofAddr_mirror (n : Deckle) (i : Fin 8) (o : Nat) (h : o < 0x40) :
    ofAddr (0x05000000 + n.val * 0x00400000 + 0x9000 + i.val * 0x40 + o) = mirrorSlot n i o := by
  have e := ofAddr_deckle n (o := 0x9000 + i.val * 0x40 + o) (by omega)
  simp only [← Nat.add_assoc] at e
  rw [e]
  unfold deckleWindow
  iterate 3 rw [if_neg (by omega)]
  rw [if_pos (by omega), index_div _ h, index_mod _ h, ofNat_val]

theorem ofAddr_route (n : Deckle) (o : Nat) (h : o < 0x28) :
    ofAddr (0x05000000 + n.val * 0x00400000 + 0x10000 + o) = routeSlot n o := by
  have e := ofAddr_deckle n (o := 0x10000 + o) (by omega)
  simp only [← Nat.add_assoc] at e
  rw [e]
  unfold deckleWindow
  iterate 4 rw [if_neg (by omega)]
  rw [if_pos (by omega), Nat.add_sub_cancel_left]

theorem ofAddr_globalTable (n : Deckle) (g : Fin 1024) :
    ofAddr (0x05000000 + n.val * 0x00400000 + 0x20000 + g.val * 8) = .reg (.globalTable n g) := by
  have e := ofAddr_deckle n (o := 0x20000 + g.val * 8) (by omega)
  simp only [← Nat.add_assoc] at e
  rw [e]
  unfold deckleWindow
  iterate 5 rw [if_neg (by omega)]
  rw [if_pos (by omega), if_pos (by omega), Nat.add_sub_cancel_left, Nat.mul_div_cancel _ (by decide), ofNat_val]

theorem ofAddr_viol {p : Port} {o : Nat} {r : Reg} (h : o < 0x20) (hr : violSlot p o = .reg r) :
    ofAddr (0x05000000 + (p.val / 32) * 0x00400000 + 0x30000 + p.val * 0x20 + o) = .reg r := by
  have e := ofAddr_deckle ⟨p.val / 32, by omega⟩ (o := 0x30000 + p.val * 0x20 + o) (by omega)
  simp only [← Nat.add_assoc] at e
  rw [e]
  unfold deckleWindow
  iterate 6 rw [if_neg (by omega)]
  rw [if_pos (by omega), index_div _ h, index_mod _ h]
  dsimp only
  rw [ofNat_val, hr]
  unfold violSlot at hr
  split at hr <;> cases hr <;> exact if_pos rfl

theorem ofAddr_line (l : Line) (o : Nat) (h : o < 0x10) :
    ofAddr (0x05800100 + l.val * 0x10 + o) = lineSlot l o := by
  have e := ofAddr_optics (o := 0x100 + l.val * 0x10 + o) (by omega)
  simp only [← Nat.add_assoc] at e
  rw [e]
  unfold opticsWindow
  iterate 2 rw [if_neg (by omega)]
  rw [if_pos (by omega), index_div _ h, index_mod _ h, ofNat_val]

theorem ofAddr_port (p : Port) (o : Nat) (h : o < 0x40) :
    ofAddr (0x05810000 + p.val * 0x40 + o) = portSlot p o := by
  have e := ofAddr_optics (o := 0x10000 + p.val * 0x40 + o) (by omega)
  simp only [← Nat.add_assoc] at e
  rw [e]
  unfold opticsWindow
  iterate 3 rw [if_neg (by omega)]
  rw [if_pos (by omega), index_div _ h, index_mod _ h, ofNat_val]

theorem ofAddr_felt (k : Felt) (o : Nat) (h : o < 0x20) :
    ofAddr (0x05820000 + k.val * 0x20 + o) = feltSlot k o := by
  have e := ofAddr_optics (o := 0x20000 + k.val * 0x20 + o) (by omega)
  simp only [← Nat.add_assoc] at e
  rw [e]
  unfold opticsWindow
  iterate 4 rw [if_neg (by omega)]
  rw [if_pos (by omega), index_div _ h, index_mod _ h, ofNat_val]

theorem ofAddr_twin (i : Pair) (o : Nat) (h : o < 0x20) :
    ofAddr (0x05830000 + i.val * 0x20 + o) = twinSlot i o := by
  have e := ofAddr_optics (o := 0x30000 + i.val * 0x20 + o) (by omega)
  simp only [← Nat.add_assoc] at e
  rw [e]
  unfold opticsWindow
  iterate 5 rw [if_neg (by omega)]
  rw [if_pos (by omega), index_div _ h, index_mod _ h, ofNat_val]

theorem ofAddr_heater (i : Fin 7274) (w : Fin 8) :
    ofAddr (0x05900000 + i.val * 0x40 + w.val * 8) = .reg (.heater i w) := by
  have e := ofAddr_optics (o := 0x100000 + i.val * 0x40 + w.val * 8) (by omega)
  simp only [← Nat.add_assoc] at e
  rw [e]
  unfold opticsWindow
  iterate 8 rw [if_neg (by omega)]
  have hw : (0x100000 + i.val * 0x40 + w.val * 8) % 0x40 / 8 = w.val := by omega
  rw [if_pos (by omega), if_pos (by omega), index_div _ (by omega), hw, ofNat_val, ofNat_val]

theorem ofAddr_shared {o : Nat} (h : o < 0x00400000) : ofAddr (0x05000000 + o) = deckleWindow 0 o := ofAddr_deckle 0 h

theorem ofAddr_coll (c : Coll) (o : Nat) (h : o < 0x100) :
    ofAddr (0x05100000 + c.val * 0x100 + o) = collSlot c o := by
  have e := ofAddr_shared (o := 0x100000 + c.val * 0x100 + o) (by omega)
  simp only [← Nat.add_assoc] at e
  refine e.trans ?_
  unfold deckleWindow
  iterate 7 rw [if_neg (by omega)]
  rw [if_pos (by omega), index_div _ h, index_mod _ h, ofNat_val]

theorem ofAddr_ringTable (c : Coll) (w : Fin 256) :
    ofAddr (0x05200000 + c.val * 0x800 + w.val * 8) = .reg (.ringTable c w) := by
  have e := ofAddr_shared (o := 0x200000 + c.val * 0x800 + w.val * 8) (by omega)
  simp only [← Nat.add_assoc] at e
  refine e.trans ?_
  unfold deckleWindow
  iterate 9 rw [if_neg (by omega)]
  have h : w.val * 8 < 0x800 := by omega
  rw [if_pos (by omega), if_pos (by omega), index_div _ h, index_mod _ h, Nat.mul_div_cancel _ (by decide),
    ofNat_val, ofNat_val]

theorem ofAddr_sensor (i : Fin 818) : ofAddr (0x00110000 + i.val * 8) = .reg (.sensor i) := by
  unfold ofAddr
  iterate 5 rw [if_neg (by omega)]
  rw [if_pos (by omega), if_pos (by omega), Nat.add_sub_cancel_left, Nat.mul_div_cancel _ (by decide), ofNat_val]

theorem ofAddr_faultSlot (i : Fin 4096) (w : Fin 4) :
    ofAddr (0x00401000 + i.val * 32 + w.val * 8) = .reg (.faultSlot i w) := by
  unfold ofAddr
  iterate 8 rw [if_neg (by omega)]
  have hw : (0x00401000 + i.val * 32 + w.val * 8) % 32 / 8 = w.val := by omega
  rw [if_pos (by omega), if_pos (by omega), index_div _ (by omega), hw, ofNat_val, ofNat_val]
theorem ofAddr_of_add_zero {a : Nat} {x : Target} (h : ofAddr (a + 0) = x) : ofAddr a = x := h

theorem ofAddr_bufBase (f : Folio) {e : Fin 256} (he : e ≠ 0) :
    ofAddr (addr (.bufBase f e)) = .reg (.bufBase f e) :=
  ofAddr_of_add_zero (ofAddr_buf f he 0 (by decide))

theorem ofAddr_bufSize (f : Folio) {e : Fin 256} (he : e ≠ 0) :
    ofAddr (addr (.bufSize f e)) = .reg (.bufSize f e) :=
  ofAddr_buf f he 8 (by decide)

theorem ofAddr_bufCtl (f : Folio) {e : Fin 256} (he : e ≠ 0) :
    ofAddr (addr (.bufCtl f e)) = .reg (.bufCtl f e) :=
  ofAddr_buf f he 0x10 (by decide)

theorem ofAddr_portLive (n : Deckle) : ofAddr (addr (.portLive n)) = .reg (.portLive n) := by
  have e : addr (.portLive n) = 0x05000000 + n.val * 0x00400000 + 0x10000 + 0x18 := by
    simp only [addr]
  rw [e, ofAddr_route n _ (by decide), routeSlot]

theorem ofAddr_ceDepth (n : Deckle) : ofAddr (addr (.ceDepth n)) = .reg (.ceDepth n) := by
  have e : addr (.ceDepth n) = 0x05000000 + n.val * 0x00400000 + 0x10000 + 0x20 := by
    simp only [addr]
  rw [e, ofAddr_route n _ (by decide), routeSlot]

theorem ofAddr_addr (r : Reg) (h : ∀ f : Folio, r ≠ .bufBase f 0 ∧ r ≠ .bufSize f 0 ∧ r ≠ .bufCtl f 0) :
    ofAddr r.addr = .reg r := by
  cases r with
  | bufBase f e => exact ofAddr_bufBase f fun he => (h f).1 (by rw [he])
  | bufSize f e => exact ofAddr_bufSize f fun he => (h f).2.1 (by rw [he])
  | bufCtl f e => exact ofAddr_bufCtl f fun he => (h f).2.2 (by rw [he])
  | seqCtl t => exact ofAddr_of_add_zero (ofAddr_tile t 0 (by decide))
  | seqPc t | excCause t | excPc t | excInfo t | numStatus t | strict t | srSeed t | srStep t | checkMiss t
  | scoreboard t | tagError t | haltCode t => exact ofAddr_tile t _ (by decide)
  | pressRepair t => exact ofAddr_of_add_zero (ofAddr_press t 0 (by decide))
  | pressService t | checkRows t | checkSkipped t | checkLast t | pressSteps t | pressStalls t =>
    exact ofAddr_press t _ (by decide)
  | inflRows t => exact ofAddr_of_add_zero (ofAddr_infl t 0 (by decide))
  | inflFuncRows t | inflEmpty t | laneRangeLast t | inflCouchWait t => exact ofAddr_infl t _ (by decide)
  | vatCorrected t => exact ofAddr_of_add_zero (ofAddr_vat t 0 (by decide))
  | vatUeLast t | vatPortWait t | dmaBytes t | dmaRejects t | dmaLastReject t => exact ofAddr_vat t _ (by decide)
  | folioStatus f => exact ofAddr_of_add_zero (ofAddr_folio f (o := 0) (by decide))
  | fcCtl f => exact ofAddr_of_add_zero (ofAddr_cache f 0 (by decide))
  | fcHits f | fcMisses f | fcPrefIssued f | fcPrefUsed f | fcHintsDropped f | fcCorrected f | fcUeLast f =>
    exact ofAddr_cache f _ (by decide)
  | xportRetx d => exact ofAddr_of_add_zero (ofAddr_xport d 0 (by decide))
  | xportTimeouts d | xportNaksSent d | xportNaksRcvd d | xportLastNak d | xportDuplicates d
  | xportAssemblyDrops d | xportOrphans d | xportCrcDrops d | xportNakSuppressed d =>
    exact ofAddr_xport d _ (by decide)
  | ecqBase f q => exact ofAddr_of_add_zero (ofAddr_ecq f q 0 (by decide))
  | ecqSize f q | ecqTailAddr f q | ecqHead f q | ecqCtl f q | ecqDone f q => exact ofAddr_ecq f q _ (by decide)
  | engOps f => exact ofAddr_of_add_zero (ofAddr_engine f 0 (by decide))
  | engNaks f | engCmds f => exact ofAddr_engine f _ (by decide)
  | regionTarget f r => exact ofAddr_of_add_zero (ofAddr_accRegion f r 0 (by decide))
  | regionCount f r | regionSlot f r | regionState f r => exact ofAddr_accRegion f r _ (by decide)
  | aperture f a => exact ofAddr_aperture f a
  | evqBase f | evqSize f | evqTail f | evqHead f | evqCtl f | evqStatus f =>
    exact ofAddr_evq f _ (by decide) (by decide)
  | reamStatus m => exact ofAddr_of_add_zero (ofAddr_ream m (o := 0) (by decide))
  | reamCorrected m | reamUeLast m | reamSpares m | reamScrub m | reamRefresh m | reamHammer m =>
    exact ofAddr_ream m (by decide)
  | tenseNow | tenseCtl | tenseStatus | tenseRootInit | tenseParents | tenseOffset | tenseLockLosses
  | tenseLateDiscards | tenseQuiesce | tenseBound | retxTimer | collStore | optCtl | lsmStatus | ringStatus
  | ringPeer | energyCtl | energyCap | energyStatus | energyWindow | energyTotal | exchPlanStart
  | exchPlanShape | exchForecast | thermalStatus | thermalHottest | thermalEvents | tripRecord | coolantStatus
  | marginStatus | featCtl | hqGlobal | biasFlipPage | biasFlipCtl | identPart | identFw | identSerial
  | dieRev0 | dieRev1 | devStatus | devReset | bootTime | modeCtl | recoveryCtl | recoveryData | debugStatus
  | mcStatus | faultRingTail | faultRingHead | faultRingLost | faultRingCtl | faultRingAck | suspectCtl
  | suspectMask | suspectExch | scoreId | scoreCtl | scoreCe | scoreRetry | scoreRetrain | scoreCrc
  | scoreTotal | scoreClear | sentStatus | sentRuns | sentStops | sentRingTail | mboxCmd | mboxResult => rfl
  | deckleId n => exact ofAddr_of_add_zero (ofAddr_deckle n (o := 0) (by decide))
  | switchCtl n => exact ofAddr_of_add_zero (ofAddr_switch n 0 (by decide))
  | switchStatus n | allowList0 n | allowList1 n | portMode n | xbarPushouts n | xbarCutThrough n | origStore n
  | portLosses n | requeued n => exact ofAddr_switch n _ (by decide)
  | mirrorCtl n s => exact ofAddr_of_add_zero (ofAddr_mirror n s 0 (by decide))
  | mirrorSrc n s | mirrorValueLo n s | mirrorValueHi n s | mirrorMaskLo n s | mirrorMaskHi n s
  | mirrorSent n s | mirrorDrops n s => exact ofAddr_mirror n s _ (by decide)
  | routeCtl n => exact ofAddr_of_add_zero (ofAddr_route n 0 (by decide))
  | memberValid n => exact ofAddr_route n _ (by decide)
  | portLive n => exact ofAddr_portLive n
  | ceDepth n => exact ofAddr_ceDepth n
  | globalTable n g => exact ofAddr_globalTable n g
  | portViol p => exact ofAddr_of_add_zero (ofAddr_viol (by decide) rfl)
  | portViolLimit p => exact ofAddr_viol (o := 0x8) (by decide) rfl
  | portCrcDrops p => exact ofAddr_viol (o := 0x10) (by decide) rfl
  | collCtl c => exact ofAddr_of_add_zero (ofAddr_coll c 0 (by decide))
  | collShape c | collKey c | collTiles0 c | collTiles1 c | collTiles2 c | collStage c | collTimeout c
  | collStatus c | collSteps c | collLastArrival c | collErrors c => exact ofAddr_coll c _ (by decide)
  | ringTable c w => exact ofAddr_ringTable c w
  | linePower l => exact ofAddr_of_add_zero (ofAddr_line l 0 (by decide))
  | lineDrive l => exact ofAddr_line l _ (by decide)
  | portPhy p => exact ofAddr_of_add_zero (ofAddr_port p 0 (by decide))
  | laneMapTx p | laneMapRx p | fecCorrected p | fecUncorrected p | laneEvents p | portAdmit p | portAsym p =>
    exact ofAddr_port p _ (by decide)
  | feltLink k => exact ofAddr_of_add_zero (ofAddr_felt k 0 (by decide))
  | feltEvents k => exact ofAddr_felt k _ (by decide)
  | twinStatus i => exact ofAddr_of_add_zero (ofAddr_twin i 0 (by decide))
  | twinErrors i => exact ofAddr_twin i _ (by decide)
  | heater r w => exact ofAddr_heater r w
  | folioPower f => exact ofAddr_of_add_zero (ofAddr_folioEnergy f (o := 0) (by decide))
  | folioGrant f | folioCal f | folioDvfs f => exact ofAddr_folioEnergy f (by decide)
  | sensor i => exact ofAddr_sensor i
  | featDevice w | featDriver w | featEnabled w | mboxArg w => fin_cases w <;> rfl
  | hqSqBase q => exact ofAddr_of_add_zero (ofAddr_hq q (o := 0) (by decide))
  | hqSqSize q | hqTailAddr q | hqHead q | hqCqBase q | hqCtl q | hqStatus q => exact ofAddr_hq q (by decide)
  | faultSlot s w => exact ofAddr_faultSlot s w
  | peerArrival m => fin_cases m <;> rfl

theorem xportBase_mod_eight_and_lt (d : Die) : xportBase d % 8 = 0 ∧ xportBase d < 0x06000000 := by
  unfold xportBase
  split <;> omega

theorem addr_mod_eight_and_lt (r : Reg) : r.addr % 8 = 0 ∧ r.addr < 2 ^ 27 := by
  cases r with
  | xportRetx d | xportTimeouts d | xportNaksSent d | xportNaksRcvd d | xportLastNak d | xportDuplicates d
  | xportAssemblyDrops d | xportOrphans d | xportCrcDrops d | xportNakSuppressed d =>
    have := xportBase_mod_eight_and_lt d
    simp only [addr]
    omega
  | _ => constructor <;> simp only [addr] <;> omega

/-! An offset that reaches a register is the register's own, but for the registers that both deckle windows
address. -/

theorem tileOf_div {f n : Nat} (hf : f < 8) (hn : n < 24) : (tileOf f n).val / 24 = f := by
  have : 24 * f + n < 192 := by omega
  simp only [tileOf, Fin.val_ofNat]
  omega

theorem tileOf_mod {f n : Nat} (hf : f < 8) (hn : n < 24) : (tileOf f n).val % 24 = n := by
  have : 24 * f + n < 192 := by omega
  simp only [tileOf, Fin.val_ofNat]
  omega

theorem ofNat_val_of_lt {n k : Nat} [NeZero n] (h : k < n) : (Fin.ofNat n k).val = k := Nat.mod_eq_of_lt h

theorem addr_of_folioWindow {f : Folio} {o : Nat} {r : Reg} (h : folioWindow f o = .reg r) :
    r.addr = 0x01000000 + f.val * 0x00800000 + o := by
  unfold folioWindow at h
  obtain ⟨hc, h⟩ | ⟨hc, h⟩ := ite_eq_iff.mp h
  · cases h
    simp only [addr]
    omega
  obtain ⟨hc, h⟩ | ⟨hc, h⟩ := ite_eq_iff.mp h
  · have e := addr_of_tileSlot h
    rw [tileOf_div f.2 (by omega), tileOf_mod f.2 (by omega)] at e
    omega
  obtain ⟨hc, h⟩ | ⟨hc, h⟩ := ite_eq_iff.mp h
  · have e := addr_of_pressSlot h
    rw [tileOf_div f.2 (by omega), tileOf_mod f.2 (by omega)] at e
    omega
  obtain ⟨hc, h⟩ | ⟨hc, h⟩ := ite_eq_iff.mp h
  · have e := addr_of_inflSlot h
    rw [tileOf_div f.2 (by omega), tileOf_mod f.2 (by omega)] at e
    omega
  obtain ⟨hc, h⟩ | ⟨hc, h⟩ := ite_eq_iff.mp h
  · have e := addr_of_vatSlot h
    rw [tileOf_div f.2 (by omega), tileOf_mod f.2 (by omega)] at e
    omega
  obtain ⟨hc, h⟩ | ⟨hc, h⟩ := ite_eq_iff.mp h
  · cases h
  obtain ⟨hc, h⟩ | ⟨hc, h⟩ := ite_eq_iff.mp h
  · have e := addr_of_bufSlot h
    rw [ofNat_val_of_lt (by omega)] at e
    omega
  obtain ⟨hc, h⟩ | ⟨hc, h⟩ := ite_eq_iff.mp h
  · have e := addr_of_cacheSlot h
    omega
  obtain ⟨hc, h⟩ | ⟨hc, h⟩ := ite_eq_iff.mp h
  · have e := addr_of_xportSlot h
    rw [xportBase, ofNat_val_of_lt (by omega), if_pos f.2] at e
    omega
  obtain ⟨hc, h⟩ | ⟨hc, h⟩ := ite_eq_iff.mp h
  · have e := addr_of_ecqSlot h
    rw [ofNat_val_of_lt (by omega)] at e
    omega
  obtain ⟨hc, h⟩ | ⟨hc, h⟩ := ite_eq_iff.mp h
  · have e := addr_of_engineSlot h
    omega
  obtain ⟨hc, h⟩ | ⟨hc, h⟩ := ite_eq_iff.mp h
  · have e := addr_of_accRegionSlot h
    rw [ofNat_val_of_lt (by omega)] at e
    omega
  obtain ⟨hc, h⟩ | ⟨hc, h⟩ := ite_eq_iff.mp h
  · obtain ⟨hd, h⟩ | ⟨hd, h⟩ := ite_eq_iff.mp h
    · cases h
      simp only [addr, Fin.val_ofNat]
      omega
    · cases h
  obtain ⟨hc, h⟩ | ⟨hc, h⟩ := ite_eq_iff.mp h
  · have e := addr_of_evqSlot h
    omega
  cases h

theorem sharedReg_of_collSlot {c : Coll} {o : Nat} {r : Reg} (h : collSlot c o = .reg r) :
    Machine.sharedReg r = true := by
  unfold collSlot at h
  split at h <;> cases h <;> rfl

/-- Where a register of a deckle window lies: at the window's offset, or, for one that both windows address, at the
same offset in the window of deckle 0. -/
def AtDeckle (n : Deckle) (o : Nat) (r : Reg) : Prop :=
  r.addr = 0x05000000 + n.val * 0x00400000 + o ∨ (Machine.sharedReg r = true ∧ r.addr = 0x05000000 + o)

theorem atDeckle_of_routeSlot {n : Deckle} {o k : Nat} {r : Reg} (h : routeSlot n o = .reg r) (hk : k = 0x10000 + o) :
    AtDeckle n k r := by
  subst hk
  unfold routeSlot at h
  split at h <;> cases h
  · exact .inl rfl
  · exact .inl rfl
  · exact .inr ⟨rfl, rfl⟩
  · exact .inl rfl
  · exact .inl rfl

theorem atDeckle_of_deckleWindow {n : Deckle} {o : Nat} {r : Reg} (h : deckleWindow n o = .reg r) :
    AtDeckle n o r := by
  unfold deckleWindow at h
  obtain ⟨hc, h⟩ | ⟨hc, h⟩ := ite_eq_iff.mp h
  · left
    cases h
    simp only [addr]
    omega
  obtain ⟨hc, h⟩ | ⟨hc, h⟩ := ite_eq_iff.mp h
  · left
    have e := addr_of_xportSlot h
    rw [xportBase, ofNat_val_of_lt (by omega), if_neg (by omega)] at e
    omega
  obtain ⟨hc, h⟩ | ⟨hc, h⟩ := ite_eq_iff.mp h
  · left
    have e := addr_of_switchSlot h
    omega
  obtain ⟨hc, h⟩ | ⟨hc, h⟩ := ite_eq_iff.mp h
  · left
    have e := addr_of_mirrorSlot h
    rw [ofNat_val_of_lt (by omega)] at e
    omega
  obtain ⟨hc, h⟩ | ⟨hc, h⟩ := ite_eq_iff.mp h
  · exact atDeckle_of_routeSlot h (Nat.add_sub_cancel' (by omega)).symm
  obtain ⟨hc, h⟩ | ⟨hc, h⟩ := ite_eq_iff.mp h
  · left
    obtain ⟨hd, h⟩ | ⟨hd, h⟩ := ite_eq_iff.mp h
    · cases h
      simp only [addr, Fin.val_ofNat]
      omega
    · cases h
  obtain ⟨hc, h⟩ | ⟨hc, h⟩ := ite_eq_iff.mp h
  · left
    dsimp only at h
    split at h
    case h_4 => cases h
    all_goals
      obtain ⟨hd, h⟩ | ⟨hd, h⟩ := ite_eq_iff.mp h
      · cases h
        have e := addr_of_violSlot ‹violSlot _ _ = _›
        rw [ofNat_val_of_lt (by omega), hd] at e
        omega
      · cases h
  obtain ⟨hc, h⟩ | ⟨hc, h⟩ := ite_eq_iff.mp h
  · right
    have e := addr_of_collSlot h
    rw [ofNat_val_of_lt (by omega)] at e
    exact ⟨sharedReg_of_collSlot h, by omega⟩
  obtain ⟨hc, h⟩ | ⟨hc, h⟩ := ite_eq_iff.mp h
  · right
    cases h
    exact ⟨rfl, by simp only [addr]; omega⟩
  obtain ⟨hc, h⟩ | ⟨hc, h⟩ := ite_eq_iff.mp h
  · right
    obtain ⟨hd, h⟩ | ⟨hd, h⟩ := ite_eq_iff.mp h
    · cases h
      exact ⟨rfl, by simp only [addr, Fin.val_ofNat]; omega⟩
    · cases h
  cases h

theorem addr_of_opticsWindow {o : Nat} {r : Reg} (h : opticsWindow o = .reg r) : r.addr = 0x05800000 + o := by
  unfold opticsWindow at h
  obtain ⟨hc, h⟩ | ⟨hc, h⟩ := ite_eq_iff.mp h
  · cases h
    simp only [addr]
    omega
  obtain ⟨hc, h⟩ | ⟨hc, h⟩ := ite_eq_iff.mp h
  · cases h
    simp only [addr]
    omega
  obtain ⟨hc, h⟩ | ⟨hc, h⟩ := ite_eq_iff.mp h
  · have e := addr_of_lineSlot h
    rw [ofNat_val_of_lt (by omega)] at e
    omega
  obtain ⟨hc, h⟩ | ⟨hc, h⟩ := ite_eq_iff.mp h
  · have e := addr_of_portSlot h
    rw [ofNat_val_of_lt (by omega)] at e
    omega
  obtain ⟨hc, h⟩ | ⟨hc, h⟩ := ite_eq_iff.mp h
  · have e := addr_of_feltSlot h
    rw [ofNat_val_of_lt (by omega)] at e
    omega
  obtain ⟨hc, h⟩ | ⟨hc, h⟩ := ite_eq_iff.mp h
  · have e := addr_of_twinSlot h
    rw [ofNat_val_of_lt (by omega)] at e
    omega
  obtain ⟨hc, h⟩ | ⟨hc, h⟩ := ite_eq_iff.mp h
  · cases h
    simp only [addr]
    omega
  obtain ⟨hc, h⟩ | ⟨hc, h⟩ := ite_eq_iff.mp h
  · cases h
    simp only [addr]
    omega
  obtain ⟨hc, h⟩ | ⟨hc, h⟩ := ite_eq_iff.mp h
  · obtain ⟨hd, h⟩ | ⟨hd, h⟩ := ite_eq_iff.mp h
    · cases h
      simp only [addr, Fin.val_ofNat]
      omega
    · cases h
  cases h

theorem addr_of_ofAddr {a : Nat} {r : Reg} (h : ofAddr a = .reg r) :
    r.addr = a ∨ (Machine.sharedReg r = true ∧ r.addr + 0x400000 = a) := by
  unfold ofAddr at h
  obtain ⟨hc, h⟩ | ⟨hc, h⟩ := ite_eq_iff.mp h
  · left
    exact addr_of_identSlot h
  obtain ⟨hc, h⟩ | ⟨hc, h⟩ := ite_eq_iff.mp h
  · left
    have e := addr_of_featSlot h
    omega
  obtain ⟨hc, h⟩ | ⟨hc, h⟩ := ite_eq_iff.mp h
  · left
    have e := addr_of_hqSlot h
    rw [ofNat_val_of_lt (by omega)] at e
    omega
  obtain ⟨hc, h⟩ | ⟨hc, h⟩ := ite_eq_iff.mp h
  · left
    have e := addr_of_energySlot h
    omega
  obtain ⟨hc, h⟩ | ⟨hc, h⟩ := ite_eq_iff.mp h
  · left
    have e := addr_of_folioEnergySlot h
    rw [ofNat_val_of_lt (by omega)] at e
    omega
  obtain ⟨hc, h⟩ | ⟨hc, h⟩ := ite_eq_iff.mp h
  · left
    obtain ⟨hd, h⟩ | ⟨hd, h⟩ := ite_eq_iff.mp h
    · cases h
      simp only [addr, Fin.val_ofNat]
      omega
    · cases h
  obtain ⟨hc, h⟩ | ⟨hc, h⟩ := ite_eq_iff.mp h
  · left
    have e := addr_of_tenseSlot h
    omega
  obtain ⟨hc, h⟩ | ⟨hc, h⟩ := ite_eq_iff.mp h
  · left
    have e := addr_of_faultRingSlot h
    omega
  obtain ⟨hc, h⟩ | ⟨hc, h⟩ := ite_eq_iff.mp h
  · left
    obtain ⟨hd, h⟩ | ⟨hd, h⟩ := ite_eq_iff.mp h
    · cases h
      simp only [addr, Fin.val_ofNat]
      omega
    · cases h
  obtain ⟨hc, h⟩ | ⟨hc, h⟩ := ite_eq_iff.mp h
  · left
    have e := addr_of_fleetSlot h
    omega
  obtain ⟨hc, h⟩ | ⟨hc, h⟩ := ite_eq_iff.mp h
  · left
    have e := addr_of_folioWindow h
    rw [ofNat_val_of_lt (by omega)] at e
    omega
  obtain ⟨hc, h⟩ | ⟨hc, h⟩ := ite_eq_iff.mp h
  · obtain e | ⟨hs, e⟩ := atDeckle_of_deckleWindow h
    · rw [ofNat_val_of_lt (by omega)] at e
      left
      omega
    · by_cases ha : a < 0x05400000
      · left
        omega
      · right
        exact ⟨hs, by omega⟩
  obtain ⟨hc, h⟩ | ⟨hc, h⟩ := ite_eq_iff.mp h
  · left
    have e := addr_of_opticsWindow h
    omega
  obtain ⟨hc, h⟩ | ⟨hc, h⟩ := ite_eq_iff.mp h
  · left
    have e := addr_of_reamSlot h
    rw [ofNat_val_of_lt (by omega)] at e
    omega
  obtain ⟨hc, h⟩ | ⟨hc, h⟩ := ite_eq_iff.mp h
  · left
    have e := addr_of_mboxSlot h
    omega
  cases h

/-- A register of entry 0 of a folio's buffer table, which reads as nothing (R202). -/
def IsEntryZero (r : Reg) : Prop := ∃ (f : Folio) (o : Nat), o < 0x18 ∧ bufSlot f 0 o = .reg r

theorem ofAddr_addr_of_isEntryZero {r : Reg} (h : r.IsEntryZero) : ofAddr r.addr = .blank := by
  obtain ⟨f, o, ho, h⟩ := h
  rw [addr_of_bufSlot h]
  exact ofAddr_blankBuf f o ho

theorem ofAddr_addr_of_not_isEntryZero {r : Reg} (h : ¬ r.IsEntryZero) : ofAddr r.addr = .reg r :=
  ofAddr_addr r fun f =>
    ⟨fun e => h ⟨f, 0, by decide, by rw [e]; rfl⟩, fun e => h ⟨f, 8, by decide, by rw [e]; rfl⟩,
      fun e => h ⟨f, 0x10, by decide, by rw [e]; rfl⟩⟩

theorem addr_injective_of_isEntryZero {r q : Reg} (hr : r.IsEntryZero) (hq : q.IsEntryZero) (h : r.addr = q.addr) :
    r = q := by
  obtain ⟨f, o, ho, hr⟩ := hr
  obtain ⟨g, k, hk, hq⟩ := hq
  rw [addr_of_bufSlot hr, addr_of_bufSlot hq] at h
  obtain rfl : f = g := Fin.ext (by omega)
  obtain rfl : o = k := by omega
  rw [hr] at hq
  exact Target.reg.inj hq

theorem addr_injective {r q : Reg} (h : r.addr = q.addr) : r = q := by
  by_cases hr : r.IsEntryZero
  · by_cases hq : q.IsEntryZero
    · exact addr_injective_of_isEntryZero hr hq h
    · have e := ofAddr_addr_of_isEntryZero hr
      rw [h, ofAddr_addr_of_not_isEntryZero hq] at e
      cases e
  · have e := ofAddr_addr_of_not_isEntryZero hr
    by_cases hq : q.IsEntryZero
    · rw [h, ofAddr_addr_of_isEntryZero hq] at e
      cases e
    · rw [h, ofAddr_addr_of_not_isEntryZero hq] at e
      cases e
      rfl
end Sys2Proof.Reg

open Sys2Proof

/-- Settles O35: each table of the map has one lemma for each direction. -/
theorem registerAddressesRoundTrip : Obligations.RegisterAddressesRoundTrip :=
  ⟨Reg.ofAddr_addr,
    fun f => ⟨Reg.ofAddr_addr_of_isEntryZero ⟨f, 0, by decide, rfl⟩,
      Reg.ofAddr_addr_of_isEntryZero ⟨f, 8, by decide, rfl⟩,
      Reg.ofAddr_addr_of_isEntryZero ⟨f, 0x10, by decide, rfl⟩⟩,
    Reg.addr_mod_eight_and_lt, fun _ _ => Reg.addr_of_ofAddr⟩

end

section
/-! PROOFS. What every command keeps, by one lemma for each function of the model that answers a state: its state stands
in `Keeps` after `a` if the state it is given does, so a function's lemma is the chain of those of the functions it calls,
with a case for each branch. -/

/- The lemmas are short and many: elaborated side by side, each that is done waits in a thread of its own for the kernel
to check those before it. -/
set_option Elab.async false

namespace Sys2Proof.Machine

/-- From `s` to `s'` memory and registers stay in canonical form, the queue and the time are as they were, values are
only drawn, and outputs are only appended. -/
structure Keeps (s s' : State) : Prop where
  wf : s.wf = true → s'.wf = true
  pending : s'.pending = s.pending
  now : s'.now = s.now
  free : s.free ≤ s'.free
  out : s.out <+: s'.out

namespace Keeps
variable {a b c s s' : State} {α β : Type} {p : Prop}

theorem refl (s : State) : Keeps s s := ⟨id, rfl, rfl, le_rfl, List.prefix_rfl⟩

theorem trans (h : Keeps a b) (k : Keeps b c) : Keeps a c :=
  ⟨k.wf ∘ h.wf, k.pending.trans h.pending, k.now.trans h.now, h.free.trans k.free, h.out.trans k.out⟩

theorem pipe (h : Keeps a s) (k : Keeps a s → Keeps a b) : Keeps a b := k h

theorem branch [Decidable p] (h : Keeps a s) (hb : Keeps a s → Keeps a b) (hc : Keeps a s → Keeps a c) :
    Keeps a (if p then b else c) := by
  split
  · exact hb h
  · exact hc h

theorem when [Decidable p] (h : Keeps a s) (hb : Keeps a s → Keeps a b) : Keeps a (if p then b else s) :=
  h.branch hb id

theorem whenNot [Decidable p] (h : Keeps a s) (hb : Keeps a s → Keeps a b) : Keeps a (if p then s else b) :=
  h.branch id hb

theorem branchFst [Decidable p] {x y : State × α} (h : Keeps a s) (hx : Keeps a s → Keeps a x.1)
    (hy : Keeps a s → Keeps a y.1) : Keeps a (if p then x else y).1 := by
  split
  · exact hx h
  · exact hy h

theorem whenFst [Decidable p] {x : State × α} {y : α} (h : Keeps a s) (hx : Keeps a s → Keeps a x.1) :
    Keeps a (if p then x else (s, y)).1 := h.branchFst hx id

theorem whenNotFst [Decidable p] {x : State × α} {y : α} (h : Keeps a s) (hx : Keeps a s → Keeps a x.1) :
    Keeps a (if p then (s, y) else x).1 := h.branchFst id hx

theorem ofFst {x : State × α} {y : α} (h : Keeps a x.1) (e : x = (s, y)) : Keeps a s := by
  rw [e] at h
  exact h

theorem foldl {f : State → α → State} {l : List α} (h : Keeps a s) (hf : ∀ s x, Keeps a s → Keeps a (f s x)) :
    Keeps a (l.foldl f s) := by
  induction l generalizing s with
  | nil => exact h
  | cons x l ih => exact ih (hf s x h)

theorem fst {x : α} (h : Keeps a s) : Keeps a (s, x).1 := h

theorem foldlFst {f : State × β → α → State × β} {l : List α} {z : β} (h : Keeps a s)
    (hf : ∀ x y, Keeps a x.1 → Keeps a (f x y).1) : Keeps a (l.foldl f (s, z)).1 := by
  suffices ∀ x, Keeps a x.1 → Keeps a (l.foldl f x).1 from this _ h
  induction l with
  | nil => exact fun _ h => h
  | cons y l ih => exact fun x h => ih _ (hf x y h)

theorem frame (h : Keeps a s) (regs : s'.regs = s.regs := by rfl) (mem : s'.mem = s.mem := by rfl)
    (pending : s'.pending = s.pending := by rfl) (now : s'.now = s.now := by rfl) (free : s'.free = s.free := by rfl)
    (out : s'.out = s.out := by rfl) : Keeps a s' :=
  h.trans ⟨fun w => by rw [State.wf, regs, mem]; exact w, pending, now, free.ge, by rw [out]⟩

end Keeps

theorem State.wf_iff {s : State} :
    s.wf = true ↔ s.mem.wf = true ∧ Store.wf Reg.addr Reg.resetValue s.regs = true := by
  simp [State.wf]

variable {a b c s s' : State}

/-! ### Machine/Ops.lean -/

theorem Keeps.setReg {r v} (h : Keeps a s) : Keeps a (s.setReg r v) :=
  h.trans ⟨fun w => by
    rw [State.wf_iff] at w ⊢
    exact ⟨w.1, Store.put_wf (fun _ _ => Reg.addr_injective) r v w.2⟩, rfl, rfl, le_rfl, List.prefix_rfl⟩

theorem Keeps.setFld {r f v} (h : Keeps a s) : Keeps a (s.setFld r f v) :=
  h.setReg

theorem Keeps.setFlag {r f b} (h : Keeps a s) : Keeps a (s.setFlag r f b) :=
  h.setFld

theorem Keeps.scoreSum (h : Keeps a s) : Keeps a s.scoreSum :=
  h.setFld

theorem Keeps.score {r n} (h : Keeps a s) : Keeps a (s.score r n) :=
  h.setFld.setFld.scoreSum

theorem Keeps.bump {r f n} (h : Keeps a s) : Keeps a (s.bump r f n) := by
  unfold State.bump
  exact h.setFld.pipe (fun h => by split; exacts [h.score, h])

theorem Keeps.resetRegs {p} (h : Keeps a s) : Keeps a (s.resetRegs p) :=
  h.trans ⟨fun w => by
    rw [State.wf_iff] at w ⊢
    exact ⟨w.1, Store.filter_wf _ w.2⟩, rfl, rfl, le_rfl, List.prefix_rfl⟩

theorem Keeps.withMem {m} (h : Keeps a s) (hm : s.mem.wf = true → m.wf = true) : Keeps a { s with mem := m } :=
  h.trans ⟨fun w => by
    rw [State.wf_iff] at w ⊢
    exact ⟨hm w.1, w.2⟩, rfl, rfl, le_rfl, List.prefix_rfl⟩

theorem Keeps.writeMem {a' bs} (h : Keeps a s) : Keeps a (s.writeMem a' bs) :=
  h.withMem (Memory.writeBytes_wf _ _)

theorem Keeps.setTile {t v} (h : Keeps a s) : Keeps a (s.setTile t v) :=
  h.frame

theorem Keeps.updTile {t f} (h : Keeps a s) : Keeps a (s.updTile t f) :=
  h.setTile

theorem Keeps.emit {o} (h : Keeps a s) : Keeps a (s.emit o) :=
  h.trans ⟨id, rfl, rfl, le_rfl, List.prefix_append _ _⟩

theorem Keeps.draw (h : Keeps a s) : Keeps a s.draw :=
  h.trans ⟨id, rfl, rfl, Nat.le_succ _, List.prefix_rfl⟩

theorem Keeps.chargeFolio {f e} (h : Keeps a s) : Keeps a (s.chargeFolio f e) :=
  h.whenNot (·.frame)

theorem Keeps.fault {code die inst d0 d1} (h : Keeps a s) : Keeps a (s.fault code die inst d0 d1) :=
  h.when (·.bump) |>.setReg |>.setReg |>.setReg |>.setReg |>.setReg |>.setReg

theorem Keeps.regFault {code off v} (h : Keeps a s) : Keeps a (s.regFault code off v) :=
  h.fault

/-! ### Machine/Flags.lean -/

theorem Keeps.setFlags {t f} (h : Keeps a s) : Keeps a (s.setFlags t f) :=
  h.setReg

theorem Keeps.busyTag {t i} (h : Keeps a s) : Keeps a (s.busyTag t i) :=
  h.setReg

theorem Keeps.clearTag {t i} (h : Keeps a s) : Keeps a (s.clearTag t i) :=
  h.setReg

theorem Keeps.clearTagError {t i} (h : Keeps a s) : Keeps a (s.clearTagError t i) :=
  h.clearTag.setReg

theorem Keeps.clearMark {t i} (h : Keeps a s) : Keeps a (s.clearMark t i) :=
  h.setReg

/-! ### Machine/Switch.lean -/

theorem Keeps.updNet {f} (h : Keeps a s) : Keeps a (s.updNet f) :=
  h.frame

theorem Keeps.setXbar {n x} (h : Keeps a s) : Keeps a (s.setXbar n x) :=
  h.updNet

theorem Keeps.updXbar {n f} (h : Keeps a s) : Keeps a (s.updXbar n f) :=
  h.setXbar

theorem Keeps.setPortLive {p b} (h : Keeps a s) : Keeps a (s.setPortLive p b) :=
  h.setReg.setReg

theorem Keeps.enter {n pt h'} (h : Keeps a s) (e : s.enter n pt h' = some s') : Keeps a s' := by
  dsimp only [State.enter] at e
  split at e
  · obtain rfl := Option.some.inj e
    exact h.setXbar
  · split at e
    · cases e
    · obtain rfl := Option.some.inj e
      exact h.setXbar.bump.when (·.bump)

theorem Keeps.enterGetD {n pt h' b} (h : Keeps a s) (hb : Keeps a b) : Keeps a ((s.enter n pt h').getD b) := by
  cases e : s.enter n pt h' with
  | none => exact hb
  | some s' => exact h.enter e

theorem Keeps.newHeld {n c sh inp out slot} (h : Keeps a s) : Keeps a (s.newHeld n c sh inp out slot).1 :=
  h.setXbar.fst

theorem Keeps.originate {n targets group} (h : Keeps a s) : Keeps a (s.originate n targets group) :=
  h.setXbar.setFld

theorem Keeps.awaitStore {n o} (h : Keeps a s) : Keeps a (s.awaitStore n o) :=
  h.updXbar

theorem Keeps.noteSent {d c} (h : Keeps a s) : Keeps a (s.noteSent d c) := by
  unfold State.noteSent
  split
  exacts [h, h.updNet]

theorem Keeps.depart {d c} (h : Keeps a s) : Keeps a (s.depart d c).1 := by
  dsimp only [State.depart]
  exact h.noteSent.whenNotFst fun h => by
    split
    exacts [h.fst, h.updNet.pipe (fun h => by split; exacts [h.updTile.fst, h.fst])]

theorem Keeps.departAll {d ps} (h : Keeps a s) : Keeps a (s.departAll d ps).1 := by
  induction ps generalizing s with
  | nil => exact h
  | cons p ps ih => exact ih h.depart

theorem Keeps.fillStore {n} (h : Keeps a s) : Keeps a (s.fillStore n) := by
  unfold State.fillStore
  exact h.foldl (fun _ _ h => h.pipe (fun h => by split; exacts [h.updXbar.departAll.originate, h]))

theorem Keeps.enqueuePointer {n h'} (h : Keeps a s) (e : s.enqueuePointer n h' = some s') : Keeps a s' := by
  unfold State.enqueuePointer at e
  split at e
  · exact h.enter e
  · obtain rfl := Option.some.inj e
    exact h.updXbar.updNet

theorem Keeps.enqueuePointers {n} {hs : List Held} {o : Option State} (h : ∀ u, o = some u → Keeps a u)
    (e : hs.foldl (fun o h => o.bind (fun s => s.enqueuePointer n h)) o = some s') : Keeps a s' := by
  induction hs generalizing o with
  | nil => exact h _ e
  | cons x hs ih =>
    refine ih (fun u hu => ?_) e
    obtain ⟨v, hv, hu⟩ := Option.bind_eq_some_iff.mp hu
    exact (h v hv).enqueuePointer hu

theorem Keeps.enqueueOrigins {n} (h : Keeps a s) : Keeps a (s.enqueueOrigins n) :=
  h.foldl fun s i h => by
    cases e : (((s.xbar n).held.filter (fun h => h.point = .origin && h.slot = some i)).foldl
      (fun (o : Option State) h => o.bind (fun s => s.enqueuePointer n h)) (some s)) with
    | none =>
      dsimp only
      rw [e]
      exact h
    | some s' =>
      dsimp only
      rw [e]
      exact Keeps.enqueuePointers (fun u hu => Option.some.inj hu ▸ h) e

theorem Keeps.mirrorCopy {n k q egress refused c} (h : Keeps a s) : Keeps a (s.mirrorCopy n k q egress refused c) :=
  h.setXbar.branch (fun h => h.foldl (fun _ _ h => h.originate)) (·.bump)

theorem Keeps.mirror {n q egress refused c} (h : Keeps a s) : Keeps a (s.mirror n q egress refused c) :=
  h.foldl (fun _ _ h => h.when (fun h => h.setXbar.when (·.mirrorCopy)))

theorem Keeps.setLinkCredit {p l} (h : Keeps a s) : Keeps a (s.setLinkCredit p l) :=
  h.updNet

theorem Keeps.toFolio {f c} (h : Keeps a s) : Keeps a (s.toFolio f c) :=
  h.branch (·.updNet) (·.updNet)

theorem Keeps.mirrorSent {n c} (h : Keeps a s) : Keeps a (s.mirrorSent n c) :=
  h.whenNot (fun h => h.branch (·.updXbar) (fun h => h.when (·.updXbar.bump)))

theorem Keeps.transmit {n q c} (h : Keeps a s) : Keeps a (s.transmit n q c) := by
  unfold State.transmit
  exact h.mirror.mirrorSent.updXbar.pipe fun h => by
    split
    · exact h.branch (·.emit) (fun h => h.pipe (fun h => by split; exacts [h.setLinkCredit, h]) |>.emit)
    · exact h.toFolio
    · exact h.updNet

theorem Keeps.stage1 {n c} (h : Keeps a s) : Keeps a (s.stage1 n c) := by
  unfold State.stage1
  exact h.foldl fun _ _ h => by dsimp only; split; exacts [h.enterGetD h, h]

theorem Keeps.stage2 {n c} (h : Keeps a s) : Keeps a (s.stage2 n c) := by
  unfold State.stage2
  exact h.foldl fun s q h => by
    dsimp only
    generalize bestHeld _ = x
    cases x with
    | none => exact h
    | some x => exact h.enterGetD h

theorem Keeps.stageEnd {n c} (h : Keeps a s) : Keeps a (s.stageEnd n c) := by
  dsimp only [State.stageEnd]
  split
  exacts [h.updXbar.updNet, h]

theorem Keeps.planeIter {n m first done} (h : Keeps a s) : Keeps a (s.planeIter n m first done).1 :=
  h.setXbar.fst

theorem Keeps.planeArbitrate {n m} (h : Keeps a s) : Keeps a (s.planeArbitrate n m) := by
  unfold State.planeArbitrate
  exact h.planeIter.planeIter.planeIter.updXbar

theorem Keeps.planeMove {n} (h : Keeps a s) : Keeps a (s.planeMove n) := by
  unfold State.planeMove
  exact h.updXbar.foldl fun _ _ h => by split; exacts [h.enterGetD h, h]

theorem Keeps.cutMove {n c} (h : Keeps a s) : Keeps a (s.cutMove n c) := by
  unfold State.cutMove
  exact h.updXbar.foldl fun _ _ h => by
    split
    exacts [h.branch (·.transmit.bump) (fun h => h.enterGetD h.updXbar), h]

theorem Keeps.coreCycle {n} (h : Keeps a s) : Keeps a (s.coreCycle n) :=
  h.updXbar.whenNot fun h =>
    h.cutMove.stage2.stageEnd.planeMove.foldl (fun _ _ h => h.planeArbitrate) |>.stage1 |>.fillStore |>.enqueueOrigins
      |>.setFld

theorem Keeps.coreCycles {n k} (h : Keeps a s) : Keeps a (s.coreCycles n k) := by
  induction k generalizing s with
  | zero => exact h
  | succ k ih => exact ih h.coreCycle

theorem Keeps.coreNs {n} (h : Keeps a s) : Keeps a (s.coreNs n) :=
  h.whenNot (·.updXbar.coreCycles)

theorem Keeps.bulkWaits {n q h'} (h : Keeps a s) : Keeps a (s.bulkWaits n q h') :=
  h.whenNot (·.updXbar)

theorem Keeps.doCellTransmit {n q} (h : Keeps a s) : Keeps a (doCellTransmit n q s) := by
  unfold Machine.doCellTransmit
  exact h.whenNot (fun h => h.pipe (fun h => by split; exacts [h, h.bulkWaits.updXbar.setFld.transmit]))

/-! ### Machine/Transport.lean -/

theorem Keeps.chargeRestart {d} (h : Keeps a s) : Keeps a (s.chargeRestart d) := by
  unfold State.chargeRestart
  split
  exacts [h.chargeFolio, h.frame]

theorem Keeps.wake {d} (h : Keeps a s) : Keeps a (s.wake d) := by
  unfold State.wake
  suffices ∀ u, Keeps a u → Keeps a (match d with
      | .reamBase m => u.setFlag (.reamStatus m) Fld.reamStatusSelfRefresh false
      | _ => u) from this _ (h.branch (·.frame) (·.frame.chargeRestart))
  exact fun u h => by split; exacts [h.setFlag, h]

theorem Keeps.need {d} (h : Keeps a s) : Keeps a (s.need d) :=
  h.frame

theorem Keeps.doDomainGate {d} (h : Keeps a s) : Keeps a (doDomainGate d s) := by
  unfold Machine.doDomainGate
  exact h.when fun h => by
    split
    · exact Keeps.setFlag h.frame
    · exact h.frame

theorem Keeps.fly {h' c} (h : Keeps a s) : Keeps a (s.fly h' c) :=
  h.updNet

theorem Keeps.setCredits {e n} (h : Keeps a s) : Keeps a (s.setCredits e n) :=
  h.updNet

theorem Keeps.consume {e} (h : Keeps a s) : Keeps a (s.consume e) :=
  h.updNet.whenNot (·.setCredits)

theorem Keeps.land {h' c} (h : Keeps a s) : Keeps a (s.land h' c) := by
  dsimp only [State.land]
  split
  exacts [h.consume, h.updNet]

theorem Keeps.leaveFolio {e} (h : Keeps a s) : Keeps a (s.leaveFolio e) := by
  unfold State.leaveFolio
  exact h.branch
      (·.consume)
      fun h =>
        h.branch
            (fun h => h.consume.depart.branch (·.toFolio) (·.fly))
            (fun h => h.pipe (fun h => by split; exacts [h.when (·.consume.depart.fly), h]))

theorem Keeps.meshCycle (h : Keeps a s) : Keeps a s.meshCycle := by
  unfold State.meshCycle
  exact h.updNet

theorem Keeps.meshNs (h : Keeps a s) : Keeps a s.meshNs :=
  h.meshCycle.meshCycle.foldl (fun _ _ h => h.leaveFolio)

theorem Keeps.doMeshInject {f src} (h : Keeps a s) : Keeps a (doMeshInject f src s) := by
  unfold Machine.doMeshInject
  split
  exacts [h, h.whenNot (fun h => h.whenNot (·.setCredits) |>.updNet)]

theorem Keeps.noteNaked {d c} (h : Keeps a s) : Keeps a (s.noteNaked d c) := by
  unfold State.noteNaked
  exact h.updNet

theorem Keeps.suppressed {d} (h : Keeps a s) : Keeps a (s.suppressed d) :=
  h.bump

theorem Keeps.refusal {d key code c} (h : Keeps a s) : Keeps a (s.refusal d key code c).1 :=
  h.branchFst
      (·.suppressed.fst)
      fun h =>
        h.branchFst
            (fun h => h.branchFst (·.bump.fst) (·.suppressed.fst))
            fun h =>
              h.branchFst
                  (·.noteNaked.suppressed.fst)
                  (fun h => h.branchFst (·.suppressed.fst) (·.noteNaked.updNet.bump.fst))

theorem Keeps.checkCopy {n acc c} (h : Keeps a s) : Keeps a (s.checkCopy n acc c).1 := by
  unfold State.checkCopy
  split
  exacts [h.refusal.foldl (fun _ _ h => h.originate) |>.fst, h.pipe (fun h => by split <;> exact h.fst)]

theorem Keeps.leaveDeckle {n copies} (h : Keeps a s) : Keeps a (s.leaveDeckle n copies) := by
  dsimp only [State.leaveDeckle]
  exact h.foldlFst (fun _ _ h => h.checkCopy) |>.pipe fun h => by
    split
    exacts [h, h.branch (·.originate) (fun h => h.foldl (fun _ _ h => h.awaitStore) |>.fillStore)]

theorem Keeps.sendCell {d src c} (h : Keeps a s) : Keeps a (s.sendCell d src c) :=
  h.branch (·.updNet) (·.leaveDeckle)

theorem Keeps.sendCells {d src cs} (h : Keeps a s) : Keeps a (s.sendCells d src cs) :=
  h.foldl (fun _ _ h => h.sendCell)

theorem Keeps.refuseCell {d key src code c} (h : Keeps a s) : Keeps a (s.refuseCell d key src code c) :=
  h.refusal.sendCells

theorem Keeps.quarantine {p} (h : Keeps a s) : Keeps a (s.quarantine p) :=
  h.setFlag.setPortLive.when (·.setFld) |>.bump |>.fault

theorem Keeps.portViolation {p code} (h : Keeps a s) : Keeps a (s.portViolation p code) :=
  h.bump.setFld.when (·.quarantine)

theorem Keeps.countGot {p c res} (h : Keeps a s) : Keeps a (s.countGot p c res) :=
  h.setLinkCredit

theorem Keeps.cutOver {n h'} (h : Keeps a s) (e : s.cutOver n h' = some s') : Keeps a s' := by
  dsimp only [State.cutOver] at e
  split at e
  · obtain rfl := Option.some.inj e
    exact h.updXbar
  · split at e
    · split at e
      · obtain rfl := Option.some.inj e
        exact (h.updXbar.enter ‹_›).updXbar
      · exact h.enter e
    · exact h.enter e

theorem Keeps.acceptCell {n q c} (h : Keeps a s) (e : s.acceptCell n q c = some s') : Keeps a s' := by
  dsimp only [State.acceptCell] at e
  obtain ⟨-, e⟩ | ⟨-, e⟩ := ite_eq_iff.mp e
  · exact Keeps.cutOver (h.newHeld.when (·.countGot)) e
  · exact Keeps.enter (h.newHeld.when (·.countGot)) e

theorem Keeps.acceptCellGetD {n q c b} (h : Keeps a s) (hb : Keeps a b) : Keeps a ((s.acceptCell n q c).getD b) := by
  cases e : s.acceptCell n q c with
  | none => exact hb
  | some s' => exact h.acceptCell e

theorem Keeps.doCellIngress {n q c} (h : Keeps a s) : Keeps a (doCellIngress n q c s) := by
  unfold Machine.doCellIngress
  have hl : Keeps a (s.land (.core n q) c) := h.land
  refine h.whenNot fun _ => Keeps.branch hl (fun _ => hl.whenNot fun _ => ?_) (fun _ => ?_)
  · refine hl.branch (·.bump) fun _ => hl.branch (·.mirror.portViolation) fun _ => ?_
    split
    · exact hl.mirror.portViolation.when (·.refuseCell)
    · split
      · exact hl.mirror.refuseCell
      · exact hl.mirror.acceptCellGetD h
  · split
    · exact hl.mirror.refuseCell
    · exact hl.mirror.acceptCellGetD h

theorem Keeps.openTxn {d user job dstChip dstDie cls type bs cells} (h : Keeps a s)
    (e : s.openTxn d user job dstChip dstDie cls type bs = some (s', cells)) : Keeps a s' := by
  dsimp only [State.openTxn] at e
  split at e
  · cases e
  · obtain ⟨rfl, -⟩ := Prod.mk.inj (Option.some.inj e)
    exact h.updNet

theorem Keeps.request {d src user job dstChip dstDie cls type bs} (h : Keeps a s)
    (e : s.request d src user job dstChip dstDie cls type bs = some s') : Keeps a s' := by
  obtain ⟨p, hp, rfl⟩ := Option.map_eq_some_iff.mp e
  exact (h.openTxn hp).sendCells

theorem Keeps.finishTxn {t a'} (h : Keeps a s) : Keeps a (s.finishTxn t a') := by
  unfold State.finishTxn
  exact h.updNet

theorem Keeps.doRetxTimer {d tag} (h : Keeps a s) : Keeps a (doRetxTimer d tag s) := by
  unfold Machine.doRetxTimer
  split
  exacts [h, h.whenNot (·.updNet.bump.sendCells)]

theorem Keeps.doRemoteTimeout {d tag} (h : Keeps a s) : Keeps a (doRemoteTimeout d tag s) := by
  unfold Machine.doRemoteTimeout
  split
  exacts [h, h.whenNot (·.bump.finishTxn)]

theorem Keeps.arriveAt {d c} (h : Keeps a s) : Keeps a (s.arriveAt d c).1 :=
  h.branchFst (·.bump.fst) (fun h => h.whenFst (·.bump.fst))

theorem Keeps.refuseAt {d code c} (h : Keeps a s) : Keeps a (s.refuseAt d code c) :=
  h.refuseCell

theorem Keeps.answer {d src req x} (h : Keeps a s) : Keeps a (s.answer d src req x) := by
  unfold State.answer
  split
  exacts [h.sendCells, h.refuseCell, h]

theorem Keeps.keepRecord {d req depart came a'} (h : Keeps a s) : Keeps a (s.keepRecord d req depart came a') :=
  h.updNet

theorem Keeps.completeRequest {d src req depart came keep a'} (h : Keeps a s) :
    Keeps a (s.completeRequest d src req depart came keep a') :=
  h.keepRecord.answer

theorem Keeps.answerDuplicate {d req r} (h : Keeps a s) : Keeps a (s.answerDuplicate d req r) :=
  h.bump.answer

theorem Keeps.doAssemblyExpiry {d srcChip srcDie tag} (h : Keeps a s) :
    Keeps a (doAssemblyExpiry d srcChip srcDie tag s) := by
  dsimp only [Machine.doAssemblyExpiry]
  split
  exacts [h, h.when (·.updNet.bump)]

theorem Keeps.doDuplicateRecordExpiry {d srcChip srcDie tag} (h : Keeps a s) :
    Keeps a (doDuplicateRecordExpiry d srcChip srcDie tag s) := by
  dsimp only [Machine.doDuplicateRecordExpiry]
  split
  exacts [h, h.when (·.updNet)]

theorem Keeps.refuseOp {f code c ream} (h : Keeps a s) : Keeps a (s.refuseOp f code c ream) :=
  h.when (·.bump) |>.refuseAt

/-- The state that a cell's assembly hands on; `s` is the one before it. -/
def Assembled.state (s : State) : Assembled → State
  | .waits => s
  | .dropped s => s
  | .refused _ s => s
  | .held s => s
  | .whole _ s => s

/-- The state that a step of a transfer hands on. -/
def Moved.state : Moved → State
  | .on s _ => s
  | .waits s _ => s
  | .fails s _ _ => s

/-- The state that the engine hands on as it takes a transaction; `s` is the one before it. -/
def Taken.state (s : State) : Taken → State
  | .applied s => s
  | .refused _ s => s
  | .discarded s => s
  | .staged s => s
  | .early => s

theorem Keeps.ofDropped {r : Assembled} (h : Keeps a (r.state b)) (e : r = .dropped s) : Keeps a s := by
  subst e
  exact h

theorem Keeps.ofRefused {r : Assembled} {code} (h : Keeps a (r.state b)) (e : r = .refused code s) : Keeps a s := by
  subst e
  exact h

theorem Keeps.ofHeld {r : Assembled} (h : Keeps a (r.state b)) (e : r = .held s) : Keeps a s := by
  subst e
  exact h

theorem Keeps.ofWhole {r : Assembled} {x} (h : Keeps a (r.state b)) (e : r = .whole x s) : Keeps a s := by
  subst e
  exact h

theorem Keeps.assemble {d c} (h : Keeps a s) : Keeps a ((s.assemble d c).state s) := by
  dsimp only [State.assemble]
  split
  · split
    · dsimp only [Assembled.state]
      exact h.updNet
    · split <;> (split <;> (dsimp only [Assembled.state]; exact h.updNet))
  · split
    · exact h
    · split
      · dsimp only [Assembled.state]
        exact h.bump
      · split
        · exact h
        · dsimp only [Assembled.state]
          exact h.updNet

theorem Keeps.doTransactionCell {d c} (h : Keeps a s) : Keeps a (doTransactionCell d c s) := by
  dsimp only [Machine.doTransactionCell]
  refine h.whenNot fun h => h.land.branch (fun h => h.arriveAt.when (·.refuseCell)) fun h => ?_
  refine h.arriveAt.whenNot fun h => h.branch (·.bump) fun h => ?_
  split
  · exact h.branch (·.refuseOp) (·.refuseAt)
  · refine h.branch (·.refuseAt) fun h => ?_
    split
    · assumption
    · exact h.assemble.ofDropped ‹_›
    · exact (h.assemble.ofRefused ‹_›).refuseAt
    · exact h.assemble.ofHeld ‹_›
    · next e =>
      have h := h.assemble.ofWhole e
      split
      · refine h.branch (fun h => ?_) (·.answerDuplicate)
        split
        · exact h.updNet.keepRecord.refuseOp
        · exact h.updNet.foldl (fun _ _ h => h.wake) |>.updNet
      · split
        · exact h.keepRecord.refuseOp
        · exact h.foldl (fun _ _ h => h.wake) |>.updNet

theorem Keeps.doMemReply {d c} (h : Keeps a s) : Keeps a (doMemReply d c s) := by
  unfold Machine.doMemReply
  exact h.whenNot fun h =>
    h.land.whenNot fun h =>
      h.arriveAt.whenNot fun h => by
        split
        · exact h.bump
        · split
          exacts [h.refuseAt, h.branch (·.refuseAt) (fun h => h.branch (·.finishTxn) (·.updNet))]

theorem Keeps.doNak {d c} (h : Keeps a s) : Keeps a (doNak d c s) := by
  unfold Machine.doNak
  exact h.whenNot fun h =>
    h.land.whenNot fun h =>
      h.arriveAt.whenNot fun h => by
        split
        exacts [h.bump, h.pipe (fun h => by split; exacts [h.refuseAt, h.bump.setReg.finishTxn])]

/-! ### Machine/Group.lean -/

theorem Keeps.setGroup {g v} (h : Keeps a s) : Keeps a (s.setGroup g v) :=
  h.frame

theorem Keeps.updGroup {g f} (h : Keeps a s) : Keeps a (s.updGroup g f) :=
  h.setGroup

theorem Keeps.setCollState {g v} (h : Keeps a s) : Keeps a (s.setCollState g v) :=
  h.setFld

theorem Keeps.collSend {g d type chip die kind data} (h : Keeps a s)
    (e : s.collSend g d type chip die kind data = some s') : Keeps a s' := by
  dsimp only [State.collSend] at e
  split at e
  · obtain rfl := Option.some.inj e
    exact (h.request ‹_›).updGroup
  · cases e

theorem Keeps.flushMail {g} (h : Keeps a s) : Keeps a (s.flushMail g) := by
  unfold State.flushMail
  exact h.updGroup.foldl (fun _ _ h => h.pipe (fun h => by split; exacts [h.collSend ‹_›, h.updGroup]))

theorem Keeps.tell {g type chips data} (h : Keeps a s) : Keeps a (s.tell g type chips data) :=
  h.updGroup.flushMail

theorem Keeps.countQueued {g} (h : Keeps a s) : Keeps a (s.countQueued g) :=
  h.setFld

theorem Keeps.endEntry {g e status committed digest} (h : Keeps a s) :
    Keeps a (s.endEntry g e status committed digest) :=
  h.when (·.bump) |>.setGroup |>.countQueued

theorem Keeps.endEntries {g p status} (h : Keeps a s) : Keeps a (s.endEntries g p status) :=
  h.foldl (fun _ _ h => h.endEntry)

theorem Keeps.setEntry {g old new} (h : Keeps a s) : Keeps a (s.setEntry g old new) :=
  h.updGroup

theorem Keeps.noteReady {g} (h : Keeps a s) : Keeps a (s.noteReady g) :=
  h.when (·.updGroup)

theorem Keeps.answerOwed {o a'} (h : Keeps a s) : Keeps a (s.answerOwed o a') :=
  h.completeRequest

theorem Keeps.leaveStage {g} (h : Keeps a s) : Keeps a (s.leaveStage g) :=
  h.updGroup.foldl (fun _ _ h => h.answerOwed)

theorem Keeps.leaveStep {g} (h : Keeps a s) : Keeps a (s.leaveStep g) :=
  h.leaveStage.updGroup

theorem Keeps.clearBarriers {g mark state} (h : Keeps a s) : Keeps a (s.clearBarriers g mark state) :=
  h.foldl (fun _ _ h => h.branch (·.clearTagError) (·.clearTag) |>.when (·.updTile))

theorem Keeps.faultGroup {g status spread} (h : Keeps a s) : Keeps a (s.faultGroup g status spread) :=
  h.when (fun h => h.endEntries.leaveStep.setCollState.setFld.clearBarriers.when (·.tell))

theorem Keeps.groupError {g status number spread} (h : Keeps a s) : Keeps a (s.groupError g status number spread) :=
  h.when (fun h => h.endEntries.leaveStep.bump.clearBarriers.when (·.tell) |>.when (·.setCollState.updGroup))

theorem Keeps.advanceOnce {g} (h : Keeps a s) : Keeps a (s.advanceOnce g) := by
  dsimp only [State.advanceOnce]
  split
  exacts [h.when (·.updGroup.tell), h]

theorem Keeps.advanceBase {g} (h : Keeps a s) : Keeps a (s.advanceBase g) :=
  h.advanceOnce.advanceOnce.advanceOnce.advanceOnce

theorem Keeps.endDone {g} (h : Keeps a s) : Keeps a (s.endDone g) := by
  have key : ∀ u : State, Keeps a u → Keeps a (match (u.group g).queue.find? (fun e =>
        e.op = 2 && e.started && decide (e.step = u.currentStep g)) with
      | some e =>
        let v := u.group g
        if e.commit = false ∧ (v.written.filter (fun w => w.1 = e.number)).length ≥ u.memberCount g * u.capChunks g
          ∧ (v.outChunks.all (fun c => decide (c.entry ≠ e.number))) = true ∧ v.sending e.number = false then
          (u.endEntry g e 0 false 0).updGroup g (fun v => { v with ownChunk := 0 })
        else u
      | none => u) := fun u h => by
    split
    · exact h.when (·.endEntry.updGroup)
    · exact h
  refine key _ ?_
  split
  · exact h.when (·.endEntry.updGroup)
  · exact h

theorem Keeps.settleWork {g w a'} (h : Keeps a s) : Keeps a (s.settleWork g w a') := by
  unfold State.settleWork
  exact h.updGroup.pipe fun h => by
    split
    · exact h.when (·.updGroup.advanceBase.endDone)
    · exact h.faultGroup
    · exact h.branch (·.faultGroup) (fun h => h.when (·.groupError))

theorem Keeps.updHart {f h' u} (h : Keeps a s) : Keeps a (s.updHart f h' u) :=
  h.updNet

theorem Keeps.hartFault {f h' addr} (h : Keeps a s) : Keeps a (s.hartFault f h' addr) :=
  h.emit

theorem Keeps.sendMsi {f h' eiid} (h : Keeps a s) : Keeps a (s.sendMsi f h' eiid) :=
  h.updHart.emit

theorem Keeps.settleHarts (h : Keeps a s) : Keeps a s.settleHarts := by
  unfold State.settleHarts
  exact h.foldl fun _ _ h =>
    h.updNet.pipe (fun h => by split; exacts [h.updHart.pipe (fun h => by split; exacts [h.emit, h.hartFault]), h])

theorem Keeps.settle (h : Keeps a s) : Keeps a s.settle := by
  dsimp only [State.settle]
  exact h.settleHarts.foldl (fun _ _ h => h.updNet.pipe (fun h => by split; exacts [h.settleWork, h]))

/-! ### Machine/Power.lean -/

theorem Keeps.updEnergy {f} (h : Keeps a s) : Keeps a (s.updEnergy f) :=
  h.frame

theorem Keeps.meterTile {t e} (h : Keeps a s) : Keeps a (s.meterTile t e) :=
  h.updTile

theorem Keeps.charge {t e} (h : Keeps a s) : Keeps a (s.charge t e) :=
  h.meterTile

theorem Keeps.chargeReam {t n} (h : Keeps a s) : Keeps a (s.chargeReam t n) :=
  h.meterTile

theorem Keeps.markPower {f} (h : Keeps a s) : Keeps a (s.markPower f) :=
  h.updEnergy

theorem Keeps.slewStep {f} (h : Keeps a s) : Keeps a (s.slewStep f) :=
  h.markPower.branch
      (fun h => h.foldl (fun _ _ h => h.when (·.updTile)))
      fun h =>
        h.foldl (fun _ _ h => h.whenNot (fun h => h.branch (·.updTile) (·.updTile))) |>.whenNot (·.updEnergy.bump)

theorem Keeps.noteReduced {t fits} (h : Keeps a s) : Keeps a (s.noteReduced t fits) :=
  h.whenNot (·.updEnergy) |>.foldl (fun _ _ h => h.when (·.updGroup))

theorem Keeps.countClosed {t} (h : Keeps a s) : Keeps a (s.countClosed t) := by
  unfold State.countClosed
  split
  exacts [h, h.markPower.when (·.updEnergy)]

theorem Keeps.closeSection {t} (h : Keeps a s) : Keeps a (s.closeSection t) := by
  unfold State.closeSection
  split
  exacts [h, h.countClosed.updTile]

theorem Keeps.openSection {t nj dur} (h : Keeps a s) : Keeps a (s.openSection t nj dur) :=
  h.countClosed.updTile.busyTag

theorem Keeps.grant {t} (h : Keeps a s) : Keeps a (s.grant t) := by
  unfold State.grant
  split
  · exact h.whenNot fun h =>
      h.markPower.updTile.updEnergy.branch
          (·.updTile.clearTag)
          (fun h => h.updTile.slewStep.when (·.noteReduced) |>.clearTag)
  · exact h.clearTag

/-! ### Machine/StopStep.lean -/

theorem Keeps.stopStep (h : Keeps a s) : Keeps a s.stopStep :=
  h.foldl (fun _ _ h => h.when (·.faultGroup))

/-! ### Machine/Ream.lean -/

theorem Keeps.setBank {key b} (h : Keeps a s) : Keeps a (s.setBank key b) :=
  h.frame

theorem Keeps.touchReam {f off n} (h : Keeps a s) : Keeps a (s.touchReam f off n) :=
  h.foldl (fun _ _ h => h.when (·.wake) |>.setBank)

theorem Keeps.noteRow {f off} (h : Keeps a s) : Keeps a (s.noteRow f off) :=
  h.whenNot (·.frame)

theorem Keeps.reamError {f line} (h : Keeps a s) : Keeps a (s.reamError f line) :=
  h.noteRow.setReg.fault.stopStep

theorem Keeps.correctLine {f line} (h : Keeps a s) : Keeps a (s.correctLine f line) :=
  h.frame.bump

theorem Keeps.spareRow {l} (h : Keeps a s) : Keeps a (s.spareRow l) :=
  h.whenNot fun h =>
    h.foldl (fun _ _ h => h.branch (·.correctLine) (·.reamError)) |>.frame |>.bump |>.when (·.setFlag) |>.fault

theorem Keeps.reamCorrect {f line} (h : Keeps a s) : Keeps a (s.reamCorrect f line) :=
  h.correctLine.frame.when (·.spareRow)

theorem Keeps.meetMarks {f hits} (h : Keeps a s) : Keeps a (s.meetMarks f hits).1 :=
  h.foldl (fun _ _ h => h.branch (·.reamCorrect) (·.reamError)) |>.fst

theorem Keeps.reamScan {f off n} (h : Keeps a s) : Keeps a (s.reamScan f off n).1 :=
  h.touchReam.meetMarks

theorem Keeps.reamWrite {f off bs atOnce} (h : Keeps a s) : Keeps a (s.reamWrite f off bs atOnce).1 := by
  unfold State.reamWrite
  refine h.touchReam.branchFst (·.writeMem.fst) fun h => h.meetMarks.branchFst (·.fst) fun h => ?_
  exact h.frame.withMem (Memory.writeAll_wf _ _)

theorem Keeps.noteHot {m} (h : Keeps a s) : Keeps a (s.noteHot m) :=
  h.setFlag

/-! ### Machine/Vat.lean -/

theorem Keeps.vatError {t off} (h : Keeps a s) : Keeps a (s.vatError t off) :=
  h.setReg.fault.stopStep

theorem Keeps.dropMarks {l} (h : Keeps a s) : Keeps a (s.dropMarks l) :=
  h.frame

theorem Keeps.vatReadMarks {t hits} (h : Keeps a s) : Keeps a (s.vatReadMarks t hits).1 :=
  h.whenNot (·.dropMarks.bump) |>.foldl (fun _ _ h => h.vatError) |>.fst

theorem Keeps.vatScan {t off n} (h : Keeps a s) : Keeps a (s.vatScan t off n).1 :=
  h.vatReadMarks

theorem Keeps.vatPut {t off bs} (h : Keeps a s) : Keeps a (s.vatPut t off bs) := by
  induction bs generalizing s off with
  | nil => exact h
  | cons b bs ih => exact ih (h.withMem (Memory.write_wf _ b))

theorem Keeps.vatWrite {t off bs} (h : Keeps a s) : Keeps a (s.vatWrite t off bs).1 := by
  dsimp only [State.vatWrite]
  split
  exacts [h.vatReadMarks.ofFst ‹_› |>.fst, h.vatReadMarks.ofFst ‹_› |>.whenNot (·.dropMarks) |>.vatPut |>.fst]

/-! ### Machine/Cache.lean -/

theorem Keeps.setCache {f c} (h : Keeps a s) : Keeps a (s.setCache f c) :=
  h.frame

theorem Keeps.resolveHost {f off n} (h : Keeps a s) : Keeps a (s.resolveHost f off n) :=
  h.whenNot (fun h => h.foldl (fun _ _ h => h.emit))

theorem Keeps.fillLine {f e} (h : Keeps a s) : Keeps a (s.fillLine f e) := by
  unfold State.fillLine
  exact h.whenNot (fun h => h.branch (·.setCache) (fun h => h.pipe (fun h => by split; exacts [h, h.setCache])))

theorem Keeps.readLine {f e p} (h : Keeps a s) : Keeps a (s.readLine f e p).1 :=
  h.whenNot (·.setCache.bump) |>.whenFst (·.setCache.setReg.fault.stopStep.fst)

theorem Keeps.prefetchLine {f line by'} (h : Keeps a s) : Keeps a (s.prefetchLine f line by') := by
  dsimp only [State.prefetchLine]
  exact h.whenNot fun h =>
    h.branch
        (·.draw)
        fun h =>
          h.draw.bump.chargeFolio.pipe fun h => by
            split
            exacts [h.reamScan.ofFst ‹_›, h.reamScan.ofFst ‹_› |>.fillLine]

theorem Keeps.runStream {f line id n} (h : Keeps a s) : Keeps a (s.runStream f line id n) := by
  induction n generalizing s with
  | zero => exact h
  | succ n ih =>
    unfold State.runStream
    split
    · exact h
    · exact h.whenNot fun h => h.branch (·.setCache) fun h => h.whenNot fun h => ih h.prefetchLine.setCache

theorem Keeps.advanceStream {f who line hit id} (h : Keeps a s) : Keeps a (s.advanceStream f who line hit id) := by
  dsimp only [State.advanceStream]
  split
  exacts [h, h.setCache.runStream]

theorem Keeps.train {f who line} (h : Keeps a s) : Keeps a (s.train f who line) :=
  h.branch (·.setCache.advanceStream) (fun h => h.branch (·.draw.setCache.runStream) (·.setCache))

theorem Keeps.usePrefetch {f e} (h : Keeps a s) : Keeps a (s.usePrefetch f e) := by
  unfold State.usePrefetch
  exact h.bump.pipe (fun h => by split; exacts [h.setCache, h.draw.setCache])

theorem Keeps.chargeUse {f who n} (h : Keeps a s) : Keeps a (s.chargeUse f who n) := by
  unfold State.chargeUse
  split
  exacts [h.chargeReam, h.chargeFolio]

theorem Keeps.demandLine {f who policy line} (h : Keeps a s) : Keeps a (s.demandLine f who policy line).1 := by
  unfold State.demandLine
  split
  · exact h.bump.setCache.when (·.usePrefetch) |>.advanceStream |>.readLine
  · exact h.bump.chargeUse.reamScan.whenNot (·.train) |>.whenNot (·.fillLine) |>.fst

theorem Keeps.demandLines {f who policy ls} (h : Keeps a s) : Keeps a (s.demandLines f who policy ls).1 := by
  induction ls generalizing s with
  | nil => exact h
  | cons l ls ih => exact h.demandLine.branchFst (·.fst) ih

theorem Keeps.folioRead {f who policy off n} (h : Keeps a s) : Keeps a (s.folioRead f who policy off n).1 :=
  h.resolveHost.demandLines.whenFst (·.fst)

theorem Keeps.updateLine {f off n line} (h : Keeps a s) : Keeps a (s.updateLine f off n line) := by
  unfold State.updateLine
  split
  exacts [h, h.readLine.whenNot (·.setCache)]

theorem Keeps.invalidate {f off n} (h : Keeps a s) : Keeps a (s.invalidate f off n) :=
  h.whenNot (·.setCache)

theorem Keeps.hintNs {f} (h : Keeps a s) : Keeps a (s.hintNs f) := by
  dsimp only [State.hintNs]
  split
  exacts [h, h.setCache.foldl (fun _ _ h => h.prefetchLine)]

/-! ### Machine/Engine.lean -/

theorem Keeps.baseRead {f off n} (h : Keeps a s) : Keeps a (s.baseRead f off n).1 := by
  unfold State.baseRead
  split <;> exact h.chargeFolio.reamScan.ofFst ‹_› |>.fst

theorem Keeps.writePieces {f ps} (h : Keeps a s) : Keeps a (s.writePieces f ps).1 := by
  induction ps generalizing s with
  | nil => exact h
  | cons p ps ih =>
    have hw := h.chargeFolio (f := f) (e := 3920 * p.2.length) |>.invalidate (f := f) (off := p.1) (n := p.2.length)
      |>.reamWrite (f := f) (off := p.1) (bs := p.2) (atOnce := true)
    unfold State.writePieces
    split
    · exact hw.ofFst ‹_›
    · exact ih (hw.ofFst ‹_›)

theorem Keeps.baseWrite {f off bs} (h : Keeps a s) : Keeps a (s.baseWrite f off bs).1 :=
  h.writePieces

theorem Keeps.accElements {f o i st bss} (h : Keeps a s) : Keeps a (s.accElements f o i st bss).1 := by
  induction bss generalizing s i st with
  | nil => exact h
  | cons bs bss ih =>
    unfold State.accElements
    dsimp only
    split
    · exact h.baseRead.ofFst ‹_›
    · next e =>
      have h := h.baseRead.ofFst e
      split
      · exact h.baseWrite.ofFst ‹_›
      · exact ih (h.baseWrite.ofFst ‹_›)

theorem Keeps.scanParts {ps} (h : Keeps a s) : Keeps a (s.scanParts ps).1 := by
  induction ps generalizing s with
  | nil => exact h
  | cons p ps ih =>
    unfold State.scanParts
    split
    · exact h.vatScan.ofFst ‹_›
    · exact ih (h.vatScan.ofFst ‹_›)

theorem Keeps.writeParts {ps bs} (h : Keeps a s) : Keeps a (s.writeParts ps bs).1 := by
  induction ps generalizing s bs with
  | nil => exact h
  | cons p ps ih =>
    unfold State.writeParts
    split
    · exact h.vatWrite.ofFst ‹_›
    · exact ih (h.vatWrite.ofFst ‹_›)

theorem Keeps.performOp {f o} (h : Keeps a s) : Keeps a (s.performOp f o).1 := by
  dsimp only [State.performOp]
  exact h.branchFst
      (fun h =>
          h.branchFst
              (fun h => h.pipe (fun h => by split <;> exact h.scanParts.ofFst ‹_› |>.fst))
              (fun h => h.pipe (fun h => by split <;> exact h.writeParts.ofFst ‹_› |>.fst)))
      fun h =>
        h.branchFst
            (fun h => h.pipe (fun h => by split <;> exact h.baseRead.ofFst ‹_› |>.fst))
            fun h =>
              h.branchFst
                  (fun h => h.pipe (fun h => by split <;> exact h.baseWrite.ofFst ‹_› |>.fst))
                  fun h =>
                    h.branchFst
                        (fun h => by
                            split
                            · exact h.baseRead.ofFst ‹_› |>.fst
                            · exact h.baseRead.ofFst ‹_› |>.pipe fun h => by
                                split <;> exact h.baseWrite.ofFst ‹_› |>.fst)
                        fun h =>
                          h.branchFst
                              (fun h => by
                                  split
                                  · exact h.baseRead.ofFst ‹_› |>.fst
                                  · exact h.baseRead.ofFst ‹_› |>.pipe fun h => by
                                      split <;> exact h.baseWrite.ofFst ‹_› |>.fst)
                              (·.accElements.fst)

theorem Keeps.carryOut {f o} (h : Keeps a s) : Keeps a (s.carryOut f o) :=
  h.whenNotFst (fun h => h.whenNotFst (fun h => h.whenNot (·.resolveHost) |>.performOp))
    |>.whenNot (fun h => h.branch (·.bump) (·.bump)) |>.completeRequest

theorem Keeps.performReady {f o} (h : Keeps a s) : Keeps a (s.performReady f o) := by
  dsimp only [State.performReady]
  exact h.whenNot fun h =>
    h.updNet.pipe (fun h => by split; exacts [h.branch (·.carryOut) (·.answerDuplicate), h.carryOut])

theorem Keeps.runOp {f op} (h : Keeps a s) : Keeps a (s.runOp f op) := by
  unfold State.runOp
  split
  exacts [h, h.when (·.performReady)]

theorem Keeps.settleOps {f off n} (h : Keeps a s) : Keeps a (s.settleOps f off n) :=
  h.foldl (fun _ _ h => h.performReady)

theorem Keeps.engRead {f off n} (h : Keeps a s) : Keeps a (s.engRead f off n).1 :=
  h.settleOps.resolveHost.baseRead

theorem Keeps.engWrite {f off bs} (h : Keeps a s) : Keeps a (s.engWrite f off bs).1 :=
  h.settleOps.resolveHost.baseWrite

theorem Keeps.hdmRead {f off n} (h : Keeps a s) : Keeps a (s.hdmRead f off n).1 :=
  h.settleOps.baseRead

theorem Keeps.hdmWrite {f off bs} (h : Keeps a s) : Keeps a (s.hdmWrite f off bs).1 :=
  h.settleOps.baseWrite

theorem Keeps.endScrubStep {m : Ream} {k : Nat} {v : State} (h : Keeps a v) :
    Keeps a (if k + 1 = scrubPass then
      ({ v with
        scrubStep := Store.put (fun r => r.val) (fun _ => 0) v.scrubStep m 0
        rowErrors := v.rowErrors.filter (fun e => decide (e.1 / 16384 / 2048 ≠ m.val)) }).bump (.reamScrub m)
          Fld.reamScrubPasses 1
    else { v with scrubStep := Store.put (fun r => r.val) (fun _ => 0) v.scrubStep m (k + 1) }) :=
  h.branch (fun h => Keeps.bump h.frame) (·.frame)

theorem Keeps.doReamScrub {m} (h : Keeps a s) : Keeps a (doReamScrub m s) := by
  unfold Machine.doReamScrub
  split
  · exact h
  · extract_lets u k v
    have hv : Keeps a v := h.chargeFolio.foldl fun _ _ h => h.reamScan
    clear_value v k
    exact hv.endScrubStep

theorem Keeps.doRefresh {m bank queued rows} (h : Keeps a s) : Keeps a (doRefresh m bank queued rows s) :=
  h.whenNot (fun h => h.noteHot.branch (·.frame) (fun h => h.frame.when (·.bump) |>.setBank |>.bump))

/-! ### Machine/Plain.lean -/

theorem Keeps.folioWrite {f who off bs} (h : Keeps a s) : Keeps a (s.folioWrite f who off bs) :=
  h.settleOps.branch
      (·.fault)
      (fun h => h.resolveHost.chargeUse.foldl (fun _ _ h => h.updateLine) |>.reamWrite |>.when (·.setCache))

/-! ### Machine/Events.lean -/

theorem Keeps.loseEvent {f} (h : Keeps a s) : Keeps a (s.loseEvent f) :=
  h.bump.setFlag

theorem Keeps.writeEvent {f kind source record} (h : Keeps a s) : Keeps a (s.writeEvent f kind source record) :=
  h.branch (fun h => h.folioWrite.when (·.folioWrite) |>.setFld |>.sendMsi) (·.loseEvent)

theorem Keeps.postEvent {f kind source record} (h : Keeps a s) : Keeps a (s.postEvent f kind source record) :=
  h.branch (·.updNet) (·.writeEvent)

theorem Keeps.postHeld (h : Keeps a s) : Keeps a s.postHeld :=
  h.updNet.foldl (fun _ _ h => h.postEvent)

/-! ### Machine/TileOps.lean -/

theorem Keeps.settlePress {t} (h : Keeps a s) : Keeps a (s.settlePress t) :=
  h.setReg.when (·.updTile.bump)

theorem Keeps.requestHalt {t h'} (h : Keeps a s) : Keeps a (s.requestHalt t h') :=
  h.updTile.settlePress

theorem Keeps.raiseAt {t pc cause info} (h : Keeps a s) : Keeps a (s.raiseAt t pc cause info) :=
  h.setReg.setReg.setReg.requestHalt

theorem Keeps.raise {t cause info} (h : Keeps a s) : Keeps a (s.raise t cause info) :=
  h.raiseAt

theorem Keeps.advance {t next} (h : Keeps a s) : Keeps a (s.advance t next) :=
  h.updTile.setReg

theorem Keeps.issueTo {t i target} {eff : State → State} (h : Keeps a s) (heff : ∀ s, Keeps a s → Keeps a (eff s)) :
    Keeps a (s.issueTo t i target eff) := by
  unfold State.issueTo
  split
  exacts [h, h.raise, h.pipe (heff _) |>.advance]

theorem Keeps.issue {t i} {eff : State → State} (h : Keeps a s) (heff : ∀ s, Keeps a s → Keeps a (eff s)) :
    Keeps a (s.issue t i eff) :=
  h.issueTo heff

theorem Keeps.machineCheck {t off} (h : Keeps a s) : Keeps a (s.machineCheck t off) :=
  h.requestHalt

/-! ### Machine/Dma.lean -/

theorem Keeps.updAfter {p g} (h : Keeps a s) : Keeps a (s.updAfter p g) :=
  h.frame

theorem Keeps.transferSeen {t tag} (h : Keeps a s) : Keeps a (s.transferSeen t tag) :=
  h.updAfter

theorem Keeps.endTransfer {t tag off status bytes} (h : Keeps a s) : Keeps a (s.endTransfer t tag off status bytes) :=
  h.transferSeen.branch (·.clearTag.bump) (·.clearTagError.updTile.bump.setReg)

theorem Keeps.doDescriptorFetch {t} (h : Keeps a s) : Keeps a (doDescriptorFetch t s) := by
  dsimp only [Machine.doDescriptorFetch]
  split
  · exact h
  · exact h.whenNot fun h =>
      h.updTile.vatScan.branch
          (·.endTransfer)
          (fun h => h.whenFst (·.vatScan) |>.branch (·.endTransfer) (fun h => h.branch (·.endTransfer) (·.updTile)))

theorem Keeps.setXfer {t x} (h : Keeps a s) : Keeps a (s.setXfer t x) :=
  h.updTile

theorem Keeps.wakeVat {t u} (h : Keeps a s) : Keeps a (s.wakeVat t u) :=
  h.whenNot (·.wake)

theorem Keeps.localRead {t policy ps} (h : Keeps a s) : Keeps a (s.localRead t policy ps).1 := by
  induction ps generalizing s with
  | nil => exact h
  | cons p ps ih =>
    have rest : ∀ x : State × Nat × List Byte, Keeps a x.1 → Keeps a (match x with
        | (s, st, bs) => if st ≠ 0 then (s, st, []) else
          match s.localRead t policy ps with
          | (s, st, rest) => (s, st, bs ++ rest)).1 := fun x h => h.branchFst (·.fst) fun h => ih h
    unfold State.localRead
    refine rest _ ?_
    split
    · refine h.branchFst (·.fst) fun h => ?_
      split <;> exact h.wakeVat.vatScan.ofFst ‹_›
    · split <;> exact h.folioRead.ofFst ‹_›
    · exact h

theorem Keeps.localWrite {t ps bs} (h : Keeps a s) : Keeps a (s.localWrite t ps bs).1 := by
  induction ps generalizing s bs with
  | nil => exact h
  | cons p ps ih =>
    have rest : ∀ x : State × Nat, Keeps a x.1 → Keeps a (match x with
        | (s, st) => if st ≠ 0 then (s, st) else s.localWrite t ps (bs.drop p.2)).1 :=
      fun x h => h.branchFst (·.fst) fun h => ih h
    unfold State.localWrite
    refine rest _ ?_
    split
    · refine h.branchFst (·.fst) fun h => ?_
      split <;> exact h.wakeVat.vatWrite.ofFst ‹_›
    · exact h.folioWrite
    · exact h

theorem Keeps.vatPutBits {t bit w v} (h : Keeps a s) : Keeps a (s.vatPutBits t bit w v) :=
  h.vatPut

theorem Keeps.skewRow {t x bs} (h : Keeps a s) : Keeps a (s.skewRow t x bs).1 :=
  h.foldlFst fun acc k h => by
    dsimp only
    split
    · exact h
    · split
      · exact h.vatWrite.ofFst ‹_›
      · exact (h.vatWrite.ofFst ‹_›).vatPutBits

theorem Keeps.setTwin {f l} (h : Keeps a s) : Keeps a (s.setTwin f l) :=
  h.frame

theorem Keeps.departs {t} (h : Keeps a s) : Keeps a (s.departs t) :=
  h.updTile

theorem Keeps.mixWord {t draw bit w new} (h : Keeps a s) : Keeps a (s.mixWord t draw bit w new) :=
  h.vatPutBits

theorem Keeps.mixDestination {t x} (h : Keeps a s) : Keeps a (s.mixDestination t x) :=
  h.draw.branch (fun h => h.foldl fun _ _ h => h.foldl fun _ _ h => h.mixWord) fun h =>
    h.foldl fun _ _ h => h.when fun h => h.withMem (Memory.writeBytes_wf _ _)

theorem Keeps.failXfer {t x st} (h : Keeps a s) : Keeps a (s.failXfer t x st) :=
  h.when (·.stopStep) |>.setTwin |>.mixDestination |>.setXfer

theorem Keeps.takeDone {u r} (h : Keeps a s) (e : s.takeDone u = some (r, s')) : Keeps a s' := by
  unfold State.takeDone at e
  split at e
  · cases e
  · obtain ⟨-, rfl⟩ := Prod.mk.inj (Option.some.inj e)
    exact h.updNet

theorem Keeps.loadPiece {t x} (h : Keeps a s) : Keeps a (s.loadPiece t x).state := by
  unfold State.loadPiece
  dsimp only
  split
  · exact h
  · split
    · split
      · exact h
      · split
        · exact h.request ‹_›
        · exact h
    · split
      · exact h
      · split <;> exact h.localRead.ofFst ‹_›

theorem Keeps.storePiece {t x bs} (h : Keeps a s) : Keeps a (s.storePiece t x bs).state := by
  unfold State.storePiece
  dsimp only
  split
  · split
    · exact h.skewRow.ofFst ‹_›
    · exact (h.skewRow.ofFst ‹_›).departs
  · split
    · split
      · exact h
      · split
        · exact h
        · split
          · exact h
          · exact h.setTwin.departs
    · split
      · exact h
      · split
        · exact h.request ‹_›
        · exact h
    · split
      · exact h
      · split
        · exact (h.localWrite.ofFst ‹_›).departs
        · exact h.localWrite.ofFst ‹_›

theorem Keeps.moveStep {t x} (h : Keeps a s) : Keeps a (s.moveStep t x).state := by
  unfold State.moveStep
  dsimp only
  split
  · split
    · exact h
    · split
      · exact h.loadPiece
      · split
        · exact h
        · exact h.takeDone ‹_›
        · exact h.takeDone ‹_›
  · split
    · exact h.storePiece
    · split
      · split
        · exact h
        · split <;> exact h
      · split
        · exact h
        · exact h.takeDone ‹_›
        · exact h.takeDone ‹_›

theorem Keeps.moveLoop {t x n} (h : Keeps a s) : Keeps a (s.moveLoop t x n) := by
  induction n generalizing s x with
  | zero => exact h.setXfer
  | succ n ih =>
    refine h.branch (·.setXfer) fun h => ?_
    have hm := h.moveStep (t := t) (x := x)
    split
    next e => rw [e] at hm; exact ih hm
    next e => rw [e] at hm; exact hm.setXfer
    next e => rw [e] at hm; exact hm.failXfer

theorem Keeps.moveRows {kind t tag} (h : Keeps a s) : Keeps a (moveRows kind t tag s) := by
  unfold Machine.moveRows
  split
  exacts [h, h.whenNot (·.moveLoop)]

theorem Keeps.doDmaCopy {t tag} (h : Keeps a s) : Keeps a (doDmaCopy t tag s) :=
  h.moveRows

theorem Keeps.doDmaGather {t tag} (h : Keeps a s) : Keeps a (doDmaGather t tag s) :=
  h.moveRows

theorem Keeps.doDmaScatter {t tag} (h : Keeps a s) : Keeps a (doDmaScatter t tag s) :=
  h.moveRows

theorem Keeps.doDmaSkew {t tag} (h : Keeps a s) : Keeps a (doDmaSkew t tag s) :=
  h.moveRows

theorem Keeps.doDmaSkewGather {t tag} (h : Keeps a s) : Keeps a (doDmaSkewGather t tag s) :=
  h.moveRows

theorem Keeps.doDmaFill {t tag} (h : Keeps a s) : Keeps a (doDmaFill t tag s) :=
  h.moveRows

theorem Keeps.doDmaComplete {t tag} (h : Keeps a s) : Keeps a (doDmaComplete t tag s) := by
  unfold Machine.doDmaComplete
  split
  exacts [h, h.whenNot (·.updTile.setFlags.endTransfer)]

theorem Keeps.doVatScrub {t} (h : Keeps a s) : Keeps a (doVatScrub t s) :=
  h.whenNot (·.vatScan.updTile)

theorem Keeps.failFoundXfer {t st} {o : Option Xfer} (h : Keeps a s) :
    Keeps a (match o with
      | some x => s.failXfer t x st
      | none => s) := by
  cases o with
  | some x => exact h.failXfer
  | none => exact h

theorem Keeps.doTwinBlock {f good} (h : Keeps a s) : Keeps a (doTwinBlock f good s) := by
  unfold Machine.doTwinBlock
  split
  · exact h
  · refine h.whenNot fun h => h.draw.emit.branch (·.bump) fun h => ?_
    refine Keeps.branch (Keeps.setTwin h.frame) (·.failFoundXfer) fun h => ?_
    split
    · exact (h.wake.vatWrite.ofFst ‹_›).failFoundXfer
    · exact h.wake.vatWrite.ofFst ‹_›

/-! ### Machine/Commands.lean -/

theorem Keeps.writeArrays {f done ps} (h : Keeps a s) : Keeps a (s.writeArrays f done ps).1 := by
  induction ps generalizing s done with
  | nil => exact h
  | cons p ps ih =>
    unfold State.writeArrays
    split
    · exact h.engWrite.ofFst ‹_›
    · exact ih (h.engWrite.ofFst ‹_›)

theorem Keeps.runConvert {f c} (h : Keeps a s) : Keeps a (runConvert s f c).1 := by
  dsimp only [Machine.runConvert]
  split
  · split
    · exact h.engRead.ofFst ‹_› |>.fst
    · exact h.engRead.ofFst ‹_› |>.pipe fun h => by
        split
        · exact h.whenFst (·.engRead) |>.ofFst ‹_› |>.fst
        · exact h.whenFst (·.engRead) |>.ofFst ‹_› |>.pipe fun h => by
            split
            · exact h.whenFst (·.engWrite) |>.ofFst ‹_› |>.fst
            · exact h.whenFst (·.engWrite) |>.ofFst ‹_› |>.writeArrays |>.whenFst (·.fst)
  · exact h.fst

theorem Keeps.copyRows {f n done ps} (h : Keeps a s) : Keeps a (s.copyRows f n done ps).1 := by
  induction ps generalizing s done with
  | nil => exact h
  | cons p ps ih =>
    have rest : ∀ x : State × Option (List Byte), Keeps a x.1 → Keeps a (match x with
        | (s, none) => (s, done, true)
        | (s, some bs) =>
          match s.engWrite f p.2 bs with
          | (s, true) => (s, done, true)
          | (s, false) => s.copyRows f n (done + 1) ps).1 := fun x h => by
      split
      · exact h
      · split
        · exact Keeps.ofFst (Keeps.engWrite h) ‹_›
        · exact ih (Keeps.ofFst (Keeps.engWrite h) ‹_›)
    unfold State.copyRows
    refine rest _ ?_
    split
    · exact h.engRead
    · exact h

theorem Keeps.runIndexed {gather f c} (h : Keeps a s) : Keeps a (runIndexed gather s f c).1 := by
  unfold Machine.runIndexed
  exact h.whenNotFst fun h => by
    split
    exacts [h.engRead.ofFst ‹_› |>.fst, h.engRead.ofFst ‹_› |>.whenNotFst (fun h => h.copyRows.whenFst (·.fst))]

theorem Keeps.rowMask {f c rs} (h : Keeps a s) : Keeps a (s.rowMask f c rs).1 := by
  induction rs generalizing s with
  | nil => exact h
  | cons r rs ih =>
    unfold State.rowMask
    split
    · exact h.engRead.ofFst ‹_›
    · split <;> exact (ih (h.engRead.ofFst ‹_›)).ofFst ‹_›

theorem Keeps.readMask {f c} (h : Keeps a s) : Keeps a (readMask s f c).1 := by
  unfold Machine.readMask
  split <;> exact h.engRead.ofFst ‹_› |>.fst

theorem Keeps.runElide {f c} (h : Keeps a s) : Keeps a (runElide s f c).1 := by
  dsimp only [Machine.runElide]
  exact h.whenNotFst fun h => by
    split
    · exact h.branchFst (·.rowMask) (·.readMask) |>.ofFst ‹_› |>.fst
    · exact h.branchFst (·.rowMask) (·.readMask) |>.ofFst ‹_› |>.whenNotFst fun h => by
        split
        · exact h.whenFst (·.engWrite) |>.ofFst ‹_› |>.fst
        · exact h.whenFst (·.engWrite) |>.ofFst ‹_› |>.copyRows |>.whenFst (·.fst)

theorem Keeps.runRestore {f c} (h : Keeps a s) : Keeps a (runRestore s f c).1 := by
  unfold Machine.runRestore
  exact h.whenNotFst fun h => by
    split
    exacts [h.readMask.ofFst ‹_› |>.fst, h.readMask.ofFst ‹_› |>.whenNotFst (fun h => h.copyRows.whenFst (·.fst))]

theorem Keeps.clearSlots {f off n} (h : Keeps a s) : Keeps a (s.clearSlots f off n).1 := by
  induction n generalizing s off with
  | zero => exact h
  | succ n ih =>
    unfold State.clearSlots
    split
    · exact h.engWrite.ofFst ‹_›
    · exact ih (h.engWrite.ofFst ‹_›)

theorem Keeps.runRegionOpen {f c} (h : Keeps a s) : Keeps a (runRegionOpen s f c).1 := by
  unfold Machine.runRegionOpen
  exact h.whenNotFst fun h =>
    h.whenNotFst (fun h => h.pipe (fun h => by split <;> exact h.clearSlots.ofFst ‹_› |>.fst))

theorem Keeps.finalSlots {f c fmt target slot n j hits fl} (h : Keeps a s) :
    Keeps a (s.finalSlots f c fmt target slot n j hits fl).1 := by
  induction n generalizing s j hits fl with
  | zero => exact h
  | succ n ih =>
    unfold State.finalSlots
    dsimp only
    split
    · exact h.engRead.ofFst ‹_›
    · next e =>
      have h := h.engRead.ofFst e
      split
      · exact h.engWrite.ofFst ‹_›
      · exact ih (h.engWrite.ofFst ‹_›)

theorem Keeps.runRegionFinal {f c} (h : Keeps a s) : Keeps a (runRegionFinal s f c).1 :=
  h.whenNotFst (·.settleOps.setFld.finalSlots.setFld.fst)

theorem Keeps.runRegionAbandon {f c} (h : Keeps a s) : Keeps a (runRegionAbandon s f c).1 :=
  h.whenNotFst (·.setFld.fst)

theorem Keeps.optElements {f c b n i fl skips} (h : Keeps a s) : Keeps a (s.optElements f c b n i fl skips).1 := by
  induction n generalizing s i fl skips with
  | zero => exact h
  | succ n ih =>
    unfold State.optElements
    dsimp only
    split
    · exact h.engRead.ofFst ‹_›
    · next e =>
      have h := h.engRead.ofFst e
      refine h.branchFst ih fun _ => ?_
      split
      · exact h.engRead.ofFst ‹_›
      · next e =>
        have h := h.engRead.ofFst e
        split
        · exact h.engRead.ofFst ‹_›
        · next e =>
          have h := h.engRead.ofFst e
          split
          · exact (h.branchFst (·.fst) (·.engRead)).ofFst ‹_›
          · next e =>
            have h := (h.branchFst (·.fst) (·.engRead)).ofFst e
            split
            · exact h.writeArrays.ofFst ‹_›
            · exact ih (h.writeArrays.ofFst ‹_›)

theorem Keeps.runOptimizerAt {f c skip} (h : Keeps a s) : Keeps a (runOptimizerAt s f c skip).1 := by
  unfold Machine.runOptimizerAt
  exact h.whenNotFst fun h => by
    split
    exacts [h.engRead.ofFst ‹_› |>.fst, h.engRead.ofFst ‹_› |>.whenNotFst (·.optElements.fst)]

theorem Keeps.runOptimizer {f c} (h : Keeps a s) : Keeps a (runOptimizer s f c).1 :=
  h.runOptimizerAt

theorem Keeps.runCmd {f c} (h : Keeps a s) : Keeps a (runCmd s f c).1 := by
  unfold Machine.runCmd
  split
  · exact h.runConvert
  · exact h.runIndexed
  · exact h.runIndexed
  · exact h.runElide
  · exact h.runRestore
  · exact h.runRegionOpen
  · exact h.runRegionFinal
  · exact h.runRegionAbandon
  · exact h.runOptimizer
  · exact h.runOptimizer
  · exact h.runOptimizer
  · exact h.fst

theorem Keeps.setEcq {f q e} (h : Keeps a s) : Keeps a (s.setEcq f q e) :=
  h.frame

theorem Keeps.ecqStop {f q code} (h : Keeps a s) : Keeps a (s.ecqStop f q code) :=
  h.setFlag.setFlag.setFld

theorem Keeps.ecqNotice {f q} (h : Keeps a s) : Keeps a (s.ecqNotice f q) := by
  unfold State.ecqNotice
  exact h.branch
      (·.setEcq)
      fun h => by
        split
        exacts [h.engRead.ofFst ‹_› |>.ecqStop, h.engRead.ofFst ‹_› |>.setEcq |>.when (·.ecqStop)]

theorem Keeps.ecqEnable {f q} (h : Keeps a s) : Keeps a (s.ecqEnable f q) :=
  h.setFlag.setFld.setEcq

theorem Keeps.ecqResume {f q} (h : Keeps a s) : Keeps a (s.ecqResume f q) :=
  h.setFlag.ecqNotice

theorem Keeps.doEcqRecordFetch {f q} (h : Keeps a s) : Keeps a (doEcqRecordFetch f q s) := by
  unfold Machine.doEcqRecordFetch
  exact h.whenNot fun h =>
    h.branch
        (·.ecqNotice)
        fun h =>
          h.whenNot fun h =>
            h.whenNot fun h => by
              split
              exacts [h.engRead.ofFst ‹_› |>.ecqStop, h.engRead.ofFst ‹_› |>.branch (·.ecqStop) (·.setEcq)]

theorem Keeps.runQueue {f q code} (h : Keeps a s) : Keeps a (s.runQueue f q code) := by
  unfold State.runQueue
  split
  exacts [h, h.whenNot (·.runCmd.setEcq)]

theorem Keeps.openRegion {f q c} (h : Keeps a s) : Keeps a (s.openRegion f q c) :=
  h.setReg.setReg.setFld.setFld.setFld

theorem Keeps.doEngineCommandComplete {f q} (h : Keeps a s) : Keeps a (doEngineCommandComplete f q s) := by
  dsimp only [Machine.doEngineCommandComplete]
  split
  · exact h
  · exact h.whenNot fun h =>
      h.engWrite.when (·.openRegion) |>.setEcq |>.bump |>.when (·.bump) |>.whenNot (·.setFld)
        |>.branch
          (·.ecqStop)
          (fun h => h.when (·.postEvent))

/-! ### Machine/Tense.lean -/

theorem Keeps.updTense {f} (h : Keeps a s) : Keeps a (s.updTense f) :=
  h.frame

theorem Keeps.markSteps (h : Keeps a s) : Keeps a s.markSteps :=
  h.frame

theorem Keeps.setTenseState {v} (h : Keeps a s) : Keeps a (s.setTenseState v) :=
  h.when (·.markSteps) |>.setFld

theorem Keeps.setParent {p} (h : Keeps a s) : Keeps a (s.setParent p) :=
  h.setFld

theorem Keeps.setNbr {p n} (h : Keeps a s) : Keeps a (s.setNbr p n) :=
  h.updTense

theorem Keeps.feltMarkers (h : Keeps a s) : Keeps a s.feltMarkers := by
  unfold State.feltMarkers
  exact h.foldl (fun _ _ h => h.emit.emit) |>.updTense

theorem Keeps.doTenseMarkerSend (h : Keeps a s) : Keeps a (doTenseMarkerSend s) :=
  h.whenNot (fun h => h.updTense.foldl (fun _ _ h => h.when (·.emit)) |>.feltMarkers |>.when (·.updTense))

theorem Keeps.stepTense {d} (h : Keeps a s) : Keeps a (s.stepTense d) :=
  h.frame

theorem Keeps.startSlew {d rate} (h : Keeps a s) : Keeps a (s.startSlew d rate) :=
  h.updTense

theorem Keeps.setWitness {w} (h : Keeps a s) : Keeps a (s.setWitness w) :=
  h.updTense.setFlag

theorem Keeps.follow {n} (h : Keeps a s) : Keeps a (s.follow n) :=
  h.setFld.setFld.when (·.updTense)

theorem Keeps.enterLocked {n w} (h : Keeps a s) : Keeps a (s.enterLocked n w) :=
  h.setTenseState.follow.setFld.updTense.setWitness

theorem Keeps.choose (h : Keeps a s) : Keeps a s.choose := by
  unfold State.choose
  exact h.setParent.updTense

theorem Keeps.enterHoldover {former} (h : Keeps a s) : Keeps a (s.enterHoldover former) :=
  h.setTenseState.setWitness.bump.updTense.choose

theorem Keeps.reacquire (h : Keeps a s) : Keeps a s.reacquire :=
  h.choose.when (·.setTenseState.startSlew)

theorem Keeps.tryLock {p n} (h : Keeps a s) : Keeps a (s.tryLock p n) := by
  dsimp only [State.tryLock]
  exact h.updTense.whenNot (fun h => h.pipe (fun h => by split; exacts [h.enterLocked, h.when (·.enterLocked)]))

theorem Keeps.unlockedCorrect {o} (h : Keeps a s) : Keeps a (s.unlockedCorrect o) :=
  h.branch (·.stepTense.startSlew) (fun h => h.branch (·.startSlew) (·.startSlew))

theorem Keeps.adoptEpoch {n} (h : Keeps a s) : Keeps a (s.adoptEpoch n) :=
  h.setFld.updTense.when (·.fault) |>.branch
      (·.setTenseState.updTense.reacquire)
      fun h =>
        h.branch
            (fun h => h.whenNot (·.enterHoldover))
            (fun h => h.branch (·.reacquire) (fun h => h.branch (·.choose) (fun h => h.when (·.setParent.updTense))))

theorem Keeps.noteTick {n} (h : Keeps a s) : Keeps a (s.noteTick n) := by
  unfold State.noteTick
  exact h.whenNot (fun h => h.pipe (fun h => by split; exacts [h.updTense, h.when (·.updTense)]))

theorem Keeps.converge {n} (h : Keeps a s) : Keeps a (s.converge n) :=
  h.whenNot (fun h => h.branch (·.startSlew) (·.stepTense.startSlew.updTense))

theorem Keeps.markerFree {p n} (h : Keeps a s) : Keeps a (s.markerFree p n) :=
  h.branch
      (·.setTenseState.setParent.updTense.converge)
      fun h =>
        h.when fun h =>
          h.branch
              (fun h =>
                  h.when (fun h => h.setTenseState.setParent.follow.branch (·.startSlew) (·.stepTense.startSlew)))
              (fun h => h.branch (·.follow.startSlew) (·.setTenseState.setParent.startSlew))

theorem Keeps.markerAcquiring {p n} (h : Keeps a s) : Keeps a (s.markerAcquiring p n) :=
  h.whenNot (fun h => h.branch (·.converge.tryLock) (·.reacquire))

theorem Keeps.markerLocked {p n} (h : Keeps a s) : Keeps a (s.markerLocked p n) := by
  unfold State.markerLocked
  exact h.branch
      (fun h => h.branch (·.follow.updTense.setFld) (·.enterHoldover))
      fun h => by
        split
        · exact h
        · exact h.branch
              (fun h =>
                  h.branch
                      (·.setWitness)
                      fun h =>
                        h.whenNot (fun h => h.branch (fun h => h.updTense.when (·.enterHoldover)) (·.updTense)))
              (fun h => h.when (·.setWitness))

theorem Keeps.markerHoldover {p n} (h : Keeps a s) : Keeps a (s.markerHoldover p n) :=
  h.whenNot (·.choose) |>.when (·.tryLock)

theorem Keeps.markerUnlocked {p n} (h : Keeps a s) : Keeps a (s.markerUnlocked p n) :=
  h.whenNot (·.setParent.updTense) |>.when fun h =>
    h.updTense.branch (·.enterLocked) (fun h => h.when (·.unlockedCorrect))

theorem Keeps.doTenseMarker {p m} (h : Keeps a s) : Keeps a (doTenseMarker p m s) := by
  dsimp only [Machine.doTenseMarker]
  exact h.whenNot fun h =>
    h.setNbr.whenNot fun h =>
      h.branch (·.adoptEpoch) (·.noteTick) |>.pipe fun h => by
        split
        exacts [h.markerFree, h.markerFree, h.markerAcquiring, h.markerLocked, h.markerHoldover, h.markerUnlocked, h]

theorem Keeps.doMarkerTimeout {p} (h : Keeps a s) : Keeps a (doMarkerTimeout p s) := by
  unfold Machine.doMarkerTimeout
  split
  · exact h
  · exact h.whenNot fun h =>
      h.when (·.setWitness) |>.whenNot fun h => by
        split
        exacts [h.setTenseState.setParent.startSlew, h.reacquire, h.enterHoldover, h.choose, h.setParent.updTense, h]

theorem Keeps.doHoldoverExpiry (h : Keeps a s) : Keeps a (doHoldoverExpiry s) :=
  h.whenNot fun h =>
    h.setTenseState.setParent.setWitness.bump.updTense.foldl (fun _ _ h => h.when (·.updGroup)) |>.fault

theorem Keeps.becomeRoot (h : Keeps a s) : Keeps a s.becomeRoot := by
  unfold State.becomeRoot
  exact h.setTenseState.setParent.setWitness.setFld.setFld.updTense

theorem Keeps.doRootTakeover (h : Keeps a s) : Keeps a (doRootTakeover s) := by
  unfold Machine.doRootTakeover
  split
  exacts [h, h.when (·.becomeRoot.setFld)]

theorem Keeps.tenseEnableChange {was} (h : Keeps a s) : Keeps a (s.tenseEnableChange was) :=
  h.whenNot fun h =>
    h.updTense.branch
        (·.setTenseState.setParent.setWitness)
        (fun h => h.branch (·.becomeRoot.stepTense) (·.setTenseState))

theorem Keeps.quiesceWritten (h : Keeps a s) : Keeps a s.quiesceWritten := by
  unfold State.quiesceWritten
  exact h.setFlag.updTense

theorem Keeps.doQuiesceAt (h : Keeps a s) : Keeps a (doQuiesceAt s) :=
  h.when (·.updTense)

theorem Keeps.doQuiesced (h : Keeps a s) : Keeps a (doQuiesced s) :=
  h.when (·.setFlag)

theorem Keeps.tenseNs (h : Keeps a s) : Keeps a s.tenseNs :=
  h.frame

/-! ### Machine/Coll.lean -/

theorem Keeps.reserve {g take} (h : Keeps a s) : Keeps a (s.reserve g take) := by
  unfold State.reserve
  exact h.setFld.setFld.foldl (fun _ _ h => h.setFld.whenNot (·.updXbar)) |>.updGroup

theorem Keeps.failGroup {g reason} (h : Keeps a s) : Keeps a (s.failGroup g reason) :=
  h.setCollState.setFld.leaveStep.clearBarriers

theorem Keeps.joinProgress {g} (h : Keeps a s) : Keeps a (s.joinProgress g) :=
  h.whenNot (fun h => h.branch (·.frame.failGroup) (fun h => h.when (·.updGroup.tell) |>.when (·.setCollState)))

theorem Keeps.createGroup {g} (h : Keeps a s) : Keeps a (s.createGroup g) :=
  h.whenNot (fun h => h.setFld.setCollState.setFld.frame.updGroup.tell.branch (·.failGroup) (·.reserve.joinProgress))

theorem Keeps.destroyGroup {g} (h : Keeps a s) : Keeps a (s.destroyGroup g) :=
  h.whenNot (fun h => h.endEntries.when (·.reserve) |>.leaveStage |>.setReg |>.clearBarriers |>.updGroup)

theorem Keeps.preemptGroup {g} (h : Keeps a s) : Keeps a (s.preemptGroup g) :=
  h.whenNot (fun h => h.branch (·.updGroup) (·.setCollState))

theorem Keeps.resumeGroup {g} (h : Keeps a s) : Keeps a (s.resumeGroup g) :=
  h.when (·.setCollState)

theorem Keeps.doCreateTimeout {g} (h : Keeps a s) : Keeps a (doCreateTimeout g s) :=
  h.when (·.failGroup)

theorem Keeps.arriveProgress {g} (h : Keeps a s) : Keeps a (s.arriveProgress g) := by
  unfold State.arriveProgress
  split
  exacts [h, h.whenNot (fun h => h.whenNot (·.updGroup.tell) |>.when (·.updGroup))]

theorem Keeps.arrive {g tense reason} (h : Keeps a s) : Keeps a (s.arrive g tense reason) :=
  h.updGroup.tell.arriveProgress

theorem Keeps.doDeviceArrival {g} (h : Keeps a s) : Keeps a (doDeviceArrival g s) :=
  h.whenNot (·.arrive)

theorem Keeps.forceArrive {g} (h : Keeps a s) : Keeps a (s.forceArrive g) :=
  h.whenNot (·.arrive)

theorem Keeps.suspectCredit {arrivals} (h : Keeps a s) : Keeps a (s.suspectCredit arrivals) := by
  unfold State.suspectCredit
  split
  · exact h
  · exact h.whenNot fun h =>
      h.bump.whenNot fun h =>
        h.bump.setFld.branch (·.bump.bump) (·.setFld) |>.foldl (fun _ _ h => h.whenNot (·.setFld)) |>.when (·.setReg)

theorem Keeps.doExchangeStart {g} (h : Keeps a s) : Keeps a (doExchangeStart g s) := by
  dsimp only [Machine.doExchangeStart]
  split
  · exact h.whenNot (fun h => h.setReg.foldl (fun _ _ h => h.when (·.clearTag)) |>.updGroup |>.when (·.suspectCredit))
  · exact h

theorem Keeps.doStepTimeout {g} (h : Keeps a s) : Keeps a (doStepTimeout g s) :=
  h.whenNot (·.faultGroup)

theorem Keeps.commitStep {g e d} (h : Keeps a s) : Keeps a (s.commitStep g e d) :=
  h.foldl (fun _ _ h => h.endEntry) |>.leaveStage |>.bump |>.endEntry |>.updGroup |>.when (·.setCollState.updGroup)

theorem Keeps.digestProgress {g} (h : Keeps a s) : Keeps a (s.digestProgress g) := by
  dsimp only [State.digestProgress]
  split
  · exact h.whenNot fun h =>
      h.whenNot (·.updGroup.tell) |>.whenNot (fun h => h.branch (·.commitStep) (·.groupError))
  · exact h

theorem Keeps.lastWritten {g e} (h : Keeps a s) : Keeps a (s.lastWritten g e) :=
  h.branch (·.updGroup.tell.digestProgress) (·.endDone)

theorem Keeps.setAccum {g a'} (h : Keeps a s) : Keeps a (s.setAccum g a') :=
  h.updGroup

theorem Keeps.putCodes {p w codes} (h : Keeps a s) : Keeps a (s.putCodes p w codes).1 :=
  h.engWrite.fst

theorem Keeps.writeChunk {g e j valid ovf data} (h : Keeps a s) : Keeps a (s.writeChunk g e j valid ovf data).1 :=
  h.whenNotFst (·.putCodes) |>.whenNotFst (·.setEntry.updGroup.fst)

theorem Keeps.stageWrite {g slot bs} (h : Keeps a s) : Keeps a (s.stageWrite g slot bs) := by
  dsimp only [State.stageWrite]
  split
  exacts [h, h.vatWrite]

theorem Keeps.applied (h : Keeps a s) : Keeps a (Taken.state b (.applied s)) := h
theorem Keeps.discarded (h : Keeps a s) : Keeps a (Taken.state b (.discarded s)) := h
theorem Keeps.staged (h : Keeps a s) : Keeps a (Taken.state b (.staged s)) := h
theorem Keeps.refused {code} (h : Keeps a s) : Keeps a (Taken.state b (.refused code s)) := h

theorem Keeps.ifTaken {p : Prop} [Decidable p] {x y : Taken} (hx : Keeps a (x.state b)) (hy : Keeps a (y.state b)) :
    Keeps a ((if p then x else y).state b) := by
  split
  · exact hx
  · exact hy

theorem Keeps.refuseChunk {g code number} (h : Keeps a s) : Keeps a ((s.refuseChunk g code number).state b) :=
  h.bump.groupError.refused

theorem Keeps.outsideWindow {g e x n t} (h : Keeps a s) (ht : s.outsideWindow g e x n = some t) :
    Keeps a (t.state b) := by
  unfold State.outsideWindow at ht
  obtain ⟨-, ht⟩ | ⟨-, ht⟩ := ite_eq_iff.mp ht
  · cases ht
  · obtain rfl := Option.some.inj ht
    exact h.bump.discarded

theorem Keeps.takeChunk {g op bs f} (h : Keeps a s) (hf : ∀ k e d, Keeps a ((f k e d).state s)) :
    Keeps a ((s.takeChunk g op bs f).state s) := by
  unfold State.takeChunk
  dsimp only
  split
  · split
    · exact h.refuseChunk
    · split
      · exact h.refuseChunk
      · split
        · exact h
        · exact hf _ _ _
  · exact h.refuseChunk

theorem Keeps.takeContrib {g sender die cells} (h : Keeps a s) :
    Keeps a ((s.takeContrib g sender die cells).state s) :=
  h.takeChunk fun _ _ _ => by
    dsimp only
    split
    · exact h.outsideWindow ‹_›
    · exact h.refuseChunk.ifTaken h.setAccum.setEntry.applied

theorem Keeps.takeCarry {g sender die n bs} (h : Keeps a s) : Keeps a ((s.takeCarry g sender die n bs).state s) :=
  h.takeChunk fun _ _ _ => by
    dsimp only
    split
    · exact h.outsideWindow ‹_›
    · refine h.refuseChunk.ifTaken ?_
      split
      · exact h.refuseChunk
      · exact h.setAccum.setEntry.applied

theorem Keeps.takeGather {g sender die bs o} (h : Keeps a s) : Keeps a ((s.takeGather g sender die bs o).state s) :=
  h.takeChunk fun _ _ _ => by
    dsimp only
    split
    · exact h.refuseChunk
    · refine h.refuseChunk.ifTaken ?_
      split
      · exact (h.stageWrite.writeChunk.ofFst ‹_›).applied
      · next e =>
        have h := h.stageWrite.writeChunk.ofFst e
        split
        · exact h.updGroup.lastWritten.staged
        · exact h.updGroup.staged

theorem Keeps.takeJoin {g j} (h : Keeps a s) : Keeps a ((s.takeJoin g j).state b) :=
  h.updGroup.joinProgress.applied

theorem Keeps.keepJoin {j} (h : Keeps a s) : Keeps a ((s.keepJoin j).state b) := by
  unfold State.keepJoin
  exact h.refused.ifTaken (Keeps.applied (Keeps.foldl h.frame fun _ _ h => h.when (·.joinProgress)))

theorem Keeps.takeArrive {g sender bs} (h : Keeps a s) : Keeps a ((s.takeArrive g sender bs).state b) := by
  unfold State.takeArrive
  exact h.applied.ifTaken h.updGroup.arriveProgress.applied

theorem Keeps.takeCredit {g sender bs} (h : Keeps a s) : Keeps a ((s.takeCredit g sender bs).state b) := by
  unfold State.takeCredit
  exact h.applied.ifTaken h.updGroup.applied

theorem Keeps.takeDigest {g sender bs} (h : Keeps a s) : Keeps a ((s.takeDigest g sender bs).state b) := by
  unfold State.takeDigest
  exact h.applied.ifTaken h.updGroup.digestProgress.applied

theorem Keeps.takeAbort {g bs} (h : Keeps a s) : Keeps a ((s.takeAbort g bs).state b) := by
  unfold State.takeAbort
  exact h.faultGroup.applied.ifTaken (h.groupError.applied.ifTaken h.applied)

theorem Keeps.takeColl {g type x o} (h : Keeps a s) : Keeps a ((s.takeColl g type x o).state s) := by
  unfold State.takeColl
  dsimp only
  split
  · exact h.takeJoin
  · exact h.takeArrive
  · exact h.takeContrib
  · exact h.takeCarry
  · exact h.takeGather
  · exact h.takeCredit
  · exact h.takeDigest
  · exact h.takeAbort

theorem Keeps.takeWhole {g type x o} (h : Keeps a s) : Keeps a (s.takeWhole g type x o) := by
  have ht := h.takeColl (g := g) (type := type) (x := x) (o := o)
  unfold State.takeWhole
  split
  next e => rw [e] at ht; exact ht.answerOwed
  next e => rw [e] at ht; exact ht.answerOwed
  next e => rw [e] at ht; exact ht
  next e => rw [e] at ht; exact ht
  next => exact h.updGroup

theorem Keeps.takeEarly {g} (h : Keeps a s) : Keeps a (s.takeEarly g) :=
  h.foldl (fun _ _ h => h.whenNot (·.updGroup.takeWhole))

theorem Keeps.doEntryValidate {g} (h : Keeps a s) : Keeps a (doEntryValidate g s) := by
  unfold Machine.doEntryValidate
  split
  exacts [h, h.whenNot (fun h => h.branch (·.endEntry.takeEarly) (·.setEntry.updGroup.noteReady.takeEarly))]

theorem Keeps.discards {d type c} (h : Keeps a s) (e : s.discards d type c = some s') : Keeps a s' := by
  unfold State.discards at e
  obtain ⟨-, e⟩ | ⟨-, e⟩ := ite_eq_iff.mp e
  · cases e
  · split at e
    · cases e
    · obtain ⟨-, e⟩ | ⟨-, e⟩ := ite_eq_iff.mp e
      · split at e
        · cases e
        · obtain ⟨-, e⟩ | ⟨-, e⟩ := ite_eq_iff.mp e
          · obtain rfl := Option.some.inj e
            exact h
          · cases e
      · split at e
        · obtain rfl := Option.some.inj e
          exact h.outsideWindow (b := s) ‹_›
        · cases e

theorem Keeps.openUnit {d type c a'} (h : Keeps a s) : Keeps a (s.openUnit d type c a') := by
  unfold State.openUnit
  split
  · exact h
  · exact h.branch
        (fun h => h.pipe (fun h => by split; exacts [h, h.whenNot (·.updGroup)]))
        (fun h => h.whenNot (fun h => h.branch (fun h => h.when (·.setAccum)) (·.setAccum)))

theorem Keeps.collArrive {type n c} (h : Keeps a s) : Keeps a (collArrive type n c s) := by
  unfold Machine.collArrive
  refine h.land.branch (fun _ => h) fun h' => h'.whenNot fun h' => h'.wake.arriveAt.whenNot fun h' => ?_
  split
  · exact h'.refuseAt
  · split
    · exact h'.discards ‹_›
    · split
      · exact h
      · exact h'.assemble.ofDropped ‹_›
      · exact (h'.assemble.ofRefused ‹_›).refuseAt
      · next e =>
        have h := h'.assemble.ofHeld e
        split
        · exact h.openUnit
        · exact h
      · next e =>
        have h := h'.assemble.ofWhole e
        split
        · exact h.answerDuplicate
        · dsimp only
          split
          · refine h.branch (·.answerOwed) fun h => h.branch (fun h => ?_) (·.answerOwed)
            have hk := h.keepJoin (j := joinMsg c (cellsData ‹Assembly›.cells)) (b := s)
            split
            next e => rw [e] at hk; exact hk.answerOwed
            next e => rw [e] at hk; exact hk.answerOwed
            next => exact h
          · exact h.branch (·.answerOwed) (·.openUnit.takeWhole)

theorem Keeps.templateStatus {g e} (h : Keeps a s) : Keeps a (s.templateStatus g e).1 := by
  unfold State.templateStatus
  exact h.whenNotFst fun h => by
    split
    · exact h.engRead.ofFst ‹_› |>.fst
    · exact h.engRead.ofFst ‹_› |>.whenNotFst fun h =>
        h.whenNotFst fun h => by
          split
          · exact h.engRead.ofFst ‹_› |>.fst
          · exact h.engRead.ofFst ‹_› |>.whenNotFst (fun h => h.whenNotFst (fun h => h.whenFst (·.fst)))

theorem Keeps.startEntry {g e} (h : Keeps a s) : Keeps a (s.startEntry g e) :=
  h.setEntry

theorem Keeps.doReduceScatter {g} (h : Keeps a s) : Keeps a (doReduceScatter g s) := by
  unfold Machine.doReduceScatter
  split
  · exact h.whenNot fun h =>
      h.branch
          (fun h => by
              split
              · exact h.templateStatus.ofFst ‹_›
              · exact h.templateStatus.ofFst ‹_› |>.startEntry
              · exact h.templateStatus.ofFst ‹_› |>.endEntry)
          (·.startEntry)
  · exact h

theorem Keeps.doAllGather {g} (h : Keeps a s) : Keeps a (doAllGather g s) := by
  unfold Machine.doAllGather
  split
  · exact h.branch
        (fun h => h.when (·.startEntry))
        (fun h => h.pipe (fun h => by split; exacts [h.when (·.startEntry), h]))
  · exact h

theorem Keeps.sendContrib {g chip} (h : Keeps a s) : Keeps a (s.sendContrib g chip) := by
  dsimp only [State.sendContrib]
  split
  · exact h
  · exact h.whenNot fun h => by
      split
      · exact h.engRead.ofFst ‹_›
      · exact h.branch
            (fun h => h.engRead.ofFst ‹_› |>.setAccum |>.updGroup)
            (fun h => h.pipe (fun h => by split; exacts [h.engRead.ofFst ‹_› |>.collSend ‹_› |>.updGroup, h]))

theorem Keeps.sendCarry {g} (h : Keeps a s) : Keeps a (s.sendCarry g) := by
  dsimp only [State.sendCarry]
  split
  · exact h
  · split
    exacts [h, h.pipe (fun h => by split; exacts [h.collSend ‹_› |>.updGroup, h])]

theorem Keeps.copyOwn {g} (h : Keeps a s) : Keeps a (s.copyOwn g) := by
  dsimp only [State.copyOwn]
  split
  · exact h
  · exact h.whenNot fun h => by
      split
      · exact h.engRead.ofFst ‹_›
      · exact h.engRead.ofFst ‹_› |>.pipe fun h => by
          split
          · exact h.writeChunk.ofFst ‹_›
          · exact h.writeChunk.ofFst ‹_› |>.updGroup |>.pipe (fun h => by split; exacts [h.lastWritten, h])

theorem Keeps.chunkSent {g o dest ring} (h : Keeps a s) : Keeps a (s.chunkSent g o dest ring) := by
  unfold State.chunkSent
  exact h.updGroup

theorem Keeps.sendForward {g} (h : Keeps a s) : Keeps a (s.sendForward g) := by
  unfold State.sendForward
  split
  exacts [h, h.whenNot (fun h => h.pipe (fun h => by split; exacts [h.collSend ‹_› |>.chunkSent, h]))]

theorem Keeps.openCopies {g d o cs r} (h : Keeps a s) (e : s.openCopies g d o cs = some (s', r)) : Keeps a s' := by
  induction cs generalizing s r with
  | nil =>
    obtain ⟨rfl, -⟩ := Prod.mk.inj (Option.some.inj e)
    exact h
  | cons c cs ih =>
    unfold State.openCopies at e
    dsimp only at e
    split at e
    · cases e
    · split at e
      · cases e
      · next e' =>
        obtain ⟨rfl, -⟩ := Prod.mk.inj (Option.some.inj e)
        exact ih (h.openTxn ‹_›).updGroup e'

theorem Keeps.sendMulticast {g} (h : Keeps a s) : Keeps a (s.sendMulticast g) := by
  dsimp only [State.sendMulticast]
  split
  · exact h
  · exact h.whenNot fun h => by
      split
      exacts [h, h.openCopies ‹_› |>.foldl (fun _ _ h => h.leaveDeckle) |>.chunkSent]

theorem Keeps.doChunkSend {g k} (h : Keeps a s) : Keeps a (doChunkSend g k s) := by
  unfold Machine.doChunkSend
  exact h.whenNot fun h => by
    split
    exacts [h.sendContrib, h.sendCarry, h.copyOwn, h.sendMulticast, h.sendForward]

theorem Keeps.doAccumulationFinish {g x} (h : Keeps a s) : Keeps a (doAccumulationFinish g x s) := by
  unfold Machine.doAccumulationFinish
  split
  · exact h.whenNot fun h =>
      h.branch
          (fun h => h.whenNotFst (·.putCodes) |>.whenNot (·.setEntry.setAccum.advanceBase.endDone))
          (·.setEntry.setAccum.updGroup)
  · exact h

theorem Keeps.doFusedUpdateDone {g x} (h : Keeps a s) : Keeps a (doFusedUpdateDone g x s) := by
  dsimp only [Machine.doFusedUpdateDone]
  split
  · exact h.whenNot fun h => by
      split
      · exact h.engRead.ofFst ‹_›
      · exact h.engRead.ofFst ‹_› |>.whenNotFst (·.runOptimizerAt) |>.branch
            (·.setAccum.advanceBase.endDone)
            (fun h => h.whenNot (·.groupError))
  · exact h

theorem Keeps.doStagingSlotFree {g slot} (h : Keeps a s) : Keeps a (doStagingSlotFree g slot s) := by
  dsimp only [Machine.doStagingSlotFree]
  split
  exacts [h, h.pipe (fun h => by split; exacts [h, h.whenNot (·.updGroup.answerOwed.endDone)])]

theorem Keeps.putLocal {addr bs} (h : Keeps a s) : Keeps a (s.putLocal addr bs) :=
  h.branch (·.engWrite) (·.vatWrite)

theorem Keeps.doCollectiveCompletion {g} (h : Keeps a s) : Keeps a (doCollectiveCompletion g s) := by
  unfold Machine.doCollectiveCompletion
  split
  exacts [h, h.whenNot (fun h => h.updGroup.whenNot (·.putLocal) |>.branch (·.clearTag) (·.clearTagError.updTile))]

/-! ### Machine/Press.lean -/

theorem Keeps.recordCheck {t j row c} (h : Keeps a s) : Keeps a (recordCheck s t j row c) := by
  unfold Machine.recordCheck
  split
  exacts [h.bump, h.bump, h.bump.bump.setFld.setFld.setFld]

theorem Keeps.startLoad {t f base scaleOff} (h : Keeps a s) : Keeps a (startLoad t f base scaleOff s) := by
  dsimp only [Machine.startLoad]
  exact h.vatScan.whenFst (·.vatScan) |>.updTile |>.charge |>.pipe (fun h => by split; exacts [h.machineCheck, h])

theorem Keeps.startPressEntry {t e} (h : Keeps a s) : Keeps a (Machine.startEntry t s e) := by
  unfold Machine.startEntry
  cases e with
  | wld f base scaleOff => exact h.startLoad
  | wswap => exact h.updTile
  | stream j => exact h.updTile

theorem Keeps.startEntries {t n} (h : Keeps a s) : Keeps a (Machine.startEntries t n s) := by
  induction n generalizing s with
  | zero => exact h
  | succ n ih =>
    unfold Machine.startEntries
    dsimp only
    split
    · exact h
    · exact h.when fun h => ih h.updTile.startPressEntry

theorem Keeps.pumpPress {t} (h : Keeps a s) : Keeps a (pumpPress t s) :=
  h.startEntries

theorem Keeps.enterPress {t i tags e} (h : Keeps a s) : Keeps a (enterPress t i tags e s) :=
  h.issue (fun _ h => h.updTile.foldl (fun _ _ h => h.busyTag)) |>.when (·.pumpPress)

theorem Keeps.doWldLoadEnd {t} (h : Keeps a s) : Keeps a (doWldLoadEnd t s) :=
  h.whenNot (fun h => h.updTile.pumpPress.whenNot (·.clearTag))

theorem Keeps.pushCouch {t g} (h : Keeps a s) : Keeps a (pushCouch s t g) :=
  h.updTile.clearTag

theorem Keeps.leaveBank {t j row} (h : Keeps a s) : Keeps a (leaveBank s t j row) :=
  h.when (fun h => h.setTile.whenNot (·.pushCouch))

theorem Keeps.updStream {t f} (h : Keeps a s) : Keeps a (s.updStream t f) :=
  h.updTile

theorem Keeps.finishStream {t} (h : Keeps a s) : Keeps a (finishStream s t) :=
  h.updTile.settlePress

theorem Keeps.flushTiles {t n} (h : Keeps a s) : Keeps a (Machine.flushTiles t n s) := by
  induction n generalizing s with
  | zero => exact h.finishStream
  | succ n ih =>
    unfold Machine.flushTiles
    refine h.branch (·.updTile) fun h => ?_
    split
    · exact h
    · exact ih h.leaveBank.updStream

theorem Keeps.finishStrict {t j} (h : Keeps a s) : Keeps a (finishStrict t j s) := by
  unfold Machine.finishStrict
  exact h.updTile.pipe fun h => by
    split
    · exact h.finishStream.whenNot (·.raiseAt)
    · exact h.advance.updTile.setFlags.foldl (fun _ _ h => h.updTile) |>.updStream |>.flushTiles

theorem Keeps.rowLeaves {t j r} (h : Keeps a s) : Keeps a (rowLeaves t j r s) :=
  h.charge.bump.recordCheck.branch
      (fun h => h.updStream.when (·.finishStrict))
      (fun h => h.setFlags.updTile.leaveBank.updStream.when (·.finishStream))

theorem Keeps.rowLost {t off} (h : Keeps a s) : Keeps a (rowLost t off s) := by
  dsimp only [Machine.rowLost]
  exact h.updStream.machineCheck.pipe (fun h => by split; exacts [h, h.updStream.when (·.finishStream)])

theorem Keeps.doStreamRowComplete {t} (h : Keeps a s) : Keeps a (doStreamRowComplete t s) := by
  unfold Machine.doStreamRowComplete
  exact h.whenNot fun h => by
    split
    · exact h
    · exact h.branch
          (fun h => h.branch (·.flushTiles) (·.finishStrict) |>.pumpPress)
          fun h =>
            h.branch
                (·.updTile)
                fun h =>
                  h.updStream.updTile.vatReadMarks.whenFst (·.vatScan)
                    |>.pipe (fun h => by split; exacts [h.rowLost, h.rowLeaves]) |>.pumpPress

theorem Keeps.doPressResume {t} (h : Keeps a s) : Keeps a (doPressResume t s) :=
  h.when (·.updTile.pumpPress)

theorem Keeps.gapCycles {t k} (h : Keeps a s) : Keeps a (s.gapCycles t k) := by
  dsimp only [State.gapCycles]
  split
  exacts [h, h.updTile.bump]

theorem Keeps.pressCycles {t k} (h : Keeps a s) : Keeps a (s.pressCycles t k) :=
  h.branch
      (·.bump)
      (fun h => h.whenNot (fun h => h.branch (·.updTile.pumpPress) (fun h => h.when (·.gapCycles) |>.pumpPress)))

/-! ### Machine/Sync.lean -/

theorem Keeps.leaveLaunch {t bad} (h : Keeps a s) : Keeps a (s.leaveLaunch t bad) := by
  unfold State.leaveLaunch
  extract_lets l u
  have hu : Keeps a u := h.updTile
  exact hu.frame

theorem Keeps.doTileHalt {t} (h : Keeps a s) : Keeps a (doTileHalt t s) := by
  unfold Machine.doTileHalt
  split
  exacts [h, h.when (fun h => h.closeSection.setFlag.setFld.when (·.setReg) |>.updTile |>.leaveLaunch |>.postEvent)]

theorem Keeps.stopTile {t} (h : Keeps a s) : Keeps a (s.stopTile t) := by
  unfold State.stopTile
  exact h.when (fun h => h.pipe (fun h => by split; exacts [h.requestHalt, h.when (·.requestHalt)]))

theorem Keeps.startTile {t} {refuse : State → State} (h : Keeps a s)
    (hrefuse : ∀ s, Keeps a s → Keeps a (refuse s)) : Keeps a (s.startTile t refuse) :=
  h.branch (fun h => h.pipe (hrefuse _)) (fun h => h.whenNot (·.setFlag.need))

/-! ### Machine/Energy.lean -/

theorem Keeps.overrun {t} (h : Keeps a s) : Keeps a (s.overrun t) := by
  unfold State.overrun
  split
  exacts [h.pipe (fun h => by split; exacts [h.updTile.when (fun h => h.bump.when (·.updTile)), h.updTile]), h]

theorem Keeps.rescale {f} (h : Keeps a s) : Keeps a (s.rescale f) := by
  unfold State.rescale
  exact h.markPower.setFld.setFld.setFld.foldl (fun _ _ h => h.updTile)
    |>.when (fun h => h.foldl (fun _ _ h => h.noteReduced)) |>.slewStep

theorem Keeps.setForecast {n} (h : Keeps a s) : Keeps a (s.setForecast n) := by
  unfold State.setForecast
  split <;> exact h.setFld.setFld

theorem Keeps.settleLoads (h : Keeps a s) : Keeps a s.settleLoads :=
  h.updEnergy

theorem Keeps.doEnergyWindow {loads} (h : Keeps a s) : Keeps a (doEnergyWindow loads s) :=
  h.whenNot fun h =>
    h.when (·.bump) |>.setFlag |>.foldl (fun _ _ h => h.overrun) |>.foldl (fun _ _ h => h.bump)
      |>.foldl (fun _ _ h => h.setFld.setFld) |>.foldl (fun _ _ h => h.markPower) |>.updEnergy
      |>.foldl (fun _ _ h => h.whenNot (·.updTile)) |>.settleLoads |>.updEnergy |>.setReg |>.setFld |>.setForecast
      |>.foldl (fun _ _ h => h.rescale)

theorem Keeps.doPulpRampUp {q index} (h : Keeps a s) : Keeps a (doPulpRampUp q index s) := by
  unfold Machine.doPulpRampUp
  split
  exacts [h, h.whenNot (fun h => h.foldl (fun _ _ h => h.updTile) |>.frame)]

theorem Keeps.doPulpRampEnd {t} (h : Keeps a s) : Keeps a (doPulpRampEnd t s) := by
  unfold Machine.doPulpRampEnd
  split
  · refine h.when fun h => ?_
    extract_lets u
    have hu : Keeps a u := h.updTile
    exact hu.frame
  · exact h

theorem Keeps.setPoint {f p} (h : Keeps a s) : Keeps a (s.setPoint f p) :=
  h.whenNot (·.setFld.setFld.updEnergy)

theorem Keeps.followPoint {f} (h : Keeps a s) : Keeps a (s.followPoint f) :=
  h.whenNot (·.setPoint)

theorem Keeps.doDvfsReview (h : Keeps a s) : Keeps a (doDvfsReview s) :=
  h.whenNot (fun h => h.foldl (fun _ _ h => h.whenNot (·.setPoint)))

theorem Keeps.doMarginBump {f} (h : Keeps a s) : Keeps a (doMarginBump f s) :=
  h.setFld.updEnergy.fault

theorem Keeps.calibrate {f} (h : Keeps a s) : Keeps a (s.calibrate f) :=
  h.whenNot (fun h => h.updEnergy.setFld.when (·.fault))

theorem Keeps.doMcTick {reports} (h : Keeps a s) : Keeps a (doMcTick reports s) :=
  h.whenNot fun h =>
    h.updEnergy.when (·.setFlag) |>.settleLoads |>.foldl (fun _ _ h => h.calibrate) |>.setFlag
      |>.foldl (fun _ _ h => h.setFld) |>.draw |>.updEnergy |>.setFld |>.setFld |>.setReg
      |>.foldl (fun _ _ h => h.whenNot (·.updTile))

theorem Keeps.doTelemetryLost {r} (h : Keeps a s) : Keeps a (doTelemetryLost r s) :=
  h.whenNot (·.updEnergy.setFlag.fault)

theorem Keeps.thermalRegs (h : Keeps a s) : Keeps a s.thermalRegs := by
  unfold State.thermalRegs
  extract_lets l hot ream th s1 s2 s3 s4 s5 s6 s7
  have h6 : Keeps a s6 := h.setFlag.setFlag.setFlag.setFlag.setFld.setFlag
  clear_value s6
  have h7 : Keeps a s7 := by
    dsimp only [s7]
    split
    · exact h6.setFld.setFld
    · exact h6
  clear_value s7
  split
  · exact h7.setFld
  · exact h7

theorem Keeps.throttle {i} (h : Keeps a s) : Keeps a (s.throttle i) :=
  h.updEnergy.when (·.bump.fault)

theorem Keeps.applyTheta (h : Keeps a s) : Keeps a s.applyTheta := by
  unfold State.applyTheta
  exact h.foldl (fun _ _ h => h.whenNot (·.updEnergy.rescale.followPoint)) |>.thermalRegs

theorem Keeps.watchCooling (h : Keeps a s) : Keeps a s.watchCooling := by
  unfold State.watchCooling
  exact h.updEnergy

theorem Keeps.doSensorSample {i reading} (h : Keeps a s) : Keeps a (doSensorSample i reading s) := by
  unfold Machine.doSensorSample
  exact h.updEnergy.when (·.bump) |>.setFld |>.when (·.setFld) |>.when (·.bump.fault) |>.when (·.noteHot) |>.throttle
    |>.applyTheta |>.watchCooling

theorem Keeps.doFastRiseEnd {i} (h : Keeps a s) : Keeps a (doFastRiseEnd i s) := by
  dsimp only [Machine.doFastRiseEnd]
  split
  exacts [h.when (·.updEnergy.throttle.applyTheta), h]

/-! ### Machine/Optics.lean -/

theorem Keeps.updOptics {f} (h : Keeps a s) : Keeps a (s.updOptics f) :=
  h.frame

theorem Keeps.setPort {p r} (h : Keeps a s) : Keeps a (s.setPort p r) :=
  h.updOptics

theorem Keeps.updPort {p f} (h : Keeps a s) : Keeps a (s.updPort p f) :=
  h.setPort

theorem Keeps.setPhy {p v} (h : Keeps a s) : Keeps a (s.setPhy p v) :=
  h.setFld

theorem Keeps.setFail {p v} (h : Keeps a s) : Keeps a (s.setFail p v) :=
  h.setFld

theorem Keeps.requeueCore {n q} {moved : State → State} (h : Keeps a s)
    (hmoved : ∀ s, Keeps a s → Keeps a (moved s)) : Keeps a (s.requeueCore n q moved) := by
  unfold State.requeueCore
  exact h.foldl fun _ _ h =>
    h.whenNot fun h => by
      split
      · exact h.setXbar.refuseCell
      · split
        exacts [h, h.whenNot (fun h => h.pipe (fun h => by split; exacts [h.enter ‹_› |>.pipe (hmoved _), h]))]

theorem Keeps.requeue {p} (h : Keeps a s) : Keeps a (s.requeue p) :=
  h.requeueCore (fun _ h => h.bump)

theorem Keeps.requeueFolio {n f} (h : Keeps a s) : Keeps a (s.requeueFolio n f) :=
  h.whenNot fun h => h.requeueCore fun _ h => h

theorem Keeps.mapLane {r lane phys spare} (h : Keeps a s) : Keeps a (s.mapLane r lane phys spare) :=
  h.setFld.setFld

theorem Keeps.endSwap {p w} (h : Keeps a s) : Keeps a (s.endSwap p w) :=
  h.updPort.when (·.mapLane.bump)

theorem Keeps.controlBlock {p flags cmd at'} (h : Keeps a s) : Keeps a (s.controlBlock p flags cmd at') := by
  dsimp only [State.controlBlock]
  exact h.emit.updPort.pipe (fun h => by split; exacts [h.when (·.endSwap), h])

theorem Keeps.declareLoss {p} (h : Keeps a s) : Keeps a (s.declareLoss p) :=
  h.setPortLive.setPhy.setFlag.bump.fault.updPort.controlBlock.requeue

theorem Keeps.doLossOfFrame {p words} (h : Keeps a s) : Keeps a (doLossOfFrame p words s) :=
  h.whenNot (fun h => h.bump.when (·.declareLoss))

theorem Keeps.doPortBringup {p} (h : Keeps a s) : Keeps a (doPortBringup p s) :=
  h.when (fun h => h.when (·.setPhy) |>.updPort)

theorem Keeps.heatPort {p} (h : Keeps a s) : Keeps a (s.heatPort p) :=
  h.foldl (fun _ _ h => h.updOptics)

theorem Keeps.doPortStepPass {p skew} (h : Keeps a s) : Keeps a (doPortStepPass p skew s) :=
  h.whenNot fun h =>
    h.branch (·.setPhy.updPort) (fun h => h.when (·.heatPort) |>.when (·.setFld) |>.updPort |>.when (·.emit))

theorem Keeps.doPortStepTimeout {p lost} (h : Keeps a s) : Keeps a (doPortStepTimeout p lost s) := by
  unfold Machine.doPortStepTimeout
  exact h.whenNot fun h =>
    h.pipe (fun h => by split; exacts [h, h.setFail, h.setFail, h.setFail, h.setFail]) |>.updPort

theorem Keeps.checkIdentity {p b} (h : Keeps a s) : Keeps a (s.checkIdentity p b) :=
  h.setFld.setFld.setFld.setPhy.setFail.updPort.whenNot (·.fault)

theorem Keeps.doIdentityBlock {p b} (h : Keeps a s) : Keeps a (doIdentityBlock p b s) :=
  h.when (·.checkIdentity)

theorem Keeps.doIdentityRecheck {p} (h : Keeps a s) : Keeps a (doIdentityRecheck p s) :=
  h.when (·.emit.checkIdentity)

theorem Keeps.doPortAdmission {p} (h : Keeps a s) : Keeps a (doPortAdmission p s) :=
  h.when (·.setPhy.setPortLive.setLinkCredit)

theorem Keeps.portAdmitWritten {p} (h : Keeps a s) : Keeps a (s.portAdmitWritten p) :=
  h.when (fun h => h.setPortLive.when (·.setPhy) |>.requeue)

theorem Keeps.portModeChanged {p} (h : Keeps a s) : Keeps a (s.portModeChanged p) :=
  h.setPortLive.setPhy.setFail.updPort

theorem Keeps.releasePort {p} (h : Keeps a s) : Keeps a (s.releasePort p) :=
  h.setFlag.setFld

theorem Keeps.swapOut {p lane} (h : Keeps a s) : Keeps a (s.swapOut p lane) :=
  h.whenNot (·.controlBlock.updPort)

theorem Keeps.laneRequest {p lane} (h : Keeps a s) : Keeps a (s.laneRequest p lane) :=
  h.draw.branch (fun h => h.whenNot (·.mapLane.updPort)) (·.swapOut.updPort)

theorem Keeps.blocksNs (h : Keeps a s) : Keeps a s.blocksNs :=
  h.whenNot fun h =>
    h.foldl fun _ _ h =>
      h.whenNot (fun h => h.branch (·.emit) (fun h => h.branch (·.controlBlock) (fun h => h.when (·.controlBlock))))

theorem Keeps.takeSwap {p w} (h : Keeps a s) : Keeps a (s.takeSwap p w) :=
  h.updPort.whenNot (·.mapLane.bump)

theorem Keeps.doControlBlock {p b} (h : Keeps a s) : Keeps a (doControlBlock p b s) := by
  dsimp only [Machine.doControlBlock]
  exact h.whenNot fun h =>
    h.branch
        (·.declareLoss)
        fun h =>
          h.setLinkCredit.when (·.updPort) |>.when (·.updPort) |>.when (·.laneRequest)
            |>.pipe (fun h => by split; exacts [h.when (·.takeSwap), h])

theorem Keeps.setFeltDir {k back d} (h : Keeps a s) : Keeps a (s.setFeltDir k back d) :=
  h.updOptics.setFld

theorem Keeps.feltLanesLost {k back lanes} (h : Keeps a s) : Keeps a (s.feltLanesLost k back lanes) :=
  h.whenNot (fun h => h.setFeltDir.whenNot (·.bump.setFld))

theorem Keeps.portLanesLost {p lanes} (h : Keeps a s) : Keeps a (s.portLanesLost p lanes) := by
  dsimp only [State.portLanesLost]
  split
  · exact h.when (·.setFld)
  · exact h.bump.branch
        (·.setFail.declareLoss)
        (fun h => h.branch (·.declareLoss) (·.mapLane.setPhy.updPort.controlBlock))

theorem Keeps.doLaneFault {l lanes} (h : Keeps a s) : Keeps a (doLaneFault l lanes s) := by
  unfold Machine.doLaneFault
  split
  exacts [h.when (·.portLanesLost), h.whenNot (·.feltLanesLost)]

theorem Keeps.doLaneFaultClear {l words} (h : Keeps a s) : Keeps a (doLaneFaultClear l words s) := by
  unfold Machine.doLaneFaultClear
  split
  exacts [h.when (·.bump.setPhy.updPort), h.when (·.setFld)]

theorem Keeps.doLaneFaultTimeout {p} (h : Keeps a s) : Keeps a (doLaneFaultTimeout p s) := by
  unfold Machine.doLaneFaultTimeout
  split
  exacts [h.when (·.declareLoss), h]

theorem Keeps.doLaneDegraded {l lane corrected} (h : Keeps a s) : Keeps a (doLaneDegraded l lane corrected s) := by
  dsimp only [Machine.doLaneDegraded]
  split
  · exact h.whenNot (fun h => h.bump.pipe (fun h => by split; exacts [h.when (·.controlBlock), h]))
  · split
    exacts [h.when (·.setFeltDir.bump), h]

theorem Keeps.updLine {l f} (h : Keeps a s) : Keeps a (s.updLine l f) :=
  h.updOptics

theorem Keeps.setMaskBit {r f i} (h : Keeps a s) : Keeps a (s.setMaskBit r f i) :=
  h.setFld

theorem Keeps.doLinePowerUpdate {l taps primary standby most} (h : Keeps a s) :
    Keeps a (doLinePowerUpdate l taps primary standby most s) :=
  h.setFld.setFld.setFld.setFld.setFld.when (·.updLine.fault)

theorem Keeps.doChangeover {l threshold} (h : Keeps a s) : Keeps a (doChangeover l threshold s) := by
  unfold Machine.doChangeover
  split
  exacts [h, h.when (·.updLine.setFld.setFld.emit.emit)]

theorem Keeps.scheduleAll (h : Keeps a s) : Keeps a s.scheduleAll :=
  h.foldl (fun _ _ h => h.updPort)

theorem Keeps.doChangeoverStep {l primary standby power primaryFailed} (h : Keeps a s) :
    Keeps a (doChangeoverStep l primary standby power primaryFailed s) := by
  dsimp only [Machine.doChangeoverStep]
  split
  · exact h
  · exact h.whenNot fun h =>
      h.setFld.branch
          (fun h => h.when (·.setMaskBit) |>.updLine |>.fault |>.scheduleAll)
          fun h =>
            h.branch
                (·.emit.setFld.setFld.setFld.setMaskBit.updLine)
                fun h =>
                  h.setFld.setFld.emit.emit.branch
                      (·.setMaskBit.setFld.updLine.fault)
                      (fun h => h.branch (·.setFld.emit.setFld.setMaskBit.updLine) (·.updLine))

theorem Keeps.doLineLost {x} (h : Keeps a s) : Keeps a (doLineLost x s) := by
  dsimp only [Machine.doLineLost]
  exact h.whenNot fun h =>
    h.foldl (fun _ _ h => h.pipe (fun h => by split; exacts [h.whenNot (·.mapLane), h.when (·.setFld)]))
      |>.branch
        (·.setFld.setMaskBit.setMaskBit)
        (·.setMaskBit.emit.updLine)

theorem Keeps.doLineRecoveryDone {l standby} (h : Keeps a s) : Keeps a (doLineRecoveryDone l standby s) := by
  unfold Machine.doLineRecoveryDone
  split
  exacts [h, h.whenNot (fun h => h.updLine.setFld.setFld.emit.setFld.foldl (fun _ _ h => h.when (·.setFld.updPort)))]

theorem Keeps.doCombSourceFail {d k} (h : Keeps a s) : Keeps a (doCombSourceFail d k s) :=
  h.whenNot (fun h => h.updOptics.fault.when (fun h => h.foldl (fun _ _ h => h.setFld)))

theorem Keeps.doHeaterUpdate {r} (h : Keeps a s) : Keeps a (doHeaterUpdate r s) :=
  h.whenNot (·.updOptics)

theorem Keeps.doRecalibration {p} (h : Keeps a s) : Keeps a (doRecalibration p s) := by
  unfold Machine.doRecalibration
  exact h.whenNot fun h => by
    split
    exacts [h.when (·.updPort.swapOut), h.when (·.updPort.setFlag)]

theorem Keeps.saveTable {r} (h : Keeps a s) : Keeps a (s.saveTable r) := by
  unfold State.saveTable
  exact h.frame

theorem Keeps.adjustTable {r code} (h : Keeps a s) : Keeps a (s.adjustTable r code) := by
  unfold State.adjustTable
  exact h.foldl (fun _ _ h => h.setReg) |>.setReg |>.saveTable

theorem Keeps.endRecal {p} (h : Keeps a s) : Keeps a (s.endRecal p) :=
  h.updPort.setFlag

theorem Keeps.laneFailed {p tx lane} (h : Keeps a s) : Keeps a (s.laneFailed p tx lane) :=
  h.branch (·.updPort) (fun h => h.setMaskBit.when (·.setFld) |>.updPort |>.when (·.endRecal) |>.fault)

theorem Keeps.calibrateTx {p code errors} (h : Keeps a s) : Keeps a (s.calibrateTx p code errors) := by
  dsimp only [State.calibrateTx]
  split
  · exact h
  · exact h.whenNot fun h => by
      split
      · exact h.controlBlock.updPort
      · exact h.updPort.branch
            (·.laneFailed)
            (fun h => h.adjustTable.updPort.bump.branch (·.endRecal) (fun h => h.updPort.when (·.swapOut)))

theorem Keeps.calibrateRx {p code errors} (h : Keeps a s) : Keeps a (s.calibrateRx p code errors) := by
  unfold State.calibrateRx
  split
  exacts [h, h.whenNot (fun h => h.branch (·.laneFailed) (fun h => h.adjustTable.updPort.bump.when (·.setFld)))]

theorem Keeps.doLaneCalibration {p tx code errors} (h : Keeps a s) : Keeps a (doLaneCalibration p tx code errors s) :=
  h.whenNot (fun h => h.branch (·.calibrateTx) (·.calibrateRx))

theorem Keeps.doRingHelloSend (h : Keeps a s) : Keeps a (doRingHelloSend s) :=
  h.when (·.emit)

theorem Keeps.doRingHello {chip heard good} (h : Keeps a s) : Keeps a (doRingHello chip heard good s) :=
  h.when (·.setFlag.setReg.updOptics)

theorem Keeps.ringSilent (h : Keeps a s) : Keeps a s.ringSilent :=
  h.setFlag.setFlag

theorem Keeps.doRingHelloLoss (h : Keeps a s) : Keeps a (doRingHelloLoss s) :=
  h.when (·.ringSilent)

theorem Keeps.doBypassOpen {light} (h : Keeps a s) : Keeps a (doBypassOpen light s) :=
  h.when (·.setFlag)

theorem Keeps.closeBypass (h : Keeps a s) : Keeps a s.closeBypass :=
  h.setFlag.ringSilent

theorem Keeps.twinActive {i w} (h : Keeps a s) : Keeps a (s.twinActive i w) :=
  h.setFld.setFld.setFlag

theorem Keeps.setDegraded {i b} (h : Keeps a s) : Keeps a (s.setDegraded i b) :=
  h.foldl (fun _ _ h => h.setFlag)

theorem Keeps.trainTwin {i a' b a2 b2} (h : Keeps a s) : Keeps a (s.trainTwin i a' b a2 b2) :=
  h.bump.branch
      (·.twinActive.setDegraded)
      fun h =>
        h.bump.branch
            (·.twinActive.setDegraded)
            (fun h => h.setFld.setDegraded.foldl (fun _ _ h => h.setTwin) |>.fault)

theorem Keeps.doTwinTraining {i a' b a2 b2} (h : Keeps a s) : Keeps a (doTwinTraining i a' b a2 b2 s) :=
  h.when (·.trainTwin)

/-! ### Machine/HostAttach.lean -/

theorem Keeps.updHost {f} (h : Keeps a s) : Keeps a (s.updHost f) :=
  h.frame

theorem Keeps.linkTrain (h : Keeps a s) : Keeps a s.linkTrain :=
  h.draw.updHost

theorem Keeps.hqStop {q code} (h : Keeps a s) : Keeps a (s.hqStop q code) :=
  h.setFlag.setFld.updHost.fault.when (·.postEvent)

theorem Keeps.readTail {q line} (h : Keeps a s) : Keeps a (s.readTail q line).1 := by
  unfold State.readTail
  exact h.whenFst fun h => by
    split
    exacts [h.fst, h.pipe (fun h => by split <;> exact h.engRead.ofFst ‹_› |>.fst)]

theorem Keeps.seeTail {q line} (h : Keeps a s) : Keeps a (s.seeTail q line) := by
  unfold State.seeTail
  exact h.whenNot fun h => by
    split
    exacts [h.readTail.ofFst ‹_› |>.hqStop, h.readTail.ofFst ‹_› |>.updHost |>.when (·.hqStop)]

theorem Keeps.hqEnable {q line} (h : Keeps a s) : Keeps a (s.hqEnable q line) :=
  h.setFlag.setFld.updHost.seeTail

theorem Keeps.doHqTailSnoop {q line} (h : Keeps a s) : Keeps a (doHqTailSnoop q line s) :=
  h.whenNot (fun h => h.whenNot (·.bump) |>.seeTail)

theorem Keeps.doHqTailPoll {lines} (h : Keeps a s) : Keeps a (doHqTailPoll lines s) :=
  h.whenNot (fun h => h.updHost.foldl (fun _ _ h => h.when (fun h => h.seeTail.when (·.bump))))

theorem Keeps.countInflight {q} (h : Keeps a s) : Keeps a (s.countInflight q) :=
  h.setFld

theorem Keeps.doHqEntryFetch {q entry} (h : Keeps a s) : Keeps a (doHqEntryFetch q entry s) := by
  unfold Machine.doHqEntryFetch
  extract_lets head size mine
  clear_value head size mine
  refine h.whenNot fun h => ?_
  have rest : ∀ x : State × Option (List W64), Keeps a x.1 → Keeps a (match x with
      | (s, words) =>
        match words with
        | none => s.hqStop q 2
        | some ws =>
          let l : Launch := ⟨s.host.nextId, q, head, ws, false, [], [], [], 0, none, 0, false⟩
          let s := s.updHost (fun h => { h with launches := h.launches ++ [l], nextId := h.nextId + 1 })
          (s.setFld (.hqHead q) Fld.hqHeadIndex ((head + 1) % 2 ^ 32)).countInflight q) := fun x h => by
    dsimp only
    split
    · exact Keeps.hqStop h
    · exact Keeps.countInflight (Keeps.setFld (Keeps.updHost h))
  refine rest _ ?_
  refine h.branchFst (fun h => ?_) (·.fst)
  split
  · exact h
  · split <;> exact h.engRead.ofFst ‹_›

theorem Keeps.updLaunch {id f} (h : Keeps a s) : Keeps a (s.updLaunch id f) :=
  h.updHost

theorem Keeps.setLaunchQueue {f l} (h : Keeps a s) : Keeps a (s.setLaunchQueue f l) :=
  h.updHost.setFld

theorem Keeps.doLaunch {q} (h : Keeps a s) : Keeps a (doLaunch q s) := by
  unfold Machine.doLaunch
  split
  · exact h
  · exact h.whenNot fun h =>
      h.branch (·.updLaunch) (fun h => h.whenNot (fun h => h.updLaunch.foldl (fun _ _ h => h.setLaunchQueue)))

theorem Keeps.dispatchTile {t l share} (h : Keeps a s) : Keeps a (s.dispatchTile t l share) :=
  h.updTile.setReg.setReg.foldl (fun _ _ h => h.setReg) |>.setFlag |>.need

theorem Keeps.dropPart {f id} (h : Keeps a s) : Keeps a (s.dropPart f id) :=
  h.setLaunchQueue.updLaunch

theorem Keeps.doLaunchDispatch {f q index} (h : Keeps a s) : Keeps a (doLaunchDispatch f q index s) := by
  unfold Machine.doLaunchDispatch
  split
  · exact h
  · exact h.whenNot fun h =>
      h.branch
          (fun h => h.dropPart.updLaunch.when (·.updLaunch))
          (fun h => h.whenNot (fun h => h.foldl (fun _ _ h => h.dispatchTile) |>.dropPart |>.updLaunch))

theorem Keeps.completeEntry {l} (h : Keeps a s) : Keeps a (s.completeEntry l) := by
  unfold State.completeEntry
  exact h.updHost.countInflight.branch
      (fun h => h.pipe (fun h => by split; exacts [h.folioWrite, h]) |>.postEvent)
      (fun h => h.emit.when (·.emit))

theorem Keeps.doHqNop {q} (h : Keeps a s) : Keeps a (doHqNop q s) := by
  unfold Machine.doHqNop
  split
  exacts [h, h.whenNot (·.completeEntry)]

theorem Keeps.doLaunchComplete {q index} (h : Keeps a s) : Keeps a (doLaunchComplete q index s) := by
  unfold Machine.doLaunchComplete
  split
  exacts [h, h.whenNot (·.completeEntry)]

theorem Keeps.abortLaunches {folio tile} (h : Keeps a s) : Keeps a (s.abortLaunches folio tile) :=
  h.updHost.foldl (fun _ _ h => h.when (·.setFld))

theorem Keeps.featCommit (h : Keeps a s) : Keeps a s.featCommit :=
  h.foldl (fun _ _ h => h.setReg) |>.setFlag

theorem Keeps.settlePages {page count} (h : Keeps a s) : Keeps a (s.settlePages page count) :=
  h.foldl (fun _ _ h => h.settleOps)

theorem Keeps.biasGo (h : Keeps a s) : Keeps a s.biasGo :=
  h.branch (·.fault) (fun h => h.when (·.settlePages) |>.setFlag |>.updHost |>.whenNot (·.emit))

theorem Keeps.doBiasFlipDone (h : Keeps a s) : Keeps a (doBiasFlipDone s) := by
  unfold Machine.doBiasFlipDone
  split
  · exact h
  · exact h.whenNot fun h =>
      h.frame.when (fun h => h.foldl (fun _ _ h => h.whenNot (·.setCache))) |>.updHost |>.setFlag |>.setFlag
        |>.postHeld

theorem Keeps.setDecoder {d v} (h : Keeps a s) : Keeps a (s.setDecoder d v) :=
  h.updHost

theorem Keeps.doHdmCommit {d base size skip ways lock} (h : Keeps a s) :
    Keeps a (doHdmCommit d base size skip ways lock s) :=
  h.whenNot (fun h => h.branch (·.setDecoder) (·.setDecoder))

theorem Keeps.dropMem {hpa} (h : Keeps a s) : Keeps a (s.dropMem hpa) :=
  h.fault

theorem Keeps.doCxlMemRead {hpa} (h : Keeps a s) : Keeps a (doCxlMemRead hpa s) := by
  unfold Machine.doCxlMemRead
  exact h.whenNot fun h => by
    split
    · exact h.dropMem.emit
    · split
      exacts [h.hdmRead.ofFst ‹_› |>.updHost |>.emit |>.emit, h.hdmRead.ofFst ‹_› |>.emit]

theorem Keeps.hostStore {f off bs} (h : Keeps a s) : Keeps a (s.hostStore f off bs) :=
  h.branch (·.fault) (·.hdmWrite)

theorem Keeps.doCxlMemWrite {hpa data} (h : Keeps a s) : Keeps a (doCxlMemWrite hpa data s) := by
  unfold Machine.doCxlMemWrite
  exact h.whenNot (fun h => h.pipe (fun h => by split; exacts [h.dropMem, h.hostStore]))

theorem Keeps.doBar2Read {off n} (h : Keeps a s) : Keeps a (doBar2Read off n s) := by
  unfold Machine.doBar2Read
  exact h.whenNot fun h =>
    h.branch (·.emit) (fun h => h.pipe (fun h => by split <;> exact h.hdmRead.ofFst ‹_› |>.emit))

theorem Keeps.doBar2Write {off data} (h : Keeps a s) : Keeps a (doBar2Write off data s) :=
  h.whenNot (fun h => h.branch (·.emit) (fun h => h.foldl (fun _ _ h => h.hostStore)))

theorem Keeps.doApertureAccess {f h' n off size op} (h : Keeps a s) :
    Keeps a (doApertureAccess f h' n off size op s) := by
  unfold Machine.doApertureAccess
  exact h.whenNot fun h => by
    split
    · exact h.hartFault
    · exact h.branch (·.hartFault) (fun h => h.pipe (fun h => by split; exacts [h.updHart.request ‹_›, h]))

theorem Keeps.doHartFence {f op} (h : Keeps a s) : Keeps a (doHartFence f op s) :=
  h.whenNot (·.emit)

/-! ### Machine/Reset.lean -/

theorem Keeps.updMgmt {f} (h : Keeps a s) : Keeps a (s.updMgmt f) :=
  h.frame

theorem Keeps.setMode {m} (h : Keeps a s) : Keeps a (s.setMode m) :=
  h.setFld.setFlag

theorem Keeps.setStatus {state step reason} (h : Keeps a s) : Keeps a (s.setStatus state step reason) :=
  h.setFld.setFld.setFld

theorem Keeps.wholeReset {reason hold} (h : Keeps a s) : Keeps a (s.wholeReset reason hold) := by
  unfold State.wholeReset
  extract_lets m state energy mgmt r r1 r2 r3
  have hr : Keeps a r := h.trans ⟨fun w => by
    rw [State.wf_iff] at w ⊢
    exact ⟨rfl, Store.filter_wf _ w.2⟩, rfl, rfl, le_rfl, List.prefix_rfl⟩
  clear_value r
  exact hr.setReg.setReg.setStatus.when (·.fault)

theorem Keeps.clearDie {d} (h : Keeps a s) : Keeps a (s.clearDie d) :=
  h.updNet

theorem Keeps.folioReset {f} (h : Keeps a s) : Keeps a (s.folioReset f) := by
  unfold State.folioReset
  extract_lets s1 s2 reset s3 s4 s5 s6 s7 s8 s9 s10 s11
  have h6 : Keeps a s6 := h.abortLaunches.resetRegs.foldl (fun _ _ h => h.setTile) |>.updAfter |>.clearDie |>.updNet
  clear_value s6
  have h7 : Keeps a s7 := h6.frame
  clear_value s7
  have h10 : Keeps a s10 := h7.updEnergy.foldl (fun _ _ h => h.setFlag) |>.setFlag
  clear_value s10
  exact h10.when (·.updMgmt) |>.whenNot (·.setFld)

theorem Keeps.folioReleased {f} (h : Keeps a s) : Keeps a (s.folioReleased f) :=
  h.frame.foldl (fun _ _ h => h.need.need.setFlag) |>.setFlag |>.whenNot (fun h => h.whenNot (·.updMgmt.setFld))

theorem Keeps.deckleReset {n} (h : Keeps a s) : Keeps a (s.deckleReset n) :=
  h.frame.foldl (fun _ _ h => h.faultGroup) |>.resetRegs |>.setReg |>.foldl (fun _ _ h => h.when (·.setPortLive))
    |>.clearDie |>.updNet |>.updOptics |>.when (·.setFld.closeBypass)

theorem Keeps.deckleReleased {n} (h : Keeps a s) : Keeps a (s.deckleReleased n) :=
  h.frame.when (·.setFld)

theorem Keeps.tileReset {t} (h : Keeps a s) : Keeps a (s.tileReset t) := by
  unfold State.tileReset
  extract_lets u reset v w mine x
  have hx : Keeps a x := h.resetRegs.updTile.updAfter.updNet
  exact hx.frame

theorem Keeps.tileReleased {t} (h : Keeps a s) : Keeps a (s.tileReleased t) :=
  h.leaveLaunch.updTile

theorem Keeps.doResetDone {d} (h : Keeps a s) : Keeps a (doResetDone d s) := by
  unfold Machine.doResetDone
  exact h.whenNot fun h => by
    split
    exacts [h.when (·.folioReleased), h.when (·.deckleReleased), h.when (·.tileReleased)]

theorem Keeps.devReset {r} {refuse : State → State} (h : Keeps a s) (hrefuse : ∀ s, Keeps a s → Keeps a (refuse s)) :
    Keeps a (s.devReset r refuse) := by
  dsimp only [State.devReset]
  exact h.branch
      (fun h =>
          h.branch
              (fun h => h.pipe (hrefuse _))
              fun h =>
                h.branch
                    (·.wholeReset)
                    fun h =>
                      h.foldl (fun _ _ h => h.folioReset) |>.foldl (fun _ _ h => h.deckleReset)
                        |>.pipe (fun h => by split; exacts [h.whenNot (·.tileReset), h]))
      (fun h => h.when (fun h => h.pipe (hrefuse _)) |>.when (·.wholeReset))

theorem Keeps.doDevResetN (h : Keeps a s) : Keeps a (doDevResetN s) := by
  unfold Machine.doDevResetN
  split
  exacts [h.updMgmt, h.updMgmt.whenNot (fun h => h.branch (·.draw.wholeReset) (·.draw))]

theorem Keeps.abandonEntry {perst l} (h : Keeps a s) : Keeps a (State.abandonEntry perst s l) :=
  h.whenNot (·.completeEntry)

theorem Keeps.doCxlReset {perst} (h : Keeps a s) : Keeps a (doCxlReset perst s) :=
  h.foldl (fun _ _ h => h.abandonEntry) |>.resetRegs |>.foldl (fun _ _ h => h.setLaunchQueue) |>.updHost |>.postHeld
    |>.when (·.updMgmt)

theorem Keeps.doPerstNRelease (h : Keeps a s) : Keeps a (doPerstNRelease s) :=
  h.updMgmt.when (·.linkTrain.updHost)

theorem Keeps.stopAll {reason} (h : Keeps a s) : Keeps a (s.stopAll reason) :=
  h.frame.updEnergy.updHost.setFld.setFld

theorem Keeps.recordStop {coolant} (h : Keeps a s) : Keeps a (s.recordStop coolant) := by
  unfold State.recordStop
  exact h.setFlag.setFlag.setFld.updMgmt

theorem Keeps.doThermalTrip {i reading} (h : Keeps a s) : Keeps a (doThermalTrip i reading s) :=
  h.whenNot (·.bump.setFld.setFld.recordStop.updMgmt.stopAll.updEnergy)

theorem Keeps.doTripRestart (h : Keeps a s) : Keeps a (doTripRestart s) := by
  unfold Machine.doTripRestart
  split
  exacts [h.when (·.updMgmt.wholeReset), h]

theorem Keeps.doCoolantSample {ok} (h : Keeps a s) : Keeps a (doCoolantSample ok s) :=
  h.whenNot fun h =>
    h.updEnergy.setFlag.whenNot (fun h => h.bump.branch (·.fault) (fun h => h.whenNot (·.recordStop.stopAll)))

theorem Keeps.railStop {rail status} (h : Keeps a s) : Keeps a (s.railStop rail status) :=
  h.fault.whenNot (·.stopAll)

theorem Keeps.doRailFault {r status} (h : Keeps a s) : Keeps a (doRailFault r status s) := by
  unfold Machine.doRailFault
  exact h.when (fun h => h.pipe (fun h => by split; exacts [h.whenNot (·.updMgmt), h.railStop]))

theorem Keeps.doMcHeartbeatLoss {watchdog} (h : Keeps a s) : Keeps a (doMcHeartbeatLoss watchdog s) :=
  h.whenNot (·.setFlag.updMgmt)

theorem Keeps.doDualWatchdog (h : Keeps a s) : Keeps a (doDualWatchdog s) :=
  h.when (·.updMgmt.wholeReset)

theorem Keeps.doIslandSelfCheck {passed} (h : Keeps a s) : Keeps a (doIslandSelfCheck passed s) :=
  h.when (·.updMgmt.setFlag)

theorem Keeps.powerLost (h : Keeps a s) : Keeps a s.powerLost :=
  h.trans ⟨fun _ => rfl, rfl, rfl, le_rfl, List.prefix_rfl⟩

theorem Keeps.doLossOfPower (h : Keeps a s) : Keeps a (doLossOfPower s) :=
  h.foldl (fun _ _ h => h.emit) |>.powerLost

theorem Keeps.doPowerOn (h : Keeps a s) : Keeps a (doPowerOn s) :=
  h.whenNot (·.updMgmt.updEnergy.setStatus)

/-! ### Machine/Boot.lean -/

theorem Keeps.issueAlias (h : Keeps a s) : Keeps a s.issueAlias :=
  h.when (·.updMgmt)

theorem Keeps.bootHold {reason step} (h : Keeps a s) : Keeps a (s.bootHold reason step) :=
  h.setStatus.fault

theorem Keeps.bootFirmware (h : Keeps a s) : Keeps a s.bootFirmware.1 := by
  dsimp only [State.bootFirmware]
  exact h.branch (fun h => h.whenNot (·.fault)) (fun h => h.whenNot (·.fault) |>.fault) |>.setReg |>.setFlag
    |>.pipe (fun h => by split; exacts [h.bootHold.setMode.fst, h.setReg.updMgmt.fst])

theorem Keeps.bootRails {fail} (h : Keeps a s) : Keeps a (s.bootRails fail).1 :=
  h.updEnergy.branchFst (·.bootHold.fst) (fun h => h.need.whenNot (·.linkTrain) |>.fst)

theorem Keeps.bootDies {b} (h : Keeps a s) : Keeps a (s.bootDies b).1 :=
  h.setReg.setReg.whenNotFst (·.bootHold.fst)

theorem Keeps.bootTwins {b} (h : Keeps a s) : Keeps a (s.bootTwins b) :=
  h.foldl (fun _ _ h => h.need.need.trainTwin)

theorem Keeps.bootFelt {b} (h : Keeps a s) : Keeps a (s.bootFelt b).1 := by
  unfold State.bootFelt
  exact h.branchFst
      (·.bootHold.fst)
      fun h =>
        h.foldl (fun _ _ h => h.need) |>.foldl (fun _ _ h => h.setFld.setFld) |>.foldl (fun _ _ h => h.setReg)
          |>.foldl (fun _ _ h => h.setFld) |>.updMgmt |>.pipe fun h => by
          split
          exacts [h.fst, h.setFlag.foldl (fun _ _ h => h.setFld.setFld.setFld) |>.fst]

theorem Keeps.bootReams {b} (h : Keeps a s) : Keeps a (s.bootReams b).1 :=
  h.branchFst
      (·.bootHold.fst)
      fun h =>
        h.foldl (fun _ _ h => h.need.need.setFlag.setFld.setFld.setFlag) |>.updMgmt |>.foldl (fun _ _ h => h.spareRow)
          |>.fst

theorem Keeps.bootTile {t rows wide} (h : Keeps a s) : Keeps a (s.bootTile t rows wide) := by
  unfold State.bootTile
  extract_lets fused reason s1 field s2
  clear_value fused
  have h1 : Keeps a s1 := by
    dsimp only [s1]
    split
    · exact h.whenNot (·.updMgmt)
    · exact h
  clear_value s1 field
  have h2 : Keeps a s2 := by
    dsimp only [s2]
    split <;> exact h1.setReg
  exact h2.setReg

theorem Keeps.bootNeed {d} (h : Keeps a s) : Keeps a (s.bootNeed d) :=
  h.frame

theorem Keeps.bootTiles {b} (h : Keeps a s) : Keeps a (s.bootTiles b) := by
  unfold State.bootTiles
  exact h.foldl (fun _ _ h => h.setPoint)
    |>.foldl (fun _ _ h => h.bootNeed.pipe (fun h => by split <;> exact h.bootTile)) |>.foldl (fun _ _ h => h.setFld)

theorem Keeps.bootMargins {b} (h : Keeps a s) : Keeps a (s.bootMargins b) :=
  h.when (·.updEnergy.setFld.updMgmt) |>.foldl (fun _ _ h => h.setFld)

theorem Keeps.bootMeters {b} (h : Keeps a s) : Keeps a (s.bootMeters b) :=
  h.foldl (fun _ _ h => h.foldl (fun _ _ h => h.bootNeed) |>.updEnergy |>.setFld |>.when (·.setFlag.fault))

theorem Keeps.bootReady (h : Keeps a s) : Keeps a s.bootReady :=
  h.setStatus.setMode.updHost

theorem Keeps.bootSteps {b} (h : Keeps a s) : Keeps a (s.bootSteps b) := by
  unfold State.bootSteps
  split
  · exact h.bootFirmware.ofFst ‹_›
  · exact h.bootFirmware.ofFst ‹_› |>.pipe fun h => by
      split
      · exact h.bootRails.ofFst ‹_›
      · exact h.bootRails.ofFst ‹_› |>.pipe fun h => by
          split
          · exact h.bootDies.ofFst ‹_›
          · exact h.bootDies.ofFst ‹_› |>.pipe fun h => by
              split
              · exact h.bootTwins.bootFelt.ofFst ‹_›
              · exact h.bootTwins.bootFelt.ofFst ‹_› |>.pipe fun h => by
                  split
                  · exact h.bootReams.ofFst ‹_›
                  · exact h.bootReams.ofFst ‹_› |>.bootTiles |>.bootMargins |>.bootMeters |>.setReg |>.bootReady

theorem Keeps.doBringup {b} (h : Keeps a s) : Keeps a (doBringup b s) :=
  h.whenNot (·.bootSteps.issueAlias)

theorem Keeps.recoveryStart (h : Keeps a s) : Keeps a s.recoveryStart :=
  h.updMgmt

theorem Keeps.recoveryData {v} (h : Keeps a s) : Keeps a (s.recoveryData v) :=
  h.whenNot (·.updMgmt)

theorem Keeps.recoveryCommit (h : Keeps a s) : Keeps a s.recoveryCommit :=
  h.whenNot (·.setFlag.updMgmt)

theorem Keeps.doRecoveryCommitDone {flashOk} (h : Keeps a s) : Keeps a (doRecoveryCommitDone flashOk s) := by
  unfold Machine.doRecoveryCommitDone
  split
  exacts [h, h.setFlag.setFlag.setFld.updMgmt.when (·.updMgmt.wholeReset)]

/-! ### Machine/Mailbox.lean -/

theorem Keeps.mboxBusy {code i3c} (h : Keeps a s) : Keeps a (s.mboxBusy code i3c) :=
  h.setFlag.setFld.setFlag

theorem Keeps.mboxWrite {code} (h : Keeps a s) : Keeps a (s.mboxWrite code) :=
  h.updMgmt.mboxBusy

theorem Keeps.mboxQueue {r} (h : Keeps a s) : Keeps a (s.mboxQueue r) :=
  h.updMgmt

theorem Keeps.mboxNext (h : Keeps a s) : Keeps a s.mboxNext := by
  unfold State.mboxNext
  split
  exacts [h.updMgmt.mboxBusy, h]

theorem Keeps.mboxTake {via code} (h : Keeps a s) : Keeps a (s.mboxTake via code).1 := by
  unfold State.mboxTake
  split
  · split <;> exact h.fst
  · exact h.whenNotFst fun h =>
      h.branchFst (·.mboxBusy.fst) (fun h => h.branchFst (·.mboxQueue.mboxNext.fst) (·.mboxQueue.fst))

theorem Keeps.mboxEnd {r status data} (h : Keeps a s) : Keeps a (s.mboxEnd r status data) :=
  h.updMgmt

theorem Keeps.mboxRead {r off n} (h : Keeps a s) : Keeps a (s.mboxRead r off n).1 := by
  unfold State.mboxRead
  exact h.whenNotFst fun h =>
    h.whenNotFst fun h => by
      split
      exacts [h.engRead.ofFst ‹_› |>.fst, h.engRead.ofFst ‹_› |>.draw |>.fst]

theorem Keeps.mboxGive {r off bs} (h : Keeps a s) : Keeps a (s.mboxGive r off bs) := by
  unfold State.mboxGive
  exact h.branch
      (·.mboxEnd)
      fun h =>
        h.branch
            (·.mboxEnd)
            fun h => by
              split
              exacts [h.engWrite.ofFst ‹_› |>.mboxEnd, h.engWrite.ofFst ‹_› |>.draw |>.mboxEnd]

theorem Keeps.doFwUpdate {via flashOk} (h : Keeps a s) : Keeps a (doFwUpdate via flashOk s) := by
  unfold Machine.doFwUpdate
  split
  · exact h.mboxTake.ofFst ‹_› |>.branch
        (·.mboxEnd)
        fun h => by
          split
          · exact h.mboxRead.ofFst ‹_› |>.mboxEnd
          · exact h.mboxRead.ofFst ‹_› |>.updMgmt |>.branch (·.mboxEnd) (fun h => h.branch (·.mboxEnd) (·.mboxEnd))
  · exact h.mboxTake.ofFst ‹_›

theorem Keeps.doSvnCommit {via} (h : Keeps a s) : Keeps a (doSvnCommit via s) := by
  unfold Machine.doSvnCommit
  split
  exacts [h.mboxTake.ofFst ‹_› |>.updMgmt |>.mboxEnd, h.mboxTake.ofFst ‹_›]

theorem Keeps.newChallenge (h : Keeps a s) : Keeps a s.newChallenge.1 :=
  h.draw.updMgmt.fst

theorem Keeps.takeToken {tok} (h : Keeps a s) : Keeps a (s.takeToken tok).1 :=
  h.whenNotFst (fun h => h.branchFst (·.setFld.fault.issueAlias.fst) (·.updMgmt.setFld.fst))

theorem Keeps.doDebugChallenge {via} (h : Keeps a s) : Keeps a (doDebugChallenge via s) := by
  unfold Machine.doDebugChallenge
  split
  exacts [h.mboxTake.ofFst ‹_›, h.mboxTake.ofFst ‹_› |>.branch (·.mboxEnd) (·.newChallenge.mboxGive)]

theorem Keeps.doDebugToken {via} (h : Keeps a s) : Keeps a (doDebugToken via s) := by
  unfold Machine.doDebugToken
  split
  · exact h.mboxTake.ofFst ‹_›
  · exact h.mboxTake.ofFst ‹_› |>.pipe fun h => by
      split
      exacts [h.mboxRead.ofFst ‹_› |>.mboxEnd, h.mboxRead.ofFst ‹_› |>.takeToken |>.mboxEnd]

theorem Keeps.doUnlockChal (h : Keeps a s) : Keeps a (doUnlockChal s) :=
  h.when (·.newChallenge.emit)

theorem Keeps.doUnlockToken {tok} (h : Keeps a s) : Keeps a (doUnlockToken tok s) :=
  h.when (·.takeToken)

theorem Keeps.setSentinel {k v} (h : Keeps a s) : Keeps a (s.setSentinel k v) :=
  h.updMgmt.setFld.setFld

theorem Keeps.doSentLoad {via} (h : Keeps a s) : Keeps a (doSentLoad via s) := by
  unfold Machine.doSentLoad
  split
  · exact h.mboxTake.ofFst ‹_›
  · exact h.mboxTake.ofFst ‹_› |>.branch
        (·.mboxEnd)
        fun h => by
          split
          · exact h.mboxRead.ofFst ‹_› |>.mboxEnd
          · exact h.mboxRead.ofFst ‹_› |>.pipe (fun h => by split; exacts [h.mboxEnd, h.setSentinel.mboxEnd])

theorem Keeps.sentMask {mask f} (h : Keeps a s) : Keeps a (s.sentMask mask f) := by
  unfold State.sentMask
  exact h.foldl (fun _ _ h => h.pipe (fun h => by split; exacts [h.when (·.setSentinel), h]))

theorem Keeps.doSentEnable {via} (h : Keeps a s) : Keeps a (doSentEnable via s) := by
  unfold Machine.doSentEnable
  split
  exacts [h.mboxTake.ofFst ‹_›, h.mboxTake.ofFst ‹_› |>.branch (·.mboxEnd) (·.sentMask.mboxEnd)]

theorem Keeps.doSentDisable {via} (h : Keeps a s) : Keeps a (doSentDisable via s) := by
  unfold Machine.doSentDisable
  split
  exacts [h.mboxTake.ofFst ‹_›, h.mboxTake.ofFst ‹_› |>.branch (·.mboxEnd) (·.sentMask.mboxEnd)]

theorem Keeps.doSentRun {via} (h : Keeps a s) : Keeps a (doSentRun via s) := by
  unfold Machine.doSentRun
  split
  exacts [h.mboxTake.ofFst ‹_›, h.mboxTake.ofFst ‹_› |>.branch (·.mboxEnd) (·.sentMask.mboxEnd)]

theorem Keeps.doHash {via} (h : Keeps a s) : Keeps a (doHash via s) := by
  unfold Machine.doHash
  split
  · exact h.mboxTake.ofFst ‹_›
  · exact h.mboxTake.ofFst ‹_› |>.branch
        (·.mboxEnd)
        fun h => by
          split
          exacts [h.engRead.ofFst ‹_› |>.draw |>.mboxEnd, h.engRead.ofFst ‹_› |>.mboxGive]

theorem Keeps.doMboxBadCommand {via code} (h : Keeps a s) : Keeps a (doMboxBadCommand via code s) := by
  unfold Machine.doMboxBadCommand
  exact h.whenNot fun h => by
    split
    exacts [h.mboxTake.ofFst ‹_›, h.mboxTake.ofFst ‹_› |>.mboxEnd]

theorem Keeps.doMboxCommandDone (h : Keeps a s) : Keeps a (doMboxCommandDone s) := by
  unfold Machine.doMboxCommandDone
  split
  · exact h
  · exact h.whenNot fun h =>
      h.setFld.setFlag.setFlag.updMgmt.pipe (fun h => by split; exacts [h.updMgmt, h]) |>.when (·.emit) |>.mboxNext

/-! ### Machine/Fleet.lean -/

theorem Keeps.clearScores (h : Keeps a s) : Keeps a s.clearScores :=
  h.foldl (fun _ _ h => h.setReg) |>.scoreSum

theorem Keeps.doScoreDecay (h : Keeps a s) : Keeps a (doScoreDecay s) :=
  h.whenNot (fun h => h.foldl (fun _ _ h => h.setFld) |>.updMgmt |>.scoreSum)

theorem Keeps.doPoweredHour (h : Keeps a s) : Keeps a (doPoweredHour s) :=
  h.when (·.bump.updMgmt)

theorem Keeps.dispatchSentinel {t v} (h : Keeps a s) : Keeps a (s.dispatchSentinel t v) := by
  unfold State.dispatchSentinel
  exact h.dispatchTile.updTile

theorem Keeps.doSentinelStart {k} (h : Keeps a s) : Keeps a (doSentinelStart k s) := by
  unfold Machine.doSentinelStart
  split
  · exact h
  · exact h.whenNot fun h =>
      h.branch
          (·.setSentinel.bump)
          fun h =>
            h.branch
                (·.setSentinel)
                fun h =>
                  h.when (fun h => h.foldl (fun _ _ h => h.setPoint)) |>.setSentinel
                    |>.foldl (fun _ _ h => h.dispatchSentinel) |>.setFlag |>.bump |>.updMgmt

theorem Keeps.sentRecord {r t ran} (h : Keeps a s) : Keeps a (s.sentRecord r t ran) := by
  unfold State.sentRecord
  exact h.pipe (fun h => by split; exacts [h.engRead.ofFst ‹_› |>.fst, h.engRead.ofFst ‹_› |>.draw |>.fst])
    |>.when (·.bump) |>.engWrite |>.setFld

theorem Keeps.sentEnd {r} (h : Keeps a s) : Keeps a (s.sentEnd r) :=
  h.foldl (fun _ _ h => h.stopTile) |>.whenNot (·.bump) |>.updMgmt |>.foldl (fun _ _ h => h.setPoint)
    |>.foldl (fun _ _ h => h.sentRecord) |>.setFlag

theorem Keeps.doSentinelStop (h : Keeps a s) : Keeps a (doSentinelStop s) :=
  h.whenNot (fun h => h.foldl (fun _ _ h => h.sentEnd))

/-! ### Machine/Access.lean -/

theorem Keeps.wakeReg {off} (h : Keeps a s) : Keeps a (s.wakeReg off) := by
  unfold State.wakeReg
  split
  exacts [h.whenNot (·.wake), h, h]

theorem Keeps.modesWritten {n old} (h : Keeps a s) : Keeps a (s.modesWritten n old) :=
  h.foldl (fun _ _ h => h.whenNot (·.portModeChanged))

theorem Keeps.stored {r old line} (h : Keeps a s) : Keeps a (s.stored r old line) := by
  unfold State.stored
  split
  · exact h.foldl (fun _ _ h => h.followPoint)
  · exact h.followPoint
  · exact h.setForecast
  · exact h.setForecast
  · exact h.setFlag
  · exact h.scoreSum
  · exact h.updMgmt
  · exact h.tenseEnableChange
  · exact h.quiesceWritten
  · exact h.setFld
  · exact h.portAdmitWritten
  · exact h.modesWritten
  · exact h.when (·.hqEnable)
  · exact h.when (·.ecqEnable)
  · exact h

theorem Keeps.leaveTest (h : Keeps a s) : Keeps a s.leaveTest :=
  h.foldl (fun _ _ h => h.when (fun h => h.updPort.when (·.setFlag))) |>.setMode

theorem Keeps.enterTest (h : Keeps a s) : Keeps a s.enterTest :=
  h.foldl (fun _ _ h => h.when (·.updPort.setFlag.portAdmitWritten)) |>.setMode

theorem Keeps.modeRequest {req} {refuse : State → State} (h : Keeps a s)
    (hrefuse : ∀ s, Keeps a s → Keeps a (refuse s)) : Keeps a (s.modeRequest req refuse) :=
  h.branch (·.leaveTest) (fun h => h.branch (·.enterTest) (fun h => h.pipe (hrefuse _)))

theorem Keeps.actions {r acts half} {refuse : State → State} (h : Keeps a s)
    (hrefuse : ∀ s, Keeps a s → Keeps a (refuse s)) : Keeps a (s.actions r acts half refuse) := by
  cases r with
  | seqCtl t => exact h.when (fun h => h.startTile hrefuse) |>.when (·.stopTile)
  | ecqCtl f q => exact h.when (·.ecqResume)
  | collCtl g =>
    exact h.when (·.createGroup) |>.when (·.destroyGroup) |>.when (·.preemptGroup) |>.when (·.resumeGroup)
      |>.when (·.forceArrive)
  | sensor i => exact h.when (·.setFld)
  | featCtl => exact h.when fun h => h.branch (hrefuse _) (·.featCommit)
  | biasFlipCtl => exact h.when (·.biasGo)
  | devReset => exact h.when fun h => h.devReset hrefuse
  | modeCtl => exact h.when fun h => h.modeRequest hrefuse
  | recoveryCtl => exact h.when (·.recoveryStart) |>.when (·.recoveryCommit)
  | recoveryData => exact h.when (·.recoveryData)
  | scoreClear => exact h.when (·.clearScores)
  | mboxCmd => exact h.whenNot fun h => h.branch (hrefuse _) (·.mboxWrite)
  | _ => exact h

theorem Keeps.clears {src r bits} (h : Keeps a s) : Keeps a (s.clears src r bits) := by
  unfold State.clears
  exact h.whenNot (fun h => h.pipe (fun h => by split; exacts [h.when (·.releasePort), h.setReg]))

theorem Keeps.writeReg {src r v half line} {record : Nat → State → State} (h : Keeps a s)
    (hrecord : ∀ {s} code, Keeps a s → Keeps a (record code s)) : Keeps a (s.writeReg src r v half line record) := by
  unfold State.writeReg
  extract_lets old rw want frozen new acts w1c s1 s2 s3
  have h1 : Keeps a s1 := h.when (hrecord _)
  clear_value s1
  have h2 : Keeps a s2 := h1.setReg.clears
  clear_value s2
  have h3 : Keeps a s3 := h2.whenNot (·.stored)
  clear_value s3
  exact h.branch (hrecord _) fun h => h.branch (hrecord _) fun _ => h3.actions fun _ h => hrecord _ h

theorem Keeps.holdWrite {k h'} (h : Keeps a s) : Keeps a (s.holdWrite k h') :=
  h.updMgmt

theorem Keeps.writeOff {src off wide v line} (h : Keeps a s) : Keeps a (s.writeOff src off wide v line) := by
  unfold State.writeOff
  dsimp only
  split
  · exact h.regFault
  · exact h
  · exact h.branch (·.regFault) fun h => h.wakeReg.branch (fun h => h.when (·.regFault)) fun h =>
      h.branch (·.regFault) fun h => h.writeReg fun _ h => h.regFault

theorem Keeps.badSize {off size write} (h : Keeps a s) : Keeps a (s.badSize off size write) :=
  h.branch (fun h => h.whenNot (·.emit)) (fun h => h.regFault.whenNot (·.emit))

theorem Keeps.access {src off wide v line} (h : Keeps a s) : Keeps a (s.access src off wide v line) := by
  unfold State.access
  exact h.whenNot fun h =>
    h.branch
        (·.badSize)
        fun h =>
          h.whenNot fun h =>
            h.whenNot (fun h => h.pipe (fun h => by split; exacts [h.branch (·.holdWrite) (·.writeOff), h.writeOff]))

theorem Keeps.writeNamed {src r v} (h : Keeps a s) : Keeps a (s.writeNamed src r v) :=
  h.access

theorem Keeps.doTakeoverDone (h : Keeps a s) : Keeps a (doTakeoverDone s) := by
  unfold Machine.doTakeoverDone
  split
  · exact h
  · exact h.updMgmt.setFld.bump.fault.foldl (fun _ _ h => h.access) |>.whenNot (·.fault)
      |>.pipe (fun h => by split; exacts [h.railStop, h]) |>.mboxNext

theorem Keeps.doBadSizeAccess {off size write} (h : Keeps a s) : Keeps a (doBadSizeAccess off size write s) :=
  h.whenNot (·.badSize)

/-! ### Machine/Attest.lean -/

theorem Keeps.sign {msg} (h : Keeps a s) : Keeps a (s.sign msg).1 :=
  h.draw.fst

theorem Keeps.setSpdm {mctp v} (h : Keeps a s) : Keeps a (s.setSpdm mctp v) :=
  h.updMgmt

theorem Keeps.spdmReply {mctp req rsp f} (h : Keeps a s) : Keeps a (s.spdmReply mctp req rsp f) :=
  h.setSpdm.emit

theorem Keeps.spdmFail {code} (h : Keeps a s) : Keeps a (s.spdmFail code) :=
  h.emit

theorem Keeps.doGetVersion {mctp req} (h : Keeps a s) : Keeps a (doGetVersion mctp req s) :=
  h.whenNot (·.spdmReply)

theorem Keeps.doGetCapabilities {mctp req} (h : Keeps a s) : Keeps a (doGetCapabilities mctp req s) :=
  h.whenNot (·.spdmReply)

theorem Keeps.doNegotiateAlgorithms {mctp req} (h : Keeps a s) : Keeps a (doNegotiateAlgorithms mctp req s) :=
  h.whenNot (·.spdmReply)

theorem Keeps.doGetDigests {mctp req} (h : Keeps a s) : Keeps a (doGetDigests mctp req s) :=
  h.whenNot (·.spdmReply)

theorem Keeps.doGetCertificate {mctp req} (h : Keeps a s) : Keeps a (doGetCertificate mctp req s) :=
  h.whenNot (fun h => h.branch (·.spdmFail) (·.spdmReply))

theorem Keeps.doChallenge {mctp req} (h : Keeps a s) : Keeps a (doChallenge mctp req s) := by
  dsimp only [Machine.doChallenge]
  exact h.whenNot (fun h => h.branch (·.spdmFail) (·.draw.sign.spdmReply))

theorem Keeps.doGetMeasurements {mctp req} (h : Keeps a s) : Keeps a (doGetMeasurements mctp req s) := by
  dsimp only [Machine.doGetMeasurements]
  exact h.whenNot (fun h => h.branch (·.spdmFail) (fun h => h.draw.branch (·.sign.spdmReply) (·.spdmReply)))

theorem Keeps.doCdatRead {entry} (h : Keeps a s) : Keeps a (doCdatRead entry s) := by
  unfold Machine.doCdatRead
  exact h.when (fun h => h.pipe (fun h => by split; exacts [h, h.emit]))

/-! ### Machine/Control.lean -/

theorem Keeps.decodeAt {t data} (h : Keeps a s) : Keeps a (s.decodeAt t data) :=
  h.when (·.raise)

theorem Keeps.doInstructionFetch {t} (h : Keeps a s) : Keeps a (doInstructionFetch t s) := by
  dsimp only [Machine.doInstructionFetch]
  exact h.whenNot fun h =>
    h.branch
        (·.raise)
        fun h => by
          split
          · exact h.decodeAt
          · exact h.whenNot fun h => by
              split
              exacts [h.folioRead.ofFst ‹_› |>.updTile |>.decodeAt, h.folioRead.ofFst ‹_› |>.requestHalt]

/-! ### Machine/Harts.lean -/

theorem Keeps.mgmtReply {n req data} (h : Keeps a s) : Keeps a (s.mgmtReply n req data) :=
  h.branch (·.sendCells) (·.suppressed)

theorem Keeps.mgmtPerform {n c bs} (h : Keeps a s) : Keeps a (s.mgmtPerform n c bs) :=
  h.branch (·.refuseAt) (fun h => h.branch (·.wakeReg.mgmtReply) (·.access.mgmtReply))

theorem Keeps.doMgmt {type n c} (h : Keeps a s) : Keeps a (doMgmt type n c s) := by
  unfold Machine.doMgmt
  dsimp only
  refine h.whenNot fun _ => h.branch (·.land) fun _ => ?_
  split
  · exact h.land.arriveAt.ofFst ‹_›
  · next e =>
    have h' := h.land.arriveAt.ofFst e
    split
    · exact h'.refuseAt
    · refine h'.branch (·.mgmtPerform) fun _ => ?_
      split
      · exact h
      · exact h'.assemble.ofDropped ‹_›
      · exact (h'.assemble.ofRefused ‹_›).refuseAt
      · exact h'.assemble.ofHeld ‹_›
      · exact (h'.assemble.ofWhole ‹_›).mgmtPerform

theorem Keeps.hartAnswer {op} (h : Keeps a s) : Keeps a (s.hartAnswer op) := by
  unfold State.hartAnswer
  split
  exacts [h.emit, h]

theorem Keeps.hartReam {f h' off len op} (h : Keeps a s) : Keeps a (s.hartReam f h' off len op) := by
  dsimp only [State.hartReam]
  exact h.whenNot fun h =>
    h.branch
        (fun h => by
            split
            · exact h.folioRead.ofFst ‹_› |>.hartFault
            · exact h.folioRead.ofFst ‹_› |>.pipe (fun h => by split; exacts [h.emit.folioWrite, h.emit]))
        (fun h => h.pipe (fun h => by split; exacts [h.folioWrite, h]) |>.hartAnswer)

theorem Keeps.hartVat {f h' t addr off len op} (h : Keeps a s) : Keeps a (s.hartVat f h' t addr off len op) := by
  dsimp only [State.hartVat]
  exact h.branch
      (·.hartFault)
      fun h =>
        h.wake.branch
            (fun h => by
                split
                · exact h.vatScan.ofFst ‹_› |>.hartFault
                · exact h.vatScan.ofFst ‹_› |>.pipe (fun h => by split; exacts [h.emit.vatWrite, h.emit]))
            (fun h => h.pipe (fun h => by split; exacts [h.vatWrite, h]) |>.hartAnswer)

theorem Keeps.hartControl {f h' off len op host} (h : Keeps a s) : Keeps a (s.hartControl f h' off len op host) := by
  unfold State.hartControl
  exact h.branch
      (·.badSize)
      fun h =>
        h.branch
            (·.hartFault)
            fun h =>
              h.when (·.wakeReg) |>.when (·.emit) |>.pipe (fun h => by split; exacts [h.access, h]) |>.hartAnswer

theorem Keeps.hartHost {f h' addr len op host} (h : Keeps a s) : Keeps a (s.hartHost f h' addr len op host) := by
  unfold State.hartHost
  exact h.branch
      (·.hartFault)
      (fun h => h.when (·.emit) |>.pipe (fun h => by split; exacts [h.emit, h]) |>.hartAnswer)

theorem Keeps.doHartLoadStore {f h' addr size op host} (h : Keeps a s) :
    Keeps a (doHartLoadStore f h' addr size op host s) :=
  h.whenNot fun h =>
    h.branch
        (·.hartFault)
        fun h =>
          h.branch
              (·.hartReam)
              fun h =>
                h.branch
                    (fun h => h.branch (·.hartFault) (·.hartVat))
                    fun h =>
                      h.branch
                          (·.hartControl)
                          (fun h => h.branch (·.hartHost) (fun h => h.branch (·.doApertureAccess) (·.hartFault)))

/-! ### Machine/Inflection.lean -/

theorem Keeps.enqueueInfl {t tag fl stores} (h : Keeps a s) : Keeps a (s.enqueueInfl t tag fl stores) :=
  h.updTile.busyTag

theorem Keeps.countRows {t n} (h : Keeps a s) : Keeps a (s.countRows t n) :=
  h.bump

theorem Keeps.arith {op u srcs cost t w exc g fl} (h : Keeps a s) : Keeps a (arith op u srcs cost t w exc g fl s) :=
  h.issue (fun _ h => h.updTile.enqueueInfl.countRows.charge)

theorem Keeps.elementwise {op u srcs cost t w exc f} (h : Keeps a s) :
    Keeps a (elementwise op u srcs cost t w exc f s) :=
  h.arith

theorem Keeps.binary {op cost ff fi t w} (h : Keeps a s) : Keeps a (binary op cost ff fi t w s) :=
  h.elementwise

theorem Keeps.minMax {op wantMax t w} (h : Keeps a s) : Keeps a (minMax op wantMax t w s) :=
  h.elementwise

theorem Keeps.unary {op ff fi t w} (h : Keeps a s) : Keeps a (unary op ff fi t w s) :=
  h.elementwise

theorem Keeps.scanRows {t f a' pitch scaleOff vl} (h : Keeps a s) : Keeps a (scanRows s t f a' pitch scaleOff vl).1 :=
  h.foldlFst (fun _ _ h => h.vatScan.whenFst (·.vatScan) |>.fst)

theorem Keeps.waitPort {t} (h : Keeps a s) : Keeps a (s.waitPort t) :=
  h.draw.bump

theorem Keeps.func {op u srcs t w f} (h : Keeps a s) : Keeps a (func op u srcs t w f s) := by
  unfold Machine.func
  split
  exacts [h.elementwise.bump, h.elementwise]

theorem Keeps.func1 {op f t w} (h : Keeps a s) : Keeps a (func1 op f t w s) :=
  h.func

theorem Keeps.writePred {t d v fl} (h : Keeps a s) : Keeps a (s.writePred t d v fl) :=
  h.updTile.enqueueInfl

theorem Keeps.doInflectionComplete {t tag} (h : Keeps a s) : Keeps a (doInflectionComplete t tag s) := by
  unfold Machine.doInflectionComplete
  exact h.whenNot (fun h => h.pipe (fun h => by split; exacts [h, h.updTile.setFlags.when (·.clearTag)]))

/-! ### Machine/Scalar.lean -/

theorem Keeps.aluB {op f t w} (h : Keeps a s) : Keeps a (aluB op f t w s) :=
  h.issue (fun _ h => h.updTile)

/-! ### Machine/Tick.lean -/

theorem Keeps.tileCycles {t k} (h : Keeps a s) : Keeps a (s.tileCycles t k) := by
  unfold State.tileCycles
  exact h.pressCycles.when (·.bump) |>.updTile

theorem Keeps.tileMicro {t} (h : Keeps a s) : Keeps a (s.tileMicro t) := by
  unfold State.tileMicro
  exact h.updTile

theorem Keeps.retryLost (h : Keeps a s) : Keeps a s.retryLost :=
  h.whenNot fun h =>
    h.foldl (fun _ _ h => h.whenNot (·.requeue)) |>.foldl (fun _ _ h => h.requeueFolio.requeueFolio)

theorem Keeps.clockNs (h : Keeps a s) : Keeps a s.clockNs :=
  h.tenseNs.foldl (fun _ _ h => h.tileCycles) |>.when (fun h => h.foldl (fun _ _ h => h.tileMicro)) |>.meshNs
    |>.coreNs |>.coreNs |>.retryLost |>.blocksNs |>.foldl (fun _ _ h => h.hintNs)

/-! ### Machine/Dispatch.lean: the commands -/

namespace Keeps

/-- What `P` says of the next state, for an outcome that is one. -/
def Answers (P : State → Prop) : Host.Outcome State Fault Refusal → Prop
  | .next s => P s
  | _ => True

theorem execLoop_answers {t w} (h : Keeps a s) : Answers (Keeps a) (execLoop t w s) := by
  unfold execLoop
  dsimp only
  split
  · exact h.issueTo fun _ h => h
  · exact h.issue fun _ h => h.updTile

theorem execLd_answers {t w} (h : Keeps a s) : Answers (Keeps a) (execLd t w s) := by
  unfold execLd
  dsimp only
  split
  · split
    · exact h.vatScan.machineCheck
    · exact h.vatScan.issue fun _ h => h.updTile
  · exact h.issue fun _ h => h

theorem execSt_answers {t w} (h : Keeps a s) : Answers (Keeps a) (execSt t w s) := by
  unfold execSt
  dsimp only
  split
  · split
    · exact h.vatWrite.machineCheck
    · exact h.vatWrite.issue fun _ h => h.updTile
  · exact h.issue fun _ h => h

theorem execWrsr_answers {t w} (h : Keeps a s) : Answers (Keeps a) (execWrsr t w s) :=
  h.issue fun _ h => by
    split
    · exact h.updTile
    all_goals exact h.setReg

theorem execPref_answers {t w} (h : Keeps a s) : Answers (Keeps a) (execPref t w s) :=
  h.issue fun _ h => by
    split
    · exact h
    · exact h.whenNot fun h => h.branch (·.bump) (·.setCache)

theorem execSbwait_answers {t w} (h : Keeps a s) : Answers (Keeps a) (execSbwait t w s) := by
  unfold execSbwait
  dsimp only
  split
  · split
    · exact h.issue (fun _ h => h) |>.clearMark
    · exact h.issue fun _ h => h
  · exact h.issue fun _ h => h

theorem execPost_answers {t w} (h : Keeps a s) : Answers (Keeps a) (execPost t w s) := by
  unfold execPost
  extract_lets g tag x off exc i
  clear_value i off
  split
  · split
    · exact (h.vatScan.ofFst ‹_›).machineCheck
    · exact (h.vatScan.ofFst ‹_›).issue fun _ h => h.updGroup.countQueued.busyTag
  · exact h.issue fun _ h => h

theorem execTld_answers {t w} (h : Keeps a s) : Answers (Keeps a) (execTld t w s) := by
  unfold execTld
  dsimp only
  split
  · split
    · exact h.scanRows.machineCheck
    · exact h.scanRows.issue fun _ h => h.updTile.enqueueInfl.charge.waitPort
  · exact h.issue fun _ h => h

theorem storeRow (h : Keeps a s) {t : Tile} {off k : Nat} {bs cs : List Byte} {mx : Bool} :
    Keeps a (match (s.vatWrite t off bs).2 with
      | some _ => ((s.vatWrite t off bs).1, (s.vatWrite t off bs).2)
      | none => if mx then (s.vatWrite t off bs).1.vatWrite t k cs else ((s.vatWrite t off bs).1, none)).1 := by
  split
  · exact h.vatWrite
  · exact h.vatWrite.whenFst (·.vatWrite)

theorem execTst_answers {t w} (h : Keeps a s) : Answers (Keeps a) (execTst t w s) := by
  unfold execTst
  extract_lets x f o pitch so u i rows
  clear_value rows
  split
  · generalize hp : List.foldl _ (s, none) rows = p
    have hp : Keeps a p.1 := by
      rw [← hp]
      refine h.foldlFst fun acc q h => ?_
      dsimp only
      split
      · exact h
      · exact h.storeRow
    dsimp only
    split
    · exact hp.machineCheck
    · exact hp.issue fun _ h => h.updTile.enqueueInfl.charge.waitPort
  · exact h.issue fun _ h => h

theorem execCpop_answers {t w} (h : Keeps a s) : Answers (Keeps a) (execCpop t w s) := by
  unfold execCpop
  dsimp only
  split
  · exact h.updTile
  · split
    · exact h.issue fun _ h => h
    · exact h.issue fun _ h => h.updTile.busyTag.enqueueInfl.charge

theorem execCvt_answers {t w} (h : Keeps a s) : Answers (Keeps a) (execCvt t w s) := by
  unfold execCvt
  dsimp only
  split
  · exact h.arith
  · exact h.elementwise

theorem execPerm_answers {t w} (h : Keeps a s) : Answers (Keeps a) (execPerm t w s) :=
  h.issue fun _ h => by
    dsimp only
    split
    · exact h.updTile.enqueueInfl.countRows.charge.setReg
    · exact h.updTile.enqueueInfl.countRows.charge

theorem exec_answers {c} (h : Keeps a s) : Answers (Keeps a) (exec c s) := by
  cases c with
  | powerOn => exact h.doPowerOn
  | bringup b => exact h.doBringup
  | devResetN => exact h.doDevResetN
  | devResetWhole src | devResetProceed src | folioReset src folios | deckleReset src deckles
  | tileReset src index | modeCtlService src | modeCtlTest src | recoveryStart src | recoveryData src data
  | recoveryCommit src | faultRingAck src index | seqCtlStart src t | seqCtlStop src t | tenseEnable src ctl
  | tenseQuiesceWrite src tense | ecqCtlEnable src f q ctl | ecqResume src f q ctl | collCreate src g ctl
  | collDestroy src g ctl | collPreempt src g ctl | collResume src g ctl | forceArrive src g ctl
  | portAdmitWrite src p enable | portModeWrite src n modes | quarantineRelease src p | featCommit src
  | biasFlipGo src | evqHeadWrite src f index | sensorPeakClr src k | scoreClear src => exact h.writeNamed
  | resetDone d => exact h.doResetDone
  | cxlReset perst => exact h.doCxlReset
  | registerWrite src off wide value line | hqEnable src q ctl line => exact h.access
  | badSizeAccess off size write => exact h.doBadSizeAccess
  | domainGate d => exact h.doDomainGate
  | instructionFetch t => exact h.doInstructionFetch
  | nop t w | brk t w | fence t w | tfence t w => exact h.issue fun _ h => h
  | halt t w => exact h.issue (fun _ h => h) |>.when (·.requestHalt)
  | br t w | brc t w | jr t w => exact h.issueTo fun _ h => h
  | call t w => exact h.issueTo fun _ h => h.updTile
  | lexit t w | li t w | movsa t w | movas t w | aadd t w | rdsr t w | setvl t w | twait t w =>
    exact h.issue fun _ h => h.updTile
  | add t w | sub t w | mul t w | mulhu t w | divu t w | remu t w | and t w | or t w | xor t w | shl t w
  | shr t w | sra t w | min t w | max t w | minu t w | maxu t w | slt t w | sltu t w => exact h.aluB
  | dma t w => exact h.issue fun _ h => h.updTile.busyTag
  | descriptorFetch t => exact h.doDescriptorFetch
  | dmaCopy t tag => exact h.doDmaCopy
  | dmaGather t tag => exact h.doDmaGather
  | dmaScatter t tag => exact h.doDmaScatter
  | dmaSkew t tag => exact h.doDmaSkew
  | dmaSkewGather t tag => exact h.doDmaSkewGather
  | dmaFill t tag => exact h.doDmaFill
  | dmaComplete t tag => exact h.doDmaComplete
  | wld t w | wswap t w => exact h.enterPress
  | wldLoadEnd t => exact h.doWldLoadEnd
  | stream t w => exact h.enterPress.when (·.setReg.updTile)
  | streamRowComplete t => exact h.doStreamRowComplete
  | pressResume t => exact h.doPressResume
  | inflAdd t w | inflSub t w | inflMul t w => exact h.binary
  | fma t w | sel t w | bcast t w | scale t w | tmov t w => exact h.elementwise
  | inflMin t w | inflMax t w => exact h.minMax
  | abs t w | neg t w => exact h.unary
  | exp2 t w | log2 t w | rcp t w | rsqrt t w | sqrt t w | tanh t w | sigm t w => exact h.func1
  | div t w => exact h.func
  | cmp t w => exact h.issue fun _ h => h.writePred.countRows.charge
  | red t w => exact h.issue fun _ h => h.updTile.enqueueInfl.bump.countRows.charge
  | elide t w | restore t w => exact h.issue fun _ h => h.updTile.enqueueInfl.countRows.charge
  | plog t w | pgen t w => exact h.issue fun _ h => h.writePred.charge
  | pcnt t w => exact h.issue fun _ h => h.updTile.charge
  | inflectionComplete t tag => exact h.doInflectionComplete
  | barr t w => exact h.issue fun _ h => h.updTile.busyTag.updGroup.noteReady
  | egrant t w => exact h.issue fun _ h => h.openSection
  | eend t w => exact h.issue fun _ h => h.closeSection
  | tileHalt t => exact h.doTileHalt
  | vatScrub t => exact h.doVatScrub
  | energyWindow loads => exact h.doEnergyWindow
  | energyGrant t => exact h.when (·.grant)
  | slewStep f => exact h.when (·.slewStep)
  | pulpRampUp q index => exact h.doPulpRampUp
  | pulpRampEnd t => exact h.doPulpRampEnd
  | dvfsReview => exact h.doDvfsReview
  | mcTick reports => exact h.doMcTick
  | telemetryLost r => exact h.doTelemetryLost
  | marginBump f => exact h.doMarginBump
  | sensorSample k reading => exact h.doSensorSample
  | fastRiseEnd k => exact h.doFastRiseEnd
  | thermalTrip k reading => exact h.doThermalTrip
  | tripRestart => exact h.doTripRestart
  | coolantSample ok => exact h.doCoolantSample
  | railFault r status => exact h.doRailFault
  | mcHeartbeatLoss watchdog => exact h.doMcHeartbeatLoss
  | dualWatchdog => exact h.doDualWatchdog
  | tenseMarkerSend => exact h.doTenseMarkerSend
  | tenseMarker p m => exact h.doTenseMarker
  | markerTimeout p => exact h.doMarkerTimeout
  | holdoverExpiry => exact h.doHoldoverExpiry
  | rootTakeover => exact h.doRootTakeover
  | quiesceAt => exact h.doQuiesceAt
  | quiesced => exact h.doQuiesced
  | ringHelloSend => exact h.doRingHelloSend
  | ringHello chip heard good => exact h.doRingHello
  | bypassOpen light => exact h.doBypassOpen
  | meshInject f src => exact h.doMeshInject
  | cellIngress n q c => exact h.doCellIngress
  | cellTransmit n q => exact h.doCellTransmit
  | controlBlock p b => exact h.doControlBlock
  | transactionCell d c => exact h.doTransactionCell
  | assemblyExpiry d srcChip srcDie tag => exact h.doAssemblyExpiry
  | duplicateRecordExpiry d srcChip srcDie tag => exact h.doDuplicateRecordExpiry
  | retxTimer d tag => exact h.doRetxTimer
  | remoteTimeout d tag => exact h.doRemoteTimeout.settle
  | memReply d c => exact h.doMemReply.settle
  | nak d c => exact h.doNak.settle
  | mgmtRead n c | mgmtWrite n c => exact h.doMgmt
  | load f | store f | atomAdd f | atomAnd f | atomOr f | atomXor f | atomSmin f | atomSmax f | atomUmin f
  | atomUmax f | atomSwap f | atomCas f | atomFadd f | redAdd f | redMax f | redMin f | accAdd f | accCarry f
  | accWide f => exact h.runOp
  | reamScrub m => exact h.doReamScrub
  | refresh m bank queued rows => exact h.doRefresh
  | ecqTailWrite f q => exact h.when (·.ecqNotice)
  | ecqRecordFetch f q => exact h.doEcqRecordFetch
  | convert f q | engGather f q | engScatter f q | engElide f q | engRestore f q | regionOpen f q
  | regionFinal f q | regionAbandon f q | sgdm f q | adam f q | adamw f q => exact h.runQueue
  | engineCommandComplete f q => exact h.doEngineCommandComplete
  | join n c | arrive n c | contrib n c | carry n c | gather n c | credit n c | digest n c | abort n c =>
    exact h.collArrive
  | createTimeout g => exact h.doCreateTimeout
  | entryValidate g => exact h.doEntryValidate
  | deviceArrival g => exact h.doDeviceArrival
  | exchangeStart g => exact h.doExchangeStart
  | reduceScatter g => exact h.doReduceScatter
  | allGather g => exact h.doAllGather
  | chunkSend g k => exact h.doChunkSend
  | accumulationFinish g x => exact h.doAccumulationFinish
  | fusedUpdateDone g x => exact h.doFusedUpdateDone
  | stagingSlotFree g slot => exact h.doStagingSlotFree
  | stepTimeout g => exact h.doStepTimeout
  | collectiveCompletion g => exact h.doCollectiveCompletion
  | lossOfFrame p words => exact h.doLossOfFrame
  | portBringup p => exact h.doPortBringup
  | portStepTimeout p lost => exact h.doPortStepTimeout
  | identityBlock p b => exact h.doIdentityBlock
  | identityRecheck p => exact h.doIdentityRecheck
  | portAdmission p => exact h.doPortAdmission
  | laneFault l lanes => exact h.doLaneFault
  | laneFaultClear l words => exact h.doLaneFaultClear
  | laneFaultTimeout p => exact h.doLaneFaultTimeout
  | laneDegraded l lane corrected => exact h.doLaneDegraded
  | linePowerUpdate l taps primary standby most => exact h.doLinePowerUpdate
  | lineLost l => exact h.doLineLost
  | lineRecoveryDone l standby => exact h.doLineRecoveryDone
  | changeover l threshold => exact h.doChangeover
  | changeoverStep l primary standby power primaryFailed => exact h.doChangeoverStep
  | combSourceFail d k => exact h.doCombSourceFail
  | heaterUpdate r => exact h.doHeaterUpdate
  | recalibration p => exact h.doRecalibration
  | laneCalibration p tx code errors => exact h.doLaneCalibration
  | twinTraining k a b a2 b2 => exact h.doTwinTraining
  | twinBlock f good => exact h.doTwinBlock
  | launchDispatch f q index => exact h.doLaunchDispatch
  | hqTailSnoop q line => exact h.doHqTailSnoop
  | hqTailPoll lines => exact h.doHqTailPoll
  | hqEntryFetch q entry => exact h.doHqEntryFetch
  | launch q => exact h.doLaunch
  | hqNop q => exact h.doHqNop
  | launchComplete q index => exact h.doLaunchComplete
  | biasFlipDone => exact h.doBiasFlipDone
  | hdmCommit d base size skip ways lock => exact h.doHdmCommit
  | cxlMemRead hpa => exact h.doCxlMemRead
  | cxlMemWrite hpa data => exact h.doCxlMemWrite
  | bar2Read off n => exact h.doBar2Read
  | bar2Write off data => exact h.doBar2Write
  | apertureAccess f n n off size op => exact h.doApertureAccess
  | hartFence f op => exact h.doHartFence
  | scoreDecay => exact h.doScoreDecay
  | fwUpdate via flashOk => exact h.doFwUpdate
  | svnCommit via => exact h.doSvnCommit
  | debugChallenge via => exact h.doDebugChallenge
  | debugToken via => exact h.doDebugToken
  | sentLoad via => exact h.doSentLoad
  | sentEnable via => exact h.doSentEnable
  | sentDisable via => exact h.doSentDisable
  | sentRun via => exact h.doSentRun
  | hash via => exact h.doHash
  | mboxBadCommand via code => exact h.doMboxBadCommand
  | sentinelStart k => exact h.doSentinelStart
  | sentinelStop => exact h.doSentinelStop
  | unlockChal => exact h.doUnlockChal
  | unlockToken tok => exact h.doUnlockToken
  | cdatRead entry => exact h.doCdatRead
  | getVersion mctp req => exact h.doGetVersion
  | getCapabilities mctp req => exact h.doGetCapabilities
  | negotiateAlgorithms mctp req => exact h.doNegotiateAlgorithms
  | getDigests mctp req => exact h.doGetDigests
  | getCertificate mctp req => exact h.doGetCertificate
  | challenge mctp req => exact h.doChallenge
  | getMeasurements mctp req => exact h.doGetMeasurements
  | hartLoadStore f n addr size op host => exact h.doHartLoadStore
  | lossOfPower => exact h.doLossOfPower
  | takeoverDone => exact h.doTakeoverDone
  | islandSelfCheck passed => exact h.doIslandSelfCheck
  | mboxCommandDone => exact h.doMboxCommandDone
  | recoveryCommitDone flashOk => exact h.doRecoveryCommitDone
  | portStepPass p skew => exact h.doPortStepPass
  | ringHelloLoss => exact h.doRingHelloLoss
  | poweredHour => exact h.doPoweredHour
  | perstNRelease => exact h.doPerstNRelease
  | loop t w => exact execLoop_answers h
  | ld t w => exact execLd_answers h
  | st t w => exact execSt_answers h
  | wrsr t w => exact execWrsr_answers h
  | pref t w => exact execPref_answers h
  | cpop t w => exact execCpop_answers h
  | tld t w => exact execTld_answers h
  | tst t w => exact execTst_answers h
  | cvt t w => exact execCvt_answers h
  | perm t w => exact execPerm_answers h
  | sbwait t w => exact execSbwait_answers h
  | post t w => exact execPost_answers h


end Keeps

theorem Keeps.of_exec {c : Instr} {s s' : State} (h : exec c s = .next s') : Keeps s s' := by
  have k := (Keeps.refl s).exec_answers (c := c)
  rw [h] at k
  exact k

/-- The state of the idle step before its nanosecond is counted. -/
theorem Keeps.tick_before (s : State) : Keeps s (if s.resetDue then s.wholeReset 9 false
    else if s.clocksStopped || !s.mgmt.powered then s else s.clockNs) :=
  (Keeps.refl s).branch (·.wholeReset) (·.whenNot (·.clockNs))

theorem State.wf_withNow {s : State} {n : Nat} : ({ s with now := n } : State).wf = s.wf := rfl

theorem State.tick_wf {s : State} (h : s.wf = true) : s.tick.wf = true :=
  State.wf_withNow.trans ((Keeps.tick_before s).wf h)

end Sys2Proof.Machine

open Sys2Proof Sys2Proof.Machine

/-- Settles O5: every function that a command's meaning is built from keeps the queue and the time (`Keeps`), by one
lemma for each, and `exec` is one of them. -/
theorem commandsLeaveQueueAndTime : Obligations.CommandsLeaveQueueAndTime := by
  intro c s s' h
  obtain ⟨-, hpending, hnow, hfree, hout⟩ := Keeps.of_exec h
  exact ⟨hpending, hnow, hfree, hout⟩

/-- Settles O3: `Keeps` carries canonical form through `exec` and through the idle step. -/
theorem stepKeepsCanonicalForm : Obligations.StepKeepsCanonicalForm := by
  intro s s' hs h
  unfold step at h
  split at h
  · obtain rfl := Host.Outcome.next.inj h
    exact State.tick_wf hs
  · exact (Keeps.of_exec h).wf hs

end

section
/-! PROOFS. The idle step: what the device's own clocks leave alone, by one lemma for each function that they run. -/

-- As above: short lemmas, one after another.
set_option Elab.async false

namespace Sys2Proof.Machine

/-- From `s` to `s'` no tile's PC or scalar registers change, and on data without errors no error comes, memory is as it
was, and so are the halts that wait. -/
structure Quiet (s s' : State) : Prop where
  pc : ∀ t, s'.pc t = s.pc t
  scalars : ∀ t, (s'.tile t).s = (s.tile t).s
  clean : s.marks = [] → s'.marks = [] ∧ s'.mem = s.mem ∧ ∀ t, (s'.tile t).halting = (s.tile t).halting

namespace Quiet
variable {a b c s s' : State} {α β : Type} {p : Prop}

theorem refl (s : State) : Quiet s s := ⟨fun _ => rfl, fun _ => rfl, fun h => ⟨h, rfl, fun _ => rfl⟩⟩

theorem trans (h : Quiet a b) (k : Quiet b c) : Quiet a c where
  pc t := (k.pc t).trans (h.pc t)
  scalars t := (k.scalars t).trans (h.scalars t)
  clean hm := by
    obtain ⟨hb, hmem, hhalt⟩ := h.clean hm
    obtain ⟨hc, kmem, khalt⟩ := k.clean hb
    exact ⟨hc, kmem.trans hmem, fun t => (khalt t).trans (hhalt t)⟩

theorem pipe (h : Quiet a s) (k : Quiet a s → Quiet a b) : Quiet a b := k h

theorem branch [Decidable p] (h : Quiet a s) (hb : Quiet a s → Quiet a b) (hc : Quiet a s → Quiet a c) :
    Quiet a (if p then b else c) := by
  split
  · exact hb h
  · exact hc h

theorem when [Decidable p] (h : Quiet a s) (hb : Quiet a s → Quiet a b) : Quiet a (if p then b else s) :=
  h.branch hb id

theorem whenNot [Decidable p] (h : Quiet a s) (hb : Quiet a s → Quiet a b) : Quiet a (if p then s else b) :=
  h.branch id hb

theorem branchFst [Decidable p] {x y : State × α} (h : Quiet a s) (hx : Quiet a s → Quiet a x.1)
    (hy : Quiet a s → Quiet a y.1) : Quiet a (if p then x else y).1 := by
  split
  · exact hx h
  · exact hy h

theorem whenFst [Decidable p] {x : State × α} {y : α} (h : Quiet a s) (hx : Quiet a s → Quiet a x.1) :
    Quiet a (if p then x else (s, y)).1 := h.branchFst hx id

theorem whenNotFst [Decidable p] {x : State × α} {y : α} (h : Quiet a s) (hx : Quiet a s → Quiet a x.1) :
    Quiet a (if p then (s, y) else x).1 := h.branchFst id hx

theorem ofFst {x : State × α} {y : α} (h : Quiet a x.1) (e : x = (s, y)) : Quiet a s := by
  rw [e] at h
  exact h

theorem foldl {f : State → α → State} {l : List α} (h : Quiet a s) (hf : ∀ s x, Quiet a s → Quiet a (f s x)) :
    Quiet a (l.foldl f s) := by
  induction l generalizing s with
  | nil => exact h
  | cons x l ih => exact ih (hf s x h)

theorem fst {x : α} (h : Quiet a s) : Quiet a (s, x).1 := h

theorem foldlFst {f : State × β → α → State × β} {l : List α} {z : β} (h : Quiet a s)
    (hf : ∀ x y, Quiet a x.1 → Quiet a (f x y).1) : Quiet a (l.foldl f (s, z)).1 := by
  suffices ∀ x, Quiet a x.1 → Quiet a (l.foldl f x).1 from this _ h
  induction l with
  | nil => exact fun _ h => h
  | cons y l ih => exact fun x h => ih _ (hf x y h)

theorem frame (h : Quiet a s) (regs : s'.regs = s.regs := by rfl) (tiles : s'.tiles = s.tiles := by rfl)
    (mem : s'.mem = s.mem := by rfl) (marks : s'.marks = s.marks := by rfl) : Quiet a s' :=
  h.trans ⟨fun t => by rw [State.pc, State.reg, regs]; rfl, fun t => by rw [State.tile, tiles]; rfl,
    fun hm => ⟨marks.trans hm, mem, fun t => by rw [State.tile, tiles]; rfl⟩⟩

end Quiet

variable {a b c s s' : State}

/-! ### Machine/Ops.lean -/

theorem Quiet.setReg {r v} (h : Quiet a s) (hr : ∀ t, r ≠ .seqPc t := by nofun) : Quiet a (s.setReg r v) :=
  h.trans ⟨fun t => State.reg_setReg_other s v (hr t).symm, fun _ => rfl, fun hm => ⟨hm, rfl, fun _ => rfl⟩⟩

theorem Quiet.setFld {r f v} (h : Quiet a s) (hr : ∀ t, r ≠ .seqPc t := by nofun) : Quiet a (s.setFld r f v) :=
  h.setReg hr

theorem Quiet.setFlag {r f b} (h : Quiet a s) (hr : ∀ t, r ≠ .seqPc t := by nofun) : Quiet a (s.setFlag r f b) :=
  h.setFld hr

theorem Quiet.scoreSum (h : Quiet a s) : Quiet a s.scoreSum :=
  h.setFld

theorem Quiet.score {r n} (h : Quiet a s) (hr : ∀ t, r ≠ .seqPc t := by nofun) : Quiet a (s.score r n) :=
  h.setFld hr |>.setFld hr |>.scoreSum

theorem scoreOf_ne_seqPc {r f t} : scoreOf r f ≠ some (.seqPc t) := by
  unfold scoreOf
  split <;> (try split) <;> simp

theorem Quiet.bump {r f n} (h : Quiet a s) (hr : ∀ t, r ≠ .seqPc t := by nofun) : Quiet a (s.bump r f n) := by
  unfold State.bump
  dsimp only
  split
  next k e => exact Quiet.score (h.setFld hr) fun t ht => scoreOf_ne_seqPc (ht ▸ e)
  next => exact h.setFld hr

theorem Quiet.setTile {t v} (h : Quiet a s) (hs : v.s = (s.tile t).s) (hh : v.halting = (s.tile t).halting) :
    Quiet a (s.setTile t v) := by
  refine h.trans ⟨fun _ => rfl, fun u => ?_, fun hm => ⟨hm, rfl, fun u => ?_⟩⟩
  · by_cases e : u = t
    · rw [e, State.tile_setTile_same, hs]
    · rw [State.tile_setTile_other s v e]
  · by_cases e : u = t
    · rw [e, State.tile_setTile_same, hh]
    · rw [State.tile_setTile_other s v e]

/-- On data with errors a halt may come, so the tile's halt is free. -/
theorem Quiet.setTileOnError {t v} (h : Quiet a s) (hm : a.marks ≠ []) (hs : v.s = (s.tile t).s) :
    Quiet a (s.setTile t v) where
  pc := h.pc
  scalars u := by
    by_cases e : u = t
    · rw [e, State.tile_setTile_same, hs]
      exact h.scalars t
    · rw [State.tile_setTile_other s v e]
      exact h.scalars u
  clean k := absurd k hm

theorem Quiet.updTile {t f} (h : Quiet a s) (hs : ∀ x, (f x).s = x.s := by intro _; rfl)
    (hh : ∀ x, (f x).halting = x.halting := by intro _; rfl) : Quiet a (s.updTile t f) :=
  h.setTile (hs _) (hh _)

theorem Quiet.emit {o} (h : Quiet a s) : Quiet a (s.emit o) :=
  h.frame

theorem Quiet.draw (h : Quiet a s) : Quiet a s.draw :=
  h.frame

theorem Quiet.chargeFolio {f e} (h : Quiet a s) : Quiet a (s.chargeFolio f e) :=
  h.whenNot (·.frame)

theorem Quiet.fault {code die inst d0 d1} (h : Quiet a s) : Quiet a (s.fault code die inst d0 d1) :=
  h.when (·.bump) |>.setReg |>.setReg |>.setReg |>.setReg |>.setReg |>.setReg

/-! ### Machine/Flags.lean -/

theorem Quiet.clearTag {t i} (h : Quiet a s) : Quiet a (s.clearTag t i) :=
  h.setReg

theorem Quiet.clearTagError {t i} (h : Quiet a s) : Quiet a (s.clearTagError t i) :=
  h.clearTag.setReg

/-! ### Machine/Switch.lean -/

theorem Quiet.updNet {f} (h : Quiet a s) : Quiet a (s.updNet f) :=
  h.frame

theorem Quiet.setXbar {n x} (h : Quiet a s) : Quiet a (s.setXbar n x) :=
  h.updNet

theorem Quiet.updXbar {n f} (h : Quiet a s) : Quiet a (s.updXbar n f) :=
  h.setXbar

theorem Quiet.enter {n pt h'} (h : Quiet a s) (e : s.enter n pt h' = some s') : Quiet a s' := by
  dsimp only [State.enter] at e
  split at e
  · obtain rfl := Option.some.inj e
    exact h.setXbar
  · split at e
    · cases e
    · obtain rfl := Option.some.inj e
      exact h.setXbar.bump.when (·.bump)

theorem Quiet.enterGetD {n pt h' b} (h : Quiet a s) (hb : Quiet a b) : Quiet a ((s.enter n pt h').getD b) := by
  cases e : s.enter n pt h' with
  | none => exact hb
  | some s' => exact h.enter e

theorem Quiet.originate {n targets group} (h : Quiet a s) : Quiet a (s.originate n targets group) :=
  h.setXbar.setFld

theorem Quiet.awaitStore {n o} (h : Quiet a s) : Quiet a (s.awaitStore n o) :=
  h.updXbar

theorem Quiet.noteSent {d c} (h : Quiet a s) : Quiet a (s.noteSent d c) := by
  unfold State.noteSent
  split
  exacts [h, h.updNet]

theorem Quiet.depart {d c} (h : Quiet a s) : Quiet a (s.depart d c).1 := by
  dsimp only [State.depart]
  exact h.noteSent.whenNotFst fun h => by
    split
    exacts [h.fst, h.updNet.pipe (fun h => by split; exacts [h.updTile.fst, h.fst])]

theorem Quiet.departAll {d ps} (h : Quiet a s) : Quiet a (s.departAll d ps).1 := by
  induction ps generalizing s with
  | nil => exact h
  | cons p ps ih => exact ih h.depart

theorem Quiet.fillStore {n} (h : Quiet a s) : Quiet a (s.fillStore n) := by
  unfold State.fillStore
  exact h.foldl (fun _ _ h => h.pipe (fun h => by split; exacts [h.updXbar.departAll.originate, h]))

theorem Quiet.enqueuePointer {n h'} (h : Quiet a s) (e : s.enqueuePointer n h' = some s') : Quiet a s' := by
  unfold State.enqueuePointer at e
  split at e
  · exact h.enter e
  · obtain rfl := Option.some.inj e
    exact h.updXbar.updNet

theorem Quiet.enqueuePointers {n} {hs : List Held} {o : Option State} (h : ∀ u, o = some u → Quiet a u)
    (e : hs.foldl (fun o h => o.bind (fun s => s.enqueuePointer n h)) o = some s') : Quiet a s' := by
  induction hs generalizing o with
  | nil => exact h _ e
  | cons x hs ih =>
    refine ih (fun u hu => ?_) e
    obtain ⟨v, hv, hu⟩ := Option.bind_eq_some_iff.mp hu
    exact (h v hv).enqueuePointer hu

theorem Quiet.enqueueOrigins {n} (h : Quiet a s) : Quiet a (s.enqueueOrigins n) :=
  h.foldl fun s i h => by
    cases e : (((s.xbar n).held.filter (fun h => h.point = .origin && h.slot = some i)).foldl
      (fun (o : Option State) h => o.bind (fun s => s.enqueuePointer n h)) (some s)) with
    | none =>
      dsimp only
      rw [e]
      exact h
    | some s' =>
      dsimp only
      rw [e]
      exact Quiet.enqueuePointers (fun u hu => Option.some.inj hu ▸ h) e

theorem Quiet.mirrorCopy {n k q egress refused c} (h : Quiet a s) : Quiet a (s.mirrorCopy n k q egress refused c) :=
  h.setXbar.branch (fun h => h.foldl (fun _ _ h => h.originate)) (·.bump)

theorem Quiet.mirror {n q egress refused c} (h : Quiet a s) : Quiet a (s.mirror n q egress refused c) :=
  h.foldl (fun _ _ h => h.when (fun h => h.setXbar.when (·.mirrorCopy)))

theorem Quiet.setLinkCredit {p l} (h : Quiet a s) : Quiet a (s.setLinkCredit p l) :=
  h.updNet

theorem Quiet.toFolio {f c} (h : Quiet a s) : Quiet a (s.toFolio f c) :=
  h.branch (·.updNet) (·.updNet)

theorem Quiet.mirrorSent {n c} (h : Quiet a s) : Quiet a (s.mirrorSent n c) :=
  h.whenNot (fun h => h.branch (·.updXbar) (fun h => h.when (·.updXbar.bump)))

theorem Quiet.transmit {n q c} (h : Quiet a s) : Quiet a (s.transmit n q c) := by
  unfold State.transmit
  exact h.mirror.mirrorSent.updXbar.pipe fun h => by
    split
    · exact h.branch (·.emit) (fun h => h.pipe (fun h => by split; exacts [h.setLinkCredit, h]) |>.emit)
    · exact h.toFolio
    · exact h.updNet

theorem Quiet.stage1 {n c} (h : Quiet a s) : Quiet a (s.stage1 n c) := by
  unfold State.stage1
  exact h.foldl fun _ _ h => by dsimp only; split; exacts [h.enterGetD h, h]

theorem Quiet.stage2 {n c} (h : Quiet a s) : Quiet a (s.stage2 n c) := by
  unfold State.stage2
  exact h.foldl fun s q h => by
    dsimp only
    generalize bestHeld _ = x
    cases x with
    | none => exact h
    | some x => exact h.enterGetD h

theorem Quiet.stageEnd {n c} (h : Quiet a s) : Quiet a (s.stageEnd n c) := by
  dsimp only [State.stageEnd]
  split
  exacts [h.updXbar.updNet, h]

theorem Quiet.planeIter {n m first done} (h : Quiet a s) : Quiet a (s.planeIter n m first done).1 :=
  h.setXbar.fst

theorem Quiet.planeArbitrate {n m} (h : Quiet a s) : Quiet a (s.planeArbitrate n m) := by
  unfold State.planeArbitrate
  exact h.planeIter.planeIter.planeIter.updXbar

theorem Quiet.planeMove {n} (h : Quiet a s) : Quiet a (s.planeMove n) := by
  unfold State.planeMove
  exact h.updXbar.foldl fun _ _ h => by split; exacts [h.enterGetD h, h]

theorem Quiet.cutMove {n c} (h : Quiet a s) : Quiet a (s.cutMove n c) := by
  unfold State.cutMove
  exact h.updXbar.foldl fun _ _ h => by
    split
    exacts [h.branch (·.transmit.bump) (fun h => h.enterGetD h.updXbar), h]

theorem Quiet.coreCycle {n} (h : Quiet a s) : Quiet a (s.coreCycle n) :=
  h.updXbar.whenNot fun h =>
    h.cutMove.stage2.stageEnd.planeMove.foldl (fun _ _ h => h.planeArbitrate) |>.stage1 |>.fillStore |>.enqueueOrigins
      |>.setFld

theorem Quiet.coreCycles {n k} (h : Quiet a s) : Quiet a (s.coreCycles n k) := by
  induction k generalizing s with
  | zero => exact h
  | succ k ih => exact ih h.coreCycle

theorem Quiet.coreNs {n} (h : Quiet a s) : Quiet a (s.coreNs n) :=
  h.whenNot (·.updXbar.coreCycles)

/-! ### Machine/Transport.lean -/

theorem Quiet.chargeRestart {d} (h : Quiet a s) : Quiet a (s.chargeRestart d) := by
  unfold State.chargeRestart
  split
  exacts [h.chargeFolio, h.frame]

theorem Quiet.wake {d} (h : Quiet a s) : Quiet a (s.wake d) := by
  unfold State.wake
  suffices ∀ u, Quiet a u → Quiet a (match d with
      | .reamBase m => u.setFlag (.reamStatus m) Fld.reamStatusSelfRefresh false
      | _ => u) from this _ (h.branch (·.frame) (·.frame.chargeRestart))
  exact fun u h => by split; exacts [h.setFlag, h]

theorem Quiet.fly {h' c} (h : Quiet a s) : Quiet a (s.fly h' c) :=
  h.updNet

theorem Quiet.setCredits {e n} (h : Quiet a s) : Quiet a (s.setCredits e n) :=
  h.updNet

theorem Quiet.consume {e} (h : Quiet a s) : Quiet a (s.consume e) :=
  h.updNet.whenNot (·.setCredits)

theorem Quiet.leaveFolio {e} (h : Quiet a s) : Quiet a (s.leaveFolio e) := by
  unfold State.leaveFolio
  exact h.branch
      (·.consume)
      fun h =>
        h.branch
            (fun h => h.consume.depart.branch (·.toFolio) (·.fly))
            (fun h => h.pipe (fun h => by split; exacts [h.when (·.consume.depart.fly), h]))

theorem Quiet.meshCycle (h : Quiet a s) : Quiet a s.meshCycle := by
  unfold State.meshCycle
  exact h.updNet

theorem Quiet.meshNs (h : Quiet a s) : Quiet a s.meshNs :=
  h.meshCycle.meshCycle.foldl (fun _ _ h => h.leaveFolio)

theorem Quiet.noteNaked {d c} (h : Quiet a s) : Quiet a (s.noteNaked d c) := by
  unfold State.noteNaked
  exact h.updNet

theorem Quiet.suppressed {d} (h : Quiet a s) : Quiet a (s.suppressed d) :=
  h.bump

theorem Quiet.refusal {d key code c} (h : Quiet a s) : Quiet a (s.refusal d key code c).1 :=
  h.branchFst
      (·.suppressed.fst)
      fun h =>
        h.branchFst
            (fun h => h.branchFst (·.bump.fst) (·.suppressed.fst))
            fun h =>
              h.branchFst
                  (·.noteNaked.suppressed.fst)
                  (fun h => h.branchFst (·.suppressed.fst) (·.noteNaked.updNet.bump.fst))

theorem Quiet.checkCopy {n acc c} (h : Quiet a s) : Quiet a (s.checkCopy n acc c).1 := by
  unfold State.checkCopy
  split
  exacts [h.refusal.foldl (fun _ _ h => h.originate) |>.fst, h.pipe (fun h => by split <;> exact h.fst)]

theorem Quiet.leaveDeckle {n copies} (h : Quiet a s) : Quiet a (s.leaveDeckle n copies) := by
  dsimp only [State.leaveDeckle]
  exact h.foldlFst (fun _ _ h => h.checkCopy) |>.pipe fun h => by
    split
    exacts [h, h.branch (·.originate) (fun h => h.foldl (fun _ _ h => h.awaitStore) |>.fillStore)]

theorem Quiet.sendCell {d src c} (h : Quiet a s) : Quiet a (s.sendCell d src c) :=
  h.branch (·.updNet) (·.leaveDeckle)

theorem Quiet.sendCells {d src cs} (h : Quiet a s) : Quiet a (s.sendCells d src cs) :=
  h.foldl (fun _ _ h => h.sendCell)

theorem Quiet.refuseCell {d key src code c} (h : Quiet a s) : Quiet a (s.refuseCell d key src code c) :=
  h.refusal.sendCells

theorem Quiet.openTxn {d user job dstChip dstDie cls type bs cells} (h : Quiet a s)
    (e : s.openTxn d user job dstChip dstDie cls type bs = some (s', cells)) : Quiet a s' := by
  dsimp only [State.openTxn] at e
  split at e
  · cases e
  · obtain ⟨rfl, -⟩ := Prod.mk.inj (Option.some.inj e)
    exact h.updNet

theorem Quiet.request {d src user job dstChip dstDie cls type bs} (h : Quiet a s)
    (e : s.request d src user job dstChip dstDie cls type bs = some s') : Quiet a s' := by
  obtain ⟨p, hp, rfl⟩ := Option.map_eq_some_iff.mp e
  exact (h.openTxn hp).sendCells

theorem Quiet.answer {d src req x} (h : Quiet a s) : Quiet a (s.answer d src req x) := by
  unfold State.answer
  split
  exacts [h.sendCells, h.refuseCell, h]

theorem Quiet.keepRecord {d req depart came a'} (h : Quiet a s) : Quiet a (s.keepRecord d req depart came a') :=
  h.updNet

theorem Quiet.completeRequest {d src req depart came keep a'} (h : Quiet a s) :
    Quiet a (s.completeRequest d src req depart came keep a') :=
  h.keepRecord.answer

/-! ### Machine/Group.lean -/

theorem Quiet.setGroup {g v} (h : Quiet a s) : Quiet a (s.setGroup g v) :=
  h.frame

theorem Quiet.updGroup {g f} (h : Quiet a s) : Quiet a (s.updGroup g f) :=
  h.setGroup

theorem Quiet.setCollState {g v} (h : Quiet a s) : Quiet a (s.setCollState g v) :=
  h.setFld

theorem Quiet.collSend {g d type chip die kind data} (h : Quiet a s)
    (e : s.collSend g d type chip die kind data = some s') : Quiet a s' := by
  dsimp only [State.collSend] at e
  split at e
  · obtain rfl := Option.some.inj e
    exact (h.request ‹_›).updGroup
  · cases e

theorem Quiet.flushMail {g} (h : Quiet a s) : Quiet a (s.flushMail g) := by
  unfold State.flushMail
  exact h.updGroup.foldl (fun _ _ h => h.pipe (fun h => by split; exacts [h.collSend ‹_›, h.updGroup]))

theorem Quiet.tell {g type chips data} (h : Quiet a s) : Quiet a (s.tell g type chips data) :=
  h.updGroup.flushMail

theorem Quiet.countQueued {g} (h : Quiet a s) : Quiet a (s.countQueued g) :=
  h.setFld

theorem Quiet.endEntry {g e status committed digest} (h : Quiet a s) :
    Quiet a (s.endEntry g e status committed digest) :=
  h.when (·.bump) |>.setGroup |>.countQueued

theorem Quiet.endEntries {g p status} (h : Quiet a s) : Quiet a (s.endEntries g p status) :=
  h.foldl (fun _ _ h => h.endEntry)

theorem Quiet.answerOwed {o a'} (h : Quiet a s) : Quiet a (s.answerOwed o a') :=
  h.completeRequest

theorem Quiet.leaveStage {g} (h : Quiet a s) : Quiet a (s.leaveStage g) :=
  h.updGroup.foldl (fun _ _ h => h.answerOwed)

theorem Quiet.leaveStep {g} (h : Quiet a s) : Quiet a (s.leaveStep g) :=
  h.leaveStage.updGroup

theorem Quiet.clearBarriers {g mark state} (h : Quiet a s) : Quiet a (s.clearBarriers g mark state) :=
  h.foldl (fun _ _ h => h.branch (·.clearTagError) (·.clearTag) |>.when (·.updTile))

theorem Quiet.faultGroup {g status spread} (h : Quiet a s) : Quiet a (s.faultGroup g status spread) :=
  h.when (fun h => h.endEntries.leaveStep.setCollState.setFld.clearBarriers.when (·.tell))

/-! ### Machine/Power.lean -/

theorem Quiet.meterTile {t e} (h : Quiet a s) : Quiet a (s.meterTile t e) :=
  h.updTile

theorem Quiet.charge {t e} (h : Quiet a s) : Quiet a (s.charge t e) :=
  h.meterTile

/-! ### Machine/StopStep.lean -/

theorem Quiet.stopStep (h : Quiet a s) : Quiet a s.stopStep :=
  h.foldl (fun _ _ h => h.when (·.faultGroup))

/-! ### Machine/Ream.lean -/

theorem Quiet.setBank {key b} (h : Quiet a s) : Quiet a (s.setBank key b) :=
  h.frame

theorem Quiet.touchReam {f off n} (h : Quiet a s) : Quiet a (s.touchReam f off n) :=
  h.foldl (fun _ _ h => h.when (·.wake) |>.setBank)

theorem Quiet.noteRow {f off} (h : Quiet a s) : Quiet a (s.noteRow f off) :=
  h.whenNot (·.frame)

theorem Quiet.reamError {f line} (h : Quiet a s) : Quiet a (s.reamError f line) :=
  h.noteRow.setReg.fault.stopStep

theorem Quiet.correctLine {f line} (h : Quiet a s) : Quiet a (s.correctLine f line) :=
  Quiet.bump (h.trans ⟨fun _ => rfl, fun _ => rfl, fun hm => ⟨by rw [hm]; rfl, rfl, fun _ => rfl⟩⟩)

theorem Quiet.spareRow {l} (h : Quiet a s) : Quiet a (s.spareRow l) :=
  h.whenNot fun h =>
    h.foldl (fun _ _ h => h.branch (·.correctLine) (·.reamError)) |>.frame |>.bump |>.when (·.setFlag) |>.fault

theorem Quiet.reamCorrect {f line} (h : Quiet a s) : Quiet a (s.reamCorrect f line) :=
  h.correctLine.frame.when (·.spareRow)

theorem Quiet.meetMarks {f hits} (h : Quiet a s) : Quiet a (s.meetMarks f hits).1 :=
  h.foldl (fun _ _ h => h.branch (·.reamCorrect) (·.reamError)) |>.fst

theorem Quiet.reamScan {f off n} (h : Quiet a s) : Quiet a (s.reamScan f off n).1 :=
  h.touchReam.meetMarks

/-! ### Machine/Vat.lean -/

theorem Quiet.vatError {t off} (h : Quiet a s) : Quiet a (s.vatError t off) :=
  h.setReg.fault.stopStep

theorem Quiet.dropMarks {l} (h : Quiet a s) : Quiet a (s.dropMarks l) :=
  h.trans ⟨fun _ => rfl, fun _ => rfl, fun hm => ⟨by rw [State.dropMarks, hm]; rfl, rfl, fun _ => rfl⟩⟩

theorem Quiet.vatReadMarks {t hits} (h : Quiet a s) : Quiet a (s.vatReadMarks t hits).1 :=
  h.whenNot (·.dropMarks.bump) |>.foldl (fun _ _ h => h.vatError) |>.fst

theorem Quiet.vatScan {t off n} (h : Quiet a s) : Quiet a (s.vatScan t off n).1 :=
  h.vatReadMarks

/-! ### Machine/Cache.lean -/

theorem Quiet.setCache {f c} (h : Quiet a s) : Quiet a (s.setCache f c) :=
  h.frame

theorem Quiet.fillLine {f e} (h : Quiet a s) : Quiet a (s.fillLine f e) := by
  unfold State.fillLine
  exact h.whenNot (fun h => h.branch (·.setCache) (fun h => h.pipe (fun h => by split; exacts [h, h.setCache])))

theorem Quiet.prefetchLine {f line by'} (h : Quiet a s) : Quiet a (s.prefetchLine f line by') := by
  unfold State.prefetchLine
  refine h.whenNot fun h => h.branch (·.draw) fun h => ?_
  have hs := h.draw.bump (r := .fcPrefIssued f) (f := Fld.fcPrefIssuedCount) (n := 1)
    |>.chargeFolio (f := f) (e := 3920 * 64) |>.reamScan (f := f) (off := 64 * line) (n := 64)
  dsimp only
  split
  · exact hs.ofFst ‹_›
  · exact (hs.ofFst ‹_›).fillLine

theorem Quiet.hintNs {f} (h : Quiet a s) : Quiet a (s.hintNs f) := by
  dsimp only [State.hintNs]
  split
  exacts [h, h.setCache.foldl (fun _ _ h => h.prefetchLine)]

/-! ### Machine/TileOps.lean -/

theorem Quiet.settlePress {t} (h : Quiet a s) : Quiet a (s.settlePress t) :=
  h.setReg.when (·.updTile.bump)

theorem Quiet.requestHalt {t k} (h : Quiet a s) (hm : a.marks ≠ []) : Quiet a (s.requestHalt t k) := by
  unfold State.requestHalt State.updTile
  refine Quiet.settlePress (h.setTileOnError hm ?_)
  dsimp only
  split <;> rfl

theorem Quiet.machineCheck {t off} (h : Quiet a s) (hm : a.marks ≠ []) : Quiet a (s.machineCheck t off) :=
  h.requestHalt hm

/-! ### Machine/Tense.lean -/

theorem Quiet.tenseNs (h : Quiet a s) : Quiet a s.tenseNs :=
  h.frame

/-! ### Machine/Press.lean -/

theorem Quiet.startLoad {t f base scaleOff} (h : Quiet a s) : Quiet a (Machine.startLoad t f base scaleOff s) := by
  unfold Machine.startLoad
  extract_lets n k b
  dsimp only
  have hl := h.vatScan (t := t) (off := base) (n := n)
  split
  next e he =>
    have hm : a.marks ≠ [] := by
      intro hm
      simp [State.vatScan_clean (h.clean hm).1] at he
    exact Quiet.machineCheck (hl.whenFst (·.vatScan) |>.updTile |>.charge) hm
  next => exact hl.whenFst (·.vatScan) |>.updTile |>.charge

theorem Quiet.startPressEntry {t e} (h : Quiet a s) : Quiet a (Machine.startEntry t s e) := by
  unfold Machine.startEntry
  cases e with
  | wld f base scaleOff => exact h.startLoad
  | wswap => exact h.updTile
  | stream j => exact h.updTile

theorem Quiet.startEntries {t n} (h : Quiet a s) : Quiet a (Machine.startEntries t n s) := by
  induction n generalizing s with
  | zero => exact h
  | succ n ih =>
    unfold Machine.startEntries
    dsimp only
    split
    · exact h
    · exact h.when fun h => ih h.updTile.startPressEntry

theorem Quiet.pumpPress {t} (h : Quiet a s) : Quiet a (pumpPress t s) :=
  h.startEntries

theorem Quiet.gapCycles {t k} (h : Quiet a s) : Quiet a (s.gapCycles t k) := by
  dsimp only [State.gapCycles]
  split
  exacts [h, h.updTile.bump]

theorem Quiet.pressCycles {t k} (h : Quiet a s) : Quiet a (s.pressCycles t k) :=
  h.branch
      (·.bump)
      (fun h => h.whenNot (fun h => h.branch (·.updTile.pumpPress) (fun h => h.when (·.gapCycles) |>.pumpPress)))

/-! ### Machine/Optics.lean -/

theorem Quiet.updOptics {f} (h : Quiet a s) : Quiet a (s.updOptics f) :=
  h.frame

theorem Quiet.setPort {p r} (h : Quiet a s) : Quiet a (s.setPort p r) :=
  h.updOptics

theorem Quiet.updPort {p f} (h : Quiet a s) : Quiet a (s.updPort p f) :=
  h.setPort

theorem Quiet.requeueCore {n q} {moved : State → State} (h : Quiet a s)
    (hmoved : ∀ s, Quiet a s → Quiet a (moved s)) : Quiet a (s.requeueCore n q moved) := by
  unfold State.requeueCore
  exact h.foldl fun _ _ h =>
    h.whenNot fun h => by
      split
      · exact h.setXbar.refuseCell
      · split
        exacts [h, h.whenNot (fun h => h.pipe (fun h => by split; exacts [h.enter ‹_› |>.pipe (hmoved _), h]))]

theorem Quiet.requeue {p} (h : Quiet a s) : Quiet a (s.requeue p) :=
  h.requeueCore (fun _ h => h.bump)

theorem Quiet.requeueFolio {n f} (h : Quiet a s) : Quiet a (s.requeueFolio n f) :=
  h.whenNot fun h => h.requeueCore fun _ h => h

theorem Quiet.mapLane {r lane phys spare} (h : Quiet a s) (hr : ∀ t, r ≠ .seqPc t := by nofun) :
    Quiet a (s.mapLane r lane phys spare) :=
  h.setFld hr |>.setFld hr

theorem Quiet.endSwap {p w} (h : Quiet a s) : Quiet a (s.endSwap p w) :=
  h.updPort.when (·.mapLane.bump)

theorem Quiet.controlBlock {p flags cmd at'} (h : Quiet a s) : Quiet a (s.controlBlock p flags cmd at') := by
  dsimp only [State.controlBlock]
  exact h.emit.updPort.pipe (fun h => by split; exacts [h.when (·.endSwap), h])

theorem Quiet.blocksNs (h : Quiet a s) : Quiet a s.blocksNs :=
  h.whenNot fun h =>
    h.foldl fun _ _ h =>
      h.whenNot (fun h => h.branch (·.emit) (fun h => h.branch (·.controlBlock) (fun h => h.when (·.controlBlock))))

/-! ### Machine/Tick.lean -/

theorem Quiet.tileCycles {t k} (h : Quiet a s) : Quiet a (s.tileCycles t k) := by
  unfold State.tileCycles
  exact h.pressCycles.when (·.bump) |>.updTile

theorem Quiet.tileMicro {t} (h : Quiet a s) : Quiet a (s.tileMicro t) := by
  unfold State.tileMicro
  exact h.updTile

theorem Quiet.retryLost (h : Quiet a s) : Quiet a s.retryLost :=
  h.whenNot fun h =>
    h.foldl (fun _ _ h => h.whenNot (·.requeue)) |>.foldl (fun _ _ h => h.requeueFolio.requeueFolio)

theorem Quiet.clockNs (h : Quiet a s) : Quiet a s.clockNs :=
  h.tenseNs.foldl (fun _ _ h => h.tileCycles) |>.when (fun h => h.foldl (fun _ _ h => h.tileMicro)) |>.meshNs
    |>.coreNs |>.coreNs |>.retryLost |>.blocksNs |>.foldl (fun _ _ h => h.hintNs)

/-! ### The idle step -/

theorem State.resetDue_iff {s : State} :
    s.resetDue = true ↔ s.mgmt.powered = true ∧ s.mgmt.tripped = false ∧
      ∃ t, s.mgmt.resetLow = some t ∧ t + 10000 = s.now + 1 := by
  simp [State.resetDue, Option.map_eq_some_iff, and_assoc]

theorem State.tick_now (s : State) : s.tick.now = s.now + 1 := congrArg (· + 1) (Keeps.tick_before s).now

theorem State.tick_pending (s : State) : s.tick.pending = s.pending := (Keeps.tick_before s).pending

theorem State.tick_of_resetDue {s : State} (h : s.resetDue = true) :
    s.tick = { s.wholeReset 9 false with now := s.now + 1 } := by
  rw [State.tick, if_pos h, ((Keeps.refl s).wholeReset (reason := 9) (hold := false)).now]

theorem State.tick_of_stopped {s : State} (h : s.resetDue = false)
    (hs : s.mgmt.powered = false ∨ s.clocksStopped = true) : s.tick = { s with now := s.now + 1 } := by
  have hc : (s.clocksStopped || !s.mgmt.powered) = true := by
    obtain hp | hc := hs
    · simp [hp]
    · simp [hc]
  rw [State.tick, if_neg (by simp [h]), if_pos hc]

theorem Quiet.tick {s : State} (h : s.resetDue = false) : Quiet s s.tick := by
  rw [State.tick, if_neg (by simp [h])]
  exact Quiet.frame ((Quiet.refl s).whenNot (·.clockNs))

end Sys2Proof.Machine

open Sys2Proof Sys2Proof.Machine

/-- Settles O2: the idle step is `State.tick`, which resets a device whose DEV_RESET_N has just been low for 10 us and
else runs the clocks, whose every function is `Quiet`. -/
theorem idleStepPassesOneNanosecond : Obligations.IdleStepPassesOneNanosecond := by
  intro s hs
  have hstep : step s = .next s.tick := by rw [step, hs]
  refine ⟨s.tick, hstep, s.tick_now, s.tick_pending.trans hs, ?_, ?_⟩
  · exact fun h => State.tick_of_resetDue (State.resetDue_iff.mpr h)
  · intro h
    have hd : s.resetDue = false := Bool.eq_false_iff.mpr fun k => h (State.resetDue_iff.mp k)
    obtain ⟨hpc, hscalars, hclean⟩ := Quiet.tick hd
    exact ⟨fun t => ⟨hpc t, hscalars t⟩, fun hm => (hclean hm).2, State.tick_of_stopped hd⟩

end

section
/-! PROOFS. Register accesses: the domain that one starts, the fault record ring, and what a write stores or
is refused. -/

namespace Sys2Proof.Machine

/-! ### The domain that an access starts (R39) -/

/-- An access has started the domain `d`: only the status of its ream base may differ, beside clocks and energy. -/
structure Woken (d : Domain) (s u : State) : Prop where
  reg : ∀ k, (∀ m, k = .reamStatus m → d ≠ .reamBase m) → u.reg k = s.reg k
  mem : u.mem = s.mem
  out : u.out = s.out

theorem Woken.reg_of_ne {d : Domain} {s u : State} (h : Woken d s u) {k : Reg} (hk : ∀ m, k ≠ .reamStatus m) :
    u.reg k = s.reg k := h.reg k fun m e => absurd e (hk m)

theorem Woken.refl (d : Domain) (s : State) : Woken d s s := ⟨fun _ _ => rfl, rfl, rfl⟩

theorem State.chargeRestart_eq (s : State) (d : Domain) : ∃ e, s.chargeRestart d = { s with energy := e } := by
  unfold State.chargeRestart State.chargeFolio
  dsimp only
  split
  · split
    · exact ⟨_, rfl⟩
    · exact ⟨_, rfl⟩
  · exact ⟨_, rfl⟩

/-- Waking counts the domain's activity and the energy of its start. -/
theorem State.started_eq (s : State) (d : Domain) : ∃ c e,
    (if s.clocks.any (fun c => c.domain = d) then
      { s with clocks := s.clocks.map (fun c => if c.domain = d then { c with active := s.now } else c) }
    else State.chargeRestart { s with clocks := s.clocks ++ [⟨d, s.now, true⟩] } d) =
      { s with clocks := c, energy := e } := by
  split
  · exact ⟨_, _, rfl⟩
  · obtain ⟨e, he⟩ := State.chargeRestart_eq { s with clocks := s.clocks ++ [⟨d, s.now, true⟩] } d
    exact ⟨_, e, he⟩

/-- A ream base is taken out of self-refresh beside (R227). -/
theorem State.wake_reamBase (s : State) (m : Ream) : ∃ c e, s.wake (.reamBase m) =
    ({ s with clocks := c, energy := e } : State).setFlag (.reamStatus m) Fld.reamStatusSelfRefresh false := by
  obtain ⟨c, e, he⟩ := s.started_eq (.reamBase m)
  refine ⟨c, e, ?_⟩
  unfold State.wake
  rw [he]

theorem State.woken_wake (s : State) (d : Domain) : Woken d s (s.wake d) := by
  obtain ⟨c, e, he⟩ := s.started_eq d
  unfold State.wake
  rw [he]
  dsimp only
  split
  next m => exact ⟨fun k hk => State.reg_setFlag_other _ _ _ fun h => hk m h rfl, rfl, rfl⟩
  next => exact ⟨fun _ _ => rfl, rfl, rfl⟩

theorem State.woken_wakeReg (s : State) {off : Nat} {r : Reg} (hr : Reg.ofAddr off = .reg r) :
    Woken (regDomain r) s (s.wakeReg off) := by
  rw [State.wakeReg, hr]
  dsimp only
  split
  · exact Woken.refl _ s
  · exact s.woken_wake _

theorem State.reg_reamStatus_wakeReg {s : State} {off : Nat} {r : Reg} {m : Ream} (hr : Reg.ofAddr off = .reg r)
    (hd : s.regDown off r = false) (hc : s.clocksStopped = false) (h : regDomain r = .reamBase m) :
    (s.wakeReg off).reg (.reamStatus m) = Fld.reamStatusSelfRefresh.set (s.reg (.reamStatus m)) 0 := by
  obtain ⟨c, e, he⟩ := s.wake_reamBase m
  have hw : s.wakeReg off = s.wake (regDomain r) := by
    rw [State.wakeReg, hr]
    simp [hc, hd]
  rw [hw, h, he]
  exact State.reg_setFld_same _ _ _ _

/-! ### What a write's checks read of the device

They read registers, and none the status of a ream base. -/

section Congr
variable {s u : State} (hreg : ∀ k, (∀ m, k ≠ .reamStatus m) → u.reg k = s.reg k)
include hreg

theorem fld_congr {k : Reg} (hk : ∀ m, k ≠ .reamStatus m) (f : Field) : u.fld k f = s.fld k f := by
  rw [State.fld, State.fld, hreg k hk]

theorem flag_congr {k : Reg} (hk : ∀ m, k ≠ .reamStatus m) (f : Field) : u.flag k f = s.flag k f := by
  rw [State.flag, State.flag, fld_congr hreg hk]

theorem devMode_congr : u.devMode = s.devMode := fld_congr hreg (by simp) _

theorem feature_congr (b : Nat) : u.feature b = s.feature b := by
  rw [State.feature, State.feature, hreg _ (by simp)]

theorem portLiveBit_congr (p : Port) : u.portLiveBit p = s.portLiveBit p := by
  rw [State.portLiveBit, State.portLiveBit, State.bit, State.bit, hreg _ (by simp)]

theorem collState_congr (g : Coll) : u.collState g = s.collState g := fld_congr hreg (by simp) _

theorem collLocked_congr (g : Coll) : u.collLocked g = s.collLocked g := by
  rw [State.collLocked, State.collLocked, collState_congr hreg]

theorem portMode_congr (p : Port) : u.portMode p = s.portMode p := fld_congr hreg (by simp) _

theorem ownGroup_congr (n : Deckle) : u.ownGroup n = s.ownGroup n := by
  rw [State.ownGroup, State.ownGroup, State.chipOf, State.chipOf, fld_congr hreg (by simp)]

theorem modeAccepts_congr (r : Reg) : u.modeAccepts r = s.modeAccepts r := by
  unfold State.modeAccepts
  rw [devMode_congr hreg]

theorem featureOff_congr (r : Reg) : u.featureOff r = s.featureOff r := by
  unfold State.featureOff
  rw [feature_congr hreg, feature_congr hreg]

theorem frozenBits_congr (r : Reg) : u.frozenBits r = s.frozenBits r := by
  unfold State.frozenBits State.anyAdmitted
  simp only [collLocked_congr hreg, funext (portLiveBit_congr hreg)]
  split <;> try rfl
  next q => rw [flag_congr hreg (by simp)]

theorem lockedWrite_congr (r : Reg) (new : W64) : u.lockedWrite r new = s.lockedWrite r new := by
  unfold State.lockedWrite
  cases r with
  | seqPc | strict | srSeed | srStep | ecqBase | ecqSize | ecqTailAddr | evqBase | evqSize | featDriver | hqSqBase
  | hqSqSize | hqTailAddr | hqCqBase => exact flag_congr hreg (by simp) _
  | tenseCtl => simp (disch := simp) only [flag_congr hreg, fld_congr hreg]
  | tenseRootInit => simp (disch := simp) only [flag_congr hreg, hreg]
  | retxTimer => simp only [collState_congr hreg]
  | collShape | collKey | collTiles0 | collTiles1 | collTiles2 | collStage | ringTable =>
    exact collLocked_congr hreg _
  | _ => rfl

theorem badCombination_congr (r : Reg) (old new : W64) : u.badCombination r old new = s.badCombination r old new := by
  unfold State.badCombination
  cases r with
  | bufBase | bufSize | bufCtl => simp (disch := simp) only [hreg]
  | globalTable | mirrorCtl => simp only [ownGroup_congr hreg, portMode_congr hreg]
  | routeCtl => simp (disch := simp) only [ownGroup_congr hreg, hreg]
  | collShape => simp (disch := simp) only [flag_congr hreg]
  | evqHead | faultRingAck => simp (disch := simp) only [fld_congr hreg]
  | hqCtl => simp (disch := simp) only [flag_congr hreg, feature_congr hreg]
  | _ => rfl

end Congr

/-! ### The fault record ring (R500) -/

/-- The registers of the ring that an entry changes. -/
def ringReg : Reg → Bool
  | .faultRingTail | .faultRingHead | .faultRingLost | .faultSlot _ _ => true
  | _ => false

theorem windowDie_lt (off : Nat) : windowDie off < 2 ^ 8 := by
  unfold windowDie
  split
  · omega
  · split <;> omega

theorem windowDie_div_eight (off : Nat) : windowDie (off / 8 * 8) = windowDie off := by
  unfold windowDie
  split
  · rw [if_pos (by omega)]
    omega
  next h =>
    rw [if_neg (c := 0x01000000 ≤ off ∧ off < 0x05000000) (by omega)]
    split
    · rw [if_pos (by omega)]
      omega
    · rw [if_neg (by omega)]

theorem bump_faultRingLost (s : State) (f : Field) (n : Nat) :
    s.bump .faultRingLost f n = s.setFld .faultRingLost f (s.counted .faultRingLost f n) := rfl

section Fault
variable (s : State) (code die inst d0 d1 : Nat)

/-- A full ring counts the entry that it loses. -/
def State.lost (s : State) : State :=
  if s.fld .faultRingTail Fld.faultRingTailIndex ≥ 4096 then s.bump .faultRingLost Fld.faultRingLostCount 1 else s

theorem reg_lost {k : Reg} (hk : k ≠ .faultRingLost) : s.lost.reg k = s.reg k := by
  unfold State.lost
  split
  · exact State.reg_setFld_other s _ _ hk
  · rfl

theorem lost_mem : s.lost.mem = s.mem := by
  unfold State.lost
  split <;> rfl

theorem lost_out : s.lost.out = s.out := by
  unfold State.lost
  split <;> rfl

/-- The place of the next entry. -/
def State.ringSlot (s : State) : Fin 4096 := Fin.ofNat 4096 (s.fld .faultRingTail Fld.faultRingTailIndex)

/-- Word 1 of an entry (R500). -/
def faultHead (code die inst : Nat) : Nat :=
  faultSeverity code + die % 256 * 2 ^ 8 + inst % 2 ^ 16 * 2 ^ 16 + code * 2 ^ 32

theorem fault_eq : s.fault code die inst d0 d1 =
    ((((((s.lost.setReg (.faultSlot s.ringSlot 0) (BitVec.ofNat 64 s.lost.tenseNow)).setReg (.faultSlot s.ringSlot 1)
      (BitVec.ofNat 64 (faultHead code die inst))).setReg (.faultSlot s.ringSlot 2) (BitVec.ofNat 64 d0)).setReg
      (.faultSlot s.ringSlot 3) (BitVec.ofNat 64 d1)).setReg .faultRingHead
      (BitVec.ofNat 64 (s.fld .faultRingTail Fld.faultRingTailIndex + 1 - 4096))).setReg .faultRingTail
      (BitVec.ofNat 64 (s.fld .faultRingTail Fld.faultRingTailIndex + 1))) := rfl

theorem fault_mem : (s.fault code die inst d0 d1).mem = s.mem := by
  rw [fault_eq, State.setReg_mem, State.setReg_mem, State.setReg_mem, State.setReg_mem, State.setReg_mem,
    State.setReg_mem, lost_mem]

theorem fault_out : (s.fault code die inst d0 d1).out = s.out := by
  rw [fault_eq, State.setReg_out, State.setReg_out, State.setReg_out, State.setReg_out, State.setReg_out,
    State.setReg_out, lost_out]

theorem reg_fault_tail : (s.fault code die inst d0 d1).reg .faultRingTail =
    BitVec.ofNat 64 (s.fld .faultRingTail Fld.faultRingTailIndex + 1) := by
  rw [fault_eq, State.reg_setReg_same]

theorem reg_fault_head : (s.fault code die inst d0 d1).reg (.faultSlot s.ringSlot 1) =
    BitVec.ofNat 64 (faultHead code die inst) := by
  rw [fault_eq, State.reg_setReg_other _ _ (by simp), State.reg_setReg_other _ _ (by simp),
    State.reg_setReg_other _ _ (by simp), State.reg_setReg_other _ _ (by simp), State.reg_setReg_same]

theorem reg_fault_offset : (s.fault code die inst d0 d1).reg (.faultSlot s.ringSlot 2) = BitVec.ofNat 64 d0 := by
  rw [fault_eq, State.reg_setReg_other _ _ (by simp), State.reg_setReg_other _ _ (by simp),
    State.reg_setReg_other _ _ (by simp), State.reg_setReg_same]

theorem reg_fault_value : (s.fault code die inst d0 d1).reg (.faultSlot s.ringSlot 3) = BitVec.ofNat 64 d1 := by
  rw [fault_eq, State.reg_setReg_other _ _ (by simp), State.reg_setReg_other _ _ (by simp), State.reg_setReg_same]

theorem reg_fault_of_not_ringReg {k : Reg} (hk : ringReg k = false) :
    (s.fault code die inst d0 d1).reg k = s.reg k := by
  have hslot : ∀ i w, k ≠ .faultSlot i w := fun i w e => by simp [e, ringReg] at hk
  have hhead : k ≠ .faultRingHead := fun e => by simp [e, ringReg] at hk
  have htail : k ≠ .faultRingTail := fun e => by simp [e, ringReg] at hk
  have hlost : k ≠ .faultRingLost := fun e => by simp [e, ringReg] at hk
  rw [fault_eq, State.reg_setReg_other _ _ htail, State.reg_setReg_other _ _ hhead,
    State.reg_setReg_other _ _ (hslot _ _), State.reg_setReg_other _ _ (hslot _ _),
    State.reg_setReg_other _ _ (hslot _ _), State.reg_setReg_other _ _ (hslot _ _), reg_lost s hlost]

end Fault

theorem faultSeverity_of_le_five {code : Nat} (h : code ≤ 5) : faultSeverity code = 1 := by
  interval_cases code <;> rfl

/-- `s'` is `s` with one entry more in the ring, and with the registers changed that the access woke. -/
def Recorded (woken : Reg → Bool) (s s' : State) (code off v : Nat) : Prop :=
  s'.reg .faultRingTail = BitVec.ofNat 64 (s.fld .faultRingTail Fld.faultRingTailIndex + 1) ∧
    (s'.reg (.faultSlot s.ringSlot 1)).toNat / 2 ^ 32 % 2 ^ 16 = code ∧
    (s'.reg (.faultSlot s.ringSlot 1)).toNat % 4 = 1 ∧
    (s'.reg (.faultSlot s.ringSlot 1)).toNat / 2 ^ 8 % 2 ^ 8 = windowDie off ∧
    s'.reg (.faultSlot s.ringSlot 2) = BitVec.ofNat 64 off ∧ s'.reg (.faultSlot s.ringSlot 3) = BitVec.ofNat 64 v ∧
    (∀ r, ringReg r = false → woken r = false → s'.reg r = s.reg r) ∧ s'.mem = s.mem

theorem recorded_regFault (s : State) {code : Nat} (off v : Nat) (h : code ≤ 5) :
    Recorded (fun _ => false) s (s.regFault code off v) code off v := by
  have hdie := windowDie_lt off
  have hhead : (BitVec.ofNat 64 (faultHead code (windowDie off) (Config.registerWindow off).toNat)).toNat =
      1 + windowDie off * 2 ^ 8 + (Config.registerWindow off).toNat % 2 ^ 16 * 2 ^ 16 + code * 2 ^ 32 := by
    rw [BitVec.toNat_ofNat, faultHead, faultSeverity_of_le_five h]
    omega
  unfold Recorded State.regFault
  rw [reg_fault_tail, reg_fault_head, reg_fault_offset, reg_fault_value, fault_mem, hhead]
  exact ⟨rfl, by omega, by omega, by omega, rfl, rfl, fun k hk _ => reg_fault_of_not_ringReg _ _ _ _ _ _ hk, rfl⟩

/-- An entry that a woken device appends is one of the device before. -/
theorem Recorded.of_woken {d : Domain} {s u s' : State} {code off v : Nat} {woken : Reg → Bool} (hw : Woken d s u)
    (hk : ∀ k, woken k = false → ∀ m, k = .reamStatus m → d ≠ .reamBase m)
    (h : Recorded (fun _ => false) u s' code off v) : Recorded woken s s' code off v := by
  have htail : u.fld .faultRingTail Fld.faultRingTailIndex = s.fld .faultRingTail Fld.faultRingTailIndex := by
    rw [State.fld, State.fld, hw.reg_of_ne (by simp)]
  unfold Recorded State.ringSlot at *
  rw [htail] at h
  obtain ⟨ht, hcode, hsev, hdie, hoff, hv, hreg, hmem⟩ := h
  exact ⟨ht, hcode, hsev, hdie, hoff, hv, fun r hr hr' => (hreg r hr rfl).trans (hw.reg r (hk r hr')),
    hmem.trans hw.mem⟩

/-! ### The path of an access (R11, R21, R526-R530) -/

theorem access_eq_writeOff {s : State} {src : Src} {off : Nat} {wide : Bool} {v : W64} (line : BitVec 32)
    (hp : s.mgmt.powered = true) (ha : off % (if wide then 8 else 4) = 0) (hans : s.answers off = true)
    (hh : s.heeds src off v) (ht : s.mgmt.takeover = none) :
    s.access src off wide v line = s.writeOff src off wide v line := by
  have hb : ¬ (src = .island ∧ s.ready = true ∧ islandBarred off v = true) := fun ⟨h1, h2, h3⟩ => by
    rw [hh h1 h2] at h3
    cases h3
  unfold State.access
  simp only [hp, ha, hans, hb, ht]
  rfl

/-- The value that a write carries. -/
def valueOf (wide : Bool) (v : W64) : W64 := if wide then v else v &&& 0xFFFFFFFF

/-- The value in its place in the register (R528). -/
def placeOf (off : Nat) (wide : Bool) (v : W64) : W64 := if wide then v else (v &&& 0xFFFFFFFF) <<< (off % 8 * 8)

theorem writeOff_reserved {s : State} {off : Nat} (src : Src) (wide : Bool) (v : W64) (line : BitVec 32)
    (h : Reg.ofAddr (off / 8 * 8) = .reserved) :
    s.writeOff src off wide v line = s.regFault 0x0004 off (valueOf wide v).toNat := by
  rw [State.writeOff, h]
  rfl

theorem writeOff_regDown {s : State} {off : Nat} {r : Reg} (src : Src) (wide : Bool) (v : W64) (line : BitVec 32)
    (h : Reg.ofAddr (off / 8 * 8) = .reg r) (hd : s.regDown off r = true) :
    s.writeOff src off wide v line = s.regFault 0x0005 off (valueOf wide v).toNat := by
  rw [State.writeOff, h]
  dsimp only
  rw [if_pos hd]
  rfl

theorem writeOff_writeReg {s : State} {off : Nat} {r : Reg} (src : Src) (wide : Bool) (v : W64) (line : BitVec 32)
    (h : Reg.ofAddr (off / 8 * 8) = .reg r) (hd : s.regDown off r = false) (hm : s.modeAccepts r = true)
    (hf : s.featureOff r = false) :
    s.writeOff src off wide v line =
      (s.wakeReg (off / 8 * 8)).writeReg src r (placeOf off wide v) (writtenBits off wide) line
        fun code u => u.regFault code off (valueOf wide v).toNat := by
  have hw := s.woken_wakeReg h
  have hm' := (modeAccepts_congr (fun k => hw.reg_of_ne) r).trans hm
  have hf' := (featureOff_congr (fun k => hw.reg_of_ne) r).trans hf
  rw [State.writeOff, h]
  dsimp only
  rw [if_neg (by simp [hd]), if_neg (by simp [hm']), if_neg (by simp [hf'])]
  cases wide <;> rfl

/-! ### Registers that only hold their fields -/

/-- The registers whose writes start nothing. -/
def HoldsOnly (r : Reg) : Prop :=
  match r with
  | .bufBase _ e | .bufSize _ e | .bufCtl _ e => e ≠ 0
  | .fcCtl _ | .switchCtl _ | .allowList0 _ | .allowList1 _ | .globalTable _ _ | .collShape _ | .collKey _
  | .collStage _ | .collTimeout _ | .ringTable _ _ | .strict _ | .seqPc _ | .srSeed _ | .srStep _ | .evqBase _
  | .evqSize _ | .mboxArg _ | .portViolLimit _ | .suspectCtl | .optCtl | .portAsym _ => True
  | _ => False

/-- What a write of such a register does not do. -/
structure Inert (r : Reg) : Prop where
  named : Reg.ofAddr r.addr = .reg r
  domain : ∀ m, regDomain r ≠ .reamBase m := by nofun
  mode : ∀ s : State, s.modeAccepts r = decide (s.devMode ≠ 3) := by intros; rfl
  feature : ∀ s : State, s.featureOff r = false := by intros; rfl
  frozen : ∀ s : State, s.frozenBits r = 0 := by intros; rfl
  kept : ∀ new frozen half : W64, keptRecorded r new new frozen half = false := by simp [keptRecorded]
  noClear : ∀ p ∈ r.fields, p.2 ≠ .w1c := by simp [Reg.fields]
  badActions : ∀ old new acts : W64, badActions r old new acts = false := by intros; rfl
  stored : ∀ (s : State) (old : W64) (line : BitVec 32), s.stored r old line = s := by intros; rfl
  actions : ∀ (s : State) (acts half : W64) (f : State → State), s.actions r acts half f = s := by intros; rfl

theorem inert_of_holdsOnly {r : Reg} (h : HoldsOnly r) : Inert r := by
  cases r with
  | bufBase f e | bufSize f e | bufCtl f e =>
    have he : e ≠ 0 := h
    exact { named := Reg.ofAddr_addr _ fun g => by simp [he] }
  | fcCtl | switchCtl | allowList0 | allowList1 | globalTable | collShape | collKey | collStage | collTimeout
  | ringTable | strict | seqPc | srSeed | srStep | evqBase | evqSize | mboxArg | portViolLimit | suspectCtl | optCtl
  | portAsym => exact { named := Reg.ofAddr_addr _ fun g => by simp }
  | _ => exact h.elim

theorem wholeFields_eq_zero {r : Reg} {a : Access} (h : ∀ p ∈ r.fields, p.2 ≠ a) (half : W64) :
    wholeFields r a half = 0 := by
  unfold wholeFields
  generalize r.fields = l at h
  induction l with
  | nil => rfl
  | cons p l ih =>
    rw [List.foldl_cons, if_neg fun e => h p (by simp) e.1]
    exact ih fun q hq => h q (List.mem_cons_of_mem _ hq)

/-- What a write asks the RW bits to be (R528). -/
def State.wanted (s : State) (r : Reg) (v half : W64) : W64 :=
  (s.reg r &&& ~~~ (r.maskOf .rw &&& half)) ||| (v &&& (r.maskOf .rw &&& half))

theorem writeReg_of_inert {s : State} {r : Reg} (h : Inert r) (src : Src) (v half : W64) (line : BitVec 32)
    (record : Nat → State → State) (hl : s.lockedWrite r (s.wanted r v half) = false)
    (hb : s.badCombination r (s.reg r) (s.wanted r v half) = false)
    (hr : ∀ e ∈ reservedFields r, e.2 (e.1.get (s.wanted r v half)) = false) :
    s.writeReg src r v half line record = s.setReg r (s.wanted r v half) := by
  have hres : (reservedFields r).any (fun e => decide (e.1.mask &&& half ≠ 0) &&
      e.2 (e.1.get (s.wanted r v half))) = false :=
    List.any_eq_false.mpr fun e he => by simp [hr e he]
  have hnew : (s.wanted r v half &&& ~~~ s.frozenBits r) ||| (s.reg r &&& s.frozenBits r) = s.wanted r v half := by
    rw [h.frozen s]
    simp only [BitVec.ofNat_eq_ofNat, BitVec.and_zero, BitVec.or_zero, BitVec.not_zero, BitVec.and_allOnes]
  have hbits : v &&& wholeFields r .w1c half = 0#64 := by
    rw [wholeFields_eq_zero h.noClear]
    exact BitVec.and_zero
  unfold State.writeReg
  dsimp only
  rw [show (s.reg r &&& ~~~ (r.maskOf .rw &&& half)) ||| (v &&& (r.maskOf .rw &&& half)) = s.wanted r v half from rfl,
    hnew, hres, hb, h.badActions, hl, h.kept, hbits]
  rw [if_neg (by decide), if_neg (by simp), h.stored, ite_self, h.actions]
  rfl

theorem answers_div_eight (s : State) (off : Nat) : s.answers (off / 8 * 8) = s.answers off := by
  have h : off / 8 * 8 < 0x10000 ↔ off < 0x10000 := by omega
  unfold State.answers
  simp only [h]

theorem regDown_div_eight (s : State) (off : Nat) (r : Reg) : s.regDown (off / 8 * 8) r = s.regDown off r := by
  unfold State.regDown
  rw [windowDie_div_eight]

/-- A write of such a register, seen from before the start of its domain. -/
theorem access_of_inert {s : State} {src : Src} {r : Reg} {off : Nat} {wide : Bool} {v : W64} (line : BitVec 32)
    (hi : Inert r) (hoff : off / 8 * 8 = r.addr) (ha : off % (if wide then 8 else 4) = 0) (hreach : s.reaches r)
    (hh : s.heeds src off v) (hl : s.lockedWrite r (s.wanted r (placeOf off wide v) (writtenBits off wide)) = false)
    (hb : s.badCombination r (s.reg r) (s.wanted r (placeOf off wide v) (writtenBits off wide)) = false)
    (hres : ∀ e ∈ reservedFields r,
      e.2 (e.1.get (s.wanted r (placeOf off wide v) (writtenBits off wide))) = false) :
    ∃ u, Woken (regDomain r) s u ∧
      s.access src off wide v line = u.setReg r (s.wanted r (placeOf off wide v) (writtenBits off wide)) := by
  obtain ⟨hp, hans, ht, hd, hm⟩ := hreach
  have hname : Reg.ofAddr (off / 8 * 8) = .reg r := hoff ▸ hi.named
  have hw := s.woken_wakeReg hname
  have hreg := fun k => hw.reg_of_ne (k := k)
  have hrr : (s.wakeReg (off / 8 * 8)).reg r = s.reg r := hw.reg r fun m _ => hi.domain m
  have hwant : ∀ x half, (s.wakeReg (off / 8 * 8)).wanted r x half = s.wanted r x half := fun x half => by
    rw [State.wanted, State.wanted, hrr]
  rw [← hoff, answers_div_eight] at hans
  rw [← hoff, regDown_div_eight] at hd
  refine ⟨_, hw, ?_⟩
  rw [access_eq_writeOff line hp ha hans hh ht, writeOff_writeReg src wide v line hname hd
    (by rw [hi.mode]; exact decide_eq_true hm) (hi.feature s)]
  rw [writeReg_of_inert hi, hwant]
  · rw [hwant, lockedWrite_congr hreg, hl]
  · rw [hwant, badCombination_congr hreg, hrr, hb]
  · rw [hwant]
    exact hres

/-! ### Refused accesses -/

theorem exec_badSizeAccess {s : State} {off : BitVec 27} {size : Nat} (write : Bool) (hp : s.mgmt.powered = true)
    (h : ¬ ((size = 4 ∨ size = 8) ∧ off.toNat % size = 0)) :
    exec (.badSizeAccess off size write) s = .next (s.badSize off.toNat size write) := by
  change Host.Outcome.next (doBadSizeAccess off size write s) = _
  rw [doBadSizeAccess, if_neg (by simp [hp, h])]

theorem badSize_of_not_answers {s : State} {off : Nat} (size : Nat) (write : Bool) (h : s.answers off = false) :
    s.badSize off size write = if write then s else s.emit .readError := by
  rw [State.badSize, if_pos h]

theorem badSize_of_answers {s : State} {off : Nat} (size : Nat) (write : Bool) (h : s.answers off = true) :
    s.badSize off size write = if write then s.regFault 0x0002 off size
      else (s.regFault 0x0002 off size).emit (.readData (List.replicate size 0)) := by
  rw [State.badSize, if_neg (by simp [h])]

theorem Recorded.emit {woken : Reg → Bool} {s s' : State} {code off v : Nat} (h : Recorded woken s s' code off v)
    (o : Output) : Recorded woken s (s'.emit o) code off v := by
  simpa only [Recorded, State.emit_reg, State.emit_mem] using h

theorem recorded_badSize {s : State} {off : Nat} (size : Nat) (write : Bool) (h : s.answers off = true) :
    Recorded (fun _ => false) s (s.badSize off size write) 0x0002 off size := by
  rw [badSize_of_answers size write h]
  have h2 := recorded_regFault s off size (show 0x0002 ≤ 5 by decide)
  cases write
  · exact h2.emit _
  · exact h2

theorem out_badSize {s : State} {off : Nat} (size : Nat) (write : Bool) (h : s.answers off = true) :
    (s.badSize off size write).out = s.out ++ (if write then [] else [.readData (List.replicate size 0)]) := by
  have hout : (s.regFault 0x0002 off size).out = s.out := fault_out s _ _ _ _ _
  rw [badSize_of_answers size write h]
  cases write
  · exact congrArg (· ++ _) hout
  · exact hout.trans (List.append_nil _).symm

/-- What a write would leave in a register: what it asks for, beside the bits that keep their values. -/
def State.leaves (s : State) (r : Reg) (v half : W64) : W64 :=
  (s.wanted r v half &&& ~~~ s.frozenBits r) ||| (s.reg r &&& s.frozenBits r)

/-- A write is one of the reserved ones (R9). -/
def State.reserves (s : State) (r : Reg) (v half : W64) : Prop :=
  (∃ e ∈ reservedFields r, e.1.mask &&& half ≠ 0 ∧ e.2 (e.1.get (s.leaves r v half)) = true) ∨
    s.badCombination r (s.reg r) (s.leaves r v half) = true ∨
    badActions r (s.reg r) (s.leaves r v half) (v &&& wholeFields r .wo half) = true

theorem writeReg_of_reserves {s : State} {r : Reg} {v half : W64} (src : Src) (line : BitVec 32)
    (record : Nat → State → State) (h : s.reserves r v half) :
    s.writeReg src r v half line record = record 0x0001 s := by
  unfold State.writeReg
  dsimp only
  rw [if_pos]
  obtain ⟨e, he, hm, hv⟩ | h | h := h
  · have hany : (reservedFields r).any (fun e => decide (e.1.mask &&& half ≠ 0) &&
        e.2 (e.1.get (s.leaves r v half))) = true :=
      List.any_eq_true.mpr ⟨e, he, by simp only [hv, Bool.and_true]; exact decide_eq_true hm⟩
    exact Bool.or_eq_true_iff.mpr (.inl (Bool.or_eq_true_iff.mpr (.inl hany)))
  · exact Bool.or_eq_true_iff.mpr (.inl (Bool.or_eq_true_iff.mpr (.inr h)))
  · exact Bool.or_eq_true_iff.mpr (.inr h)

theorem not_reserves_reamStatus (s : State) (m : Ream) (v half : W64) : ¬ s.reserves (.reamStatus m) v half := by
  rintro (⟨e, he, -⟩ | h | h)
  · exact absurd he List.not_mem_nil
  · cases h
  · cases h

theorem reserves_congr {s u : State} (hreg : ∀ k, (∀ m, k ≠ .reamStatus m) → u.reg k = s.reg k) {r : Reg}
    {v half : W64} (h : s.reserves r v half) : u.reserves r v half := by
  have hr : u.reg r = s.reg r := hreg r fun m e => not_reserves_reamStatus s m v half (e ▸ h)
  have hl : u.leaves r v half = s.leaves r v half := by
    rw [State.leaves, State.leaves, State.wanted, State.wanted, frozenBits_congr hreg, hr]
  unfold State.reserves
  rw [hl, hr, badCombination_congr hreg]
  exact h

/-- The registers of a ream's base die lie above the identity window, which answers before the device is ready. -/
theorem le_addr_of_regDomain_reamBase {r : Reg} {m : Ream} (h : regDomain r = .reamBase m) : 0x10000 ≤ r.addr := by
  cases r with
  | ecqBase | ecqSize | ecqTailAddr | ecqHead | ecqCtl | ecqDone | engOps | engNaks | engCmds | regionTarget
  | regionCount | regionSlot | regionState | reamStatus | reamCorrected | reamUeLast | reamSpares | reamScrub | reamRefresh
  | reamHammer =>
    simp only [Reg.addr]
    omega
  | _ => cases h

theorem clocksStopped_of_ready {s : State} (h : s.ready = true) : s.clocksStopped = false := by
  have h2 := (Bool.and_eq_true_iff.mp h).2
  simpa using h2

/-- A reserved write starts the domain it reaches, and is recorded. -/
theorem access_of_reserves {s : State} {src : Src} {off : Nat} {wide : Bool} {v : W64} {r : Reg} (line : BitVec 32)
    (hp : s.mgmt.powered = true) (ht : s.mgmt.takeover = none) (ha : off % (if wide then 8 else 4) = 0)
    (hans : s.answers off = true) (hh : s.heeds src off v) (hr : Reg.ofAddr (off / 8 * 8) = .reg r)
    (hd : s.regDown off r = false) (hm : s.modeAccepts r = true) (hf : s.featureOff r = false)
    (h : s.reserves r (placeOf off wide v) (writtenBits off wide)) :
    s.access src off wide v line = (s.wakeReg (off / 8 * 8)).regFault 0x0001 off (valueOf wide v).toNat := by
  have hw := s.woken_wakeReg hr
  rw [access_eq_writeOff line hp ha hans hh ht, writeOff_writeReg src wide v line hr hd hm hf,
    writeReg_of_reserves src line _ (reserves_congr (fun k => hw.reg_of_ne) h)]

theorem reg_reamStatus_of_answers {s : State} {off : Nat} {r : Reg} {m : Ream} (hans : s.answers off = true)
    (hr : Reg.ofAddr (off / 8 * 8) = .reg r) (hd : s.regDown off r = false) (h : regDomain r = .reamBase m) :
    (s.wakeReg (off / 8 * 8)).reg (.reamStatus m) = Fld.reamStatusSelfRefresh.set (s.reg (.reamStatus m)) 0 := by
  have hready : s.ready = true := by
    have hle := le_addr_of_regDomain_reamBase h
    have haddr := Reg.addr_of_ofAddr hr
    have hge : ¬ off < 0x10000 := by omega
    simpa [State.answers, hge] using hans
  exact State.reg_reamStatus_wakeReg hr ((regDown_div_eight s off r).trans hd) (clocksStopped_of_ready hready) h

/-! A write of a sequencer's PC while its tile runs (R118). -/

theorem writeReg_seqPc {s : State} {t : Tile} (src : Src) (v : W64) (line : BitVec 32) (record : Nat → State → State)
    (h : s.flag (.seqCtl t) Fld.seqCtlRun = true) :
    s.writeReg src (.seqPc t) v (BitVec.allOnes 64) line record = record 0x0003 s := by
  unfold State.writeReg
  dsimp only
  have hl : ∀ w, s.lockedWrite (.seqPc t) w = true := fun _ => h
  have hm : (Reg.seqPc t).maskOf .rw &&& BitVec.allOnes 64 ≠ 0 := by
    change (0 ||| Fld.seqPcPc.mask) &&& BitVec.allOnes 64 ≠ 0
    decide
  rw [if_neg (fun h => by cases h), if_pos (Bool.and_eq_true_iff.mpr ⟨decide_eq_true hm, hl _⟩)]

theorem access_seqPc {s : State} {src : Src} {t : Tile} {v : W64} (line : BitVec 32) (hp : s.mgmt.powered = true)
    (ht : s.mgmt.takeover = none) (hm : s.devMode ≠ 3) (hans : s.answers (Reg.seqPc t).addr = true)
    (hh : s.heeds src (Reg.seqPc t).addr v) (hd : s.regDown (Reg.seqPc t).addr (.seqPc t) = false)
    (hrun : s.flag (.seqCtl t) Fld.seqCtlRun = true) :
    s.access src (Reg.seqPc t).addr true v line =
      (s.wakeReg (Reg.seqPc t).addr).regFault 0x0003 (Reg.seqPc t).addr v.toNat := by
  have hmod : (Reg.seqPc t).addr % 8 = 0 := (Reg.addr_mod_eight_and_lt _).1
  have hdiv : (Reg.seqPc t).addr / 8 * 8 = (Reg.seqPc t).addr := Nat.div_mul_cancel (Nat.dvd_of_mod_eq_zero hmod)
  have hi : Inert (.seqPc t) := inert_of_holdsOnly trivial
  have hw := s.woken_wakeReg hi.named
  have hrun' := (flag_congr (fun k => hw.reg_of_ne) (k := .seqCtl t) (by simp) Fld.seqCtlRun).trans hrun
  rw [access_eq_writeOff (wide := true) line hp hmod hans hh ht, writeOff_writeReg src true v line
    (hdiv.symm ▸ hi.named) hd (by rw [hi.mode]; exact decide_eq_true hm) (hi.feature s), hdiv]
  exact writeReg_seqPc src v line _ hrun'

/-! ### The acknowledgement of the ring, and the management plane (R21, R22, R503) -/

theorem inert_faultRingAck : Inert .faultRingAck :=
  { named := Reg.ofAddr_addr _ fun g => by simp }

theorem wanted_faultRingAck (s : State) (v : W64) : s.wanted .faultRingAck v (BitVec.allOnes 64) = v := by
  have hm : Reg.faultRingAck.maskOf .rw = BitVec.allOnes 64 := by decide
  rw [State.wanted, hm]
  simp only [BitVec.and_self, BitVec.not_allOnes, BitVec.and_zero, BitVec.zero_or, BitVec.and_allOnes]

theorem access_of_islandBarred {s : State} {off : Nat} {wide : Bool} {v : W64} (line : BitVec 32)
    (hp : s.mgmt.powered = true) (ha : off % (if wide then 8 else 4) = 0) (hr : s.ready = true)
    (hb : islandBarred off v = true) : s.access .island off wide v line = s := by
  have hans : s.answers off = true := by rw [State.answers, hr, Bool.true_or]
  unfold State.access
  dsimp only
  rw [if_neg (by simp [hp]), if_neg (not_not.mpr ha), if_neg (by simp [hans]), if_pos ⟨rfl, hr, hb⟩]

end Sys2Proof.Machine

open Sys2Proof Sys2Proof.Machine

/-- Settles O36: such a register is inert beside its fields, and its domain is no ream base. -/
theorem plainRegistersHoldWhatIsWritten : Obligations.PlainRegistersHoldWhatIsWritten := by
  intro s src r off wide v line hr hoff ha hreach hh half place new hl hb hres
  have hi := inert_of_holdsOnly hr
  obtain ⟨u, hw, hu⟩ := access_of_inert line hi hoff ha hreach hh hl hb
    fun e he => (Bool.not_eq_true' _).mp (List.all_eq_true.mp hres e he)
  refine ⟨_, congrArg Host.Outcome.next hu, State.reg_setReg_same _ _ _, fun k hk => ?_, hw.mem, hw.out⟩
  exact (State.reg_setReg_other _ _ hk).trans (hw.reg k fun m _ => hi.domain m)

/-- Settles O37: each refusal ends in one entry of the ring, which the state after the domain's start appends. -/
theorem refusedAccessesAreRecorded : Obligations.RefusedAccessesAreRecorded := by
  unfold Obligations.RefusedAccessesAreRecorded
  intro ring recorded s hp
  refine ⟨fun off size write hsize => ⟨fun hans => ?_, fun hans => ?_⟩,
    fun src off v line ht hm ha hans hh => ⟨?_, ?_, ?_⟩, ?_, fun src index hreach hle => ?_, fun off wide v line ha hr hb => ?_⟩
  · exact ⟨_, exec_badSizeAccess write hp hsize, recorded_badSize size write hans, out_badSize size write hans⟩
  · exact ⟨_, exec_badSizeAccess write hp hsize, badSize_of_not_answers size write hans⟩
  · intro hr
    have hdiv : off.toNat / 8 * 8 = off.toNat := Nat.div_mul_cancel (Nat.dvd_of_mod_eq_zero ha)
    have he := (access_eq_writeOff (wide := true) line hp ha hans hh ht).trans
      (writeOff_reserved src true v line (hdiv.symm ▸ hr))
    exact ⟨_, congrArg Host.Outcome.next he, recorded_regFault s _ _ (by decide)⟩
  · intro r hr hd
    have hdiv : off.toNat / 8 * 8 = off.toNat := Nat.div_mul_cancel (Nat.dvd_of_mod_eq_zero ha)
    have he := (access_eq_writeOff (wide := true) line hp ha hans hh ht).trans
      (writeOff_regDown src true v line (hdiv.symm ▸ hr) hd)
    exact ⟨_, congrArg Host.Outcome.next he, recorded_regFault s _ _ (by decide)⟩
  · intro t hoff hd hrun
    rw [hoff] at hans hh hd
    have hw := s.woken_wakeReg (inert_of_holdsOnly (r := .seqPc t) trivial).named
    have he := access_seqPc line hp ht hm hans hh hd hrun
    rw [← hoff] at he hw
    exact ⟨_, congrArg Host.Outcome.next he,
      (recorded_regFault _ _ _ (by decide)).of_woken hw fun _ _ _ _ e => nomatch e⟩
  · intro src off wide v line r ht ha hans hh hr hd hm hf half value place want new h
    have hw := s.woken_wakeReg hr
    have hplace : place = placeOf off.toNat wide v := by cases wide <;> rfl
    have he := access_of_reserves line hp ht ha hans hh hr hd hm hf (hplace ▸ h)
    refine ⟨_, congrArg Host.Outcome.next he,
      (recorded_regFault _ _ _ (by decide)).of_woken hw fun k hk m e hdom => ?_, fun m hdom => ?_⟩
    · subst e
      rw [hdom] at hk
      exact absurd rfl (of_decide_eq_false hk)
    · exact (reg_fault_of_not_ringReg _ _ _ _ _ _ rfl).trans (reg_reamStatus_of_answers hans hr hd hdom)
  · have hh : s.heeds src Reg.faultRingAck.addr index := fun _ _ => rfl
    have hw := wanted_faultRingAck s index
    obtain ⟨u, hu, he⟩ := access_of_inert (wide := true) 0 inert_faultRingAck rfl rfl hreach hh rfl
      (by rw [show s.wanted .faultRingAck (placeOf _ true index) (writtenBits _ true) = index from hw]
          exact decide_eq_false (Nat.not_lt.mpr hle)) (fun e he => absurd he List.not_mem_nil)
    refine ⟨_, congrArg Host.Outcome.next he, (State.reg_setReg_same _ _ _).trans hw, fun r hr => ?_⟩
    exact (State.reg_setReg_other _ _ hr).trans (hu.reg r fun _ _ e => nomatch e)
  · exact congrArg Host.Outcome.next (access_of_islandBarred line hp ha hr hb)

end

section
/-! PROOFS. What accesses to memory, the answers to remote operations, and the reports of errors leave alone: the host
attach, and every register but those in which the device keeps their counts and records. One lemma for each function. -/

-- As above: short lemmas, one after another.
set_option Elab.async false

namespace Sys2Proof.Machine

/-- The registers in which the device counts and records its accesses, errors, cells, groups and events by itself. -/
def tallyReg : Reg → Bool
  | .scoreCe | .scoreRetry | .scoreRetrain | .scoreCrc | .scoreTotal
  | .faultRingTail | .faultRingHead | .faultRingLost | .faultSlot _ _
  | .scoreboard _ | .tagError _ | .vatCorrected _ | .vatUeLast _ | .fcCorrected _ | .fcUeLast _
  | .reamStatus _ | .reamCorrected _ | .reamUeLast _ | .reamSpares _ | .engOps _ | .engNaks _
  | .origStore _ | .xportNakSuppressed _ | .xportNaksSent _ | .xportDuplicates _
  | .collStatus _ | .collErrors _ | .evqTail _ | .evqStatus _ => true
  | _ => false

/-- From `s` to `s'` the host attach and all registers but the tallies are as they were, and memory too unless
`writes`. -/
structure Aside (writes : Bool) (s s' : State) : Prop where
  host : s'.host = s.host
  reg : ∀ r, tallyReg r = false → s'.reg r = s.reg r
  mem : writes = false → s'.mem = s.mem

namespace Aside
variable {w : Bool} {a b c s s' : State} {α β : Type} {p : Prop}

theorem refl (s : State) : Aside w s s := ⟨rfl, fun _ _ => rfl, fun _ => rfl⟩

theorem trans (h : Aside w a b) (k : Aside w b c) : Aside w a c :=
  ⟨k.host.trans h.host, fun r hr => (k.reg r hr).trans (h.reg r hr), fun hw => (k.mem hw).trans (h.mem hw)⟩

theorem branch [Decidable p] (h : Aside w a s) (hb : Aside w a s → Aside w a b) (hc : Aside w a s → Aside w a c) :
    Aside w a (if p then b else c) := by
  split
  · exact hb h
  · exact hc h

theorem when [Decidable p] (h : Aside w a s) (hb : Aside w a s → Aside w a b) : Aside w a (if p then b else s) :=
  h.branch hb id

theorem whenNot [Decidable p] (h : Aside w a s) (hb : Aside w a s → Aside w a b) : Aside w a (if p then s else b) :=
  h.branch id hb

theorem branchFst [Decidable p] {x y : State × α} (h : Aside w a s) (hx : Aside w a s → Aside w a x.1)
    (hy : Aside w a s → Aside w a y.1) : Aside w a (if p then x else y).1 := by
  split
  · exact hx h
  · exact hy h

theorem whenFst [Decidable p] {x : State × α} {y : α} (h : Aside w a s) (hx : Aside w a s → Aside w a x.1) :
    Aside w a (if p then x else (s, y)).1 := h.branchFst hx id

theorem whenNotFst [Decidable p] {x : State × α} {y : α} (h : Aside w a s) (hx : Aside w a s → Aside w a x.1) :
    Aside w a (if p then (s, y) else x).1 := h.branchFst id hx

theorem ofFst {x : State × α} {y : α} (h : Aside w a x.1) (e : x = (s, y)) : Aside w a s := by
  rw [e] at h
  exact h

theorem foldl {f : State → α → State} {l : List α} (h : Aside w a s)
    (hf : ∀ s x, Aside w a s → Aside w a (f s x)) : Aside w a (l.foldl f s) := by
  induction l generalizing s with
  | nil => exact h
  | cons x l ih => exact ih (hf s x h)

theorem foldlFst {f : State × β → α → State × β} {l : List α} {z : β} (h : Aside w a s)
    (hf : ∀ x y, Aside w a x.1 → Aside w a (f x y).1) : Aside w a (l.foldl f (s, z)).1 := by
  suffices ∀ x, Aside w a x.1 → Aside w a (l.foldl f x).1 from this _ h
  induction l with
  | nil => exact fun _ h => h
  | cons y l ih => exact fun x h => ih _ (hf x y h)

theorem pipe (h : Aside w a s) (k : Aside w a s → Aside w a b) : Aside w a b := k h

theorem fst {x : α} (h : Aside w a s) : Aside w a (s, x).1 := h

theorem frame (h : Aside w a s) (regs : s'.regs = s.regs := by rfl) (mem : s'.mem = s.mem := by rfl)
    (host : s'.host = s.host := by rfl) : Aside w a s' :=
  h.trans ⟨host, fun r _ => by rw [State.reg, regs]; rfl, fun _ => mem⟩

end Aside

variable {w : Bool} {a s s' : State}

/-! ### Machine/Ops.lean and Machine/Flags.lean -/

theorem Aside.setReg {r v} (h : Aside w a s) (hr : tallyReg r = true := by rfl) : Aside w a (s.setReg r v) :=
  h.trans ⟨rfl, fun k hk => State.reg_setReg_other s v (by rintro rfl; simp [hr] at hk), fun _ => rfl⟩

theorem Aside.setFld {r f v} (h : Aside w a s) (hr : tallyReg r = true := by rfl) : Aside w a (s.setFld r f v) :=
  h.setReg hr

theorem Aside.setFlag {r f b} (h : Aside w a s) (hr : tallyReg r = true := by rfl) : Aside w a (s.setFlag r f b) :=
  h.setFld hr

theorem Aside.score {r n} (h : Aside w a s) (hr : tallyReg r = true := by rfl) : Aside w a (s.score r n) :=
  ((h.setFld hr).setFld hr).setFld

theorem tallyReg_of_scoreOf {r f k} (h : scoreOf r f = some k) : tallyReg k = true := by
  unfold scoreOf at h
  split at h <;> (try split at h) <;> cases h <;> rfl

theorem Aside.bump {r f n} (h : Aside w a s) (hr : tallyReg r = true := by rfl) : Aside w a (s.bump r f n) := by
  unfold State.bump
  dsimp only
  split
  next k e => exact (h.setFld hr).score (tallyReg_of_scoreOf e)
  next => exact h.setFld hr

theorem Aside.withMem {m} (h : Aside true a s) : Aside true a { s with mem := m } :=
  h.trans ⟨rfl, fun _ _ => rfl, nofun⟩

theorem Aside.setTile {t v} (h : Aside w a s) : Aside w a (s.setTile t v) :=
  h.frame

theorem Aside.emit {o} (h : Aside w a s) : Aside w a (s.emit o) :=
  h.frame

theorem Aside.chargeFolio {f e} (h : Aside w a s) : Aside w a (s.chargeFolio f e) :=
  h.whenNot (·.frame)

theorem Aside.fault {code die inst d0 d1} (h : Aside w a s) : Aside w a (s.fault code die inst d0 d1) :=
  h.when (·.bump) |>.setReg |>.setReg |>.setReg |>.setReg |>.setReg |>.setReg

theorem Aside.clearTag {t i} (h : Aside w a s) : Aside w a (s.clearTag t i) :=
  h.setReg

theorem Aside.clearTagError {t i} (h : Aside w a s) : Aside w a (s.clearTagError t i) :=
  h.clearTag.setReg

/-! ### Machine/Switch.lean and Machine/Transport.lean -/

theorem Aside.updNet {f} (h : Aside w a s) : Aside w a (s.updNet f) :=
  h.frame

theorem Aside.updXbar {n f} (h : Aside w a s) : Aside w a (s.updXbar n f) :=
  h.frame

theorem Aside.originate {n targets group} (h : Aside w a s) : Aside w a (s.originate n targets group) :=
  Aside.setFld (r := .origStore n) h.updNet

theorem Aside.noteSent {d c} (h : Aside w a s) : Aside w a (s.noteSent d c) := by
  unfold State.noteSent
  split
  exacts [h, h.updNet]

theorem Aside.depart {d c} (h : Aside w a s) : Aside w a (s.depart d c).1 := by
  dsimp only [State.depart]
  exact h.noteSent.whenNotFst fun h => by
    split
    exacts [h.fst, h.updNet.pipe (fun h => by split; exacts [h.setTile.fst, h.fst])]

theorem Aside.departAll {d ps} (h : Aside w a s) : Aside w a (s.departAll d ps).1 := by
  induction ps generalizing s with
  | nil => exact h
  | cons p ps ih => exact ih h.depart

theorem Aside.fillStore {n} (h : Aside w a s) : Aside w a (s.fillStore n) := by
  unfold State.fillStore
  exact h.foldl (fun _ _ h => h.pipe (fun h => by split; exacts [h.updXbar.departAll.originate, h]))

theorem Aside.wake {d} (h : Aside w a s) : Aside w a (s.wake d) := by
  obtain ⟨k, e, he⟩ := s.started_eq d
  unfold State.wake
  rw [he]
  dsimp only
  split
  next m => exact Aside.setFlag (r := .reamStatus m) h.frame
  next => exact h.frame

theorem Aside.noteNaked {d c} (h : Aside w a s) : Aside w a (s.noteNaked d c) := by
  unfold State.noteNaked
  exact h.updNet

theorem Aside.suppressed {d} (h : Aside w a s) : Aside w a (s.suppressed d) :=
  h.bump

theorem Aside.refusal {d key code c} (h : Aside w a s) : Aside w a (s.refusal d key code c).1 :=
  h.branchFst (·.suppressed.fst) fun h =>
    h.branchFst (fun h => h.branchFst (·.bump.fst) (·.suppressed.fst)) fun h =>
      h.branchFst (·.noteNaked.suppressed.fst) fun h =>
        h.branchFst (·.suppressed.fst) (·.noteNaked.updNet.bump.fst)

theorem Aside.checkCopy {n acc c} (h : Aside w a s) : Aside w a (s.checkCopy n acc c).1 := by
  unfold State.checkCopy
  split
  exacts [h.refusal.foldl (fun _ _ h => h.originate) |>.fst, h.pipe (fun h => by split <;> exact h.fst)]

theorem Aside.leaveDeckle {n copies} (h : Aside w a s) : Aside w a (s.leaveDeckle n copies) := by
  dsimp only [State.leaveDeckle]
  exact h.foldlFst (fun _ _ h => h.checkCopy) |>.pipe fun h => by
    split
    exacts [h, h.branch (·.originate) (fun h => h.foldl (fun _ _ h => h.updXbar) |>.fillStore)]

theorem Aside.sendCell {d src c} (h : Aside w a s) : Aside w a (s.sendCell d src c) :=
  h.branch (·.updNet) (·.leaveDeckle)

theorem Aside.sendCells {d src cs} (h : Aside w a s) : Aside w a (s.sendCells d src cs) :=
  h.foldl (fun _ _ h => h.sendCell)

theorem Aside.openTxn {d user job dstChip dstDie cls type bs cells} (h : Aside w a s)
    (e : s.openTxn d user job dstChip dstDie cls type bs = some (s', cells)) : Aside w a s' := by
  dsimp only [State.openTxn] at e
  split at e
  · cases e
  · obtain ⟨rfl, -⟩ := Prod.mk.inj (Option.some.inj e)
    exact h.updNet

theorem Aside.request {d src user job dstChip dstDie cls type bs} (h : Aside w a s)
    (e : s.request d src user job dstChip dstDie cls type bs = some s') : Aside w a s' := by
  obtain ⟨p, hp, rfl⟩ := Option.map_eq_some_iff.mp e
  exact (h.openTxn hp).sendCells

theorem Aside.answer {d src req x} (h : Aside w a s) : Aside w a (s.answer d src req x) := by
  unfold State.answer
  split
  exacts [h.sendCells, h.refusal.sendCells, h]

theorem Aside.completeRequest {d src req depart came keep x} (h : Aside w a s) :
    Aside w a (s.completeRequest d src req depart came keep x) :=
  Aside.answer h.updNet

theorem Aside.answerDuplicate {d req r} (h : Aside w a s) : Aside w a (s.answerDuplicate d req r) :=
  h.bump.answer

/-! ### Machine/Group.lean and Machine/StopStep.lean -/

theorem Aside.setGroup {g v} (h : Aside w a s) : Aside w a (s.setGroup g v) :=
  h.frame

theorem Aside.tell {g type chips data} (h : Aside w a s) : Aside w a (s.tell g type chips data) := by
  unfold State.tell State.flushMail
  refine Aside.foldl (Aside.setGroup h.setGroup) fun s m h => ?_
  split
  next e =>
    dsimp only [State.collSend] at e
    split at e
    · obtain rfl := Option.some.inj e
      exact (h.request ‹_›).setGroup
    · cases e
  next => exact h.setGroup

theorem Aside.endEntries {g p status} (h : Aside w a s) : Aside w a (s.endEntries g p status) :=
  h.foldl fun _ _ h => Aside.setFld (r := .collStatus g) (Aside.setGroup (h.when (·.bump)))

theorem Aside.leaveStep {g} (h : Aside w a s) : Aside w a (s.leaveStep g) :=
  Aside.setGroup (Aside.foldl h.setGroup fun _ _ h => h.completeRequest)

theorem Aside.clearBarriers {g mark state} (h : Aside w a s) : Aside w a (s.clearBarriers g mark state) :=
  h.foldl (fun _ _ h => h.branch (·.clearTagError) (·.clearTag) |>.when (·.setTile))

theorem Aside.faultGroup {g status spread} (h : Aside w a s) : Aside w a (s.faultGroup g status spread) :=
  h.when fun h =>
    (Aside.setFld (r := .collStatus g) (Aside.setFld (r := .collStatus g) h.endEntries.leaveStep)).clearBarriers.when
      (·.tell)

theorem Aside.stopStep (h : Aside w a s) : Aside w a s.stopStep :=
  h.foldl (fun _ _ h => h.when (·.faultGroup))

/-! ### Machine/Ream.lean and Machine/Vat.lean -/

theorem Aside.touchReam {f off n} (h : Aside w a s) : Aside w a (s.touchReam f off n) :=
  h.foldl (fun _ _ h => Aside.frame (h.when (·.wake)))

theorem Aside.reamError {f line} (h : Aside w a s) : Aside w a (s.reamError f line) :=
  Aside.stopStep (Aside.fault (Aside.setReg (h.whenNot (·.frame))))

theorem Aside.correctLine {f line} (h : Aside w a s) : Aside w a (s.correctLine f line) :=
  Aside.bump (r := .reamCorrected _) h.frame

theorem Aside.spareRow {l} (h : Aside w a s) : Aside w a (s.spareRow l) :=
  h.whenNot fun h =>
    h.foldl (fun _ _ h => h.branch (·.correctLine) (·.reamError)) |>.frame |>.bump |>.when (·.setFlag) |>.fault

theorem Aside.reamCorrect {f line} (h : Aside w a s) : Aside w a (s.reamCorrect f line) :=
  h.correctLine.frame.when (·.spareRow)

theorem Aside.meetMarks {f hits} (h : Aside w a s) : Aside w a (s.meetMarks f hits).1 :=
  h.foldl (fun _ _ h => h.branch (·.reamCorrect) (·.reamError)) |>.fst

theorem Aside.reamScan {f off n} (h : Aside w a s) : Aside w a (s.reamScan f off n).1 :=
  h.touchReam.meetMarks

theorem Aside.reamWrite {f off bs atOnce} (h : Aside true a s) : Aside true a (s.reamWrite f off bs atOnce).1 := by
  unfold State.reamWrite
  refine h.touchReam.branchFst (·.withMem.fst) fun h => h.meetMarks.branchFst (·.fst) fun h => ?_
  exact h.frame.withMem

theorem Aside.vatReadMarks {t hits} (h : Aside w a s) : Aside w a (s.vatReadMarks t hits).1 :=
  h.whenNot (fun h => Aside.bump h.frame) |>.foldl (fun _ _ h => h.setReg.fault.stopStep)

theorem Aside.vatScan {t off n} (h : Aside w a s) : Aside w a (s.vatScan t off n).1 :=
  h.vatReadMarks

theorem Aside.vatPut {t off bs} (h : Aside true a s) : Aside true a (s.vatPut t off bs) := by
  induction bs generalizing s off with
  | nil => exact h
  | cons b bs ih => exact ih h.withMem

theorem Aside.vatWrite {t off bs} (h : Aside true a s) : Aside true a (s.vatWrite t off bs).1 := by
  dsimp only [State.vatWrite]
  split
  · exact h.vatReadMarks.ofFst ‹_›
  · exact h.vatReadMarks.ofFst ‹_› |>.whenNot (·.frame) |>.vatPut

/-! ### Machine/Cache.lean -/

theorem Aside.setCache {f c} (h : Aside w a s) : Aside w a (s.setCache f c) :=
  h.frame

theorem Aside.resolveHost {f off n} (h : Aside w a s) : Aside w a (s.resolveHost f off n) :=
  h.whenNot (fun h => h.foldl (fun _ _ h => h.emit))

theorem Aside.readLine {f e p} (h : Aside w a s) : Aside w a (s.readLine f e p).1 :=
  h.whenNot (·.setCache.bump) |>.whenFst (·.setCache.setReg.fault.stopStep.fst)

theorem Aside.updateLine {f off n line} (h : Aside w a s) : Aside w a (s.updateLine f off n line) := by
  unfold State.updateLine
  split
  exacts [h, h.readLine.whenNot (·.setCache)]

/-! ### Machine/Engine.lean -/

theorem Aside.baseRead {f off n} (h : Aside w a s) : Aside w a (s.baseRead f off n).1 := by
  unfold State.baseRead
  split <;> exact h.chargeFolio.reamScan.ofFst ‹_›

theorem Aside.baseWrite {f off bs} (h : Aside true a s) : Aside true a (s.baseWrite f off bs).1 := by
  unfold State.baseWrite
  generalize pieces off (bs.length / 256 + 2) bs = ps
  induction ps generalizing s with
  | nil => exact h
  | cons p ps ih =>
    have hi : Aside true a ((s.chargeFolio f (3920 * p.2.length)).invalidate f p.1 p.2.length) :=
      h.chargeFolio.whenNot (·.setCache)
    unfold State.writePieces
    split
    · exact hi.reamWrite.ofFst ‹_›
    · exact ih (hi.reamWrite.ofFst ‹_›)

theorem Aside.accElements {f o i st bss} (h : Aside true a s) : Aside true a (s.accElements f o i st bss).1 := by
  induction bss generalizing s i st with
  | nil => exact h
  | cons bs bss ih =>
    unfold State.accElements
    dsimp only
    split
    · exact h.baseRead.ofFst ‹_›
    · next e =>
      have h := h.baseRead.ofFst e
      split
      · exact h.baseWrite.ofFst ‹_›
      · exact ih (h.baseWrite.ofFst ‹_›)

theorem Aside.scanParts {ps} (h : Aside w a s) : Aside w a (s.scanParts ps).1 := by
  induction ps generalizing s with
  | nil => exact h
  | cons p ps ih =>
    unfold State.scanParts
    split
    · exact h.vatScan.ofFst ‹_›
    · exact ih (h.vatScan.ofFst ‹_›)

theorem Aside.writeParts {ps bs} (h : Aside true a s) : Aside true a (s.writeParts ps bs).1 := by
  induction ps generalizing s bs with
  | nil => exact h
  | cons p ps ih =>
    unfold State.writeParts
    split
    · exact h.vatWrite.ofFst ‹_›
    · exact ih (h.vatWrite.ofFst ‹_›)

theorem Aside.performOp {f o} (h : Aside true a s) : Aside true a (s.performOp f o).1 := by
  dsimp only [State.performOp]
  split
  · split
    · split <;> exact h.scanParts.ofFst ‹_›
    · split <;> exact h.writeParts.ofFst ‹_›
  · split
    · split <;> exact h.baseRead.ofFst ‹_›
    · split
      · split <;> exact h.baseWrite.ofFst ‹_›
      · split
        · split
          · exact h.baseRead.ofFst ‹_›
          · split <;> exact (h.baseRead.ofFst ‹_›).baseWrite.ofFst ‹_›
        · split
          · split
            · exact h.baseRead.ofFst ‹_›
            · split <;> exact (h.baseRead.ofFst ‹_›).baseWrite.ofFst ‹_›
          · exact h.accElements

theorem Aside.carryOut {f o} (h : Aside true a s) : Aside true a (s.carryOut f o) :=
  h.whenNotFst (fun h => h.whenNotFst (fun h => h.whenNot (·.resolveHost) |>.performOp))
    |>.whenNot (fun h => h.branch (·.bump) (·.bump)) |>.completeRequest

theorem Aside.performReady {f o} (h : Aside true a s) : Aside true a (s.performReady f o) := by
  dsimp only [State.performReady]
  refine h.whenNot fun h => ?_
  have hu := fun g => h.updNet (f := g)
  split
  · exact (hu _).branch (·.carryOut) (·.answerDuplicate)
  · exact (hu _).carryOut

theorem Aside.settleOps {f off n} (h : Aside true a s) : Aside true a (s.settleOps f off n) :=
  h.foldl (fun _ _ h => h.performReady)

theorem Aside.engRead {f off n} (h : Aside true a s) : Aside true a (s.engRead f off n).1 :=
  h.settleOps.resolveHost.baseRead

/-! ### Machine/Plain.lean and Machine/Events.lean -/

theorem Aside.folioWrite {f off bs} (h : Aside true a s) : Aside true a (s.folioWrite f none off bs) :=
  h.settleOps.branch (·.fault) fun h =>
    Aside.when (Aside.reamWrite (Aside.foldl h.resolveHost.chargeFolio fun _ _ h => h.updateLine)) (·.setCache)

theorem Aside.loseEvent {f} (h : Aside w a s) : Aside w a (s.loseEvent f) :=
  Aside.setFlag (r := .evqStatus f) h.bump

theorem Aside.postEvent {f kind source record} (h : Aside true a s) :
    Aside true a (s.postEvent f kind source record) :=
  h.branch (·.updNet) fun h =>
    h.branch
      (fun h => Aside.emit (Aside.updNet (Aside.setFld (r := .evqTail f) (h.folioWrite.when (·.folioWrite)))))
      (·.loseEvent)

end Sys2Proof.Machine

end

section
/-! PROOFS. Domains that are gated, and vats that are scrubbed (R39, R190, R227). -/

namespace Sys2Proof.Machine

variable {s : State}

/-- A domain rests: hardware started it, and a window of 50 microseconds went by without activity (R39). -/
theorem doDomainGate_of_rested {d : Domain}
    (h : ∃ c ∈ s.clocks, c.domain = d ∧ c.hw = true ∧ c.active + 50000 ≤ s.now) :
    doDomainGate d s = match d with
      | .reamBase m => ({ s with clocks := s.clocks.filter (fun c => c.domain ≠ d) } : State).setFlag
          (.reamStatus m) Fld.reamStatusSelfRefresh true
      | _ => { s with clocks := s.clocks.filter (fun c => c.domain ≠ d) } := by
  obtain ⟨c, hc, hd, hw, hn⟩ := h
  have hany : s.clocks.any (fun c => c.domain = d && c.hw && decide (c.active + 50000 ≤ s.now)) = true :=
    List.any_eq_true.mpr ⟨c, hc, by simp [hd, hw, hn]⟩
  rw [doDomainGate, if_pos hany]
  cases d <;> rfl

theorem doVatScrub_of_running {t : Tile} (hr : (s.tile t).inReset = false) (hc : s.clocksStopped = false) :
    doVatScrub t s = (s.vatScan t (32 * (s.tile t).scrub) 32).1.updTile t
      (fun y => { y with scrub := ((s.tile t).scrub + 1) % 131072 }) := by
  rw [doVatScrub]
  dsimp only
  rw [if_neg (by simp [hr, hc])]

end Sys2Proof.Machine

open Sys2Proof Sys2Proof.Machine

/-- Settles O38: a gated stack is flagged, and what a scrub finds in error is reported beside memory. -/
theorem domainsAreGatedAndVatsScrubbed : Obligations.DomainsAreGatedAndVatsScrubbed := by
  unfold Obligations.DomainsAreGatedAndVatsScrubbed
  refine ⟨fun s d h => ⟨_, congrArg Host.Outcome.next (doDomainGate_of_rested h), ?_⟩,
    fun s t hr hc => ⟨_, congrArg Host.Outcome.next (doVatScrub_of_running hr hc), ?_, ?_⟩⟩
  · cases d with
    | reamBase m =>
      refine ⟨rfl, fun k hk => ?_, rfl⟩
      obtain rfl := Domain.reamBase.inj hk
      exact State.flag_setFlag_same _ _ _ _ (by decide) (by decide)
    | _ => exact ⟨rfl, nofun, rfl⟩
  · rw [State.tile_updTile_same]
  · exact (Aside.refl (w := false) s).vatScan.mem rfl

end

section
/-! PROOFS. What an access to a folio's ream does in the clean case: no error mark, no remote operation waiting. -/

namespace Sys2Proof.Machine

/-- From `s` to `u` rows were opened for a read: only the status of ream bases may differ among the registers, and neither
the host attach nor memory do. -/
structure Opened (s u : State) : Prop where
  reg : ∀ k, (∀ m, k ≠ .reamStatus m) → u.reg k = s.reg k
  host : u.host = s.host
  mem : u.mem = s.mem

namespace Opened
variable {s u v : State}

theorem refl (s : State) : Opened s s := ⟨fun _ _ => rfl, rfl, rfl⟩

theorem trans (h : Opened s u) (k : Opened u v) : Opened s v :=
  ⟨fun r hr => (k.reg r hr).trans (h.reg r hr), k.host.trans h.host, k.mem.trans h.mem⟩

theorem fld (h : Opened s u) {k : Reg} (hk : ∀ m, k ≠ .reamStatus m) (f : Field) : u.fld k f = s.fld k f :=
  fld_congr h.reg hk f

end Opened

theorem State.opened_wake (s : State) (d : Domain) : Opened s (s.wake d) := by
  obtain ⟨c, e, he⟩ := s.started_eq d
  unfold State.wake
  rw [he]
  dsimp only
  split
  next m => exact ⟨fun k hk => State.reg_setFlag_other _ _ _ (hk m), rfl, rfl⟩
  next => exact ⟨fun _ _ => rfl, rfl, rfl⟩

theorem State.opened_touchReam (s : State) (f : Folio) (off n : Nat) : Opened s (s.touchReam f off n) := by
  unfold State.touchReam
  induction blocksOf off n generalizing s with
  | nil => exact Opened.refl s
  | cons x xs ih =>
    refine Opened.trans ?_ (ih _)
    dsimp only
    split
    · exact (s.opened_wake _).trans ⟨fun _ _ => rfl, rfl, rfl⟩
    · exact ⟨fun _ _ => rfl, rfl, rfl⟩

theorem State.resolveHost_eq (s : State) (f : Folio) (off n : Nat) :
    ∃ o, s.resolveHost f off n = { s with out := o } := by
  unfold State.resolveHost
  dsimp only
  split
  · exact ⟨s.out, rfl⟩
  · generalize s.hostPages.filter _ = l
    induction l generalizing s with
    | nil => exact ⟨s.out, rfl⟩
    | cons k l ih =>
      obtain ⟨o, ho⟩ := ih (s.emit (.resolve k))
      exact ⟨o, ho⟩

theorem State.chargeFolio_eq (s : State) (f : Folio) (e : Nat) : ∃ x, s.chargeFolio f e = { s with energy := x } := by
  unfold State.chargeFolio
  split
  · exact ⟨s.energy, rfl⟩
  · exact ⟨_, rfl⟩

theorem State.baseRead_clean {s : State} (hm : s.marks = []) (f : Folio) (off n : Nat) :
    ∃ u, Opened s u ∧ s.baseRead f off n = (u, some (s.readMem (reamAddr f off) n)) := by
  obtain ⟨e, he⟩ := s.chargeFolio_eq f (3920 * n)
  have hscan := State.reamScan_clean (s := { s with energy := e }) hm f off n
  have ht := State.opened_touchReam { s with energy := e } f off n
  refine ⟨_, Opened.trans (u := { s with energy := e }) ⟨fun _ _ => rfl, rfl, rfl⟩ ht, ?_⟩
  unfold State.baseRead
  rw [he, hscan]
  dsimp only
  rw [State.readMem, ht.mem, State.readMem]

/-- A unit's read through the engines returns what the memory holds. -/
theorem State.engRead_clean {s : State} {f : Folio} (hm : s.marks = []) (ho : s.noOps f) (off n : Nat) :
    ∃ u, Opened s u ∧ s.engRead f off n = (u, some (s.readMem (reamAddr f off) n)) := by
  obtain ⟨o, he⟩ := s.resolveHost_eq f off n
  obtain ⟨u, hu, hr⟩ := State.baseRead_clean (s := { s with out := o }) hm f off n
  refine ⟨u, Opened.trans (u := { s with out := o }) ⟨fun _ _ => rfl, rfl, rfl⟩ hu, ?_⟩
  rw [State.engRead, State.settleOps_idle ho, he, hr]
  rfl

theorem Quiet.readLine {a s : State} {f e p} (h : Quiet a s) : Quiet a (s.readLine f e p).1 :=
  h.whenNot (·.setCache.bump) |>.whenFst (·.setCache.setReg.fault.stopStep.fst)

theorem Quiet.updateLine {a s : State} {f off n line} (h : Quiet a s) : Quiet a (s.updateLine f off n line) := by
  unfold State.updateLine
  split
  exacts [h, h.readLine.whenNot (·.setCache)]

/-- A unit's write puts its bytes, where no region forbids it. -/
theorem State.folioWrite_clean {s : State} {f : Folio} {off : Nat} {bs : List Byte} (hm : s.marks = [])
    (ho : s.noOps f) (hr : s.regionBlocks f off bs.length = false) :
    (s.folioWrite f none off bs).mem = s.mem.writeBytes (reamAddr f off) bs := by
  obtain ⟨o, he⟩ := s.resolveHost_eq f off bs.length
  obtain ⟨e, hc⟩ := State.chargeFolio_eq { s with out := o } f (3920 * bs.length)
  have hq := (Quiet.refl s).frame (s' := { s with out := o, energy := e }) |>.foldl (l := linesOf off bs.length)
    (f := fun s l => s.updateLine f off bs.length l) fun _ _ h => h.updateLine
  obtain ⟨hmarks, hmem, -⟩ := hq.clean hm
  unfold State.folioWrite
  dsimp only
  rw [State.settleOps_idle ho, if_neg (by simp [hr]), he, State.chargeUse, hc, State.reamWrite_clean hmarks]
  dsimp only
  rw [if_neg (by decide), State.writeMem, (State.touchReam_mem _ f off bs.length).1, hmem]

end Sys2Proof.Machine

end

section
/-! PROOFS. Host queues: enabling one, its tail, and the fetch of its entries (R451-R455). -/

namespace Sys2Proof.Machine

variable {s u : State} {q k : HQueue}

/-! ### What a queue's condition depends on -/

theorem hqRuns_congr (hr : u.reg (.hqCtl q) = s.reg (.hqCtl q)) (hh : u.host = s.host) : u.hqRuns q = s.hqRuns q := by
  rw [State.hqRuns, State.flag, State.fld, hr, hh]
  rfl

theorem hqLocal_congr (hr : u.reg (.hqCtl q) = s.reg (.hqCtl q)) : u.hqLocal q = s.hqLocal q := by
  rw [State.hqLocal, State.flag, State.fld, hr]
  rfl

theorem hqHead_congr (hr : u.reg (.hqHead q) = s.reg (.hqHead q)) : u.hqHead q = s.hqHead q := by
  simp only [State.hqHead, State.fld, hr]

theorem hqSize_congr (hr : u.reg (.hqSqSize q) = s.reg (.hqSqSize q)) : u.hqSize q = s.hqSize q := by
  simp only [State.hqSize, State.fld, hr]

theorem counted_congr {r : Reg} (hr : u.reg r = s.reg r) (f : Field) (n : Nat) : u.counted r f n = s.counted r f n := by
  simp only [State.counted, State.fld, hr]

/-! ### The tail that a queue saw last -/

/-- The tail of a queue is noted. -/
def State.setTail (s : State) (q : HQueue) (tail : Nat) : State :=
  s.updHost (fun h => { h with tails := Store.put (fun k => k.val) (fun _ => 0) h.tails q tail })

@[simp] theorem State.hqTail_setTail_same (s : State) (q : HQueue) (n : Nat) : (s.setTail q n).hqTail q = n :=
  Store.get_put_same _ _ _ _ _

theorem State.hqTail_setTail_other (s : State) (n : Nat) (h : q ≠ k) : (s.setTail k n).hqTail q = s.hqTail q :=
  Store.get_put_other _ _ _ _ _ h

/-- How many entries lie between the head and a tail (R453). -/
def State.hqAhead (s : State) (q : HQueue) (tail : Nat) : Nat := (tail + 2 ^ 32 - s.hqHead q) % 2 ^ 32

/-- A tail that was read is noted, and one beyond the ring stops the queue. -/
def State.takeTail (s : State) (q : HQueue) (tail : Nat) : State :=
  if s.hqSize q < s.hqAhead q tail then (s.setTail q tail).hqStop q 1 else s.setTail q tail

theorem takeTail_of_fits {n : Nat} (h : s.hqAhead q n ≤ s.hqSize q) : s.takeTail q n = s.setTail q n :=
  if_neg (Nat.not_lt.mpr h)

theorem takeTail_of_beyond {n : Nat} (h : s.hqSize q < s.hqAhead q n) : s.takeTail q n = (s.setTail q n).hqStop q 1 :=
  if_pos h

theorem seeTail_of_waits (line : BitVec 32) (h : s.tailWaits q = true) : s.seeTail q line = s := by
  rw [State.seeTail, if_pos h]

theorem tailWaits_of_not_local (h : s.hqLocal q = false) : s.tailWaits q = false := by
  rw [State.tailWaits, h, Bool.false_and]

theorem tailWaits_eq {f : Folio} {off : Nat} (h : s.hqLocal q = true)
    (hp : s.hqPlace (64 * s.fld (.hqTailAddr q) Fld.hqTailAddrAddr) 8 = some (f, off)) :
    s.tailWaits q = s.biasWaits f off 8 := by
  rw [State.tailWaits, h, hp, Bool.true_and]

theorem ringWaits_of_not_local (addr n : Nat) (h : s.hqLocal q = false) : s.ringWaits q addr n = false := by
  rw [State.ringWaits, h, Bool.false_and]

theorem ringWaits_eq {f : Folio} {addr n off : Nat} (h : s.hqLocal q = true) (hp : s.hqPlace addr n = some (f, off)) :
    s.ringWaits q addr n = s.biasWaits f off n := by
  rw [State.ringWaits, h, hp, Bool.true_and]

/-- The tail of a LOC 0 queue is what its line in the host's memory holds. -/
theorem seeTail_of_not_local (line : BitVec 32) (h : s.hqLocal q = false) : s.seeTail q line = s.takeTail q line.toNat := by
  rw [State.seeTail, if_neg (by simp [tailWaits_of_not_local h]), State.readTail, if_neg (by simp [h])]
  rfl

/-- The tail of a LOC 1 queue is the word that the ream holds. -/
theorem seeTail_of_local {f : Folio} {off : Nat} (line : BitVec 32) (h : s.hqLocal q = true) (hw : s.tailWaits q = false)
    (hm : s.marks = []) (ho : s.noOps f)
    (hp : s.hqPlace (64 * s.fld (.hqTailAddr q) Fld.hqTailAddrAddr) 8 = some (f, off)) :
    ∃ u, Opened s u ∧ s.seeTail q line = u.takeTail q (s.readLe (reamAddr f off) 8 % 2 ^ 32) := by
  obtain ⟨u, hu, hr⟩ := State.engRead_clean hm ho off 8
  have ht : s.readTail q line = (u, some (s.readLe (reamAddr f off) 8 % 2 ^ 32)) := by
    rw [State.readTail, if_pos h, hp]
    dsimp only
    rw [hr, State.readLe]
  refine ⟨u, hu, ?_⟩
  rw [State.seeTail, if_neg (by simp [hw]), ht]
  generalize s.readLe (reamAddr f off) 8 % 2 ^ 32 = n
  rfl

theorem Opened.hqAhead_eq (h : Opened s u) (n : Nat) : u.hqAhead q n = s.hqAhead q n := by
  rw [State.hqAhead, State.hqAhead, hqHead_congr (h.reg _ (by simp))]

theorem Opened.hqSize_eq (h : Opened s u) : u.hqSize q = s.hqSize q := hqSize_congr (h.reg _ (by simp))

/-- What the counters of a queue hold when they counted, up to their greatest value. -/
theorem fld_bump_hqStatus (s : State) (q : HQueue) {f : Field} (hf : f.lo + f.width ≤ 64) :
    (s.bump (.hqStatus q) f 1).fld (.hqStatus q) f = s.counted (.hqStatus q) f 1 := by
  have hlt : s.counted (.hqStatus q) f 1 < 2 ^ f.width :=
    lt_of_le_of_lt (Nat.min_le_right _ _) (Nat.sub_lt (Nat.two_pow_pos _) Nat.one_pos)
  exact (State.fld_setFld_same _ _ _ _ hf).trans (Nat.mod_eq_of_lt hlt)

theorem reg_bump_hqStatus {r : Reg} (f : Field) (h : r ≠ .hqStatus q) : (s.bump (.hqStatus q) f 1).reg r = s.reg r :=
  State.reg_setFld_other _ _ _ h

/-! ### A queue that an error stops (R454) -/

/-- The queue is marked as stopped by an error. -/
def State.markStopped (s : State) (q : HQueue) (code : Nat) : State :=
  ((s.setFlag (.hqCtl q) Fld.hqCtlError true).setFld (.hqCtl q) Fld.hqCtlErrorCode code).updHost
    (fun h => { h with stopped := q :: h.stopped })

/-- Beside the mark an error makes a record and may make an event. -/
theorem aside_hqStop (s : State) (q : HQueue) (code : Nat) : Aside true (s.markStopped q code) (s.hqStop q code) :=
  (Aside.refl (s.markStopped q code)).fault.when (·.postEvent)

theorem hqRuns_hqStop (s : State) (q : HQueue) (code : Nat) : (s.hqStop q code).hqRuns q = false := by
  rw [State.hqRuns, (aside_hqStop s q code).host]
  simp [State.markStopped, State.updHost]

theorem flag_error_hqStop (s : State) (q : HQueue) (code : Nat) :
    (s.hqStop q code).flag (.hqCtl q) Fld.hqCtlError = true := by
  have h : (s.hqStop q code).flag (.hqCtl q) Fld.hqCtlError
      = ((s.setFlag (.hqCtl q) Fld.hqCtlError true).setFld (.hqCtl q) Fld.hqCtlErrorCode code).flag (.hqCtl q)
        Fld.hqCtlError := by
    rw [State.flag, State.fld, (aside_hqStop s q code).reg _ rfl]
    rfl
  rw [h, State.flag, State.fld_setFld_field _ _ _ _ _ (by decide) (by decide) (by decide)]
  exact State.flag_setFlag_same _ _ _ _ (by decide) (by decide)

theorem fld_errorCode_hqStop (s : State) (q : HQueue) {code : Nat} (h : code < 2 ^ 8) :
    (s.hqStop q code).fld (.hqCtl q) Fld.hqCtlErrorCode = code := by
  rw [State.fld, (aside_hqStop s q code).reg _ rfl]
  exact (State.fld_setFld_same (s.setFlag (.hqCtl q) Fld.hqCtlError true) _ _ _ (by decide)).trans (Nat.mod_eq_of_lt h)

/-! ### What the work on one queue leaves another -/

/-- From `s` to `u` the queue `q` and the time of the last poll are as they were. -/
structure SameQueue (q : HQueue) (s u : State) : Prop where
  reg : ∀ r, r = .hqCtl q ∨ r = .hqHead q ∨ r = .hqSqSize q ∨ r = .hqStatus q → u.reg r = s.reg r
  tail : u.hqTail q = s.hqTail q
  stopped : u.host.stopped.contains q = s.host.stopped.contains q
  lastPoll : u.host.lastPoll = s.host.lastPoll

namespace SameQueue
variable {v : State}

theorem refl (q : HQueue) (s : State) : SameQueue q s s := ⟨fun _ _ => rfl, rfl, rfl, rfl⟩

theorem trans (h : SameQueue q s u) (i : SameQueue q u v) : SameQueue q s v :=
  ⟨fun r hr => (i.reg r hr).trans (h.reg r hr), i.tail.trans h.tail, i.stopped.trans h.stopped,
    i.lastPoll.trans h.lastPoll⟩

theorem of_aside {w : Bool} (h : Aside w s u) : SameQueue q s u where
  reg r hr := h.reg r (by obtain rfl | rfl | rfl | rfl := hr <;> rfl)
  tail := by rw [State.hqTail, h.host]; rfl
  stopped := by rw [h.host]
  lastPoll := by rw [h.host]

theorem hqRuns (h : SameQueue q s u) : u.hqRuns q = s.hqRuns q := by
  rw [State.hqRuns, State.flag, State.fld, h.reg _ (by simp), h.stopped]
  rfl

theorem hqLocal (h : SameQueue q s u) : u.hqLocal q = s.hqLocal q := hqLocal_congr (h.reg _ (by simp))

theorem hqSize (h : SameQueue q s u) : u.hqSize q = s.hqSize q := hqSize_congr (h.reg _ (by simp))

theorem hqAhead (h : SameQueue q s u) (n : Nat) : u.hqAhead q n = s.hqAhead q n := by
  rw [State.hqAhead, State.hqAhead, hqHead_congr (h.reg _ (by simp))]

theorem setReg_ctl_or_status {r : Reg} (x : W64) (hr : r = .hqCtl k ∨ r = .hqStatus k) (hk : k ≠ q) :
    SameQueue q s (s.setReg r x) :=
  ⟨fun i hi => State.reg_setReg_other s x (by
    obtain rfl | rfl := hr <;> obtain rfl | rfl | rfl | rfl := hi <;> simp [hk.symm]), rfl, rfl, rfl⟩

theorem setTail (n : Nat) (hk : k ≠ q) : SameQueue q s (s.setTail k n) :=
  ⟨fun _ _ => rfl, State.hqTail_setTail_other s n hk.symm, rfl, rfl⟩

theorem markStopped (code : Nat) (hk : k ≠ q) : SameQueue q s (s.markStopped k code) := by
  have h1 : SameQueue q s (s.setFlag (.hqCtl k) Fld.hqCtlError true) := setReg_ctl_or_status _ (.inl rfl) hk
  have h2 : SameQueue q s ((s.setFlag (.hqCtl k) Fld.hqCtlError true).setFld (.hqCtl k) Fld.hqCtlErrorCode code) :=
    h1.trans (setReg_ctl_or_status _ (.inl rfl) hk)
  exact ⟨h2.reg, h2.tail, by simp [State.markStopped, State.updHost, hk.symm], h2.lastPoll⟩

theorem hqStop (code : Nat) (hk : k ≠ q) : SameQueue q s (s.hqStop k code) :=
  (markStopped code hk).trans (of_aside (aside_hqStop s k code))

theorem takeTail (n : Nat) (hk : k ≠ q) : SameQueue q s (s.takeTail k n) := by
  unfold State.takeTail
  split
  · exact (setTail n hk).trans (hqStop 1 hk)
  · exact setTail n hk

end SameQueue

theorem aside_readTail (s : State) (k : HQueue) (line : BitVec 32) : Aside true s (s.readTail k line).1 := by
  unfold State.readTail
  split
  · split
    · exact Aside.refl s
    · split <;> exact (Aside.refl s).engRead.ofFst ‹_›
  · exact Aside.refl s

theorem SameQueue.seeTail (line : BitVec 32) (hk : k ≠ q) : SameQueue q s (s.seeTail k line) := by
  have hr := SameQueue.of_aside (q := q) (aside_readTail s k line)
  unfold State.seeTail
  split
  · exact SameQueue.refl q s
  · split
    next e =>
      rw [e] at hr
      exact hr.trans (SameQueue.hqStop 2 hk)
    next u tail e =>
      rw [e] at hr
      exact hr.trans (SameQueue.takeTail tail hk)

/-! ### The poll (R453) -/

/-- The poll of one queue. -/
def State.pollQueue (lines : Vector (BitVec 32) 64) (s : State) (q : HQueue) : State :=
  if s.hqRuns q then
    let old := s.hqTail q
    let s := s.seeTail q (lines.toList.getD q.val 0)
    if s.hqTail q ≠ old then s.bump (.hqStatus q) Fld.hqStatusPollHits 1 else s
  else s

theorem doHqTailPoll_of_due {lines : Vector (BitVec 32) 64} (hc : s.clocksStopped = false)
    (hd : s.host.lastPoll + 1000 * s.fld .hqGlobal Fld.hqGlobalPollUs ≤ s.now) :
    doHqTailPoll lines s
      = (List.finRange 64).foldl (State.pollQueue lines) (s.updHost (fun h => { h with lastPoll := s.now })) := by
  rw [doHqTailPoll, if_neg (by simp [hc, hd])]
  rfl

theorem SameQueue.pollQueue (lines : Vector (BitVec 32) 64) (hk : k ≠ q) : SameQueue q s (s.pollQueue lines k) := by
  have ht : SameQueue q s (s.seeTail k (lines.toList.getD k.val 0)) := SameQueue.seeTail _ hk
  unfold State.pollQueue
  dsimp only
  split
  · split
    · exact ht.trans (SameQueue.setReg_ctl_or_status _ (.inr rfl) hk)
    · exact ht
  · exact SameQueue.refl q s

theorem SameQueue.foldl_pollQueue (lines : Vector (BitVec 32) 64) {l : List HQueue} (h : q ∉ l) :
    SameQueue q s (l.foldl (State.pollQueue lines) s) := by
  induction l generalizing s with
  | nil => exact SameQueue.refl q s
  | cons k l ih =>
    have hk : k ≠ q := fun e => h (e ▸ List.mem_cons_self)
    exact (SameQueue.pollQueue lines hk).trans (ih fun hl => h (List.mem_cons_of_mem k hl))

theorem lastPoll_foldl_pollQueue (lines : Vector (BitVec 32) 64) (s : State) (l : List HQueue) :
    (l.foldl (State.pollQueue lines) s).host.lastPoll = s.host.lastPoll := by
  induction l generalizing s with
  | nil => rfl
  | cons k l ih =>
    obtain ⟨i, hi⟩ := exists_ne k
    exact (ih _).trans (SameQueue.pollQueue lines hi.symm).lastPoll

/-- The poll of a LOC 0 queue takes the tail of its line, and counts that it moved. -/
theorem pollQueue_of_moved {lines : Vector (BitVec 32) 64} (hr : s.hqRuns q = true) (hl : s.hqLocal q = false)
    (hne : (lines.toList.getD q.val 0).toNat ≠ s.hqTail q)
    (hfit : s.hqAhead q (lines.toList.getD q.val 0).toNat ≤ s.hqSize q) :
    s.pollQueue lines q
      = (s.setTail q (lines.toList.getD q.val 0).toNat).bump (.hqStatus q) Fld.hqStatusPollHits 1 := by
  unfold State.pollQueue
  dsimp only
  rw [if_pos hr, seeTail_of_not_local _ hl, takeTail_of_fits hfit, if_pos (by rwa [State.hqTail_setTail_same])]

/-- The one queue of a list that a poll serves is served once, on the condition that it had before the poll. -/
theorem foldl_pollQueue_of_moved {lines : Vector (BitVec 32) 64} {l : List HQueue} (hn : l.Nodup) (hq : q ∈ l)
    (hr : s.hqRuns q = true) (hl : s.hqLocal q = false) (hne : (lines.toList.getD q.val 0).toNat ≠ s.hqTail q)
    (hfit : s.hqAhead q (lines.toList.getD q.val 0).toNat ≤ s.hqSize q) :
    (l.foldl (State.pollQueue lines) s).hqTail q = (lines.toList.getD q.val 0).toNat ∧
      (l.foldl (State.pollQueue lines) s).fld (.hqStatus q) Fld.hqStatusPollHits
        = s.counted (.hqStatus q) Fld.hqStatusPollHits 1 := by
  obtain ⟨pre, post, rfl⟩ := List.append_of_mem hq
  have hn' := (List.nodup_cons.mp (List.nodup_middle.mp hn)).1
  obtain ⟨hpre, hpost⟩ := not_or.mp (mt List.mem_append.mpr hn')
  have hb := SameQueue.foldl_pollQueue (s := s) lines hpre
  rw [List.foldl_append, List.foldl_cons]
  generalize pre.foldl (State.pollQueue lines) s = v at hb ⊢
  have ha := SameQueue.foldl_pollQueue (s := v.pollQueue lines q) lines hpost
  rw [pollQueue_of_moved (hb.hqRuns.trans hr) (hb.hqLocal.trans hl) (by rwa [hb.tail])
    (by rwa [hb.hqAhead, hb.hqSize])] at ha ⊢
  refine ⟨ha.tail.trans (State.hqTail_setTail_same _ _ _), ?_⟩
  rw [State.fld, ha.reg _ (by simp)]
  exact (fld_bump_hqStatus (v.setTail q _) q (by decide)).trans (counted_congr (hb.reg _ (by simp)) _ _)

/-! ### The snoop of a tail (R453) -/

theorem doHqTailSnoop_of_waits (line : BitVec 32) (h : s.tailWaits q = true) : doHqTailSnoop q line s = s :=
  if_pos (.inr (.inr h))

/-- The snoop of a LOC 0 queue is counted and takes the tail of its line. -/
theorem doHqTailSnoop_of_not_local (line : BitVec 32) (hr : s.hqRuns q = true) (hc : s.clocksStopped = false)
    (hl : s.hqLocal q = false) :
    doHqTailSnoop q line s = (s.bump (.hqStatus q) Fld.hqStatusSnoops 1).takeTail q line.toNat := by
  have hl' : (s.bump (.hqStatus q) Fld.hqStatusSnoops 1).hqLocal q = false :=
    (hqLocal_congr (reg_bump_hqStatus _ (by simp))).trans hl
  rw [doHqTailSnoop, if_neg (by simp [hr, hc, tailWaits_of_not_local hl]), hl]
  exact seeTail_of_not_local line hl'

theorem hqAhead_bump_hqStatus (f : Field) (n : Nat) : (s.bump (.hqStatus q) f 1).hqAhead q n = s.hqAhead q n := by
  rw [State.hqAhead, State.hqAhead, hqHead_congr (reg_bump_hqStatus f (by simp))]

theorem hqSize_bump_hqStatus (f : Field) : (s.bump (.hqStatus q) f 1).hqSize q = s.hqSize q :=
  hqSize_congr (reg_bump_hqStatus f (by simp))

theorem doHqTailSnoop_of_fits {line : BitVec 32} (hr : s.hqRuns q = true) (hc : s.clocksStopped = false)
    (hl : s.hqLocal q = false) (hfit : s.hqAhead q line.toNat ≤ s.hqSize q) :
    doHqTailSnoop q line s = (s.bump (.hqStatus q) Fld.hqStatusSnoops 1).setTail q line.toNat := by
  rw [doHqTailSnoop_of_not_local line hr hc hl, takeTail_of_fits]
  rwa [hqAhead_bump_hqStatus, hqSize_bump_hqStatus]

theorem doHqTailSnoop_of_beyond {line : BitVec 32} (hr : s.hqRuns q = true) (hc : s.clocksStopped = false)
    (hl : s.hqLocal q = false) (hfit : s.hqSize q < s.hqAhead q line.toNat) :
    doHqTailSnoop q line s = ((s.bump (.hqStatus q) Fld.hqStatusSnoops 1).setTail q line.toNat).hqStop q 1 := by
  rw [doHqTailSnoop_of_not_local line hr hc hl, takeTail_of_beyond]
  rwa [hqAhead_bump_hqStatus, hqSize_bump_hqStatus]

/-- The snoop of a LOC 1 queue takes the tail word in ream, and nothing counts it. -/
theorem doHqTailSnoop_of_local {f : Folio} {off n : Nat} (line : BitVec 32) (hr : s.hqRuns q = true)
    (hc : s.clocksStopped = false) (hl : s.hqLocal q = true) (hw : s.tailWaits q = false) (hm : s.marks = [])
    (ho : s.noOps f) (hp : s.hqPlace (64 * s.fld (.hqTailAddr q) Fld.hqTailAddrAddr) 8 = some (f, off))
    (hn : s.readLe (reamAddr f off) 8 % 2 ^ 32 = n) (hfit : s.hqAhead q n ≤ s.hqSize q) :
    ∃ u, Opened s u ∧ doHqTailSnoop q line s = u.setTail q n := by
  obtain ⟨u, hu, ht⟩ := seeTail_of_local line hl hw hm ho hp
  refine ⟨u, hu, ?_⟩
  rw [doHqTailSnoop, if_neg (by simp [hr, hc, hw]), if_pos hl, ht, hn, takeTail_of_fits]
  rwa [hu.hqAhead_eq, hu.hqSize_eq]

end Sys2Proof.Machine

end

section
/-! PROOFS. Host queues: a write that enables one, and the fetch of an entry (R453-R455). -/

namespace Sys2Proof.Machine

variable {s u : State} {q : HQueue}

/-! ### Enabling (R453) -/

theorem ofAddr_hqCtl (q : HQueue) : Reg.ofAddr (Reg.hqCtl q).addr = .reg (.hqCtl q) :=
  Reg.ofAddr_addr _ fun g => by simp

/-- A write of HQ_CTL starts no more than the clock of the host attach. -/
theorem wakeReg_hqCtl (s : State) (q : HQueue) :
    ∃ c e, s.wakeReg (Reg.hqCtl q).addr = { s with clocks := c, energy := e } := by
  rw [State.wakeReg, ofAddr_hqCtl]
  dsimp only
  split
  · exact ⟨s.clocks, s.energy, rfl⟩
  · exact s.started_eq .cxl

/-- What HQ_CTL of a queue that is off holds once a write is stored: the ENABLE, LOC and VECTOR of the write, and the
error that the write does not clear. -/
def State.enabledCtl (s : State) (q : HQueue) (ctl : W64) : W64 :=
  let w1c := ctl &&& wholeFields (.hqCtl q) .w1c (BitVec.allOnes 64)
  if w1c = 0 then s.stores (.hqCtl q) ctl else s.stores (.hqCtl q) ctl &&& ~~~ w1c

theorem maskOf_rw_hqCtl (q : HQueue) : (Reg.hqCtl q).maskOf .rw = 0x3F0003#64 := by
  change (((0 ||| Fld.hqCtlEnable.mask) ||| Fld.hqCtlLoc.mask) ||| Fld.hqCtlVector.mask : W64) = _
  decide

theorem wholeFields_w1c_hqCtl (q : HQueue) : wholeFields (.hqCtl q) .w1c (BitVec.allOnes 64) = 0x4#64 := by
  change (0 ||| Fld.hqCtlError.mask : W64) = _
  decide

theorem frozenBits_hqCtl (h : s.flag (.hqCtl q) Fld.hqCtlEnable = false) : s.frozenBits (.hqCtl q) = 0 :=
  if_neg (by simp [h])

theorem Field.get_congr {f : Field} {v w : W64} (h : ∀ i < f.width, v.getLsbD (f.lo + i) = w.getLsbD (f.lo + i)) :
    f.get v = f.get w := by
  unfold Field.get
  congr 1
  refine BitVec.eq_of_getLsbD_eq fun i hi => ?_
  rw [BitVec.getLsbD_extractLsb', BitVec.getLsbD_extractLsb', h i hi]

/-- ENABLE and LOC, the two lowest bits, are as they are written. -/
theorem getLsbD_enabledCtl (ctl : W64) (h : s.flag (.hqCtl q) Fld.hqCtlEnable = false) {n : Nat} (hn : n < 2) :
    (s.enabledCtl q ctl).getLsbD n = ctl.getLsbD n := by
  have hstores : (s.stores (.hqCtl q) ctl).getLsbD n = ctl.getLsbD n := by
    unfold State.stores
    rw [frozenBits_hqCtl h, maskOf_rw_hqCtl]
    interval_cases n <;> simp
  unfold State.enabledCtl
  dsimp only
  rw [wholeFields_w1c_hqCtl]
  split
  · exact hstores
  · rw [BitVec.getLsbD_and, hstores]
    interval_cases n <;> simp

theorem get_enable_enabledCtl (ctl : W64) (h : s.flag (.hqCtl q) Fld.hqCtlEnable = false) :
    Fld.hqCtlEnable.get (s.enabledCtl q ctl) = Fld.hqCtlEnable.get ctl :=
  Field.get_congr fun i hi => getLsbD_enabledCtl ctl h (by simp only [Fld.hqCtlEnable] at hi ⊢; omega)

theorem get_loc_enabledCtl (ctl : W64) (h : s.flag (.hqCtl q) Fld.hqCtlEnable = false) :
    Fld.hqCtlLoc.get (s.enabledCtl q ctl) = Fld.hqCtlLoc.get ctl :=
  Field.get_congr fun i hi => getLsbD_enabledCtl ctl h (by simp only [Fld.hqCtlLoc] at hi ⊢; omega)

/-- The write itself changes HQ_CTL alone. -/
theorem clears_setReg_hqCtl (s : State) (src : Src) (q : HQueue) (ctl : W64) :
    ∃ x, (s.setReg (.hqCtl q) (s.stores (.hqCtl q) ctl)).clears src (.hqCtl q)
        (ctl &&& wholeFields (.hqCtl q) .w1c (BitVec.allOnes 64)) = { s with regs := x } ∧
      ({ s with regs := x } : State).reg (.hqCtl q) = s.enabledCtl q ctl ∧
      ∀ r, r ≠ .hqCtl q → ({ s with regs := x } : State).reg r = s.reg r := by
  unfold State.clears State.enabledCtl
  dsimp only
  split
  · exact ⟨_, rfl, State.reg_setReg_same _ _ _, fun r hr => State.reg_setReg_other _ _ hr⟩
  · refine ⟨_, rfl, ?_, fun r hr => ?_⟩
    · exact (State.reg_setReg_same _ _ _).trans (by rw [State.reg_setReg_same])
    · exact (State.reg_setReg_other _ _ hr).trans (State.reg_setReg_other _ _ hr)

theorem stores_hqCtl (ctl : W64) (h : s.flag (.hqCtl q) Fld.hqCtlEnable = false) :
    s.stores (.hqCtl q) ctl = s.wanted (.hqCtl q) ctl (BitVec.allOnes 64) := by
  rw [State.stores, State.wanted, frozenBits_hqCtl h]
  simp only [BitVec.ofNat_eq_ofNat, BitVec.and_zero, BitVec.or_zero, BitVec.not_zero, BitVec.and_allOnes]

/-- A write that sets ENABLE of a queue that is off stores its value and then enables the queue. -/
theorem writeReg_hqCtl {ctl : W64} (src : Src) (line : BitVec 32) (record : Nat → State → State)
    (hoff : s.flag (.hqCtl q) Fld.hqCtlEnable = false) (hon : Fld.hqCtlEnable.get ctl = 1)
    (hb : s.badCombination (.hqCtl q) (s.reg (.hqCtl q)) (s.stores (.hqCtl q) ctl) = false) :
    ∃ x, s.writeReg src (.hqCtl q) ctl (BitVec.allOnes 64) line record
        = State.hqEnable { s with regs := x } q line ∧
      ({ s with regs := x } : State).reg (.hqCtl q) = s.enabledCtl q ctl ∧
      ∀ r, r ≠ .hqCtl q → ({ s with regs := x } : State).reg r = s.reg r := by
  obtain ⟨x, hx, hsame, hother⟩ := clears_setReg_hqCtl s src q ctl
  refine ⟨x, ?_, hsame, hother⟩
  have hold : Fld.hqCtlEnable.get (s.reg (.hqCtl q)) = 0 := by
    have hlt : Fld.hqCtlEnable.get (s.reg (.hqCtl q)) < 2 := BitVec.isLt _
    have hne : Fld.hqCtlEnable.get (s.reg (.hqCtl q)) ≠ 1 := of_decide_eq_false hoff
    omega
  have hrun : ({ s with regs := x } : State).flag (.hqCtl q) Fld.hqCtlEnable = true :=
    decide_eq_true (by rw [State.fld, hsame, get_enable_enabledCtl ctl hoff, hon])
  have hnew : (s.stores (.hqCtl q) ctl &&& ~~~ s.frozenBits (.hqCtl q)) |||
      (s.reg (.hqCtl q) &&& s.frozenBits (.hqCtl q)) = s.stores (.hqCtl q) ctl := by
    rw [frozenBits_hqCtl hoff]
    simp only [BitVec.ofNat_eq_ofNat, BitVec.and_zero, BitVec.or_zero, BitVec.not_zero, BitVec.and_allOnes]
  have hkept : keptRecorded (.hqCtl q) (s.stores (.hqCtl q) ctl) (s.stores (.hqCtl q) ctl)
      (s.frozenBits (.hqCtl q)) (BitVec.allOnes 64) = false := by simp [keptRecorded]
  have hrw : (Reg.hqCtl q).maskOf .rw &&& BitVec.allOnes 64 ≠ 0 := by
    rw [maskOf_rw_hqCtl]
    decide
  have hlock : s.lockedWrite (.hqCtl q) (s.stores (.hqCtl q) ctl) = false := rfl
  unfold State.writeReg
  dsimp only
  rw [← State.wanted, ← stores_hqCtl ctl hoff, hnew, hb, hkept, if_neg (fun h => nomatch h)]
  simp only [hlock, Bool.and_false, Bool.false_eq_true, if_false, if_neg hrw, hx]
  change (if ({ s with regs := x } : State).flag (.hqCtl q) Fld.hqCtlEnable &&
    decide (Fld.hqCtlEnable.get (s.reg (.hqCtl q)) = 0) then State.hqEnable { s with regs := x } q line
    else { s with regs := x }) = _
  rw [hrun, hold]
  rfl

/-- Such a write as an access: beside the clock of the host attach nothing else changes before the queue is enabled. -/
theorem access_hqCtl {src : Src} {ctl : W64} (line : BitVec 32) (ha : s.accepts (.hqCtl q) ctl)
    (hh : s.heeds src (Reg.hqCtl q).addr ctl) (hoff : s.flag (.hqCtl q) Fld.hqCtlEnable = false)
    (hon : Fld.hqCtlEnable.get ctl = 1) :
    ∃ c e x, s.access src (Reg.hqCtl q).addr true ctl line
        = State.hqEnable { s with clocks := c, energy := e, regs := x } q line ∧
      ({ s with clocks := c, energy := e, regs := x } : State).reg (.hqCtl q) = s.enabledCtl q ctl ∧
      ∀ r, r ≠ .hqCtl q → ({ s with clocks := c, energy := e, regs := x } : State).reg r = s.reg r := by
  obtain ⟨⟨hp, hans, ht, hd, hmode⟩, hf, -, -, hb, -⟩ := ha
  obtain ⟨c, e, hw⟩ := wakeReg_hqCtl s q
  have hmod : (Reg.hqCtl q).addr % 8 = 0 := (Reg.addr_mod_eight_and_lt _).1
  have hdiv : (Reg.hqCtl q).addr / 8 * 8 = (Reg.hqCtl q).addr := Nat.div_mul_cancel (Nat.dvd_of_mod_eq_zero hmod)
  obtain ⟨x, hx, hsame, hother⟩ := writeReg_hqCtl (s := { s with clocks := c, energy := e }) src line
    (fun code u => u.regFault code (Reg.hqCtl q).addr (valueOf true ctl).toNat) hoff hon hb
  refine ⟨c, e, x, ?_, hsame, hother⟩
  rw [access_eq_writeOff (wide := true) line hp hmod hans hh ht, writeOff_writeReg src true ctl line
    (hdiv.symm ▸ ofAddr_hqCtl q) hd (decide_eq_true hmode) hf, hdiv, hw]
  exact hx

/-- A queue that has just been enabled and has not read its tail. -/
def State.startQueue (s : State) (q : HQueue) : State :=
  ((s.setFlag (.hqCtl q) Fld.hqCtlEnable true).setFld (.hqHead q) Fld.hqHeadIndex 0).updHost (fun h => { h with
    stopped := h.stopped.filter (fun k => k ≠ q), tails := Store.put (fun k => k.val) (fun _ => 0) h.tails q 0 })

theorem hqEnable_eq (s : State) (q : HQueue) (line : BitVec 32) : s.hqEnable q line = (s.startQueue q).seeTail q line := rfl

theorem reg_startQueue {r : Reg} (h1 : r ≠ .hqCtl q) (h2 : r ≠ .hqHead q) : (s.startQueue q).reg r = s.reg r :=
  (State.reg_setFld_other _ _ _ h2).trans (State.reg_setFlag_other _ _ _ h1)

theorem reg_hqCtl_startQueue (s : State) (q : HQueue) :
    (s.startQueue q).reg (.hqCtl q) = (s.setFlag (.hqCtl q) Fld.hqCtlEnable true).reg (.hqCtl q) :=
  State.reg_setFld_other _ _ _ (by simp)

theorem hqRuns_startQueue (s : State) (q : HQueue) : (s.startQueue q).hqRuns q = true := by
  have hf : (s.startQueue q).flag (.hqCtl q) Fld.hqCtlEnable = true := by
    rw [State.flag, State.fld, reg_hqCtl_startQueue]
    exact State.flag_setFlag_same _ _ _ _ (by decide) (by decide)
  have hs : (s.startQueue q).host.stopped.contains q = false := by simp [State.startQueue, State.updHost]
  rw [State.hqRuns, hf, hs]
  rfl

theorem hqLocal_startQueue (s : State) (q : HQueue) : (s.startQueue q).hqLocal q = s.hqLocal q := by
  have hf : (s.startQueue q).fld (.hqCtl q) Fld.hqCtlLoc = s.fld (.hqCtl q) Fld.hqCtlLoc := by
    rw [State.fld, reg_hqCtl_startQueue]
    exact State.fld_setFld_field _ _ _ _ _ (by decide) (by decide) (by decide)
  rw [State.hqLocal, State.flag, hf]
  rfl

theorem hqHead_startQueue (s : State) (q : HQueue) : (s.startQueue q).hqHead q = 0 :=
  State.fld_setFld_same _ _ _ _ (by decide)

theorem hqTail_startQueue (s : State) (q : HQueue) : (s.startQueue q).hqTail q = 0 := by
  simp [State.hqTail, State.startQueue, State.updHost]

theorem hqSize_startQueue (s : State) (q : HQueue) : (s.startQueue q).hqSize q = s.hqSize q :=
  hqSize_congr (reg_startQueue (by simp) (by simp))

/-- The device as it is when a write has enabled a queue and its tail is to be read. -/
structure Enabled (q : HQueue) (ctl : W64) (s u : State) : Prop where
  runs : u.hqRuns q = true
  head : u.hqHead q = 0
  tail : u.hqTail q = 0
  isLocal : u.hqLocal q = decide (Fld.hqCtlLoc.get ctl = 1)
  size : u.hqSize q = s.hqSize q
  reg : ∀ r, r ≠ .hqCtl q → r ≠ .hqHead q → u.reg r = s.reg r
  marks : u.marks = s.marks
  net : u.net = s.net
  mem : u.mem = s.mem
  flip : u.host.flip = s.host.flip

theorem exec_hqEnable {src : Src} {ctl : W64} (line : BitVec 32) (ha : s.accepts (.hqCtl q) ctl)
    (hh : s.heeds src (Reg.hqCtl q).addr ctl) (hoff : s.flag (.hqCtl q) Fld.hqCtlEnable = false)
    (hon : Fld.hqCtlEnable.get ctl = 1) :
    ∃ u, Enabled q ctl s u ∧ exec (.hqEnable src q ctl line) s = .next (u.seeTail q line) := by
  obtain ⟨c, e, x, hx, hsame, hother⟩ := access_hqCtl line ha hh hoff hon
  generalize hv : ({ s with clocks := c, energy := e, regs := x } : State) = v at hx hsame hother
  refine ⟨v.startQueue q, ?_, congrArg Host.Outcome.next (hx.trans (hqEnable_eq v q line))⟩
  exact {
    runs := hqRuns_startQueue v q
    head := hqHead_startQueue v q
    tail := hqTail_startQueue v q
    isLocal := by
      rw [hqLocal_startQueue, State.hqLocal, State.flag, State.fld, hsame, get_loc_enabledCtl ctl hoff]
    size := (hqSize_startQueue v q).trans (hqSize_congr (hother _ (by simp)))
    reg := fun r h1 h2 => (reg_startQueue h1 h2).trans (hother r h1)
    marks := by subst hv; rfl
    net := by subst hv; rfl
    mem := by subst hv; rfl
    flip := by subst hv; rfl }

theorem hqPlace_congr (h : u.reg (.routeCtl 0) = s.reg (.routeCtl 0)) (addr n : Nat) :
    u.hqPlace addr n = s.hqPlace addr n := by
  rw [State.hqPlace, State.chip, State.fld, h]
  rfl

theorem biasWaits_congr (h : u.host.flip = s.host.flip) (f : Folio) (off n : Nat) :
    u.biasWaits f off n = s.biasWaits f off n := by
  rw [State.biasWaits, State.biasWaits, h]

/-- With HEAD at 0 a tail lies as many entries ahead as it says. -/
theorem hqAhead_of_head_zero {n : Nat} (h : s.hqHead q = 0) (hn : n < 2 ^ 32) : s.hqAhead q n = n := by
  rw [State.hqAhead, h]
  omega

theorem Enabled.place {ctl : W64} (h : Enabled q ctl s u) {f : Folio} {off : Nat}
    (hp : s.hqPlace (64 * s.fld (.hqTailAddr q) Fld.hqTailAddrAddr) 8 = some (f, off)) :
    u.hqPlace (64 * u.fld (.hqTailAddr q) Fld.hqTailAddrAddr) 8 = some (f, off) := by
  rw [hqPlace_congr (h.reg _ (by simp) (by simp)), State.fld, h.reg _ (by simp) (by simp)]
  exact hp

namespace Enabled
variable {ctl : W64} {f : Folio} {off : Nat}

theorem seeTail_of_line (h : Enabled q ctl s u) (hloc : Fld.hqCtlLoc.get ctl = 0) {line : BitVec 32}
    (hfit : line.toNat ≤ s.hqSize q) : u.seeTail q line = u.setTail q line.toNat := by
  have hahead : u.hqAhead q line.toNat ≤ u.hqSize q := by
    rw [hqAhead_of_head_zero h.head line.isLt, h.size]
    exact hfit
  rw [seeTail_of_not_local line (h.isLocal.trans (by simp [hloc])), takeTail_of_fits hahead]

theorem tailWaits (h : Enabled q ctl s u) (hloc : Fld.hqCtlLoc.get ctl = 1)
    (hp : s.hqPlace (64 * s.fld (.hqTailAddr q) Fld.hqTailAddrAddr) 8 = some (f, off)) :
    u.tailWaits q = s.biasWaits f off 8 :=
  (tailWaits_eq (h.isLocal.trans (by simp [hloc])) (h.place hp)).trans (biasWaits_congr h.flip f off 8)

theorem seeTail_of_word (h : Enabled q ctl s u) (hloc : Fld.hqCtlLoc.get ctl = 1)
    (hp : s.hqPlace (64 * s.fld (.hqTailAddr q) Fld.hqTailAddrAddr) 8 = some (f, off))
    (hw : s.biasWaits f off 8 = false) (hm : s.marks = []) (ho : s.noOps f)
    (hfit : s.readLe (reamAddr f off) 8 % 2 ^ 32 ≤ s.hqSize q) (line : BitVec 32) :
    ∃ v, Opened u v ∧ u.seeTail q line = v.setTail q (s.readLe (reamAddr f off) 8 % 2 ^ 32) := by
  obtain ⟨v, hv, ht⟩ := seeTail_of_local line (h.isLocal.trans (by simp [hloc])) ((h.tailWaits hloc hp).trans hw)
    (h.marks.trans hm) (fun o => h.net ▸ ho o) (h.place hp)
  refine ⟨v, hv, ht.trans ?_⟩
  have hread : u.readLe (reamAddr f off) 8 = s.readLe (reamAddr f off) 8 := by
    rw [State.readLe, State.readLe, State.readMem, State.readMem, h.mem]
  have hlt : s.readLe (reamAddr f off) 8 % 2 ^ 32 < 2 ^ 32 := Nat.mod_lt _ (Nat.two_pow_pos 32)
  rw [hread]
  generalize s.readLe (reamAddr f off) 8 % 2 ^ 32 = n at hlt hfit
  have hhead : v.hqHead q = 0 := (hqHead_congr (hv.reg _ (by simp))).trans h.head
  have hahead : v.hqAhead q n ≤ v.hqSize q := by
    rw [hqAhead_of_head_zero hhead hlt, hv.hqSize_eq, h.size]
    exact hfit
  exact takeTail_of_fits hahead

end Enabled

/-! ### The fetch of an entry (R454, R455) -/

/-- An entry that was fetched at `head` joins the launches, and HEAD moves on. -/
def State.takeEntry (s : State) (q : HQueue) (head : Nat) (words : List W64) : State :=
  ((s.updHost (fun h => { h with
    launches := h.launches ++ [⟨s.host.nextId, q, head, words, false, [], [], [], 0, none, 0, false⟩],
    nextId := h.nextId + 1 })).setFld (.hqHead q) Fld.hqHeadIndex ((head + 1) % 2 ^ 32)).countInflight q

theorem launches_takeEntry (s : State) (q : HQueue) (head : Nat) (ws : List W64) :
    (s.takeEntry q head ws).host.launches
      = s.host.launches ++ [⟨s.host.nextId, q, head, ws, false, [], [], [], 0, none, 0, false⟩] := rfl

theorem hqHead_takeEntry (s : State) (q : HQueue) (head : Nat) (ws : List W64) :
    (s.takeEntry q head ws).hqHead q = (head + 1) % 2 ^ 32 := by
  rw [State.hqHead, State.takeEntry, State.countInflight, State.fld_setFld_other _ _ _ _ (by simp),
    State.fld_setFld_same _ _ _ _ (by decide)]
  exact Nat.mod_mod _ _

theorem fld_inflight_countInflight (s : State) (q : HQueue) :
    (s.countInflight q).fld (.hqStatus q) Fld.hqStatusInflight = (s.hqLaunches q).length % 2 ^ 16 :=
  State.fld_setFld_same _ _ _ _ (by decide)

theorem inflight_takeEntry (head : Nat) (ws : List W64) (h : (s.hqLaunches q).length < 32) :
    (s.takeEntry q head ws).fld (.hqStatus q) Fld.hqStatusInflight = (s.hqLaunches q).length + 1 := by
  have hlen : ((s.takeEntry q head ws).hqLaunches q).length = (s.hqLaunches q).length + 1 := by
    rw [State.hqLaunches, launches_takeEntry, List.filter_append, List.length_append, ← State.hqLaunches]
    simp
  exact (fld_inflight_countInflight _ q).trans
    ((congrArg (· % 2 ^ 16) hlen).trans (Nat.mod_eq_of_lt (by omega)))

/-- The entry at HEAD can be fetched (R455). -/
structure Fetches (s : State) (q : HQueue) : Prop where
  runs : s.hqRuns q = true
  running : s.clocksStopped = false
  more : s.hqHead q ≠ s.hqTail q
  room : (s.hqLaunches q).length < 32
  free : ∀ l ∈ s.hqLaunches q, l.checked = true ∧ l.index % s.hqSize q ≠ s.hqHead q % s.hqSize q

/-- The address of the entry at HEAD. -/
def State.entryAddr (s : State) (q : HQueue) : Nat :=
  64 * s.fld (.hqSqBase q) Fld.hqSqBaseAddr + s.hqHead q % s.hqSize q * 128

theorem doHqEntryFetch_of_waits (entry : Option (Vector W64 16)) (h : s.ringWaits q (s.entryAddr q) 128 = true) :
    doHqEntryFetch q entry s = s :=
  if_pos (by simp only [State.entryAddr] at h; simp [h])

theorem not_fetch_blocked (h : Fetches s q) (hw : s.ringWaits q (s.entryAddr q) 128 = false) :
    ¬ (s.hqRuns q = false ∨ s.hqHead q = s.hqTail q ∨ (s.hqLaunches q).length ≥ 32 ∨
      (s.hqLaunches q).any (fun l => !l.checked) = true ∨
      (s.hqLaunches q).any (fun l => l.index % s.hqSize q = s.hqHead q % s.hqSize q) = true ∨ s.clocksStopped = true ∨
      s.ringWaits q (64 * s.fld (.hqSqBase q) Fld.hqSqBaseAddr + s.hqHead q % s.hqSize q * 128) 128 = true) := by
  obtain ⟨hruns, hrunning, hmore, hroom, hfree⟩ := h
  rw [State.entryAddr] at hw
  rintro (h | h | h | h | h | h | h)
  · simp [hruns] at h
  · exact hmore h
  · omega
  · obtain ⟨l, hl, hc⟩ := List.any_eq_true.mp h
    simp [(hfree l hl).1] at hc
  · obtain ⟨l, hl, hc⟩ := List.any_eq_true.mp h
    exact (hfree l hl).2 (of_decide_eq_true hc)
  · simp [hrunning] at h
  · simp [hw] at h

/-- An entry of a LOC 0 queue is what CXL.cache returned. -/
theorem doHqEntryFetch_of_not_local {ws : Vector W64 16} (h : Fetches s q) (hl : s.hqLocal q = false) :
    doHqEntryFetch q (some ws) s = s.takeEntry q (s.hqHead q) ws.toList := by
  unfold doHqEntryFetch
  dsimp only
  rw [if_neg (not_fetch_blocked h (ringWaits_of_not_local _ _ hl)), if_neg (by simp [hl])]
  rfl

theorem doHqEntryFetch_of_failed (h : Fetches s q) (hl : s.hqLocal q = false) :
    doHqEntryFetch q none s = s.hqStop q 2 := by
  unfold doHqEntryFetch
  dsimp only
  rw [if_neg (not_fetch_blocked h (ringWaits_of_not_local _ _ hl)), if_neg (by simp [hl])]
  rfl

/-- An entry of a LOC 1 queue is what the ream holds. -/
theorem doHqEntryFetch_of_local {f : Folio} {off : Nat} (entry : Option (Vector W64 16)) (h : Fetches s q)
    (hl : s.hqLocal q = true) (hw : s.biasWaits f off 128 = false) (hm : s.marks = []) (ho : s.noOps f)
    (hp : s.hqPlace (s.entryAddr q) 128 = some (f, off)) :
    ∃ u, Opened s u ∧ doHqEntryFetch q entry s = u.takeEntry q (s.hqHead q)
      ((elements 8 (s.readMem (reamAddr f off) 128)).map (fun b => BitVec.ofNat 64 (leNat b))) := by
  obtain ⟨u, hu, hr⟩ := State.engRead_clean hm ho off 128
  refine ⟨u, hu, ?_⟩
  unfold doHqEntryFetch
  dsimp only
  rw [if_neg (not_fetch_blocked h ((ringWaits_eq hl hp).trans hw)), if_pos hl, ← State.entryAddr, hp]
  dsimp only
  rw [hr]
  rfl

end Sys2Proof.Machine
end

section
/-! PROOFS. Launches: checking and placing an entry, and the dispatch of its parts (R24, R69, R455-R459). -/

namespace Sys2Proof.Machine

variable {s u : State} {f : Folio} {q : HQueue} {l : Launch}

/-! ### The launches and their queues -/

/-- A launch that is changed by its number is found as it was changed. -/
theorem mem_launches_updLaunch {id : Nat} (g : Launch → Launch) (hl : l ∈ s.host.launches) (hid : l.id = id) :
    g l ∈ (s.updLaunch id g).host.launches :=
  List.mem_map.mpr ⟨l, hl, if_pos hid⟩

@[simp] theorem State.launchQueue_updLaunch (s : State) (id : Nat) (g : Launch → Launch) (f : Folio) :
    (s.updLaunch id g).launchQueue f = s.launchQueue f := rfl

@[simp] theorem State.launchQueue_setLaunchQueue_same (s : State) (f : Folio) (ids : List Nat) :
    (s.setLaunchQueue f ids).launchQueue f = ids := Store.get_put_same _ _ _ _ _

theorem State.launchQueue_setLaunchQueue_other (s : State) {f g : Folio} (ids : List Nat) (h : g ≠ f) :
    (s.setLaunchQueue f ids).launchQueue g = s.launchQueue g := Store.get_put_other _ _ _ _ _ h

/-- A part joins the launch queue of its folio. -/
def State.enqueuePart (id : Nat) (s : State) (f : Folio) : State := s.setLaunchQueue f (s.launchQueue f ++ [id])

theorem launches_foldl_enqueuePart (id : Nat) (fs : List Folio) (s : State) :
    (fs.foldl (State.enqueuePart id) s).host.launches = s.host.launches := by
  induction fs generalizing s with
  | nil => rfl
  | cons f fs ih => exact ih _

/-- Placed on several folios, a launch is the last of each one's queue. -/
theorem launchQueue_foldl_enqueuePart (id : Nat) {fs : List Folio} (hn : fs.Nodup) (s : State) (f : Folio) :
    (fs.foldl (State.enqueuePart id) s).launchQueue f = s.launchQueue f ++ (if f ∈ fs then [id] else []) := by
  induction fs generalizing s with
  | nil => simp
  | cons g fs ih =>
    obtain ⟨hg, hn⟩ := List.nodup_cons.mp hn
    rw [List.foldl_cons, ih hn]
    by_cases h : f = g
    · subst h
      rw [if_neg hg, if_pos List.mem_cons_self, State.enqueuePart, State.launchQueue_setLaunchQueue_same, List.append_nil]
    · rw [State.enqueuePart, State.launchQueue_setLaunchQueue_other _ _ h]
      simp [h]

/-! ### The check of an entry (R455, R459) -/

theorem mem_of_unchecked (h : s.unchecked q = some l) : l ∈ s.host.launches :=
  (List.mem_filter.mp (List.mem_of_find?_eq_some h)).1

theorem doLaunch_of_refused (h : s.unchecked q = some l) (hk : l.kind ≠ 0) (hc : s.clocksStopped = false)
    (hst : s.launchStatus l ≠ 0) :
    doLaunch q s
      = s.updLaunch l.id (fun k => { k with checked := true, status := s.launchStatus l, tense := s.tenseNow }) := by
  rw [doLaunch, h]
  dsimp only
  rw [if_neg (by simp [hk, hc]), if_pos hst]

/-- The folios of a launch that are not in reset. -/
def State.upFolios (s : State) (l : Launch) : List Folio := l.folios.filter (fun f => !s.downDies.contains (folioDie f))

/-- A launch as it stands when its parts are placed. -/
def State.placed (s : State) (l : Launch) (k : Launch) : Launch :=
  { k with checked := true, parts := s.upFolios l, status := if (s.upFolios l).length = l.folios.length then 0 else 0x09 }

theorem doLaunch_of_good (h : s.unchecked q = some l) (hk : l.kind ≠ 0) (hc : s.clocksStopped = false)
    (hst : s.launchStatus l = 0) (hroom : ∀ f ∈ l.folios, (s.launchQueue f).length < 64) :
    doLaunch q s = (s.upFolios l).foldl (State.enqueuePart l.id) (s.updLaunch l.id (s.placed l)) := by
  have hfull : l.folios.any (fun f => decide ((s.launchQueue f).length ≥ 64)) = false :=
    List.any_eq_false.mpr fun f hf => by simpa using hroom f hf
  rw [doLaunch, h]
  dsimp only
  rw [if_neg (by simp [hk, hc]), if_neg (not_not.mpr hst), if_neg (by simp [hfull])]
  rfl

theorem nodup_upFolios (s : State) (l : Launch) : (s.upFolios l).Nodup :=
  ((List.nodup_finRange 8).filter _).filter _

theorem mem_upFolios : f ∈ s.upFolios l ↔ f ∈ l.folios ∧ folioDie f ∉ s.downDies := by
  simp [State.upFolios]

theorem length_upFolios_eq_iff :
    (s.upFolios l).length = l.folios.length ↔ ¬ ∃ f ∈ l.folios, folioDie f ∈ s.downDies := by
  rw [State.upFolios, List.length_filter_eq_length_iff]
  simp

/-! ### The dispatch of a part (R24, R69) -/

/-- The part of a launch on a folio is next: nothing holds the folio back, and no earlier part names one of its tiles. -/
structure Dispatches (s : State) (f : Folio) (l : Launch) : Prop where
  loud : s.tense.quiet = false
  first : ∀ k ∈ (s.launchQueue f).takeWhile (fun k => k ≠ l.id), ∀ m,
    s.host.launches.find? (fun m => m.id = k) = some m → ∀ t ∈ m.tiles, ¬ (t ∈ l.tiles ∧ tileFolio t = f)
  up : folioDie f ∉ s.downDies
  running : s.clocksStopped = false

/-- The tiles of the part of a launch on a folio. -/
def Launch.tilesOn (l : Launch) (f : Folio) : List Tile := l.tiles.filter (fun t => tileFolio t = f)

theorem Launch.mem_tilesOn {t : Tile} : t ∈ l.tilesOn f ↔ t ∈ l.tiles ∧ tileFolio t = f := by
  simp [Launch.tilesOn]

/-- Whether an earlier part of the folio's queue names one of the part's tiles. -/
def State.behind (s : State) (f : Folio) (l : Launch) : Bool :=
  ((s.launchQueue f).takeWhile (fun k => k ≠ l.id)).any (fun k =>
    match s.host.launches.find? (fun m => m.id = k) with
    | some m => m.tiles.any (fun t => (l.tilesOn f).contains t)
    | none => false)

theorem Dispatches.not_behind (h : Dispatches s f l) : s.behind f l = false := by
  refine List.any_eq_false.mpr fun k hk => ?_
  have hfirst := h.first k hk
  split
  next m hm =>
    simpa using fun t ht hc => hfirst m hm t ht (Launch.mem_tilesOn.mp hc)
  next => simp

/-- A part that is refused leaves its queue with the status UNLOCKED. -/
def State.refusePart (s : State) (f : Folio) (l : Launch) : State :=
  let s := (s.dropPart f l.id).updLaunch l.id (fun l => { l with status := 0x07 })
  if l.tense = 0 then s.updLaunch l.id (fun l => { l with tense := s.tenseNow }) else s

/-- The tiles of a part that is dispatched, each with its share of the envelope. -/
def State.startTiles (s : State) (f : Folio) (l : Launch) : State :=
  let share := l.envelopeW * 1000000 * (l.tilesOn f).length / max 1 l.tiles.length
  (l.tilesOn f).foldl (fun s t => s.dispatchTile t l share) s

/-- A part leaves its queue, and its launch runs on the part's tiles. -/
def State.movePart (s : State) (f : Folio) (l : Launch) : State :=
  let late := if l.start ≠ 0 ∧ s.tenseNow > l.start then some (max (l.late.getD 0) (s.tenseNow - l.start)) else l.late
  (s.dropPart f l.id).updLaunch l.id (fun k => { k with
    running := k.running ++ l.tilesOn f, late := late, tense := if k.tense = 0 then s.tenseNow else k.tense })

/-- A dispatch does one of three things with a part that is next. -/
theorem doLaunchDispatch_eq {index : BitVec 32}
    (hl : s.host.launches.find? (fun l => l.hq = q && decide (l.index = index.toNat) && l.parts.contains f) = some l)
    (h : Dispatches s f l) :
    doLaunchDispatch f q index s =
      if s.tenseLocked = false then s.refusePart f l
      else if s.tenseNow < l.start ∨ (l.tilesOn f).all s.tileFree = false then s
      else (s.startTiles f l).movePart f l := by
  have hb := h.not_behind
  rw [doLaunchDispatch, hl]
  dsimp only
  rw [if_neg]
  · rfl
  · rintro (hq | hq | hq | hq)
    · simp [h.loud] at hq
    · exact absurd (hb.symm.trans hq) (by decide)
    · exact h.up (List.contains_iff_mem.mp hq)
    · simp [h.running] at hq

/-- A part that leaves its queue is no part of its launch any more. -/
theorem launchQueue_dropPart (s : State) (f : Folio) (id : Nat) :
    (s.dropPart f id).launchQueue f = (s.launchQueue f).filter (fun k => k ≠ id) := by
  rw [State.dropPart, State.launchQueue_updLaunch, State.launchQueue_setLaunchQueue_same]

theorem mem_launches_dropPart (f : Folio) (hl : l ∈ s.host.launches) :
    { l with parts := l.parts.filter (fun k => k ≠ f) } ∈ (s.dropPart f l.id).host.launches :=
  mem_launches_updLaunch (s := s.setLaunchQueue f _) _ hl rfl

theorem reg_dropPart {r : Reg} (id : Nat) (h : r ≠ .folioStatus f) : (s.dropPart f id).reg r = s.reg r :=
  State.reg_setFld_other _ _ _ h

theorem launchQueue_refusePart (s : State) (f : Folio) (l : Launch) :
    (s.refusePart f l).launchQueue f = (s.launchQueue f).filter (fun k => k ≠ l.id) := by
  rw [← launchQueue_dropPart, State.refusePart]
  split <;> rfl

theorem tiles_refusePart (s : State) (f : Folio) (l : Launch) : (s.refusePart f l).tiles = s.tiles := by
  rw [State.refusePart]
  split <;> rfl

theorem mem_launches_refusePart (f : Folio) (hl : l ∈ s.host.launches) :
    ∃ m ∈ (s.refusePart f l).host.launches, m.id = l.id ∧ m.status = 0x07 ∧ f ∉ m.parts := by
  have hm := mem_launches_updLaunch (fun l => { l with status := 0x07 }) (mem_launches_dropPart f hl) rfl
  rw [State.refusePart]
  split
  · exact ⟨_, mem_launches_updLaunch _ hm rfl, rfl, rfl, by simp⟩
  · exact ⟨_, hm, rfl, rfl, by simp⟩

theorem launchQueue_movePart (s : State) (f : Folio) (l : Launch) :
    (s.movePart f l).launchQueue f = (s.launchQueue f).filter (fun k => k ≠ l.id) :=
  launchQueue_dropPart s f l.id

theorem mem_launches_movePart (f : Folio) (hl : l ∈ s.host.launches) :
    ∃ m ∈ (s.movePart f l).host.launches, m.id = l.id ∧ f ∉ m.parts ∧ m.running = l.running ++ l.tilesOn f :=
  ⟨_, mem_launches_updLaunch _ (mem_launches_dropPart f hl) rfl, rfl, by simp, rfl⟩

theorem reg_movePart {r : Reg} (l : Launch) (h : r ≠ .folioStatus f) : (s.movePart f l).reg r = s.reg r :=
  reg_dropPart l.id h

theorem tile_movePart (s : State) (f : Folio) (l : Launch) (t : Tile) : (s.movePart f l).tile t = s.tile t := rfl

theorem mem_movePart (s : State) (f : Folio) (l : Launch) : (s.movePart f l).mem = s.mem := rfl

/-! ### A tile at dispatch (R69) -/

/-- A tile as a dispatch of a launch sets it up. -/
structure Started (l : Launch) (t : Tile) (s : State) : Prop where
  run : s.flag (.seqCtl t) Fld.seqCtlRun = true
  pc : s.reg (.seqPc t) = BitVec.ofNat 64 l.program
  tags : s.reg (.scoreboard t) = 0xF000
  flags : s.reg (.numStatus t) = 0
  job : (s.tile t).job = l.job
  lanes : (s.tile t).vl = 128
  arguments : ∀ i : Fin 32, (s.tile t).readS i
    = if 1 ≤ i.val ∧ i.val ≤ 8 then BitVec.ofNat 64 (l.word (7 + i.val)) else 0

/-- The first `n` arguments in the registers from s1 on. -/
theorem get_arguments (l : Launch) {n : Nat} (hn : n < 32) (i : Fin 32) :
    Store.get (fun _ => 0) ((List.range n).foldl (fun m i =>
      Store.put (fun k => k.val) (fun _ => 0) m (Fin.ofNat 32 (i + 1)) (BitVec.ofNat 64 (l.word (8 + i)))) []) i
      = if 1 ≤ i.val ∧ i.val ≤ n then BitVec.ofNat 64 (l.word (7 + i.val)) else (0 : W64) := by
  induction n with
  | zero =>
    rw [if_neg (by omega)]
    rfl
  | succ n ih =>
    rw [List.range_succ, List.foldl_append, List.foldl_cons, List.foldl_nil]
    have hval : (Fin.ofNat 32 (n + 1)).val = n + 1 := Nat.mod_eq_of_lt hn
    by_cases h : i = Fin.ofNat 32 (n + 1)
    · have hi : i.val = n + 1 := (congrArg Fin.val h).trans hval
      rw [h, Store.get_put_same, ← h, hi, if_pos (by omega), show 7 + (n + 1) = 8 + n by omega]
    · have hi : i.val ≠ n + 1 := fun e => h (Fin.ext (e.trans hval.symm))
      rw [Store.get_put_other _ _ _ _ _ h, ih (by omega)]
      by_cases hr : 1 ≤ i.val ∧ i.val ≤ n
      · rw [if_pos hr, if_pos (by omega)]
      · rw [if_neg hr, if_neg (by omega)]

theorem readS_dispatched (x : TileState) (l : Launch) (share : Nat) (i : Fin 32) :
    (x.dispatched l share).readS i = if 1 ≤ i.val ∧ i.val ≤ 8 then BitVec.ofNat 64 (l.word (7 + i.val)) else 0 := by
  unfold TileState.readS
  split
  · rw [if_neg (by omega)]
  · exact get_arguments l (by decide) i

/-- The registers that a dispatch sets (R69). -/
theorem reg_dispatchTile (s : State) (t : Tile) (l : Launch) (share : Nat) (r : Reg) :
    (s.dispatchTile t l share).reg r =
      (((((((((s.setReg (.seqPc t) (BitVec.ofNat 64 l.program)).setReg (.scoreboard t) 0xF000).setReg (.tagError t) 0).setReg
        (.numStatus t) 0).setReg (.strict t) 0).setReg (.srSeed t) 0).setReg (.srStep t) 0).setFlag (.seqCtl t)
        Fld.seqCtlRun true).reg r) := rfl

/-- They are registers of its tile. -/
theorem reg_dispatchTile_other {t : Tile} {r : Reg} (share : Nat) (h : tileOfReg r ≠ some t) :
    (s.dispatchTile t l share).reg r = s.reg r := by
  have hne : ∀ {k : Reg}, tileOfReg k = some t → r ≠ k := fun hk e => h (e ▸ hk)
  rw [reg_dispatchTile, State.reg_setFlag_other _ _ _ (hne rfl)]
  repeat rw [State.reg_setReg_other _ _ (hne rfl)]

/-- The state of a tile that a dispatch gives its program, as the memory `m` holds it. -/
def TileState.withProgram (x : TileState) (l : Launch) (share : Nat) (m : Memory) : TileState :=
  let first := l.program / 64 * 64
  { x.dispatched l share with image := some (first, first + 64 * ibufLines, m) }

theorem tile_dispatchTile (s : State) (t v : Tile) (l : Launch) (share : Nat) :
    (s.dispatchTile t l share).tile v = (s.updTile t (fun x => x.withProgram l share s.mem)).tile v := rfl

theorem tile_dispatchTile_other {t v : Tile} (share : Nat) (h : v ≠ t) :
    (s.dispatchTile t l share).tile v = s.tile v :=
  (tile_dispatchTile s t v l share).trans (State.tile_updTile_other s _ h)

theorem tile_dispatchTile_same (s : State) (t : Tile) (l : Launch) (share : Nat) :
    (s.dispatchTile t l share).tile t = (s.tile t).withProgram l share s.mem :=
  (tile_dispatchTile s t t l share).trans (State.tile_updTile_same s t _)

theorem started_dispatchTile (s : State) (t : Tile) (l : Launch) (share : Nat) :
    Started l t (s.dispatchTile t l share) := by
  have htile := tile_dispatchTile_same s t l share
  constructor
  case run =>
    rw [State.flag, State.fld, reg_dispatchTile]
    exact State.flag_setFlag_same _ _ _ _ (by decide) (by decide)
  case pc | tags | flags =>
    simp (disch := simp) only [reg_dispatchTile, State.reg_setFlag_other, State.reg_setReg_other, State.reg_setReg_same]
  case job => rw [htile]; rfl
  case lanes => rw [htile]; rfl
  case arguments => rw [htile]; exact readS_dispatched (s.tile t) l share

/-- It depends on the tile and its registers. -/
theorem Started.congr {t : Tile} (h : Started l t s) (hreg : ∀ r, tileOfReg r = some t → u.reg r = s.reg r)
    (htile : u.tile t = s.tile t) : Started l t u := by
  obtain ⟨hrun, hpc, htags, hflags, hjob, hlanes, hargs⟩ := h
  refine ⟨?_, (hreg _ rfl).trans hpc, (hreg _ rfl).trans htags, (hreg _ rfl).trans hflags, ?_, ?_, ?_⟩
  · rw [State.flag, State.fld, hreg _ rfl]
    exact hrun
  · rw [htile, hjob]
  · rw [htile, hlanes]
  · rw [htile]
    exact hargs

theorem Started.dispatchTile_other {t v : Tile} (h : Started l t s) (share : Nat) (hv : t ≠ v) :
    Started l t (s.dispatchTile v l share) :=
  h.congr (fun r hr => reg_dispatchTile_other share (by rw [hr]; exact fun e => hv (Option.some.inj e)))
    (tile_dispatchTile_other share hv)

/-- Each tile of a part is set up, whichever come after it. -/
theorem started_foldl_dispatchTile {t : Tile} (share : Nat) {ts : List Tile} (h : t ∈ ts ∨ Started l t s) :
    Started l t (ts.foldl (fun s t => s.dispatchTile t l share) s) := by
  induction ts generalizing s with
  | nil => exact h.resolve_left List.not_mem_nil
  | cons v ts ih =>
    refine ih ?_
    by_cases hv : t = v
    · exact .inr (hv ▸ started_dispatchTile s t l share)
    · exact h.imp (fun hm => (List.mem_cons.mp hm).resolve_left hv) fun hs => hs.dispatchTile_other share hv

theorem tile_foldl_dispatchTile {t : Tile} (share : Nat) {ts : List Tile} (h : t ∉ ts) :
    (ts.foldl (fun s t => s.dispatchTile t l share) s).tile t = s.tile t := by
  induction ts generalizing s with
  | nil => rfl
  | cons v ts ih =>
    have hv : t ≠ v := fun e => h (e ▸ List.mem_cons_self)
    exact (ih fun hm => h (List.mem_cons_of_mem v hm)).trans (tile_dispatchTile_other share hv)

/-- A dispatch sets up tiles and nothing of the host attach or of memory. -/
theorem host_foldl_dispatchTile (share : Nat) (ts : List Tile) (s : State) :
    (ts.foldl (fun s t => s.dispatchTile t l share) s).host = s.host ∧
      (ts.foldl (fun s t => s.dispatchTile t l share) s).mem = s.mem := by
  induction ts generalizing s with
  | nil => exact ⟨rfl, rfl⟩
  | cons v ts ih => exact ih _

theorem host_startTiles (s : State) (f : Folio) (l : Launch) :
    (s.startTiles f l).host = s.host ∧ (s.startTiles f l).mem = s.mem :=
  host_foldl_dispatchTile _ _ s

theorem started_movePart {t : Tile} (h : Started l t s) (f : Folio) : Started l t (s.movePart f l) :=
  h.congr (fun r hr => reg_movePart l (by rintro rfl; cases hr)) rfl

/-! ### What a dispatch does with a part that is next (R24, R69, R459) -/

namespace Dispatches
variable {index : BitVec 32}

/-- The part of the launch that a dispatch names. -/
def Named (s : State) (f : Folio) (q : HQueue) (index : BitVec 32) (l : Launch) : Prop :=
  s.host.launches.find? (fun l => l.hq = q && decide (l.index = index.toNat) && l.parts.contains f) = some l

theorem outcome_of_unlocked (h : Dispatches s f l) (hl : Named s f q index l) (hlock : s.tenseLocked = false) :
    doLaunchDispatch f q index s = s.refusePart f l := by
  rw [doLaunchDispatch_eq hl h, if_pos hlock]

theorem outcome_of_not_due (h : Dispatches s f l) (hl : Named s f q index l) (hlock : s.tenseLocked = true)
    (hwait : s.tenseNow < l.start ∨ ∃ t ∈ l.tiles, tileFolio t = f ∧ s.tileFree t = false) :
    doLaunchDispatch f q index s = s := by
  rw [doLaunchDispatch_eq hl h, if_neg (by simp [hlock]), if_pos]
  refine hwait.imp_right ?_
  rintro ⟨t, ht, hf, hfree⟩
  exact List.all_eq_false.mpr ⟨t, Launch.mem_tilesOn.mpr ⟨ht, hf⟩, by simp [hfree]⟩

theorem outcome_of_due (h : Dispatches s f l) (hl : Named s f q index l) (hlock : s.tenseLocked = true)
    (hstart : l.start ≤ s.tenseNow) (hfree : ∀ t ∈ l.tiles, tileFolio t = f → s.tileFree t = true) :
    doLaunchDispatch f q index s = (s.startTiles f l).movePart f l := by
  have hall : (l.tilesOn f).all s.tileFree = true :=
    List.all_eq_true.mpr fun t ht => hfree t (Launch.mem_tilesOn.mp ht).1 (Launch.mem_tilesOn.mp ht).2
  rw [doLaunchDispatch_eq hl h, if_neg (by simp [hlock]), if_neg (by simp [hall, hstart])]

end Dispatches

end Sys2Proof.Machine

end

section
/-! PROOFS. The end of an entry of a host queue (R456-R458, R468). -/

namespace Sys2Proof.Machine

variable {s u : State} {f : Folio} {q : HQueue} {l : Launch}

/-- An entry leaves the launches, and INFLIGHT follows. -/
def State.removeEntry (s : State) (l : Launch) : State :=
  (s.updHost (fun h => { h with launches := h.launches.filter (fun k => k.id ≠ l.id) })).countInflight l.hq

theorem reg_removeEntry {r : Reg} (h : r ≠ .hqStatus l.hq) : (s.removeEntry l).reg r = s.reg r :=
  State.reg_setFld_other _ _ _ h

theorem hqLocal_removeEntry (s : State) (l : Launch) : (s.removeEntry l).hqLocal l.hq = s.hqLocal l.hq :=
  hqLocal_congr (reg_removeEntry (by simp))

theorem length_launchRecord (s : State) (l : Launch) : (s.launchRecord l).length = 32 := by
  simp [State.launchRecord, leBytes]

/-- The record of an entry of a LOC 0 queue goes to the host, with its vector where both ask for it. -/
theorem completeEntry_of_not_local (h : s.hqLocal l.hq = false) :
    s.completeEntry l = if (l.word 0).testBit 8 && s.feature 1
      then ((s.removeEntry l).emit (.hostWrite (s.cplAddr l) (s.launchRecord l))).emit
        (.msix (s.fld (.hqCtl l.hq) Fld.hqCtlVector))
      else (s.removeEntry l).emit (.hostWrite (s.cplAddr l) (s.launchRecord l)) := by
  have hf : (s.removeEntry l).feature 1 = s.feature 1 := by
    rw [State.feature, reg_removeEntry (by simp)]
    rfl
  unfold State.completeEntry
  dsimp only
  rw [← State.removeEntry, hqLocal_removeEntry, h, if_neg (by decide), ← hf]
  rfl

/-- The record of an entry of a LOC 1 queue goes to the ream, and an event tells of it. -/
theorem completeEntry_of_local {off : Nat} (h : s.hqLocal l.hq = true) (hp : s.hqPlace (s.cplAddr l) 32 = some (f, off)) :
    s.completeEntry l = ((s.removeEntry l).folioWrite f none off (s.launchRecord l)).postEvent
      (Fin.ofNat 8 (s.fld (.hqCtl l.hq) Fld.hqCtlVector)) 3 l.hq.val (s.launchRecord l) := by
  have hp' : (s.removeEntry l).hqPlace (s.cplAddr l) 32 = some (f, off) :=
    (hqPlace_congr (reg_removeEntry (by simp)) _ _).trans hp
  unfold State.completeEntry
  dsimp only
  rw [← State.removeEntry, hqLocal_removeEntry, h, if_pos rfl, hp']

theorem aside_completeEntry (s : State) (l : Launch) : Aside true (s.removeEntry l) (s.completeEntry l) := by
  have h := Aside.refl (w := true) (s.removeEntry l)
  refine h.branch (fun h => ?_) fun h => h.emit.when (·.emit)
  refine Aside.postEvent ?_
  split
  · exact h.folioWrite
  · exact h

theorem regionBlocks_congr (h : ∀ r, hostReg r = false → u.reg r = s.reg r) (f : Folio) (off n : Nat) :
    u.regionBlocks f off n = s.regionBlocks f off n := by
  refine congrArg (List.any _) (funext fun r => ?_)
  unfold State.fld
  rw [h (.regionState f r) rfl, h (.regionCount f r) rfl, h (.regionTarget f r) rfl, h (.regionSlot f r) rfl]

/-- An event of a folio whose queue is off is lost, and nothing is written (R469). -/
theorem mem_postEvent_of_off {kind source : Nat} {record : List Byte} (h : s.flag (.evqCtl f) Fld.evqCtlEnable = false) :
    (s.postEvent f kind source record).mem = s.mem := by
  have hw : s.eventWaits f = false := by rw [State.eventWaits, h, Bool.false_and]
  rw [State.postEvent, if_neg (by simp [hw]), State.writeEvent]
  dsimp only
  rw [if_neg (by simp [h])]
  exact (Aside.refl (w := false) s).loseEvent.mem rfl

/-- Every entry that is completed has its record written, in the sense of R458. -/
theorem completes_completeEntry (s : State) (l : Launch) : s.completes (s.completeEntry l) l := by
  have ha := aside_completeEntry s l
  refine ⟨by rw [ha.host]; rfl, ?_, fun hl => ?_, fun f off hl hp hr hm ho hoff => ?_⟩
  · rw [State.fld, ha.reg _ rfl, State.hqLaunches, ha.host]
    exact fld_inflight_countInflight _ l.hq
  · rw [completeEntry_of_not_local hl]
    split
    · exact ⟨rfl, List.append_assoc _ [_] [_]⟩
    · exact ⟨rfl, rfl⟩
  · have hblocks : (s.removeEntry l).regionBlocks f off (s.launchRecord l).length = false := by
      rw [length_launchRecord, ← hr]
      exact regionBlocks_congr (fun r hr => reg_removeEntry (by rintro rfl; cases hr)) f off 32
    rw [completeEntry_of_local hl hp, mem_postEvent_of_off, State.folioWrite_clean (s := s.removeEntry l) hm ho hblocks]
    · rfl
    · rw [State.flag, State.fld, (Aside.refl (w := true) (s.removeEntry l)).folioWrite.reg _ rfl,
        reg_removeEntry (by simp)]
      exact hoff

theorem doHqNop_of_waits (h : s.unchecked q = some l) (hw : s.ringWaits q (s.cplAddr l) 32 = true) : doHqNop q s = s := by
  rw [doHqNop, h]
  exact if_pos (.inr (.inr hw))

theorem doHqNop_of_kind_zero (h : s.unchecked q = some l) (hk : l.kind = 0) (hc : s.clocksStopped = false)
    (hw : s.ringWaits q (s.cplAddr l) 32 = false) : doHqNop q s = s.completeEntry { l with tense := s.tenseNow } := by
  rw [doHqNop, h]
  exact if_neg (by simp [hk, hc, hw])

section
variable {index : BitVec 32}
  (h : s.host.launches.find? (fun l => l.hq = q && decide (l.index = index.toNat) && l.checked) = some l)
include h

theorem doLaunchComplete_of_waits (hw : s.ringWaits q (s.cplAddr l) 32 = true) : doLaunchComplete q index s = s := by
  rw [doLaunchComplete, h]
  exact if_pos (.inr (.inr (.inr hw)))

theorem doLaunchComplete_of_ended (hp : l.parts = []) (hr : l.running = []) (hc : s.clocksStopped = false)
    (hw : s.ringWaits q (s.cplAddr l) 32 = false) : doLaunchComplete q index s = s.completeEntry l := by
  rw [doLaunchComplete, h]
  exact if_neg (by simp [hp, hr, hc, hw])

end

end Sys2Proof.Machine

end

section
/-! PROOFS. What a host queue does, from the write that enables it to the record of its entries' end. -/

open Sys2Proof Sys2Proof.Machine

/-- Settles O57: each command is one lemma of the queue, of the launches, or of their end. -/
theorem hostQueuesComplete : Obligations.HostQueuesComplete := by
  unfold Obligations.HostQueuesComplete
  refine ⟨?enable, ?snoop, ?poll, ?fetch, ?launch, ?dispatch, ?complete⟩
  case enable =>
    intro s src q ctl line hacc hh hoff hon
    obtain ⟨u, hu, he⟩ := exec_hqEnable line hacc hh hoff hon
    refine ⟨fun hloc hfit => ?_, fun f off hloc hp => ⟨fun hw => ?_, fun hw hm ho hfit => ?_⟩⟩
    · rw [hu.seeTail_of_line hloc hfit] at he
      exact ⟨_, he, hu.runs, hu.head, State.hqTail_setTail_same u q _⟩
    · rw [seeTail_of_waits line ((hu.tailWaits hloc hp).trans hw)] at he
      exact ⟨_, he, hu.runs, hu.head, hu.tail⟩
    · obtain ⟨v, hv, ht⟩ := hu.seeTail_of_word hloc hp hw hm ho hfit line
      rw [ht] at he
      have hruns := (hqRuns_congr (hv.reg (.hqCtl q) (by simp)) hv.host).trans hu.runs
      have hhead := (hqHead_congr (hv.reg (.hqHead q) (by simp))).trans hu.head
      generalize s.readLe (reamAddr f off) 8 % 2 ^ 32 = n at he ⊢
      exact ⟨_, he, hruns, hhead, State.hqTail_setTail_same v q n⟩
  case snoop =>
    intro s q line hr hc n
    have hruns : (s.bump (.hqStatus q) Fld.hqStatusSnoops 1).hqRuns q = true :=
      (hqRuns_congr (reg_bump_hqStatus _ (by simp)) rfl).trans hr
    refine ⟨fun hw => ?_, fun hl hfit => ?_, fun hl hfar => ?_, fun f off hl hw hm ho hp => ?_⟩
    · exact congrArg Host.Outcome.next (doHqTailSnoop_of_waits line hw)
    · exact ⟨_, congrArg Host.Outcome.next (doHqTailSnoop_of_fits hr hc hl hfit), State.hqTail_setTail_same _ q _, hruns,
        fld_bump_hqStatus s q (by decide)⟩
    · exact ⟨_, congrArg Host.Outcome.next (doHqTailSnoop_of_beyond hr hc hl hfar), hqRuns_hqStop _ q 1,
        flag_error_hqStop _ q 1, fld_errorCode_hqStop _ q (by decide)⟩
    · generalize htail : s.readLe (reamAddr f off) 8 % 2 ^ 32 = n
      intro tail hfit
      obtain ⟨u, hu, he⟩ := doHqTailSnoop_of_local line hr hc hl hw hm ho hp htail hfit
      exact ⟨_, congrArg Host.Outcome.next he, State.hqTail_setTail_same u q n, hu.reg⟩
  case poll =>
    intro s lines hc hm hd
    refine ⟨_, congrArg Host.Outcome.next (doHqTailPoll_of_due hc hd), lastPoll_foldl_pollQueue _ _ _,
      fun q hr hl hne hfit => ?_⟩
    exact foldl_pollQueue_of_moved (List.nodup_finRange 64) (List.mem_finRange q) hr hl hne hfit
  case fetch =>
    intro s q entry hr hc hmore hroom hfree taken
    have h : Fetches s q := ⟨hr, hc, hmore, hroom, hfree⟩
    have htaken : ∀ {u : State} (ws : List W64), Opened s u → taken (u.takeEntry q (s.hqHead q) ws) ws := by
      intro u ws hu
      have hlaunches : u.hqLaunches q = s.hqLaunches q := by rw [State.hqLaunches, hu.host]; rfl
      refine ⟨by rw [launches_takeEntry, hu.host], hqHead_takeEntry u q _ ws, ?_, hu.mem⟩
      rw [inflight_takeEntry _ _ (hlaunches ▸ hroom), hlaunches]
    refine ⟨fun hl => ⟨fun ws he => ?_, fun he => ?_⟩, fun hw => ?_, fun f off hl hw hm ho hp => ?_⟩
    · subst he
      exact ⟨_, congrArg Host.Outcome.next (doHqEntryFetch_of_not_local h hl), htaken _ (Opened.refl s)⟩
    · subst he
      exact ⟨_, congrArg Host.Outcome.next (doHqEntryFetch_of_failed h hl), hqRuns_hqStop s q 2,
        flag_error_hqStop s q 2, fld_errorCode_hqStop s q (by decide)⟩
    · exact congrArg Host.Outcome.next (doHqEntryFetch_of_waits entry hw)
    · obtain ⟨u, hu, he⟩ := doHqEntryFetch_of_local entry h hl hw hm ho hp
      exact ⟨_, congrArg Host.Outcome.next he, htaken _ hu⟩
  case launch =>
    intro s q l hl hc
    have hmem := mem_of_unchecked hl
    refine ⟨fun hk hst => ?_, fun hk hst hroom => ?_, fun hk hw => ?_, fun hk hw => ?_⟩
    · exact ⟨_, congrArg Host.Outcome.next (doLaunch_of_refused hl hk hc hst), rfl, _,
        mem_launches_updLaunch _ hmem rfl, rfl, rfl, rfl, rfl⟩
    · refine ⟨_, congrArg Host.Outcome.next (doLaunch_of_good hl hk hc hst hroom), fun f => ?_, s.placed l l, ?_, rfl, rfl,
        ?_, rfl⟩
      · simp only [launchQueue_foldl_enqueuePart l.id (nodup_upFolios s l), State.launchQueue_updLaunch, mem_upFolios]
      · rw [launches_foldl_enqueuePart]
        exact mem_launches_updLaunch _ hmem rfl
      · simp only [State.placed, length_upFolios_eq_iff, ite_not]
    · exact congrArg Host.Outcome.next (doHqNop_of_waits hl hw)
    · exact ⟨_, congrArg Host.Outcome.next (doHqNop_of_kind_zero hl hk hc hw), completes_completeEntry s _⟩
  case dispatch =>
    intro s f q index l hl hquiet hfirst hup hc
    have h : Dispatches s f l := ⟨hquiet, hfirst, hup, hc⟩
    have hmem := List.mem_of_find?_eq_some hl
    refine ⟨fun hlock => ?_, fun hlock hwait => ?_, fun hlock hstart hfree => ?_⟩
    · exact ⟨_, congrArg Host.Outcome.next (h.outcome_of_unlocked hl hlock), launchQueue_refusePart s f l,
        tiles_refusePart s f l, mem_launches_refusePart f hmem⟩
    · exact congrArg Host.Outcome.next (h.outcome_of_not_due hl hlock hwait)
    · obtain ⟨hhost, hbytes⟩ := host_startTiles s f l
      have hqueue : (s.startTiles f l).launchQueue f = s.launchQueue f := by rw [State.launchQueue, hhost]; rfl
      refine ⟨_, congrArg Host.Outcome.next (h.outcome_of_due hl hlock hstart hfree), ?_,
        (mem_movePart _ f l).trans hbytes, fun t ht hf => ?_, fun t ht => ?_, mem_launches_movePart f (hhost ▸ hmem)⟩
      · rw [launchQueue_movePart, hqueue]
      · obtain ⟨hrun, hpc, htags, hflags, hjob, hlanes, hargs⟩ := started_movePart
          (started_foldl_dispatchTile (s := s) _ (.inl (Launch.mem_tilesOn.mpr ⟨ht, hf⟩))) f
        exact ⟨hrun, hpc, htags, hflags, hjob, hlanes, hargs⟩
      · exact (tile_movePart _ f l t).trans (tile_foldl_dispatchTile _ (mt Launch.mem_tilesOn.mp ht))
  case complete =>
    intro s q index l hl hp hr hc
    exact ⟨fun hw => congrArg Host.Outcome.next (doLaunchComplete_of_waits hl hw),
      fun hw => ⟨_, congrArg Host.Outcome.next (doLaunchComplete_of_ended hl hp hr hc hw), completes_completeEntry s l⟩⟩

end

section
/-! LEMMAS. What the completion of an inflection operation does to its tile's queue, NUM_STATUS and SCOREBOARD. -/

namespace Sys2Proof.Machine

/-! ### Flags and tags -/

@[simp] theorem State.reg_setFlags_same (s : State) (t : Tile) (f : Flags) :
    (s.setFlags t f).reg (.numStatus t) = s.reg (.numStatus t) ||| f.setWidth 64 := State.reg_setReg_same s _ _

theorem State.reg_setFlags_other (s : State) (t : Tile) (f : Flags) {q : Reg} (h : q ≠ .numStatus t) :
    (s.setFlags t f).reg q = s.reg q := State.reg_setReg_other s _ h

@[simp] theorem State.tagBusy_setFlags (s : State) (t u : Tile) (f : Flags) (i : Nat) :
    (s.setFlags t f).tagBusy u i = s.tagBusy u i :=
  congrArg (·.getLsbD i) (s.reg_setFlags_other t f (q := .scoreboard u) nofun)

@[simp] theorem State.tagBusy_updTile (s : State) (t u : Tile) (f : TileState → TileState) (i : Nat) :
    (s.updTile t f).tagBusy u i = s.tagBusy u i := rfl

/-! ### The oldest operation of a tag -/

/-- The search for a tag passes the operations of other tags and keeps them in their order. -/
theorem takeInfl_append_cons {tag : Nat} {pre : List InflOp} {o : InflOp} (post : List InflOp) (ho : o.tag = tag)
    (hpre : ∀ p ∈ pre, p.tag ≠ tag) : takeInfl tag (pre ++ o :: post) = some (o, pre ++ post) := by
  induction pre with
  | nil => exact if_pos ho
  | cons p ps ih =>
    obtain ⟨hp, hps⟩ := List.forall_mem_cons.mp hpre
    simp [takeInfl, hp, ih hps]

/-! ### Completion -/

/-- The end of operation `o` of a tile, which leaves `rest` of the queue (R159). -/
def State.finishInfl (s : State) (t : Tile) (o : InflOp) (rest : List InflOp) : State :=
  let s := (s.updTile t (fun x => { x with infl := rest })).setFlags t o.flags
  if o.holds then s.clearTag t o.tag else s

theorem doInflectionComplete_of_oldest {s : State} {t : Tile} {tag : Fin 64} {pre post : List InflOp} {o : InflOp}
    (hc : s.clocksStopped = false) (hq : (s.tile t).infl = pre ++ o :: post) (ho : o.tag = tag.val)
    (hpre : ∀ p ∈ pre, p.tag ≠ tag.val) : doInflectionComplete t tag s = s.finishInfl t o (pre ++ post) := by
  simp [doInflectionComplete, State.finishInfl, hc, hq, takeInfl_append_cons post ho hpre, ho]

section
variable (s : State) (t : Tile) (o : InflOp) (rest : List InflOp)

theorem State.mem_finishInfl : (s.finishInfl t o rest).mem = s.mem := by
  unfold State.finishInfl
  cases o.holds <;> rfl

theorem State.tile_finishInfl_same : (s.finishInfl t o rest).tile t = { s.tile t with infl := rest } := by
  unfold State.finishInfl
  cases o.holds <;> simp

theorem State.numStatus_finishInfl :
    (s.finishInfl t o rest).reg (.numStatus t) = s.reg (.numStatus t) ||| o.flags.setWidth 64 := by
  unfold State.finishInfl
  cases o.holds with
  | false => simp
  | true => simp [State.reg_clearTag_other]

theorem State.reg_finishInfl_other {q : Reg} (hn : q ≠ .numStatus t) (hb : q ≠ .scoreboard t) :
    (s.finishInfl t o rest).reg q = s.reg q := by
  unfold State.finishInfl
  cases o.holds with
  | false => simp [State.reg_setFlags_other, hn]
  | true => simp [State.reg_clearTag_other, State.reg_setFlags_other, hn, hb]

theorem State.tagBusy_finishInfl_same (h : o.tag < 64) :
    (s.finishInfl t o rest).tagBusy t o.tag = (s.tagBusy t o.tag && !o.holds) := by
  unfold State.finishInfl
  cases o.holds with
  | false => simp
  | true => simp [State.tagBusy_clearTag_same, h]

end

end Sys2Proof.Machine

end

section
/-! PROOFS. The completion of an inflection operation sets its flags and clears the tag that it held. -/

open Sys2Proof Sys2Proof.Machine

/-- Settles O25: the command ends the oldest operation of its tag, and each clause is one rule of that end. -/
theorem inflectionCompletionClearsTheTag : Obligations.InflectionCompletionClearsTheTag := by
  unfold Obligations.InflectionCompletionClearsTheTag
  intro t tag s pre post o hc hq ho hpre
  have htile := s.tile_finishInfl_same t o (pre ++ post)
  refine ⟨_, congrArg Host.Outcome.next (doInflectionComplete_of_oldest hc hq ho hpre), congrArg TileState.infl htile,
    s.numStatus_finishInfl t o _, ?tag, s.mem_finishInfl t o _, (congrArg TileState.t htile :),
    fun r => s.reg_finishInfl_other t o _⟩
  case tag => exact ho ▸ s.tagBusy_finishInfl_same t o _ (ho ▸ tag.isLt)

end

section
/-! PROOFS. How many bytes the cells of one transaction carry, and a loaded DMA piece that is too long for one (R291, R293). -/

namespace Sys2Proof

open Machine

theorem Cell.length_data_le (c : Cell) : c.data.length ≤ 64 := by
  simp [Cell.data, payloadBytes]

theorem length_flatMap_range_le {α : Type} {g : Nat → List α} {b m : Nat} (hb : ∀ i, (g i).length ≤ b)
    (hm : ∀ i, m ≤ i → g i = []) (n : Nat) : ((List.range n).flatMap g).length ≤ m * b := by
  have hmin : ((List.range n).flatMap g).length ≤ min n m * b := by
    induction n with
    | zero => simp
    | succ n ih =>
      rw [List.range_succ, List.flatMap_append, List.length_append, List.flatMap_singleton]
      by_cases h : m ≤ n
      · simpa [hm n h, Nat.min_eq_right h, Nat.min_eq_right (Nat.le_succ_of_le h)] using ih
      · have hmins : min n m = n ∧ min (n + 1) m = n + 1 := by omega
        rw [hmins.1] at ih
        rw [hmins.2, Nat.succ_mul]
        exact Nat.add_le_add ih (hb n)
  exact hmin.trans (Nat.mul_le_mul_right b (Nat.min_le_right n m))

/-- SEQ has 12 bits and a cell 64 payload bytes, so no transaction carries more than 2^18 bytes. -/
theorem length_cellsData_le (cs : List Cell) : (cellsData cs).length ≤ 4096 * 64 := by
  refine length_flatMap_range_le (fun i => ?_) (fun i hi => ?_) cs.length
  · split
    next c _ => exact c.length_data_le
    next => exact Nat.zero_le 64
  · have hnone : cs.find? (fun c => c.seq.toNat = i) = none := by
      refine List.find?_eq_none.mpr fun c _ => ?_
      have := c.seq.isLt
      simp only [decide_eq_true_eq]
      omega
    rw [hnone]

theorem length_memRequest (off op n : Nat) (bs : List Byte) : (memRequest off op n bs).length = 16 + bs.length := by
  rw [memRequest, List.length_append, List.length_append, leBytes, leBytes, List.length_map, List.length_map,
    List.length_range]

namespace Machine

/-- A copy from the own vat of tile 0 to the die of folio 3 that holds a loaded piece of `bs`. -/
def farCopy (bs : List Byte) : Xfer :=
  { tag := 0, off := 0, src := ⟨0, vatSize, true, true, true, 1⟩, dst := ⟨3 * 2 ^ 46, vatSize, true, true, true, 1⟩,
    desc := { length := 32, kind := 0, srcBuf := 0, dstBuf := 1, srcFmt := 0, dstFmt := 0, srcOff := 0, srcPitch := 0,
              dstOff := 0, dstPitch := 0, count := 1, rm := 0, satc := false, wbits := 0, idxOff := 0,
              reservedBits := false },
    idx := [], row := 0, part := 0, loaded := some bs, asked := false, finished := false, status := 0, bytes := 0,
    flags := 0, seed := 0, step := 0 }

/-- The device after reset with only that transfer. -/
def farCopying (bs : List Byte) : State := State.reset.updTile 0 (fun y => { y with xfers := [farCopy bs] })

theorem dstAddr_farCopy (bs : List Byte) : (farCopy bs).dstAddr = 3 * 2 ^ 46 := by
  simp [farCopy, Xfer.dstAddr, Desc.outLen, Desc.converts, Desc.fill]

end Machine

end Sys2Proof

end

section
/-! PROOFS. DMA rows: the statement of O17 names no bound on the bytes of a piece that goes to another die. -/

open Sys2Proof Sys2Proof.Machine

/-- Refutes O17: its clause for a far destination lets the loaded piece have any length, and a STORE with a piece of 2^18
bytes does not fit a transaction, whose cells carry its header and 2^18 - 16 bytes. The device loads no such piece (R206). -/
theorem not_dmaMovesARowWithinTheVat : ¬ Obligations.DmaMovesARowWithinTheVat := by
  unfold Obligations.DmaMovesARowWithinTheVat
  rintro ⟨-, -, -, -, -, -, -, -, hfar, -⟩
  obtain ⟨bs, hlen⟩ : ∃ bs : List Byte, bs.length = 2 ^ 18 := ⟨List.replicate (2 ^ 18) 0, List.length_replicate⟩
  have hchip : (farCopying bs).chip = 0 := (by decide +kernel : State.reset.chip = 0)
  have haddr : (farCopy bs).dstAddr = 3 * 2 ^ 46 := dstAddr_farCopy bs
  have hplace : (farCopying bs).place 0 (farCopy bs).dstAddr = .far 0 3 0 := by
    rw [haddr, State.place, hchip, if_pos (.inr (by decide))]
    rfl
  have htwin : twinDst (farCopying bs) 0 (farCopy bs).dstAddr = none := by
    rw [haddr, twinDst, if_neg (fun h => absurd h.2.1 (by decide))]
  obtain ⟨-, hstore⟩ := hfar 0 0 (farCopying bs) (farCopy bs) 0 3 0 0 rfl rfl rfl Nat.one_ne_zero rfl rfl rfl rfl rfl
  obtain ⟨s', q, -, -, -, -, -, hdata, -⟩ := hstore bs (List.mem_cons_self ..) rfl htwin hplace rfl
  have hfits := length_cellsData_le q.cells
  rw [hdata, length_memRequest, hlen] at hfits
  omega

end

section
/-! LEMMAS. The bits of little-endian bytes and of a vat: what a read returns, and which bits a write changes (R5, R46). -/

namespace Sys2Proof.Machine

/-! ### Little-endian bytes -/

theorem testBit_leNat (bs : List Byte) (i : Nat) : (leNat bs).testBit i = (bs.getD (i / 8) 0).getLsbD (i % 8) := by
  induction bs generalizing i with
  | nil => simp [leNat]
  | cons b bs ih =>
    have hcat : leNat (b :: bs) = 2 ^ 8 * leNat bs + b.toNat := Nat.add_comm ..
    rw [hcat, Nat.testBit_two_pow_mul_add _ b.isLt]
    split
    next h => simp [Nat.div_eq_of_lt h, Nat.mod_eq_of_lt h, BitVec.getLsbD]
    next h =>
      have hdiv : i / 8 = (i - 8) / 8 + 1 := by omega
      have hmod : i % 8 = (i - 8) % 8 := by omega
      rw [ih, hdiv, hmod, List.getD_cons_succ]

theorem getLsbD_leBytes {n i j : Nat} (v : Nat) (hi : i < n) (hj : j < 8) :
    ((leBytes n v).getD i 0).getLsbD j = v.testBit (8 * i + j) := by
  have hbyte : (leBytes n v).getD i 0 = BitVec.ofNat 8 (v / 2 ^ (8 * i)) := by
    simp [leBytes, List.getD_eq_getElem?_getD, hi, Nat.pow_mul]
  rw [hbyte, BitVec.getLsbD_ofNat, Nat.testBit_div_two_pow, decide_eq_true hj, Bool.true_and, Nat.add_comm]

@[simp] theorem length_leBytes (n v : Nat) : (leBytes n v).length = n := by simp [leBytes]

/-! ### The bits of a vat -/

/-- Bit `q` of a tile's vat. -/
def State.vatBit (s : State) (t : Tile) (q : Nat) : Bool := (s.mem.read (vatAddr t (q / 8))).getLsbD (q % 8)

@[simp] theorem State.length_vatRead (s : State) (t : Tile) (off n : Nat) : (s.vatRead t off n).length = n := by
  simp [State.vatRead]

theorem State.getD_vatRead (s : State) (t : Tile) (off : Nat) {i n : Nat} (h : i < n) :
    (s.vatRead t off n).getD i 0 = s.mem.read (vatAddr t (off + i)) := by
  simp [State.vatRead, List.getD_eq_getElem?_getD, h]

theorem State.testBit_leNat_vatRead (s : State) (t : Tile) (off : Nat) {i n : Nat} (h : i < 8 * n) :
    (leNat (s.vatRead t off n)).testBit i = s.vatBit t (8 * off + i) := by
  have hbyte : (8 * off + i) / 8 = off + i / 8 := by omega
  have hbit : (8 * off + i) % 8 = i % 8 := by omega
  rw [testBit_leNat, s.getD_vatRead t off (by omega), State.vatBit, hbyte, hbit]

theorem State.testBit_vatBits (s : State) (t : Tile) (bit : Nat) {i w : Nat} (h : i < w) :
    (s.vatBits t bit w).testBit i = s.vatBit t (bit + i) := by
  have hread : s.vatBits t bit w = leNat (s.vatRead t (bit / 8) ((bit % 8 + w + 7) / 8)) / 2 ^ (bit % 8) % 2 ^ w := rfl
  have hpos : 8 * (bit / 8) + (bit % 8 + i) = bit + i := by omega
  rw [hread, Nat.testBit_mod_two_pow, Nat.testBit_div_two_pow, s.testBit_leNat_vatRead t _ (by omega), Nat.add_comm i, hpos]
  simp [h]

theorem State.vatBits_lt (s : State) (t : Tile) (bit w : Nat) : s.vatBits t bit w < 2 ^ w :=
  Nat.mod_lt _ (Nat.two_pow_pos w)

/-- A word of the vat is a value when it has the value's bits. -/
theorem State.vatBits_eq_of_vatBit {s : State} {t : Tile} {bit w v : Nat} (hv : v < 2 ^ w)
    (h : ∀ i < w, s.vatBit t (bit + i) = v.testBit i) : s.vatBits t bit w = v := by
  refine Nat.eq_of_testBit_eq fun i => ?_
  by_cases hi : i < w
  · rw [s.testBit_vatBits t bit hi, h i hi]
  · have hw : 2 ^ w ≤ 2 ^ i := Nat.pow_le_pow_right Nat.two_pos (Nat.le_of_not_lt hi)
    rw [Nat.testBit_lt_two_pow ((s.vatBits_lt t bit w).trans_le hw), Nat.testBit_lt_two_pow (hv.trans_le hw)]

/-! ### Writes of a vat -/

theorem vatAddr_eq {t : Tile} {off : Nat} (h : off < vatSize) : vatAddr t off = vatAddr t 0 + off := by
  simp only [vatAddr, dieAddr, Nat.mod_eq_of_lt h, Nat.zero_mod]
  omega

theorem vatAddr_ne {t : Tile} {p q : Nat} (hp : p < vatSize) (hq : q < vatSize) (h : p ≠ q) : vatAddr t p ≠ vatAddr t q := by
  rw [vatAddr_eq hp, vatAddr_eq hq]
  omega

theorem vatAddr_bounds (t : Tile) (off : Nat) : vatAddr t 0 ≤ vatAddr t off ∧ vatAddr t off < vatAddr t 0 + vatSize := by
  have h : off % vatSize < vatSize := Nat.mod_lt _ (by decide)
  simp only [vatAddr, dieAddr, Nat.zero_mod]
  omega

/-- From `s` to `u` nothing but bytes of the tile's vat changed. -/
structure VatOnly (t : Tile) (s u : State) : Prop where
  frame : u = { s with mem := u.mem }
  outside : ∀ a, a < vatAddr t 0 ∨ vatAddr t 0 + vatSize ≤ a → u.mem.read a = s.mem.read a

namespace VatOnly
variable {t : Tile} {s u v : State}

theorem refl (t : Tile) (s : State) : VatOnly t s s := ⟨rfl, fun _ _ => rfl⟩

theorem trans (h : VatOnly t s u) (k : VatOnly t u v) : VatOnly t s v where
  frame := by rw [k.frame, h.frame]
  outside a ha := (k.outside a ha).trans (h.outside a ha)

theorem marks (h : VatOnly t s u) : u.marks = s.marks := by rw [h.frame]

end VatOnly

theorem State.vatOnly_vatPut (s : State) (t : Tile) (off : Nat) (bs : List Byte) : VatOnly t s (s.vatPut t off bs) := by
  induction bs generalizing s off with
  | nil => exact VatOnly.refl t s
  | cons b bs ih =>
    refine VatOnly.trans ⟨rfl, fun a ha => Memory.read_write_other _ _ ?_⟩ (ih _ (off + 1))
    have := vatAddr_bounds t off
    omega

theorem State.read_vatPut (s : State) (t : Tile) {off p : Nat} (bs : List Byte) (h : off + bs.length ≤ vatSize)
    (hp : p < vatSize) : (s.vatPut t off bs).mem.read (vatAddr t p) =
      if off ≤ p ∧ p < off + bs.length then bs.getD (p - off) 0 else s.mem.read (vatAddr t p) := by
  induction bs generalizing s off with
  | nil => exact (if_neg (by simp)).symm
  | cons b bs ih =>
    simp only [List.length_cons] at h ⊢
    rw [State.vatPut, ih _ (by omega)]
    rcases Nat.lt_trichotomy p off with hlt | rfl | hgt
    · rw [if_neg (by omega), if_neg (by omega)]
      exact Memory.read_write_other _ _ (vatAddr_ne hp (by omega) (by omega))
    · rw [if_neg (by omega), if_pos (by omega), Nat.sub_self]
      exact Memory.read_write_same _ _ _
    · have hsub : p - off = (p - (off + 1)) + 1 := by omega
      by_cases hin : p < off + 1 + bs.length
      · rw [if_pos (by omega), if_pos (by omega), hsub, List.getD_cons_succ]
      · rw [if_neg (by omega), if_neg (by omega)]
        exact Memory.read_write_other _ _ (vatAddr_ne hp (by omega) (by omega))

/-- Writing back the bytes that stand there changes no bit. -/
theorem State.vatBit_vatPut_vatRead (s : State) (t : Tile) {off n q : Nat} (h : off + n ≤ vatSize) (hq : q < 8 * vatSize) :
    (s.vatPut t off (s.vatRead t off n)).vatBit t q = s.vatBit t q := by
  rw [State.vatBit, s.read_vatPut t _ (by simpa using h) (by omega), s.length_vatRead]
  split
  next hin => rw [s.getD_vatRead t off (by omega), Nat.add_sub_cancel' hin.1, State.vatBit]
  next => rfl

/-! ### Words at bit addresses (R210) -/

/-- A value with `w` of its bits from bit `r` on replaced. -/
theorem testBit_replace {old v r w : Nat} (hv : v < 2 ^ w) (i : Nat) :
    (old % 2 ^ r + v * 2 ^ r + old / (2 ^ r * 2 ^ w) * (2 ^ r * 2 ^ w)).testBit i =
      if r ≤ i ∧ i < r + w then v.testBit (i - r) else old.testBit i := by
  have hcat : old % 2 ^ r + v * 2 ^ r + old / (2 ^ r * 2 ^ w) * (2 ^ r * 2 ^ w) =
      2 ^ r * (2 ^ w * (old / 2 ^ (r + w)) + v) + old % 2 ^ r := by
    rw [Nat.pow_add]
    ring
  rw [hcat, Nat.testBit_two_pow_mul_add _ (Nat.mod_lt _ (Nat.two_pow_pos r)), Nat.testBit_two_pow_mul_add _ hv,
    Nat.testBit_mod_two_pow, Nat.testBit_div_two_pow]
  by_cases hr : i < r
  · simp [hr]
  · by_cases hw : i < r + w
    · simp [hr, hw, Nat.le_of_not_lt hr, show i - r < w by omega]
    · simp [hr, hw, show ¬ i - r < w by omega, show i - r - w + (r + w) = i by omega]

theorem State.vatBit_vatPutBits (s : State) (t : Tile) {bit w v q : Nat} (hv : v < 2 ^ w) (h : bit + w ≤ 8 * vatSize)
    (hq : q < 8 * vatSize) : (s.vatPutBits t bit w v).vatBit t q =
      if bit ≤ q ∧ q < bit + w then v.testBit (q - bit) else s.vatBit t q := by
  have hold : (List.range ((bit % 8 + w + 7) / 8)).map (fun i => s.mem.read (vatAddr t (bit / 8 + i))) =
      s.vatRead t (bit / 8) ((bit % 8 + w + 7) / 8) := rfl
  rw [State.vatPutBits, hold, State.vatBit, s.read_vatPut t _ (by simp; omega) (by omega), length_leBytes]
  split
  next hin =>
    obtain ⟨hlo, hhi⟩ := hin
    rw [getLsbD_leBytes _ (by omega) (by omega), testBit_replace hv, s.testBit_leNat_vatRead t _ (by omega)]
    have hpos : 8 * (q / 8 - bit / 8) + q % 8 = q - 8 * (bit / 8) := by omega
    have hsub : q - 8 * (bit / 8) - bit % 8 = q - bit := by omega
    have hadd : 8 * (bit / 8) + (q - 8 * (bit / 8)) = q := by omega
    rw [hpos, hsub, hadd]
    exact if_congr (by omega) rfl rfl
  next hout => exact (if_neg (by omega)).symm

theorem State.vatOnly_vatPutBits (s : State) (t : Tile) (bit w v : Nat) : VatOnly t s (s.vatPutBits t bit w v) :=
  s.vatOnly_vatPut t _ _

end Sys2Proof.Machine

end

section
/-! LEMMAS. The words of a skewed DMA row: where they stand, and that writing them changes no other bit (R130, R210). -/

namespace Sys2Proof.Machine

/-! ### Where the words stand -/

theorem dmaLine_of_repaired {s : State} {t : Tile} {f : Nat} (h : s.repairRow t = some f) (i k : Nat) :
    dmaLine s t i k = if f ≤ k then i + k + 1 else i + k := by
  unfold State.repairRow at h
  split at h
  next hf =>
    obtain rfl := Option.some.inj h
    simp [dmaLine, hf]
  next => exact nomatch h

theorem dmaLine_of_whole {s : State} {t : Tile} (h : s.repairRow t = none) (i k : Nat) : dmaLine s t i k = i + k := by
  unfold State.repairRow at h
  split at h
  next => exact nomatch h
  next hf => simp [dmaLine, hf]

theorem dmaLine_lt {s : State} {t : Tile} (i : Nat) {k m : Nat} (h : k < m) : dmaLine s t i k < dmaLine s t i m := by
  cases hr : s.repairRow t with
  | none => rw [dmaLine_of_whole hr, dmaLine_of_whole hr]; omega
  | some f => rw [dmaLine_of_repaired hr, dmaLine_of_repaired hr]; split <;> split <;> omega

theorem dmaLine_le (s : State) (t : Tile) (i k : Nat) : dmaLine s t i k ≤ i + k + 1 := by
  cases hr : s.repairRow t with
  | none => rw [dmaLine_of_whole hr]; omega
  | some f => rw [dmaLine_of_repaired hr]; split <;> omega

/-- The bit of the vat at which word `k` of the current row of a skewed transfer begins. -/
def Xfer.wordBit (x : Xfer) (s : State) (t : Tile) (k : Nat) : Nat :=
  8 * (x.desc.dstOff + dmaLine s t (x.desc.dstPitch + x.row) k * x.desc.line) + k * x.desc.wbits

section
variable (x : Xfer) (s : State) (t : Tile)

theorem Desc.mul_wbits_le (d : Desc) {k : Nat} (h : k < 128) : k * d.wbits + d.wbits ≤ 8 * d.line := by
  have := Nat.mul_le_mul_right d.wbits (Nat.succ_le_of_lt h)
  rw [Nat.succ_mul] at this
  rw [Desc.line]
  omega

/-- A word ends before a later one begins: it stands in an earlier line. -/
theorem Xfer.wordBit_add_le {k m : Nat} (hkm : k < m) (hm : m < 128) :
    x.wordBit s t k + x.desc.wbits ≤ x.wordBit s t m := by
  have hline := Nat.mul_le_mul_right x.desc.line
    (Nat.succ_le_of_lt (dmaLine_lt (s := s) (t := t) (x.desc.dstPitch + x.row) hkm))
  have hword := x.desc.mul_wbits_le (hkm.trans hm)
  rw [Nat.succ_mul] at hline
  unfold Xfer.wordBit
  omega

theorem Xfer.wordBit_le {k n : Nat} (hk : k < 128)
    (h : x.desc.dstOff + (x.desc.dstPitch + x.row + 129) * x.desc.line ≤ n) :
    x.wordBit s t k + x.desc.wbits ≤ 8 * n := by
  have hline : (dmaLine s t (x.desc.dstPitch + x.row) k + 1) * x.desc.line ≤
      (x.desc.dstPitch + x.row + 129) * x.desc.line := by
    refine Nat.mul_le_mul_right _ ?_
    have := dmaLine_le s t (x.desc.dstPitch + x.row) k
    omega
  have hword := x.desc.mul_wbits_le hk
  rw [Nat.succ_mul] at hline
  unfold Xfer.wordBit
  omega

end

/-! ### Writing them -/

/-- One word of a skewed row where no error mark stands: the bytes it touches are read and written back, then its bits. -/
def State.putWord (s : State) (t : Tile) (bit w v : Nat) : State :=
  (s.vatPut t (bit / 8) (s.vatRead t (bit / 8) ((bit % 8 + w + 7) / 8))).vatPutBits t bit w v

theorem State.vatOnly_putWord (s : State) (t : Tile) (bit w v : Nat) : VatOnly t s (s.putWord t bit w v) :=
  (s.vatOnly_vatPut t _ _).trans (State.vatOnly_vatPutBits _ t bit w v)

theorem State.vatBit_putWord (s : State) (t : Tile) {bit w v q : Nat} (hv : v < 2 ^ w) (h : bit + w ≤ 8 * vatSize)
    (hq : q < 8 * vatSize) :
    (s.putWord t bit w v).vatBit t q = if bit ≤ q ∧ q < bit + w then v.testBit (q - bit) else s.vatBit t q := by
  rw [State.putWord, State.vatBit_vatPutBits _ t hv h hq, s.vatBit_vatPut_vatRead t (by omega) hq]

/-- The first `n` words, word `k` with the value `val k` at bit `pos k`. -/
def State.putWords (s : State) (t : Tile) (w : Nat) (pos val : Nat → Nat) (n : Nat) : State :=
  (List.range n).foldl (fun u k => u.putWord t (pos k) w (val k)) s

section
variable (s : State) (t : Tile) (w : Nat) (pos val : Nat → Nat)

theorem State.putWords_succ (n : Nat) :
    s.putWords t w pos val (n + 1) = (s.putWords t w pos val n).putWord t (pos n) w (val n) := by
  simp [State.putWords, List.range_succ]

theorem State.vatOnly_putWords (n : Nat) : VatOnly t s (s.putWords t w pos val n) := by
  induction n with
  | zero => exact VatOnly.refl t s
  | succ n ih => exact s.putWords_succ t w pos val n ▸ ih.trans (State.vatOnly_putWord _ t _ _ _)

variable {w pos val}
variable {n : Nat} (hval : ∀ k < n, val k < 2 ^ w) (hfit : ∀ k < n, pos k + w ≤ 8 * vatSize)

include hval hfit

/-- Bits outside every word stand as they were. -/
theorem State.vatBit_putWords_outside {q : Nat} (hq : q < 8 * vatSize) (hout : ∀ k < n, q < pos k ∨ pos k + w ≤ q) :
    (s.putWords t w pos val n).vatBit t q = s.vatBit t q := by
  induction n with
  | zero => rfl
  | succ n ih =>
    have hn := hout n n.lt_succ_self
    rw [s.putWords_succ, State.vatBit_putWord _ t (hval n n.lt_succ_self) (hfit n n.lt_succ_self) hq, if_neg (by omega)]
    exact ih (fun k hk => hval k (hk.trans n.lt_succ_self)) (fun k hk => hfit k (hk.trans n.lt_succ_self))
      (fun k hk => hout k (hk.trans n.lt_succ_self))

/-- Words that do not meet hold their values afterwards. -/
theorem State.vatBits_putWords (hdisj : ∀ k m, k < m → m < n → pos k + w ≤ pos m) {k : Nat} (hk : k < n) :
    (s.putWords t w pos val n).vatBits t (pos k) w = val k := by
  refine State.vatBits_eq_of_vatBit (hval k hk) fun i hi => ?_
  induction n with
  | zero => exact absurd hk k.not_lt_zero
  | succ n ih =>
    have hq : pos k + i < 8 * vatSize := by have := hfit k hk; omega
    rw [s.putWords_succ, State.vatBit_putWord _ t (hval n n.lt_succ_self) (hfit n n.lt_succ_self) hq]
    rcases Nat.lt_succ_iff_lt_or_eq.mp hk with hlt | rfl
    · have := hdisj k n hlt n.lt_succ_self
      rw [if_neg (by omega)]
      exact ih (fun k hk => hval k (hk.trans n.lt_succ_self)) (fun k hk => hfit k (hk.trans n.lt_succ_self))
        (fun k m hkm hm => hdisj k m hkm (hm.trans n.lt_succ_self)) hlt
    · rw [if_pos (by omega), Nat.add_sub_cancel_left]

end

/-- A fold whose steps meet no error is a fold of its states. -/
theorem foldl_pair_none {σ κ ε : Type} {f : σ × Option ε → κ → σ × Option ε} {g : σ → κ → σ} {P : σ → Prop}
    (hf : ∀ u k, P u → f (u, none) k = (g u k, none)) (hg : ∀ u k, P u → P (g u k)) (l : List κ) {u : σ} (hu : P u) :
    l.foldl f (u, none) = (l.foldl g u, none) := by
  induction l generalizing u with
  | nil => rfl
  | cons k l ih =>
    rw [List.foldl_cons, hf u k hu]
    exact ih (hg u k hu)

/-- Without error marks a skewed row is its 128 words. -/
theorem State.skewRow_clean {s : State} (hm : s.marks = []) (t : Tile) (x : Xfer) (bs : List Byte) :
    s.skewRow t x bs = (s.putWords t x.desc.wbits (x.wordBit s t)
      (fun k => leNat bs / 2 ^ (k * x.desc.wbits) % 2 ^ x.desc.wbits) 128, none) := by
  refine foldl_pair_none (P := fun u => u.marks = []) (fun u k hu => ?_) (fun u k hu => ?_) _ hm
  · dsimp only
    rw [State.vatWrite_clean hu]
    rfl
  · exact (State.vatOnly_putWord u t _ _ _).marks.trans hu

end Sys2Proof.Machine

end

section
/-! LEMMAS. The steps of a DMA transfer within the tile's own vat (R206, R207). -/

namespace Sys2Proof.Machine

/-! ### The own vat as a buffer (R201) -/

/-- An offset of buffer 0 is that offset of the tile's own vat. -/
theorem State.place_bufView_zero (s : State) (t : Tile) {off : Nat} (h : off < vatSize) :
    s.place t ((s.bufView t 0).addr + off) = .vat t off := by
  have hfolio : (tileFolio t).val = t.val / 24 := Nat.mod_eq_of_lt (by omega)
  have haddr : (s.bufView t 0).addr + off =
      s.chip * 2 ^ 50 + (t.val / 24 * 2 ^ 46 + (2 ^ 38 + (t.val % 24 * 2 ^ 22 + off))) := by
    simp only [State.bufView, hfolio, tileNum, vatBase, vatSize, if_true]
    omega
  have hvat : vatSize = 2 ^ 22 := rfl
  rw [hvat] at h
  have hchip : ((s.bufView t 0).addr + off) / 2 ^ 50 = s.chip := by omega
  have hdie : ((s.bufView t 0).addr + off) / 2 ^ 46 % 16 = t.val / 24 := by omega
  have hoff : ((s.bufView t 0).addr + off) % 2 ^ 46 = 2 ^ 38 + (t.val % 24 * 2 ^ 22 + off) := by omega
  have htile : (Fin.ofNat 192 (t.val / 24 * 24 + t.val % 24) : Tile) = t := by
    rw [Nat.div_add_mod']
    exact Fin.ofNat_val_eq_self t
  have hslot : (2 ^ 38 + (t.val % 24 * 2 ^ 22 + off) - vatBase) / vatSize = t.val % 24 := by
    simp only [vatBase, vatSize]; omega
  have hin : (2 ^ 38 + (t.val % 24 * 2 ^ 22 + off) - vatBase) % vatSize = off := by
    simp only [vatBase, vatSize]; omega
  rw [State.place, hchip, hdie, hoff, hfolio, hslot, hin, htile, if_neg (by simp), if_neg (by simp [reamLimit]),
    if_pos (by simp only [vatBase, vatSize]; omega)]

/-- The bytes up to the end of the own vat are one segment. -/
theorem State.segments_bufView_zero (s : State) (t : Tile) {off n : Nat} (hn : 0 < n) (h : off + n ≤ vatSize) :
    segments ((s.bufView t 0).addr + off) 2 n = [((s.bufView t 0).addr + off, n)] := by
  have hedge : n ≤ toEdge ((s.bufView t 0).addr + off) := by
    simp only [State.bufView, toEdge, vatBase, vatSize, if_true] at h ⊢
    omega
  simp [segments, Nat.min_eq_left hedge, Nat.ne_of_gt hn]

/-- Reading the own vat where no error mark stands. -/
theorem State.localRead_ownVat {s : State} {t : Tile} {g off : Nat} (hg : s.place t g = .vat t off) (policy n : Nat)
    (hr : (s.tile t).inReset = false) (hm : s.marks = []) :
    s.localRead t policy [(g, n)] = (s, 0, s.vatRead t off n) := by
  simp [State.localRead, hg, hr, State.wakeVat, State.vatScan_clean hm]

theorem Desc.converts_of_same {d : Desc} (h : d.srcFmt = d.dstFmt) : d.converts = false := by simp [Desc.converts, h]

theorem Xfer.convert_of_not_converts {x : Xfer} (h : x.desc.converts = false) (t : Tile) (bs : List Byte) :
    x.convert t bs = (bs, 0) := by
  simp [Xfer.convert, h]

/-- Loading a piece of the own vat that is not converted. -/
theorem State.loadPiece_ownVat {s : State} {t : Tile} {x : Xfer} {off : Nat} (hf : x.desc.fill = false)
    (hp : x.isPad = false) (hg : s.place t x.srcAddr = .vat t off)
    (hs : segments x.srcAddr 2 x.pieceLen = [(x.srcAddr, x.pieceLen)]) (hc : x.desc.converts = false)
    (hr : (s.tile t).inReset = false) (hm : s.marks = []) :
    s.loadPiece t x = .on s { x with loaded := some (s.vatRead t off x.pieceLen) } := by
  have hwaits : s.localWaits t [(x.srcAddr, x.pieceLen)] = false := by simp [State.localWaits, hg]
  simp [State.loadPiece, hf, hp, hg, hs, hwaits, State.localRead_ownVat hg x.src.policy x.pieceLen hr hm,
    Xfer.convert_of_not_converts hc]

/-! ### The steps of a transfer -/

theorem State.moveLoop_of_on {s s' : State} {t : Tile} {x x' : Xfer} (hf : x.finished = false)
    (h : s.moveStep t x = .on s' x') (n : Nat) : s.moveLoop t x (n + 1) = s'.moveLoop t x' n := by
  simp [State.moveLoop, hf, h]

theorem State.moveLoop_of_finished (s : State) (t : Tile) {x : Xfer} (hf : x.finished = true) (n : Nat) :
    s.moveLoop t x n = s.setXfer t x := by
  cases n <;> simp [State.moveLoop, hf]

/-- The only transfer of a tile, of the command's kind and not yet ended, runs. -/
theorem moveRows_of_only {s : State} {t : Tile} {x : Xfer} (hx : (s.tile t).xfers = [x]) (hf : x.finished = false)
    (hr : (s.tile t).inReset = false) (hc : s.clocksStopped = false) :
    moveRows x.desc.kind t x.tag s = s.moveLoop t x x.desc.moveSteps := by
  simp [moveRows, hx, hf, hr, hc]

theorem Desc.exists_moveSteps_eq_add_three {d : Desc} (h : d.count ≠ 0) : ∃ n, d.moveSteps = n + 3 := by
  have : 1 * 8 ≤ d.count * (d.length / dmaPiece + d.length / 2 ^ 18 + 8) :=
    Nat.mul_le_mul (Nat.pos_of_ne_zero h) (Nat.le_add_left 8 _)
  refine ⟨d.moveSteps - 3, ?_⟩
  rw [Desc.moveSteps, Nat.mul_assoc]
  omega

theorem State.tile_setXfer_departs {s u : State} {t : Tile} {x : Xfer} (x' : Xfer) (hu : VatOnly t s u)
    (hx : (s.tile t).xfers = [x]) (htag : x'.tag = x.tag) :
    ((u.departs t).setXfer t x').tile t = { s.tile t with xfers := [x'], lastDepart := u.tenseNow } := by
  have ht : u.tile t = s.tile t := by rw [hu.frame]; rfl
  simp [State.setXfer, State.departs, ht, hx, htag]

theorem State.tile_setXfer_departs_other {s u : State} {t k : Tile} (x' : Xfer) (hu : VatOnly t s u) (hk : k ≠ t) :
    ((u.departs t).setXfer t x').tile k = s.tile k := by
  have ht : u.tile k = s.tile k := by rw [hu.frame]; rfl
  rw [State.setXfer, State.departs, State.tile_updTile_other _ _ hk, State.tile_updTile_other _ _ hk, ht]

theorem State.frame_setXfer_departs {s u : State} {t : Tile} (x' : Xfer) (hu : VatOnly t s u) :
    let v := (u.departs t).setXfer t x'
    v.regs = s.regs ∧ v.net = s.net ∧ v.groups = s.groups ∧ v.host = s.host ∧ v.out = s.out := by
  rw [hu.frame]
  exact ⟨rfl, rfl, rfl, rfl, rfl⟩

theorem State.read_setXfer_departs_outside {s u : State} {t : Tile} (x' : Xfer) (hu : VatOnly t s u) (a : Nat)
    (ha : a < vatAddr t 0 ∨ vatAddr t 0 + vatSize ≤ a) : ((u.departs t).setXfer t x').mem.read a = s.mem.read a :=
  hu.outside a ha

@[simp] theorem State.vatBits_setXfer_departs (u : State) (t : Tile) (x' : Xfer) (bit w : Nat) :
    ((u.departs t).setXfer t x').vatBits t bit w = u.vatBits t bit w := rfl

end Sys2Proof.Machine

end

section
/-! LEMMAS. The last row of a skewed transfer within the tile's own vat (R210). -/

namespace Sys2Proof.Machine

/-- Where the current row begins in the source buffer. -/
def Xfer.rowStart (x : Xfer) : Nat := x.desc.srcOff + (if x.desc.gathers then x.index else x.row) * x.desc.srcPitch

/-- The last row of a skewed transfer without conversion, between places of the tile's own vat, is to be moved: nothing of
it has been read, no error mark stands, and it fits the vat on both sides. -/
structure SkewsLastRow (s : State) (t : Tile) (x : Xfer) : Prop where
  skew : x.desc.skew = true
  src : x.src = s.bufView t 0
  length : x.desc.length = x.desc.line
  pos : 0 < x.desc.line
  small : x.desc.line ≤ dmaPiece
  same : x.desc.srcFmt = x.desc.dstFmt
  last : x.desc.count = x.row + 1
  part : x.part = 0
  loaded : x.loaded = none
  asked : x.asked = false
  running : x.finished = false
  clean : s.marks = []
  awake : (s.tile t).inReset = false
  reads : x.isPad = false → x.rowStart + x.desc.line ≤ vatSize
  writes : x.desc.dstOff + (x.desc.dstPitch + x.row + 129) * x.desc.line ≤ vatSize

/-- The bytes of the row: zeros for a pad (R209). -/
def Xfer.rowBytes (x : Xfer) (s : State) (t : Tile) : List Byte :=
  if x.isPad then List.replicate x.desc.line 0
  else s.vatRead t x.rowStart x.desc.line

/-- The transfer with the row read. -/
def Xfer.withRow (x : Xfer) (s : State) (t : Tile) : Xfer := { x with loaded := some (x.rowBytes s t) }

@[simp] theorem Xfer.desc_withRow (x : Xfer) (s : State) (t : Tile) : (x.withRow s t).desc = x.desc := rfl
@[simp] theorem Xfer.row_withRow (x : Xfer) (s : State) (t : Tile) : (x.withRow s t).row = x.row := rfl

/-- The transfer after its last row. -/
def Xfer.ended (x : Xfer) (s : State) (t : Tile) : Xfer := (x.withRow s t).past x.desc.line

/-- The vat with the row written. -/
def Xfer.skewed (x : Xfer) (s : State) (t : Tile) : State :=
  s.putWords t x.desc.wbits (x.wordBit s t) (fun k => leNat (x.rowBytes s t) / 2 ^ (k * x.desc.wbits) % 2 ^ x.desc.wbits) 128

@[simp] theorem Xfer.length_rowBytes (x : Xfer) (s : State) (t : Tile) : (x.rowBytes s t).length = x.desc.line := by
  unfold Xfer.rowBytes
  split <;> simp

theorem Desc.not_scatter_not_fill_of_skew {d : Desc} (h : d.skew = true) : d.kind ≠ 2 ∧ d.fill = false := by
  have hk : d.kind = 3 ∨ d.kind = 4 := by simpa [Desc.skew] using h
  rcases hk with hk | hk <;> simp [Desc.fill, hk]

namespace SkewsLastRow
variable {s : State} {t : Tile} {x : Xfer}

theorem pieceLen (h : SkewsLastRow s t x) : x.pieceLen = x.desc.line := by
  simp [Xfer.pieceLen, h.skew, h.part, h.length, h.small]

theorem srcAddr (h : SkewsLastRow s t x) : x.srcAddr = (s.bufView t 0).addr + x.rowStart := by
  rw [Xfer.srcAddr, Xfer.rowStart, h.src, h.part, Nat.add_zero, Nat.add_assoc]

/-- The first step reads the row. -/
theorem load (h : SkewsLastRow s t x) : s.moveStep t x = .on s (x.withRow s t) := by
  obtain ⟨hkind, hfill⟩ := Desc.not_scatter_not_fill_of_skew h.skew
  have hstep : s.moveStep t x = s.loadPiece t x := by simp [State.moveStep, h.loaded, h.asked, hkind]
  rw [hstep, Xfer.withRow, Xfer.rowBytes]
  cases hp : x.isPad with
  | true => simp [State.loadPiece, hp, h.skew]
  | false =>
    have hreads := h.reads hp
    have haddr := h.srcAddr
    have hplace := haddr ▸ s.place_bufView_zero t (off := x.rowStart) (by have := h.pos; omega)
    have hsegs := haddr ▸ h.pieceLen.symm ▸ s.segments_bufView_zero t h.pos hreads
    rw [State.loadPiece_ownVat hfill hp hplace hsegs (Desc.converts_of_same h.same) h.awake h.clean, h.pieceLen]
    rfl

/-- The second writes it. -/
theorem store (h : SkewsLastRow s t x) :
    s.moveStep t (x.withRow s t) = .on ((x.skewed s t).departs t) (x.ended s t) := by
  simp [Xfer.ended, Xfer.withRow, State.moveStep, State.storePiece, h.asked, h.skew, State.skewRow_clean h.clean, Xfer.skewed]
  rfl

end SkewsLastRow

end Sys2Proof.Machine

end

section
/-! LEMMAS. What a skewed transfer that has moved its last row leaves (R130, R210). -/

namespace Sys2Proof.Machine

theorem leNat_replicate_zero (n : Nat) : leNat (List.replicate n 0) = 0 := by
  induction n with
  | zero => rfl
  | succ n ih => rw [List.replicate_succ, leNat, ih]; rfl

/-- A word of the bytes that stand in a vat is a word of the vat. -/
theorem State.leNat_vatRead_word (s : State) (t : Tile) (off : Nat) {n i w : Nat} (h : i + w ≤ 8 * n) :
    leNat (s.vatRead t off n) / 2 ^ i % 2 ^ w = s.vatBits t (8 * off + i) w := by
  refine (State.vatBits_eq_of_vatBit (Nat.mod_lt _ (Nat.two_pow_pos w)) fun k hk => ?_).symm
  rw [Nat.testBit_mod_two_pow, Nat.testBit_div_two_pow, s.testBit_leNat_vatRead t off (by omega), decide_eq_true hk,
    Bool.true_and, Nat.add_assoc, Nat.add_comm k]

theorem State.vatBits_congr {s u : State} {t : Tile} {bit w : Nat}
    (h : ∀ i < w, u.vatBit t (bit + i) = s.vatBit t (bit + i)) :
    u.vatBits t bit w = s.vatBits t bit w :=
  State.vatBits_eq_of_vatBit (s.vatBits_lt t bit w) fun i hi => (h i hi).trans (s.testBit_vatBits t bit hi).symm

theorem Xfer.vatOnly_skewed (x : Xfer) (s : State) (t : Tile) : VatOnly t s (x.skewed s t) := s.vatOnly_putWords t _ _ _ 128

namespace SkewsLastRow
variable {s : State} {t : Tile} {x : Xfer}

theorem finished_ended (h : SkewsLastRow s t x) : (x.ended s t).finished = true := by
  have hlen : (x.withRow s t).pieceLen = x.desc.length := h.pieceLen.trans h.length.symm
  simp [Xfer.ended, Xfer.past, hlen, h.last]

theorem moveRows_eq (h : SkewsLastRow s t x) (hx : (s.tile t).xfers = [x]) (hc : s.clocksStopped = false) :
    moveRows x.desc.kind t x.tag s = ((x.skewed s t).departs t).setXfer t (x.ended s t) := by
  obtain ⟨n, hn⟩ := Desc.exists_moveSteps_eq_add_three (d := x.desc) (by rw [h.last]; exact x.row.succ_ne_zero)
  rw [moveRows_of_only hx h.running h.awake hc, hn, State.moveLoop_of_on h.running h.load,
    State.moveLoop_of_on (x := x.withRow s t) h.running h.store, State.moveLoop_of_finished _ t h.finished_ended]

theorem wordBit_le (h : SkewsLastRow s t x) (k : Nat) (hk : k < 128) : x.wordBit s t k + x.desc.wbits ≤ 8 * vatSize :=
  x.wordBit_le s t hk h.writes

/-- Each word of the row stands where R130 places it. -/
theorem vatBits_skewed (h : SkewsLastRow s t x) {k : Nat} (hk : k < 128) :
    (x.skewed s t).vatBits t (x.wordBit s t k) x.desc.wbits =
      leNat (x.rowBytes s t) / 2 ^ (k * x.desc.wbits) % 2 ^ x.desc.wbits :=
  s.vatBits_putWords t (fun _ _ => Nat.mod_lt _ (Nat.two_pow_pos _)) h.wordBit_le
    (fun _ _ hkm hm => x.wordBit_add_le s t hkm hm) hk

theorem vatBits_skewed_pad (h : SkewsLastRow s t x) (hp : x.isPad = true) {k : Nat} (hk : k < 128) :
    (x.skewed s t).vatBits t (x.wordBit s t k) x.desc.wbits = 0 := by
  rw [h.vatBits_skewed hk, Xfer.rowBytes, if_pos hp, leNat_replicate_zero, Nat.zero_div, Nat.zero_mod]

theorem vatBits_skewed_row (h : SkewsLastRow s t x) (hp : x.isPad = false) {k : Nat} (hk : k < 128) :
    (x.skewed s t).vatBits t (x.wordBit s t k) x.desc.wbits =
      s.vatBits t (8 * x.rowStart + k * x.desc.wbits) x.desc.wbits := by
  rw [h.vatBits_skewed hk, Xfer.rowBytes, if_neg (by simp [hp]), s.leNat_vatRead_word t _ (x.desc.mul_wbits_le hk)]

theorem vatBits_skewed_outside (h : SkewsLastRow s t x) {q : Nat} (hq : q < 8 * vatSize)
    (hout : ∀ k < 128, q < x.wordBit s t k ∨ x.wordBit s t k + x.desc.wbits ≤ q) :
    (x.skewed s t).vatBits t q 1 = s.vatBits t q 1 := by
  refine State.vatBits_congr fun i hi => ?_
  obtain rfl : i = 0 := by omega
  exact s.vatBit_putWords_outside t (fun _ _ => Nat.mod_lt _ (Nat.two_pow_pos _)) h.wordBit_le hq hout

end SkewsLastRow

end Sys2Proof.Machine

end

section
/-! PROOFS. DMA_SKEW and DMA_SKEW_GATHER at their last row (R130, R210). -/

open Sys2Proof Sys2Proof.Machine

/-- Settles O18: both commands read the row in one step and write its 128 words, which do not meet, in a second. -/
theorem dmaSkewsARow : Obligations.DmaSkewsARow := by
  unfold Obligations.DmaSkewsARow
  intro row
  have hrow : ∀ n cmd, (n = 3 ∨ n = 4) → (∀ t tag s, exec (cmd t tag) s = .next (moveRows n t tag s)) → row n cmd := by
    intro n cmd hn hcmd t tag s x j hx htag hkind hsrc _ hlast hw hlen hsame hpart hloaded hasked hrun hstatus hj hm hr hc
      pad from' bit hreads hwrites
    subst htag
    have hindexed : x.desc.indexed = decide (n = 4) := by rcases hn with rfl | rfl <;> simp [Desc.indexed, hkind]
    have hgathers : x.desc.gathers = decide (n = 4) := by rcases hn with rfl | rfl <;> simp [Desc.gathers, hkind]
    have hindex : x.index = if n = 4 then j else x.row := by
      rw [Xfer.index, hindexed, padIndex, hj]
      exact if_congr decide_eq_true_iff rfl rfl
    have hpad : x.isPad = true ↔ pad := by
      rw [Xfer.isPad, hindexed, hindex, padIndex, Bool.and_eq_true, decide_eq_true_iff, decide_eq_true_iff]
      exact and_congr_right fun h4 => by rw [if_pos h4]
    have hfrom : x.rowStart = from' := by
      rw [Xfer.rowStart, hgathers, hindex]
      by_cases h4 : n = 4 <;> simp [h4, from']
    have hbit : x.wordBit s t = bit := by
      funext k
      cases hrep : s.repairRow t with
      | none => simp [Xfer.wordBit, dmaLine_of_whole hrep, bit, hrep, hlen, Desc.line]
      | some f => simp [Xfer.wordBit, dmaLine_of_repaired hrep, bit, hrep, hlen, Desc.line]
    have hwidths : ∀ w ∈ [4, 6, 8, 12, 16, 24, 32, 64], 4 ≤ w ∧ w ≤ 64 := by decide
    obtain ⟨hmin, hmax⟩ := hwidths _ hw
    have h : SkewsLastRow s t x := {
      skew := by rcases hn with rfl | rfl <;> simp [Desc.skew, hkind]
      src := hsrc
      length := hlen
      pos := by rw [Desc.line]; omega
      small := by rw [Desc.line, dmaPiece]; omega
      same := hsame
      last := hlast
      part := hpart
      loaded := hloaded
      asked := hasked
      running := hrun
      clean := hm
      awake := hr
      reads := fun hp => by
        rw [hfrom, Desc.line, ← hlen]
        exact hreads (mt hpad.mpr (Bool.eq_false_iff.mp hp))
      writes := by rw [Desc.line, ← hlen]; exact hwrites }
    have hexec := hcmd t x.tag s
    rw [← hkind, h.moveRows_eq hx hc] at hexec
    have hv := x.vatOnly_skewed s t
    refine ⟨((x.skewed s t).departs t).setXfer t (x.ended s t), x.ended s t, (x.skewed s t).tenseNow, hexec,
      h.finished_ended, hstatus, rfl, ?bytes, ?words, ?bits, State.read_setXfer_departs_outside _ hv,
      State.tile_setXfer_departs _ hv hx rfl, fun _ hu => State.tile_setXfer_departs_other _ hv hu,
      State.frame_setXfer_departs _ hv⟩
    case bytes => exact congrArg (x.bytes + ·) hlen.symm
    case words =>
      intro k hk
      rw [← hbit, State.vatBits_setXfer_departs]
      split
      next hp => exact h.vatBits_skewed_pad (hpad.mpr hp) hk
      next hp => exact hfrom ▸ h.vatBits_skewed_row (Bool.eq_false_iff.mpr (mt hpad.mp hp)) hk
    case bits =>
      intro q hq hout
      rw [State.vatBits_setXfer_departs]
      exact h.vatBits_skewed_outside hq (hbit ▸ hout)
  exact ⟨hrow 3 .dmaSkew (.inl rfl) fun _ _ _ => rfl, hrow 4 .dmaSkewGather (.inr rfl) fun _ _ _ => rfl⟩

end

section
/-! PROOFS. INFL_ROWS counts the rows that a CMP reads (R160, R186), and O24 keeps that register out of its CMP. -/

namespace Sys2Proof

/-- The rows that a CMP reads: one in row mode, and all 32 in column mode (R160). -/
def IWord.cmpRows (w : IWord) : Nat := if w.opx.getLsbD 3 then 32 else 1

namespace Machine

/-! ### The row counter -/

/-- The count of INFL_ROWS after `n` more rows; nothing scores it (R514). -/
theorem State.fld_countRows (s : State) (t : Tile) (n : Nat) :
    (s.countRows t n).fld (.inflRows t) Fld.inflRowsCount = s.counted (.inflRows t) Fld.inflRowsCount n := by
  have hlt : s.counted (.inflRows t) Fld.inflRowsCount n < 2 ^ Fld.inflRowsCount.width :=
    (Nat.min_le_right _ _).trans_lt (Nat.sub_lt (Nat.two_pow_pos _) Nat.one_pos)
  calc (s.countRows t n).fld (.inflRows t) Fld.inflRowsCount
    _ = s.counted (.inflRows t) Fld.inflRowsCount n % 2 ^ Fld.inflRowsCount.width :=
      State.fld_setFld_same _ _ _ _ (by decide)
    _ = _ := Nat.mod_eq_of_lt hlt

/-- Writing a predicate changes no register but SCOREBOARD. -/
theorem State.reg_writePred_other (s : State) {t : Tile} (d : Fin 8) (v : BitVec 128) (fl : Flags) {r : Reg}
    (h : r ≠ .scoreboard t) : (s.writePred t d v fl).reg r = s.reg r := by
  rw [State.writePred, State.enqueueInfl, State.reg_busyTag_other _ _ _ h]
  rfl

/-- Going on to the next instruction changes no register but SEQ_PC. -/
theorem State.reg_advance_other (s : State) {t : Tile} (next : W64) {r : Reg} (h : r ≠ .seqPc t) :
    (s.advance t next).reg r = s.reg r := by
  rw [State.advance, State.reg_setReg_other _ _ h]
  rfl

theorem State.reg_charge (s : State) (t : Tile) (e : Nat) (r : Reg) : (s.charge t e).reg r = s.reg r := rfl

/-! ### CMP -/

/-- A CMP that issues writes its predicate, counts its rows and goes on. -/
theorem exec_cmp_of_issues {s : State} {t : Tile} {w : IWord}
    (hi : s.issuable t [tagP w.dt, tagT w.at, tagT w.bt]) (hg : s.granted t) (hq : (s.tile t).infl.length < 16)
    (hl : w.legal { td := true, ta := true, tb := true, opx := 0x1F001F } = true)
    (hcol : ¬ (w.opx.getLsbD 3 = true ∧ w.opx.toNat / 2 ^ 16 ≠ 0)) :
    ∃ v fl e, exec (.cmp t w) s = .next
      ((((s.writePred t w.dt v fl).countRows t w.cmpRows).charge t e).advance t (s.pc t + BitVec.ofNat 64 w.size)) := by
  have hlegal : (w.legal { td := true, ta := true, tb := true, opx := 0x1F001F } &&
      !(w.opx.getLsbD 3 && decide (w.opx.toNat / 2 ^ 16 ≠ 0))) = true := by
    rw [hl, Bool.true_and, Bool.not_eq_true', Bool.eq_false_iff, ne_eq, Bool.and_eq_true, decide_eq_true_eq]
    exact hcol
  exact ⟨_, _, _, congrArg Host.Outcome.next (State.issue_issues _
    (State.attempt_issues hi hlegal (decide_eq_false (Nat.not_le.mpr hq)) (fun _ => hg) rfl))⟩

/-- The state after a CMP that issues has counted its rows in INFL_ROWS (R186). -/
theorem State.fld_inflRows_of_cmp (s : State) (t : Tile) (d : Fin 8) (v : BitVec 128) (fl : Flags) (n e : Nat) (next : W64) :
    ((((s.writePred t d v fl).countRows t n).charge t e).advance t next).fld (.inflRows t) Fld.inflRowsCount =
      s.counted (.inflRows t) Fld.inflRowsCount n := by
  rw [State.fld, State.reg_advance_other (r := .inflRows t) _ _ nofun, State.reg_charge]
  refine (State.fld_countRows _ t n).trans ?_
  rw [State.counted, State.counted, State.fld, State.reg_writePred_other (r := .inflRows t) _ _ _ _ nofun, State.fld]

/-! ### A counterexample -/

/-- Tile 0 runs from address 0 in an energy section whose grant has come. -/
def inSection : State :=
  (State.reset.setFlag (.seqCtl 0) Fld.seqCtlRun true).updTile 0
    (fun x => { x with energySection := some ⟨1, 1, some 256, none, 0, 0⟩ })

/-- CMP in row mode: lanes of row 0 of t2 that equal those of t3, into p1. -/
def compareRow0 : IWord := ⟨false, 1, 2, 3, 0, 0, false, 0, false, 0, 0, 0, 0, 0⟩

theorem inSection_issuable : inSection.issuable 0 [tagP compareRow0.dt, tagT compareRow0.at, tagT compareRow0.bt] := by
  unfold State.issuable
  decide +kernel

theorem inSection_granted : inSection.granted 0 := by
  unfold State.granted
  decide +kernel

theorem compareRow0_legal : compareRow0.legal { td := true, ta := true, tb := true, opx := 0x1F001F } = true ∧
    ¬ (compareRow0.opx.getLsbD 3 = true ∧ compareRow0.opx.toNat / 2 ^ 16 ≠ 0) := by
  decide

end Machine

end Sys2Proof

open Sys2Proof Sys2Proof.Machine

/-- Refutes O24: its frame of CMP lists SEQ_PC and SCOREBOARD alone, and a CMP counts its rows in INFL_ROWS, which goes
from 0 to 1 when a tile compares row 0 of t2 with row 0 of t3. -/
theorem not_predicateAndRearrangingInstructionsComplete :
    ¬ Obligations.PredicateAndRearrangingInstructionsComplete := by
  unfold Obligations.PredicateAndRearrangingInstructionsComplete
  rintro ⟨hcmp, -⟩
  have hqueue : (inSection.tile 0).infl.length < 16 := by decide +kernel
  have hcounted : inSection.counted (.inflRows 0) Fld.inflRowsCount compareRow0.cmpRows ≠
      inSection.fld (.inflRows 0) Fld.inflRowsCount := by decide +kernel
  obtain ⟨hready, hpc, -⟩ := inSection_issuable
  obtain ⟨-, -, hissues⟩ := hcmp 0 compareRow0 inSection ⟨hready, hpc, nofun⟩ compareRow0_legal
  obtain ⟨u, hexec, ⟨-, -, -, -, -, -, hframe⟩, -⟩ := hissues inSection_issuable hqueue inSection_granted trivial
  obtain ⟨v, fl, e, hcmp⟩ :=
    exec_cmp_of_issues inSection_issuable inSection_granted hqueue compareRow0_legal.1 compareRow0_legal.2
  obtain rfl := Host.Outcome.next.inj (hexec.symm.trans hcmp)
  have hkept := congrArg Fld.inflRowsCount.get (hframe (.inflRows 0) (by decide))
  exact hcounted ((State.fld_inflRows_of_cmp ..).symm.trans hkept)

end

section
/-! LEMMAS. The rejection of a DMA descriptor: what a transfer that ends with an error status changes (R78, R213). -/

namespace Sys2Proof.Machine

/-! ### Counters and tags -/

/-- A counter that is no source of a score only counts (R514). -/
theorem State.bump_of_unscored (s : State) {r : Reg} {f : Field} (n : Nat) (hs : scoreOf r f = none) :
    s.bump r f n = s.setFld r f (s.counted r f n) := by
  rw [State.bump, hs]

theorem State.counted_lt (s : State) (r : Reg) (f : Field) (n : Nat) : s.counted r f n < 2 ^ f.width :=
  (Nat.min_le_right _ _).trans_lt (Nat.sub_lt (Nat.two_pow_pos _) Nat.one_pos)

/-- The field of such a counter holds its count, which its width can hold. -/
theorem State.fld_bump_of_unscored (s : State) {r : Reg} {f : Field} (n : Nat) (hs : scoreOf r f = none)
    (hf : f.lo + f.width ≤ 64) : (s.bump r f n).fld r f = s.counted r f n := by
  rw [s.bump_of_unscored n hs, State.fld_setFld_same _ _ _ _ hf, Nat.mod_eq_of_lt (s.counted_lt r f n)]

theorem State.getLsbD_tagError_clearTagError_same (s : State) (t : Tile) {i : Nat} (h : i < 64) :
    ((s.clearTagError t i).reg (.tagError t)).getLsbD i = true := by
  simp [State.clearTagError, bit64, h]

theorem State.tagBusy_clearTagError_same (s : State) (t : Tile) {i : Nat} (h : i < 64) :
    (s.clearTagError t i).tagBusy t i = false := by
  simpa [State.tagBusy, State.clearTagError, State.reg_setReg_other] using s.tagBusy_clearTag_same t h

theorem State.reg_clearTagError_other (s : State) (t : Tile) (i : Nat) {q : Reg} (hb : q ≠ .scoreboard t)
    (he : q ≠ .tagError t) : (s.clearTagError t i).reg q = s.reg q :=
  (State.reg_setReg_other _ _ he).trans (s.reg_clearTag_other t i hb)

theorem tagDma_lt (tag : Fin 32) : tagDma tag < 64 := by
  have := tag.isLt
  rw [tagDma]
  omega

/-! ### The end of a transfer with an error -/

/-- The status that a tag's last failed transfer ended with is kept for it (R110). -/
def TileState.keepDmaStatus (x : TileState) (tag : Fin 32) (status : Nat) : TileState :=
  { x with dmaStatus := Store.set id x.dmaStatus tag.val status }

theorem TileState.get_dmaStatus_keepDmaStatus_same (x : TileState) (tag : Fin 32) (status : Nat) :
    Store.get (fun _ => 0) (x.keepDmaStatus tag status).dmaStatus tag.val = status := Store.get_set_same _ _ _ _ _

/-- The part of a rejection before its count: no entry waits for the tag, which clears with its mark and its status. -/
def State.failTag (s : State) (t : Tile) (tag : Fin 32) (status : Nat) : State :=
  ((s.transferSeen t tag).clearTagError t (tagDma tag)).updTile t (·.keepDmaStatus tag status)

theorem State.reg_failTag (s : State) (t : Tile) (tag : Fin 32) (status : Nat) (q : Reg) :
    (s.failTag t tag status).reg q = (s.clearTagError t (tagDma tag)).reg q := rfl

section
variable {s : State} {t : Tile} {tag : Fin 32} {off status bytes : Nat}

/-- A rejection fails its tag, counts in DMA_REJECTS and is told in DMA_LAST_REJECT (R78, R213, R218). -/
theorem State.endTransfer_of_error (h : status ≠ 0) : ∃ last, s.endTransfer t tag off status bytes =
    ((s.failTag t tag status).bump (.dmaRejects t) Fld.dmaRejectsCount 1).setReg (.dmaLastReject t) last :=
  ⟨_, if_neg h⟩

theorem State.mem_endTransfer_of_error (h : status ≠ 0) : (s.endTransfer t tag off status bytes).mem = s.mem := by
  obtain ⟨last, he⟩ := s.endTransfer_of_error h
  rw [he, State.setReg_mem, State.bump_of_unscored _ 1 rfl, State.setFld_mem]
  rfl

theorem State.tile_endTransfer_of_error (h : status ≠ 0) :
    (s.endTransfer t tag off status bytes).tile t = (s.tile t).keepDmaStatus tag status := by
  obtain ⟨last, he⟩ := s.endTransfer_of_error h
  rw [he, State.setReg_tile, State.bump_of_unscored _ 1 rfl, State.setFld_tile]
  exact State.tile_updTile_same _ t _

theorem State.reg_endTransfer_of_error (h : status ≠ 0) {q : Reg} (hc : q ≠ .dmaRejects t) (hl : q ≠ .dmaLastReject t) :
    (s.endTransfer t tag off status bytes).reg q = (s.clearTagError t (tagDma tag)).reg q := by
  obtain ⟨last, he⟩ := s.endTransfer_of_error h
  rw [he, State.reg_setReg_other _ _ hl, State.bump_of_unscored _ 1 rfl, State.reg_setFld_other _ _ _ hc,
    State.reg_failTag]

theorem State.tagBusy_endTransfer_of_error (h : status ≠ 0) :
    (s.endTransfer t tag off status bytes).tagBusy t (tagDma tag) = false := by
  rw [State.tagBusy, State.reg_endTransfer_of_error (q := .scoreboard t) h nofun nofun]
  exact s.tagBusy_clearTagError_same t (tagDma_lt tag)

theorem State.getLsbD_tagError_endTransfer_of_error (h : status ≠ 0) :
    ((s.endTransfer t tag off status bytes).reg (.tagError t)).getLsbD (tagDma tag) = true := by
  rw [State.reg_endTransfer_of_error (q := .tagError t) h nofun nofun]
  exact s.getLsbD_tagError_clearTagError_same t (tagDma_lt tag)

theorem State.fld_dmaRejects_endTransfer_of_error (h : status ≠ 0) :
    (s.endTransfer t tag off status bytes).fld (.dmaRejects t) Fld.dmaRejectsCount =
      s.counted (.dmaRejects t) Fld.dmaRejectsCount 1 := by
  obtain ⟨last, he⟩ := s.endTransfer_of_error h
  rw [he, State.fld, State.reg_setReg_other (r := .dmaLastReject t) (q := .dmaRejects t) _ _ nofun]
  refine (State.fld_bump_of_unscored _ 1 rfl (by decide)).trans (counted_congr ?_ _ _)
  rw [State.reg_failTag, State.reg_clearTagError_other (q := .dmaRejects t) _ _ _ nofun nofun]

end

end Sys2Proof.Machine

end

section
/-! LEMMAS. The fetch of a DMA descriptor where no error mark stands (R205, R211, R213). -/

namespace Sys2Proof.Machine

/-- The descriptor of a request: its four words in the tile's vat (R205). -/
def State.requestedDesc (s : State) (t : Tile) (r : DmaReq) : Desc :=
  let w (i : Nat) := s.vatReadLe t (r.off + 8 * i) 8
  descOf (w 0) (w 1) (w 2) (w 3)

/-- The status that validation gives a descriptor as the buffer table, the index list and the repair stand now. -/
def State.descStatus (s : State) (t : Tile) (d : Desc) : Nat :=
  validate d (s.bufView t d.srcBuf) (s.bufView t d.dstBuf) (s.indexList t d)
    (s.flag (.pressRepair t) Fld.pressRepairValid)

/-- The transfer that a request's descriptor starts: nothing moved, with the buffers and the rounding as they are now. -/
def State.startedXfer (s : State) (t : Tile) (r : DmaReq) (d : Desc) : Xfer :=
  { tag := r.tag, off := r.off, desc := d, src := s.bufView t d.srcBuf, dst := s.bufView t d.dstBuf,
    idx := (s.indexList t d).getD [], row := 0, part := 0, loaded := none, asked := false,
    finished := decide (d.count = 0 ∨ (d.length = 0 ∧ d.skew = false)), status := 0, bytes := 0, flags := 0,
    seed := (s.reg (.srSeed t)).setWidth 32, step := s.reg (.srStep t) }

/-- The queue goes on without its oldest request. -/
def State.takeRequest (s : State) (t : Tile) (rest : List DmaReq) : State :=
  s.updTile t (fun y => { y with dmaQueue := rest })

theorem State.tile_takeRequest_same (s : State) (t : Tile) (rest : List DmaReq) :
    (s.takeRequest t rest).tile t = { s.tile t with dmaQueue := rest } := State.tile_updTile_same s t _

/-- A transfer joins those in progress. -/
def State.addXfer (s : State) (t : Tile) (x : Xfer) : State :=
  s.updTile t (fun y => { y with xfers := y.xfers ++ [x] })

theorem State.tile_addXfer_same (s : State) (t : Tile) (x : Xfer) :
    (s.addXfer t x).tile t = { s.tile t with xfers := (s.tile t).xfers ++ [x] } := State.tile_updTile_same s t _

/-- The engine takes the oldest request, and its descriptor's status decides between the start and the rejection. -/
theorem doDescriptorFetch_of_waiting {s : State} {t : Tile} {r : DmaReq} {rest : List DmaReq}
    (hq : (s.tile t).dmaQueue = r :: rest) (hm : s.marks = []) (hx : (s.tile t).xfers.length < 8)
    (hr : (s.tile t).inReset = false) (hc : s.clocksStopped = false) :
    let d := s.requestedDesc t r
    doDescriptorFetch t s =
      if s.descStatus t d ≠ 0 then (s.takeRequest t rest).endTransfer t r.tag r.off (s.descStatus t d) 0
      else (s.takeRequest t rest).addXfer t (s.startedXfer t r d) := by
  have hruns : ¬ ((s.tile t).xfers.length ≥ 8 ∨ (s.tile t).inReset = true ∨ s.clocksStopped = true) := by
    simp [hx, hr, hc]
  have hscan (off n : Nat) : (s.takeRequest t rest).vatScan t off n = (s.takeRequest t rest, none) :=
    State.vatScan_clean (s := s.takeRequest t rest) hm t off n
  unfold State.takeRequest at hscan
  simp only [doDescriptorFetch, hq, if_neg hruns, hscan, ite_self]
  rfl

end Sys2Proof.Machine

end

section
/-! PROOFS. The DMA engine takes the oldest descriptor, validates it, and starts the transfer or rejects it. -/

open Sys2Proof Sys2Proof.Machine

/-- Settles O16: the status of the oldest descriptor decides, 0 for the start and any other for the rejection. -/
theorem descriptorFetchValidates : Obligations.DescriptorFetchValidates := by
  unfold Obligations.DescriptorFetchValidates
  intro t s r rest hq hm hx hr hc w d st
  have hfetch : exec (.descriptorFetch t) s = .next _ :=
    congrArg Host.Outcome.next (doDescriptorFetch_of_waiting hq hm hx hr hc)
  rcases eq_or_ne st 0 with hvalid | hbad
  · have htile := (s.takeRequest t rest).tile_addXfer_same t (s.startedXfer t r d)
    rw [State.tile_takeRequest_same] at htile
    exact ⟨_, hfetch.trans (congrArg _ (if_neg (not_not.mpr hvalid))), congrArg TileState.dmaQueue htile, rfl,
      fun _ => ⟨_, congrArg TileState.xfers htile, rfl, rfl, rfl, rfl, rfl, rfl, rfl, rfl⟩, (absurd hvalid ·)⟩
  · have htile := (s.takeRequest t rest).tile_endTransfer_of_error (t := t) (tag := r.tag) (off := r.off) (bytes := 0)
      hbad
    rw [State.tile_takeRequest_same] at htile
    have hstatus := htile ▸ TileState.get_dmaStatus_keepDmaStatus_same _ r.tag st
    exact ⟨_, hfetch.trans (congrArg _ (if_pos hbad)), congrArg TileState.dmaQueue htile,
      State.mem_endTransfer_of_error hbad, (absurd · hbad),
      fun _ => ⟨(congrArg TileState.xfers htile :), State.tagBusy_endTransfer_of_error hbad,
        State.getLsbD_tagError_endTransfer_of_error hbad, hstatus, State.fld_dmaRejects_endTransfer_of_error hbad⟩⟩

end

section
/-! PROOFS. A LOAD that meets an uncorrectable line stops the step of every group that runs (R29, R378), which answers
the chunks in its staging slots and keeps a record of each answer; O47 allows the record of the LOAD alone. -/

namespace Sys2Proof.Machine

/-- A LOAD of the first 8 bytes of folio 0's ream that is complete at the folio. -/
def loadFirstWord : ReadyOp := ⟨0, 0, 8, [], 2, Cell.blank, 0, none⟩

/-- The LOAD is the next operation of folio 0, three symbols of its line are in error, and group 0 is ACTIVE with a chunk
in its staging slot 0 that awaits its answer. -/
def loadMeetsBadLine : State :=
  ({ State.reset.setFld (.collStatus 0) Fld.collStatusState 2 with marks := [(reamAddr 0 0, 3)] }.updNet
    (fun w => { w with ready := [loadFirstWord] })).updGroup 0
    (fun v => { v with stage := [⟨0, 0, 0, 0, some ⟨0, Cell.blank, 0, none⟩⟩] })

/-- The command leaves the record of the chunk beside that of the LOAD. -/
theorem dups_load_of_badLine :
    ∃ u, exec (.load 0) loadMeetsBadLine = .next u ∧ u.net.dups.map DupRec.die = [deckleDie 0, folioDie 0] :=
  ⟨_, rfl, by decide +kernel⟩

theorem loadMeetsBadLine_performs :
    loadMeetsBadLine.headOp 0 = some loadFirstWord ∧ loadMeetsBadLine.clocksStopped = false ∧
      loadMeetsBadLine.biasWaits 0 (loadFirstWord.span loadMeetsBadLine 0).1 (loadFirstWord.span loadMeetsBadLine 0).2
        = false ∧
      loadMeetsBadLine.net.dups = [] ∧ opStatus loadMeetsBadLine 0 loadFirstWord = 0 ∧ loadFirstWord.inVat = false ∧
      ∃ e ∈ loadMeetsBadLine.reamMarks 0 loadFirstWord.off loadFirstWord.length, e.2 = .uncorrectable := by
  decide +kernel

end Sys2Proof.Machine

open Sys2Proof Sys2Proof.Machine

/-- Refutes O47: beside its own record a LOAD that meets an uncorrectable line leaves those of the chunks that the stop of
the step answers, one where group 0 holds a chunk in a staging slot. -/
theorem not_reamOperationsComplete : ¬ Obligations.ReamOperationsComplete := by
  unfold Obligations.ReamOperationsComplete
  intro h
  obtain ⟨hhead, hclocks, hbias, hdups, hstatus, hream, hbad⟩ := loadMeetsBadLine_performs
  obtain ⟨-, -, hrows⟩ := h loadMeetsBadLine 0 loadFirstWord hhead hclocks
  obtain ⟨-, hperforms⟩ := hrows (.load 0) rfl fun hwaits => by simp [hbias] at hwaits
  obtain ⟨-, haccepts⟩ := hperforms (.inr rfl)
  obtain ⟨-, huncorrectable, -⟩ := haccepts hstatus
  obtain ⟨u, hexec, hrecords, -⟩ := huncorrectable hream rfl hbad
  obtain ⟨v, hexec', hdies⟩ := dups_load_of_badLine
  obtain rfl := Host.Outcome.next.inj (hexec'.symm.trans hexec)
  rw [hrecords, hdups] at hdies
  exact absurd (congrArg List.length hdies) (by decide)

end

section
/-! LEMMAS. What following the temperature leaves alone: the sensors with their registers, and memory (R419, R425, R431,
R438). -/

namespace Sys2Proof.Machine

/-- The registers that hold a sensor's reading, and a ream's temperature with what forces it. -/
def sensorReg : Reg → Bool
  | .sensor _ | .reamStatus _ | .reamRefresh _ => true
  | _ => false

/-- From `s` to `u` the sensors, their registers and memory are as they were, and theta of each folio is as it was or
follows them. -/
structure Steady (s u : State) : Prop where
  sensors : u.energy.sensors = s.energy.sensors
  theta : ∀ f, u.thetaOf f = s.thetaOf f ∨ u.thetaOf f = s.thetaFolio f
  reg : ∀ r, sensorReg r = true → u.reg r = s.reg r
  mem : u.mem = s.mem

theorem thetaFolio_congr {s u : State} (h : u.energy.sensors = s.energy.sensors) (f : Folio) :
    u.thetaFolio f = s.thetaFolio f := by
  rw [State.thetaFolio, State.thetaFolio, h]

namespace Steady
variable {a b c s s' : State} {α : Type} {p : Prop}

theorem refl (s : State) : Steady s s := ⟨rfl, fun _ => .inl rfl, fun _ _ => rfl, rfl⟩

theorem trans (h : Steady a b) (k : Steady b c) : Steady a c where
  sensors := k.sensors.trans h.sensors
  theta f := by
    obtain e | e := k.theta f
    · rw [e]
      exact h.theta f
    · exact .inr (e.trans (thetaFolio_congr h.sensors f))
  reg r hr := (k.reg r hr).trans (h.reg r hr)
  mem := k.mem.trans h.mem

theorem branch [Decidable p] (h : Steady a s) (hb : Steady a s → Steady a b) (hc : Steady a s → Steady a c) :
    Steady a (if p then b else c) := by
  split
  · exact hb h
  · exact hc h

theorem when [Decidable p] (h : Steady a s) (hb : Steady a s → Steady a b) : Steady a (if p then b else s) :=
  h.branch hb id

theorem whenNot [Decidable p] (h : Steady a s) (hb : Steady a s → Steady a b) : Steady a (if p then s else b) :=
  h.branch id hb

theorem foldl {f : State → α → State} {l : List α} (h : Steady a s)
    (hf : ∀ s x, Steady a s → Steady a (f s x)) : Steady a (l.foldl f s) := by
  induction l generalizing s with
  | nil => exact h
  | cons x l ih => exact ih (hf s x h)

theorem frame (h : Steady a s) (sensors : s'.energy.sensors = s.energy.sensors := by rfl)
    (theta : s'.energy.theta = s.energy.theta := by rfl) (regs : s'.regs = s.regs := by rfl)
    (mem : s'.mem = s.mem := by rfl) : Steady a s' :=
  h.trans ⟨sensors, fun f => .inl (by rw [State.thetaOf, theta]; rfl), fun r _ => by rw [State.reg, regs]; rfl, mem⟩

theorem setReg {r v} (h : Steady a s) (hr : sensorReg r = false := by rfl) : Steady a (s.setReg r v) :=
  h.trans ⟨rfl, fun _ => .inl rfl, fun k hk => State.reg_setReg_other s v (by rintro rfl; simp [hr] at hk), rfl⟩

theorem setFld {r f v} (h : Steady a s) (hr : sensorReg r = false := by rfl) : Steady a (s.setFld r f v) :=
  h.setReg hr

theorem setFlag {r f b} (h : Steady a s) (hr : sensorReg r = false := by rfl) : Steady a (s.setFlag r f b) :=
  h.setFld hr

/-- No source of a score is counted here, so the count is all that changes. -/
theorem bump {r f n} (h : Steady a s) (hs : scoreOf r f = none := by rfl) (hr : sensorReg r = false := by rfl) :
    Steady a (s.bump r f n) := by
  rw [s.bump_of_unscored n hs]
  exact h.setFld hr

theorem fault {code die inst d0 d1} (h : Steady a s) : Steady a (s.fault code die inst d0 d1) :=
  h.when (·.bump) |>.setReg |>.setReg |>.setReg |>.setReg |>.setReg |>.setReg

theorem updTile {t f} (h : Steady a s) : Steady a (s.updTile t f) :=
  h.frame

theorem markPower {f} (h : Steady a s) : Steady a (s.markPower f) :=
  h.frame

theorem slewStep {f} (h : Steady a s) : Steady a (s.slewStep f) :=
  h.markPower.branch (fun h => h.foldl fun _ _ h => h.when (·.updTile)) fun h =>
    h.foldl (fun _ _ h => h.whenNot fun h => h.branch (·.updTile) (·.updTile)) |>.whenNot fun h => Steady.bump h.frame

theorem noteReduced {t fits} (h : Steady a s) : Steady a (s.noteReduced t fits) :=
  h.whenNot (·.frame) |>.foldl fun _ _ h => h.when (·.frame)

theorem rescale {f} (h : Steady a s) : Steady a (s.rescale f) := by
  unfold State.rescale
  exact h.markPower.setFld.setFld.setFld.foldl (fun _ _ h => h.updTile)
    |>.when (fun h => h.foldl fun _ _ h => h.noteReduced) |>.slewStep

theorem updEnergy {f} (h : Steady a s) (sensors : (f s.energy).sensors = s.energy.sensors := by rfl)
    (theta : (f s.energy).theta = s.energy.theta := by rfl) : Steady a (s.updEnergy f) :=
  h.frame sensors theta

theorem setPoint {f p} (h : Steady a s) : Steady a (s.setPoint f p) :=
  h.whenNot fun h => h.setFld.setFld.updEnergy

theorem followPoint {f} (h : Steady a s) : Steady a (s.followPoint f) :=
  h.whenNot (·.setPoint)

theorem thermalRegs (h : Steady a s) : Steady a s.thermalRegs := by
  unfold State.thermalRegs
  extract_lets l hot ream th s1 s2 s3 s4 s5 s6 s7
  have h6 : Steady a s6 := h.setFlag.setFlag.setFlag.setFlag.setFld.setFlag
  clear_value s6
  have h7 : Steady a s7 := by
    dsimp only [s7]
    split
    · exact h6.setFld.setFld
    · exact h6
  clear_value s7
  split
  · exact h7.setFld
  · exact h7

theorem watchCooling (h : Steady a s) : Steady a s.watchCooling :=
  h.frame

end Steady

/-! ### theta (R438) -/

/-- The theta of a folio is noted as its sensors ask. -/
def State.putTheta (s : State) (f : Folio) : State :=
  s.updEnergy (fun e => { e with theta := Store.put (fun k => k.val) (fun _ => 100) e.theta f (s.thetaFolio f) })

/-- The theta of one folio is applied. -/
def State.takeTheta (s : State) (f : Folio) : State :=
  if s.thetaFolio f = s.thetaOf f then s else ((s.putTheta f).rescale f).followPoint f

theorem State.applyTheta_eq (s : State) : s.applyTheta = ((List.finRange 8).foldl State.takeTheta s).thermalRegs := rfl

theorem State.thetaOf_putTheta_same (s : State) (f : Folio) : (s.putTheta f).thetaOf f = s.thetaFolio f :=
  Store.get_put_same _ _ _ _ _

theorem State.thetaOf_putTheta_other (s : State) {f g : Folio} (h : g ≠ f) : (s.putTheta f).thetaOf g = s.thetaOf g :=
  Store.get_put_other _ _ _ _ _ h

theorem Steady.putTheta (s : State) (f : Folio) : Steady s (s.putTheta f) where
  sensors := rfl
  theta g := by
    by_cases h : g = f
    · exact .inr (h ▸ s.thetaOf_putTheta_same g)
    · exact .inl (s.thetaOf_putTheta_other h)
  reg _ _ := rfl
  mem := rfl

theorem Steady.rescale_followPoint (s : State) (f : Folio) : Steady s ((s.rescale f).followPoint f) :=
  (Steady.refl s).rescale.followPoint

theorem Steady.takeTheta (s : State) (f : Folio) : Steady s (s.takeTheta f) := by
  unfold State.takeTheta
  split
  · exact Steady.refl s
  · exact (Steady.putTheta s f).trans (Steady.rescale_followPoint _ f)

theorem State.thetaOf_takeTheta_same (s : State) (f : Folio) : (s.takeTheta f).thetaOf f = s.thetaFolio f := by
  unfold State.takeTheta
  split
  next h => exact h.symm
  next =>
    obtain h | h := (Steady.rescale_followPoint (s.putTheta f) f).theta f
    · exact h.trans (s.thetaOf_putTheta_same f)
    · exact h.trans (thetaFolio_congr (Steady.putTheta s f).sensors f)

theorem Steady.foldl_takeTheta (s : State) (l : List Folio) : Steady s (l.foldl State.takeTheta s) :=
  (Steady.refl s).foldl fun u f h => h.trans (Steady.takeTheta u f)

theorem Steady.applyTheta (s : State) : Steady s s.applyTheta := by
  rw [State.applyTheta_eq]
  exact (Steady.foldl_takeTheta s _).thermalRegs

/-- A theta that follows the sensors keeps doing so. -/
theorem Steady.thetaOf_eq {s u : State} (h : Steady s u) {f : Folio} (hf : s.thetaOf f = s.thetaFolio f) :
    u.thetaOf f = u.thetaFolio f := by
  rw [thetaFolio_congr h.sensors]
  obtain e | e := h.theta f
  · exact e.trans hf
  · exact e

theorem State.thetaOf_foldl_takeTheta {s : State} {l : List Folio} {f : Folio} (hf : f ∈ l) :
    (l.foldl State.takeTheta s).thetaOf f = (l.foldl State.takeTheta s).thetaFolio f := by
  induction l generalizing s with
  | nil => exact absurd hf List.not_mem_nil
  | cons g l ih =>
    obtain rfl | hf := List.mem_cons.mp hf
    · refine (Steady.foldl_takeTheta (s.takeTheta f) l).thetaOf_eq ?_
      rw [State.thetaOf_takeTheta_same, thetaFolio_congr (Steady.takeTheta s f).sensors]
    · exact ih hf

theorem State.thetaOf_applyTheta (s : State) (f : Folio) : s.applyTheta.thetaOf f = s.applyTheta.thetaFolio f := by
  rw [State.applyTheta_eq]
  exact (Steady.refl _).thermalRegs.thetaOf_eq (State.thetaOf_foldl_takeTheta (List.mem_finRange f))

end Sys2Proof.Machine

end

section
/-! LEMMAS. What a reading of a temperature sensor does to the sensor (R224, R436-R440). -/

namespace Sys2Proof.Machine

variable {s u : State} {i : Sensor}

theorem Steady.sensor (h : Steady s u) (i : Sensor) : u.sensor i = s.sensor i := by
  rw [State.sensor, State.sensor, h.sensors]

/-- A sensor's record is replaced. -/
def State.putSensor (s : State) (i : Sensor) (r : SensorRec) : State :=
  s.updEnergy (fun e => { e with sensors := Store.set id e.sensors i.val r })

@[simp] theorem State.sensor_putSensor_same (s : State) (i : Sensor) (r : SensorRec) : (s.putSensor i r).sensor i = r :=
  Store.get_set_same _ _ _ _ _

/-! ### The throttle (R438) -/

/-- Whether the throttle of a sensor is on once it is evaluated. -/
def SensorRec.throttled (i : Sensor) (r : SensorRec) : Bool :=
  if r.engaged then decide (releaseAt i r < r.past.headD 0) else decide (engageAt i r < r.past.headD 0)

theorem Steady.throttle (s : State) (i : Sensor) :
    Steady (s.putSensor i { s.sensor i with engaged := (s.sensor i).throttled i }) (s.throttle i) :=
  (Steady.refl _).when (·.bump.fault)

theorem State.sensor_throttle_same (s : State) (i : Sensor) :
    (s.throttle i).sensor i = { s.sensor i with engaged := (s.sensor i).throttled i } := by
  rw [(Steady.throttle s i).sensor, State.sensor_putSensor_same]

theorem State.reg_throttle {r : Reg} (s : State) (i : Sensor) (hr : sensorReg r = true) :
    (s.throttle i).reg r = s.reg r := (Steady.throttle s i).reg r hr

theorem State.mem_throttle (s : State) (i : Sensor) : (s.throttle i).mem = s.mem := (Steady.throttle s i).mem

/-! ### The temperature of a ream (R224) -/

theorem State.reamHot_eq (s : State) (m : Ream) (h : i.val = 768 + m.val) :
    s.reamHot m = (s.flag (.reamRefresh m) Fld.reamRefreshForceHot || decide (680 < (s.sensor i).past.headD 0)) := by
  rw [State.reamHot, State.sensor, h]

/-- HOT of a ream holds what its refresh register and its sensor ask, as long as neither changes. -/
theorem reamHot_of_noteHot (m : Ream) (h : i.val = 768 + m.val)
    (hreg : ∀ r, sensorReg r = true → u.reg r = (s.noteHot m).reg r)
    (hpast : (u.sensor i).past = (s.sensor i).past) : u.flag (.reamStatus m) Fld.reamStatusHot = u.reamHot m := by
  have hforce : u.reg (.reamRefresh m) = s.reg (.reamRefresh m) :=
    (hreg _ rfl).trans (State.reg_setFlag_other s _ _ (by simp))
  have hhot : (s.noteHot m).flag (.reamStatus m) Fld.reamStatusHot = s.reamHot m :=
    State.flag_setFlag_same _ _ _ _ (by decide) (by decide)
  calc u.flag (.reamStatus m) Fld.reamStatusHot
    _ = (s.noteHot m).flag (.reamStatus m) Fld.reamStatusHot := by rw [State.flag, State.fld, hreg _ rfl]; rfl
    _ = s.reamHot m := hhot
    _ = u.reamHot m := by rw [s.reamHot_eq m h, u.reamHot_eq m h, hpast, State.flag, State.flag, State.fld, State.fld, hforce]

/-! ### A reading (R436, R437, R439) -/

/-- Whether a reading stands more than 8 degrees, in eighths, above a tenth of that ten readings before (R439). -/
def SensorRec.risesFast (r : SensorRec) (t : Int) : Bool := (r.past[9]?.map (fun p => decide (10 * (t - p) > 64))).getD false

/-- A sensor's record once it has taken the reading `t` at the time `now`. -/
def SensorRec.take (i : Sensor) (r : SensorRec) (t : Int) (now : Nat) : SensorRec :=
  { r with
    past := (t :: r.past).take 1000
    fastUntil := if r.risesFast t then some (now + 10000000) else r.fastUntil
    warned := if r.warned then decide (t > warnClearAt i) else decide (t ≥ warnSetAt i) }

theorem SensorRec.risesFast_iff (r : SensorRec) (t : Int) :
    r.risesFast t = true ↔ ∃ p, r.past[9]? = some p ∧ 64 < 10 * (t - p) := by
  unfold SensorRec.risesFast
  cases r.past[9]? <;> simp

theorem SensorRec.fastUntil_take_iff (i : Sensor) (r : SensorRec) (t : Int) (now : Nat) :
    (r.take i t now).fastUntil = some (now + 10000000) ↔
      (∃ p, r.past[9]? = some p ∧ 64 < 10 * (t - p)) ∨ r.fastUntil = some (now + 10000000) := by
  rw [← SensorRec.risesFast_iff]
  cases h : r.risesFast t <;> simp [SensorRec.take, h]

/-- The peak that a sensor's register holds. -/
def State.peakC (s : State) (i : Sensor) : Int := (BitVec.ofNat 16 (s.fld (.sensor i) Fld.sensorPeakC)).toInt

/-- The register of a sensor takes its reading and its peak. -/
def State.showReading (s : State) (i : Sensor) (v : BitVec 16) : State :=
  let u := s.setFld (.sensor i) Fld.sensorNowC v.toNat
  if v.toInt > s.peakC i then u.setFld (.sensor i) Fld.sensorPeakC v.toNat else u

theorem State.fld_now_showReading (s : State) (i : Sensor) (v : BitVec 16) :
    (s.showReading i v).fld (.sensor i) Fld.sensorNowC = v.toNat := by
  have hnow : (s.setFld (.sensor i) Fld.sensorNowC v.toNat).fld (.sensor i) Fld.sensorNowC = v.toNat :=
    (State.fld_setFld_same _ _ _ _ (by decide)).trans (Nat.mod_eq_of_lt v.isLt)
  unfold State.showReading
  dsimp only
  split
  · exact (State.fld_setFld_field _ _ _ _ _ (by decide) (by decide) (by decide)).trans hnow
  · exact hnow

theorem State.peakC_showReading (s : State) (i : Sensor) (v : BitVec 16) :
    (s.showReading i v).peakC i = max (s.peakC i) v.toInt := by
  unfold State.showReading
  dsimp only
  split
  next h =>
    have hpeak : (BitVec.ofNat 16 (v.toNat % 2 ^ Fld.sensorPeakC.width)).toInt = v.toInt :=
      congrArg BitVec.toInt (BitVec.eq_of_toNat_eq (by simp [Fld.sensorPeakC, v.isLt]))
    rw [max_eq_right (le_of_lt h), State.peakC, State.fld_setFld_same _ _ _ _ (by decide), hpeak]
  next h =>
    rw [max_eq_left (not_lt.mp h), State.peakC,
      State.fld_setFld_field _ _ _ _ _ (by decide) (by decide) (by decide), State.peakC]

/-- A fast rise that starts is counted (R439). -/
def State.countFastRise (s : State) (starts : Bool) : State :=
  if starts then s.bump .thermalEvents Fld.thermalEventsFastRises 1 else s

/-- A warning that comes is counted and recorded (R437). -/
def State.recordWarning (s : State) (i : Sensor) (v : BitVec 16) (comes : Bool) : State :=
  if comes then (s.bump .thermalEvents Fld.thermalEventsWarnings 1).fault 0x0400 15 i.val i.val v.toNat else s

/-- A reading before the throttle is evaluated. -/
def State.takeReading (s : State) (i : Sensor) (v : BitVec 16) : State :=
  let r := s.sensor i
  let u := (s.putSensor i (r.take i v.toInt s.now)).countFastRise (r.risesFast v.toInt && r.fastUntil.isNone)
  (u.showReading i v).recordWarning i v ((r.take i v.toInt s.now).warned && !r.warned)

/-- The HOT of a ream follows its own sensor (R224). -/
def State.noteReam (s : State) (i : Sensor) : State :=
  if 768 ≤ i.val ∧ i.val < 800 then s.noteHot (Fin.ofNat 32 (i.val - 768)) else s

theorem doSensorSample_eq (s : State) (i : Sensor) (v : BitVec 16) :
    doSensorSample i v s = ((((s.takeReading i v).noteReam i).throttle i).applyTheta).watchCooling := rfl

theorem Steady.countFastRise (s : State) (b : Bool) : Steady s (s.countFastRise b) :=
  (Steady.refl s).when (·.bump)

theorem Steady.recordWarning (s : State) (i : Sensor) (v : BitVec 16) (b : Bool) : Steady s (s.recordWarning i v b) :=
  (Steady.refl s).when (·.bump.fault)

@[simp] theorem State.sensor_showReading (s : State) (i j : Sensor) (v : BitVec 16) :
    (s.showReading i v).sensor j = s.sensor j := by
  unfold State.showReading
  dsimp only
  split <;> rfl

@[simp] theorem State.mem_showReading (s : State) (i : Sensor) (v : BitVec 16) : (s.showReading i v).mem = s.mem := by
  unfold State.showReading
  dsimp only
  split <;> rfl

theorem Steady.fld_sensor (h : Steady s u) (i : Sensor) (f : Field) : u.fld (.sensor i) f = s.fld (.sensor i) f := by
  rw [State.fld, State.fld, h.reg _ rfl]

theorem Steady.peakC (h : Steady s u) (i : Sensor) : u.peakC i = s.peakC i := by
  rw [State.peakC, State.peakC, h.fld_sensor]

section
variable (s : State) (i : Sensor) (v : BitVec 16)

theorem State.sensor_takeReading_same : (s.takeReading i v).sensor i = (s.sensor i).take i v.toInt s.now := by
  rw [State.takeReading, (Steady.recordWarning ..).sensor, State.sensor_showReading, (Steady.countFastRise ..).sensor,
    State.sensor_putSensor_same]

theorem State.fld_now_takeReading : (s.takeReading i v).fld (.sensor i) Fld.sensorNowC = v.toNat := by
  rw [State.takeReading, (Steady.recordWarning ..).fld_sensor, State.fld_now_showReading]

theorem State.peakC_takeReading : (s.takeReading i v).peakC i = max (s.peakC i) v.toInt := by
  rw [State.takeReading, (Steady.recordWarning ..).peakC, State.peakC_showReading, (Steady.countFastRise ..).peakC]
  rfl

theorem State.mem_takeReading : (s.takeReading i v).mem = s.mem := by
  rw [State.takeReading, (Steady.recordWarning ..).mem, State.mem_showReading, (Steady.countFastRise ..).mem]
  rfl

@[simp] theorem State.sensor_noteReam (j : Sensor) : (s.noteReam i).sensor j = s.sensor j := by
  unfold State.noteReam
  split <;> rfl

@[simp] theorem State.mem_noteReam : (s.noteReam i).mem = s.mem := by
  unfold State.noteReam
  split <;> rfl

theorem State.reg_noteReam {r : Reg} (h : ∀ m, r ≠ .reamStatus m) : (s.noteReam i).reg r = s.reg r := by
  unfold State.noteReam
  split
  · exact State.reg_setFlag_other _ _ _ (h _)
  · rfl

end

theorem State.noteReam_eq (s : State) (m : Ream) (h : i.val = 768 + m.val) : s.noteReam i = s.noteHot m := by
  have hm : Fin.ofNat 32 (i.val - 768) = m := Fin.ext (by simp [h])
  rw [State.noteReam, if_pos (by omega), hm]

/-- Once a reading is taken the throttle follows, and theta with it. -/
theorem Steady.follow (s : State) (i : Sensor) : Steady (s.throttle i) ((s.throttle i).applyTheta).watchCooling :=
  (Steady.applyTheta _).watchCooling

theorem State.thetaOf_follow (s : State) (f : Folio) :
    s.applyTheta.watchCooling.thetaOf f = s.applyTheta.watchCooling.thetaFolio f :=
  (Steady.refl _).watchCooling.thetaOf_eq (s.thetaOf_applyTheta f)

theorem doFastRiseEnd_of_over {n : Nat} (h : (s.sensor i).fastUntil = some n) (hn : n ≤ s.now) :
    doFastRiseEnd i s = ((s.putSensor i { s.sensor i with fastUntil := none }).throttle i).applyTheta := by
  rw [doFastRiseEnd]
  dsimp only
  rw [h]
  exact if_pos hn

end Sys2Proof.Machine

end

section
/-! PROOFS. A reading of a temperature sensor, and the end of a fast rise. -/

open Sys2Proof Sys2Proof.Machine

/-- Settles O42: a reading is taken before the throttle is evaluated, which changes `engaged` alone, and following theta
leaves the sensors as they are. -/
theorem sensorReadingsAreEvaluated : Obligations.SensorReadingsAreEvaluated := by
  unfold Obligations.SensorReadingsAreEvaluated
  refine ⟨fun s i v => ?sample, fun s i n hfast hover => ?ends⟩
  case sample =>
    have hsteady := Steady.follow ((s.takeReading i v).noteReam i) i
    have hsensor := (hsteady.sensor i).trans (State.sensor_throttle_same _ i)
    rw [State.sensor_noteReam, State.sensor_takeReading_same] at hsensor
    have hreg : ∀ f, _ = (s.takeReading i v).fld (.sensor i) f := fun f => (hsteady.fld_sensor i f).trans
      (congrArg f.get ((State.reg_throttle _ i rfl).trans (State.reg_noteReam _ i nofun)))
    refine ⟨_, congrArg Host.Outcome.next (doSensorSample_eq s i v), (hreg _).trans (s.fld_now_takeReading i v), ?peak,
      congrArg SensorRec.past hsensor, congrArg SensorRec.warned hsensor, ?engaged, ?fast, State.thetaOf_follow _,
      fun m hm => ?hot, ?mem⟩
    case peak =>
      exact (congrArg (fun n => (BitVec.ofNat 16 n).toInt) (hreg _)).trans (s.peakC_takeReading i v)
    case engaged =>
      rw [hsensor]
      rfl
    case fast =>
      rw [hsensor]
      exact SensorRec.fastUntil_take_iff i (s.sensor i) v.toInt s.now
    case hot =>
      refine reamHot_of_noteHot (s := s.takeReading i v) m hm (fun r hr => ?_) ?_
      · rw [hsteady.reg r hr, State.reg_throttle _ i hr, State.noteReam_eq _ m hm]
      · rw [hsensor, State.sensor_takeReading_same]
    case mem =>
      rw [hsteady.mem, State.mem_throttle, State.mem_noteReam, State.mem_takeReading]
  case ends =>
    have hsensor := ((Steady.applyTheta _).sensor i).trans
      (State.sensor_throttle_same (s.putSensor i { s.sensor i with fastUntil := none }) i)
    rw [State.sensor_putSensor_same] at hsensor
    refine ⟨_, congrArg Host.Outcome.next (doFastRiseEnd_of_over hfast hover), congrArg SensorRec.fastUntil hsensor,
      (congrArg SensorRec.past hsensor :), ?_, State.thetaOf_applyTheta _⟩
    rw [hsensor]
    rfl

end

section
/-! LEMMAS. What the traffic of memory and fabric can change of the device: one lemma for each function, up to the posting
of an event (R29, R222, R310, R378, R469). -/

-- Short lemmas, one after another, are not worth a task each.
set_option Elab.async false

namespace Sys2Proof.Machine

/-- From `s` to `u` nothing changed but what traffic changes: no queue of an engine, no host queue, no scrubber's place,
no refresh owed, nor the tense. -/
structure Traffic (s u : State) : Prop where
  frame : u = { s with
    regs := u.regs, mem := u.mem, marks := u.marks, tiles := u.tiles, caches := u.caches, rowErrors := u.rowErrors,
    spares := u.spares, banks := u.banks, net := u.net, groups := u.groups, energy := u.energy, mgmt := u.mgmt,
    clocks := u.clocks, out := u.out }

namespace Traffic
variable {a b c s s' : State} {α β : Type} {p : Prop}

theorem refl (s : State) : Traffic s s := ⟨rfl⟩

theorem trans (h : Traffic a b) (k : Traffic b c) : Traffic a c := ⟨by rw [k.frame, h.frame]⟩

theorem ecqs (h : Traffic a s) : s.ecqs = a.ecqs := by rw [h.frame]

theorem scrubStep (h : Traffic a s) : s.scrubStep = a.scrubStep := by rw [h.frame]

theorem branch [Decidable p] (h : Traffic a s) (hb : Traffic a s → Traffic a b) (hc : Traffic a s → Traffic a c) :
    Traffic a (if p then b else c) := by
  split
  · exact hb h
  · exact hc h

theorem when [Decidable p] (h : Traffic a s) (hb : Traffic a s → Traffic a b) : Traffic a (if p then b else s) :=
  h.branch hb id

theorem whenNot [Decidable p] (h : Traffic a s) (hb : Traffic a s → Traffic a b) : Traffic a (if p then s else b) :=
  h.branch id hb

theorem branchFst [Decidable p] {x y : State × α} (h : Traffic a s) (hx : Traffic a s → Traffic a x.1)
    (hy : Traffic a s → Traffic a y.1) : Traffic a (if p then x else y).1 := by
  split
  · exact hx h
  · exact hy h

theorem whenFst [Decidable p] {x : State × α} {y : α} (h : Traffic a s) (hx : Traffic a s → Traffic a x.1) :
    Traffic a (if p then x else (s, y)).1 := h.branchFst hx id

theorem whenNotFst [Decidable p] {x : State × α} {y : α} (h : Traffic a s) (hx : Traffic a s → Traffic a x.1) :
    Traffic a (if p then (s, y) else x).1 := h.branchFst id hx

theorem ofFst {x : State × α} {y : α} (h : Traffic a x.1) (e : x = (s, y)) : Traffic a s := by
  rw [e] at h
  exact h

theorem foldl {f : State → α → State} {l : List α} (h : Traffic a s)
    (hf : ∀ s x, Traffic a s → Traffic a (f s x)) : Traffic a (l.foldl f s) := by
  induction l generalizing s with
  | nil => exact h
  | cons x l ih => exact ih (hf s x h)

theorem foldlFst {f : State × β → α → State × β} {l : List α} {z : β} (h : Traffic a s)
    (hf : ∀ x y, Traffic a x.1 → Traffic a (f x y).1) : Traffic a (l.foldl f (s, z)).1 := by
  suffices ∀ x, Traffic a x.1 → Traffic a (l.foldl f x).1 from this _ h
  induction l with
  | nil => exact fun _ h => h
  | cons y l ih => exact fun x h => ih _ (hf x y h)

theorem pipe (h : Traffic a s) (k : Traffic a s → Traffic a b) : Traffic a b := k h

theorem fst {x : α} (h : Traffic a s) : Traffic a (s, x).1 := h

/-- A step that changes one of the components. -/
theorem step (h : Traffic a s) (e : s' = { s with
    regs := s'.regs, mem := s'.mem, marks := s'.marks, tiles := s'.tiles, caches := s'.caches, rowErrors := s'.rowErrors,
    spares := s'.spares, banks := s'.banks, net := s'.net, groups := s'.groups, energy := s'.energy, mgmt := s'.mgmt,
    clocks := s'.clocks, out := s'.out } := by rfl) : Traffic a s' := h.trans ⟨e⟩

/-! ### Machine/Ops.lean and Machine/Flags.lean -/

theorem setReg {r v} (h : Traffic a s) : Traffic a (s.setReg r v) := h.step

theorem setFld {r f v} (h : Traffic a s) : Traffic a (s.setFld r f v) := h.step

theorem setFlag {r f b} (h : Traffic a s) : Traffic a (s.setFlag r f b) := h.step

theorem setTile {t v} (h : Traffic a s) : Traffic a (s.setTile t v) := h.step

theorem bump {r f n} (h : Traffic a s) : Traffic a (s.bump r f n) := by
  unfold State.bump
  dsimp only
  split <;> exact h.step

theorem chargeFolio {f e} (h : Traffic a s) : Traffic a (s.chargeFolio f e) := h.whenNot (·.step)

theorem fault {code die inst d0 d1} (h : Traffic a s) : Traffic a (s.fault code die inst d0 d1) :=
  h.when (·.bump) |>.setReg |>.setReg |>.setReg |>.setReg |>.setReg |>.setReg

/-! ### Machine/Switch.lean and Machine/Transport.lean -/

theorem updNet {f} (h : Traffic a s) : Traffic a (s.updNet f) := h.step

theorem updXbar {n f} (h : Traffic a s) : Traffic a (s.updXbar n f) := h.step

theorem originate {n targets group} (h : Traffic a s) : Traffic a (s.originate n targets group) := h.step

theorem noteSent {d c} (h : Traffic a s) : Traffic a (s.noteSent d c) := by
  unfold State.noteSent
  split
  exacts [h, h.updNet]

theorem depart {d c} (h : Traffic a s) : Traffic a (s.depart d c).1 := by
  dsimp only [State.depart]
  exact h.noteSent.whenNotFst fun h => by
    split
    exacts [h.fst, h.updNet.pipe (fun h => by split; exacts [h.setTile.fst, h.fst])]

theorem departAll {d ps} (h : Traffic a s) : Traffic a (s.departAll d ps).1 := by
  induction ps generalizing s with
  | nil => exact h
  | cons p ps ih => exact ih h.depart

theorem fillStore {n} (h : Traffic a s) : Traffic a (s.fillStore n) := by
  unfold State.fillStore
  exact h.foldl fun _ _ h => h.pipe (fun h => by split; exacts [h.updXbar.departAll.originate, h])

theorem wake {d} (h : Traffic a s) : Traffic a (s.wake d) := by
  obtain ⟨k, e, he⟩ := s.started_eq d
  unfold State.wake
  rw [he]
  dsimp only
  split <;> exact h.step

theorem noteNaked {d c} (h : Traffic a s) : Traffic a (s.noteNaked d c) := by
  unfold State.noteNaked
  exact h.updNet

theorem suppressed {d} (h : Traffic a s) : Traffic a (s.suppressed d) := h.bump

theorem refusal {d key code c} (h : Traffic a s) : Traffic a (s.refusal d key code c).1 :=
  h.branchFst (·.suppressed.fst) fun h =>
    h.branchFst (fun h => h.branchFst (·.bump.fst) (·.suppressed.fst)) fun h =>
      h.branchFst (·.noteNaked.suppressed.fst) fun h => h.branchFst (·.suppressed.fst) (·.noteNaked.updNet.bump.fst)

theorem checkCopy {n acc c} (h : Traffic a s) : Traffic a (s.checkCopy n acc c).1 := by
  unfold State.checkCopy
  split
  exacts [h.refusal.foldl (fun _ _ h => h.originate) |>.fst, h.pipe (fun h => by split <;> exact h.fst)]

theorem leaveDeckle {n copies} (h : Traffic a s) : Traffic a (s.leaveDeckle n copies) := by
  dsimp only [State.leaveDeckle]
  exact h.foldlFst (fun _ _ h => h.checkCopy) |>.pipe fun h => by
    split
    exacts [h, h.branch (·.originate) (fun h => h.foldl (fun _ _ h => h.updXbar) |>.fillStore)]

theorem sendCells {d src cs} (h : Traffic a s) : Traffic a (s.sendCells d src cs) :=
  h.foldl fun _ _ h => h.branch (·.updNet) (·.leaveDeckle)

theorem openTxn {d user job dstChip dstDie cls type bs cells} (h : Traffic a s)
    (e : s.openTxn d user job dstChip dstDie cls type bs = some (s', cells)) : Traffic a s' := by
  dsimp only [State.openTxn] at e
  split at e
  · cases e
  · obtain ⟨rfl, -⟩ := Prod.mk.inj (Option.some.inj e)
    exact h.updNet

theorem request {d src user job dstChip dstDie cls type bs} (h : Traffic a s)
    (e : s.request d src user job dstChip dstDie cls type bs = some s') : Traffic a s' := by
  obtain ⟨p, hp, rfl⟩ := Option.map_eq_some_iff.mp e
  exact (h.openTxn hp).sendCells

theorem answer {d src req x} (h : Traffic a s) : Traffic a (s.answer d src req x) := by
  unfold State.answer
  split
  exacts [h.sendCells, h.refusal.sendCells, h]

theorem completeRequest {d src req depart came keep x} (h : Traffic a s) :
    Traffic a (s.completeRequest d src req depart came keep x) := h.updNet.answer

/-! ### Machine/Group.lean and Machine/StopStep.lean -/

theorem setGroup {g v} (h : Traffic a s) : Traffic a (s.setGroup g v) := h.step

theorem tell {g type chips data} (h : Traffic a s) : Traffic a (s.tell g type chips data) := by
  unfold State.tell State.flushMail
  refine foldl (h.setGroup.setGroup) fun s m h => ?_
  split
  next e =>
    dsimp only [State.collSend] at e
    split at e
    · obtain rfl := Option.some.inj e
      exact (h.request ‹_›).setGroup
    · cases e
  next => exact h.setGroup

theorem endEntries {g p status} (h : Traffic a s) : Traffic a (s.endEntries g p status) :=
  h.foldl fun _ _ h => (h.when (·.bump)).setGroup.setFld

theorem leaveStep {g} (h : Traffic a s) : Traffic a (s.leaveStep g) :=
  (h.setGroup.foldl fun _ _ h => h.completeRequest).setGroup

theorem clearBarriers {g mark state} (h : Traffic a s) : Traffic a (s.clearBarriers g mark state) :=
  h.foldl fun _ _ h => h.branch (·.setReg.setReg) (·.setReg) |>.when (·.setTile)

theorem faultGroup {g status spread} (h : Traffic a s) : Traffic a (s.faultGroup g status spread) :=
  h.when fun h => h.endEntries.leaveStep.setFld.setFld.clearBarriers.when (·.tell)

theorem stopStep (h : Traffic a s) : Traffic a s.stopStep := h.foldl fun _ _ h => h.when (·.faultGroup)

/-! ### Machine/Ream.lean, Machine/Vat.lean and Machine/Cache.lean -/

theorem touchReam {f off n} (h : Traffic a s) : Traffic a (s.touchReam f off n) :=
  h.foldl fun _ _ h => (h.when (·.wake)).step

theorem reamError {f line} (h : Traffic a s) : Traffic a (s.reamError f line) :=
  (h.whenNot (·.step)).setReg.fault.stopStep

theorem correctLine {f line} (h : Traffic a s) : Traffic a (s.correctLine f line) :=
  (h.step (s' := { s with marks := Store.erase s.marks (reamAddr f (64 * line)) })).bump

theorem reamCorrect {f line} (h : Traffic a s) : Traffic a (s.reamCorrect f line) :=
  h.correctLine.step.when fun h => h.whenNot fun h =>
    (h.foldl fun _ _ h => h.branch (·.correctLine) (·.reamError)).step.bump.when (·.setFlag) |>.fault

theorem meetMarks {f hits} (h : Traffic a s) : Traffic a (s.meetMarks f hits).1 :=
  h.foldl (fun _ _ h => h.branch (·.reamCorrect) (·.reamError)) |>.fst

theorem reamScan {f off n} (h : Traffic a s) : Traffic a (s.reamScan f off n).1 := h.touchReam.meetMarks

theorem reamWrite {f off bs atOnce} (h : Traffic a s) : Traffic a (s.reamWrite f off bs atOnce).1 := by
  unfold State.reamWrite
  refine h.touchReam.branchFst (·.step.fst) fun h => h.meetMarks.branchFst (·.fst) fun h => ?_
  exact h.step

theorem vatReadMarks {t hits} (h : Traffic a s) : Traffic a (s.vatReadMarks t hits).1 :=
  h.whenNot (fun h => h.step.bump) |>.foldl fun _ _ h => h.setReg.fault.stopStep

theorem vatScan {t off n} (h : Traffic a s) : Traffic a (s.vatScan t off n).1 := h.vatReadMarks

theorem vatPut {t off bs} (h : Traffic a s) : Traffic a (s.vatPut t off bs) := by
  induction bs generalizing s off with
  | nil => exact h
  | cons b bs ih => exact ih h.step

theorem vatWrite {t off bs} (h : Traffic a s) : Traffic a (s.vatWrite t off bs).1 := by
  dsimp only [State.vatWrite]
  split
  · exact h.vatReadMarks.ofFst ‹_›
  · exact h.vatReadMarks.ofFst ‹_› |>.whenNot (·.step) |>.vatPut

theorem resolveHost {f off n} (h : Traffic a s) : Traffic a (s.resolveHost f off n) :=
  h.whenNot fun h => h.foldl fun _ _ h => h.step

theorem invalidate {f off n} (h : Traffic a s) : Traffic a (s.invalidate f off n) := h.whenNot (·.step)

theorem updateLine {f off n line} (h : Traffic a s) : Traffic a (s.updateLine f off n line) := by
  unfold State.updateLine
  split
  · exact h
  · have hread : ∀ e p, Traffic a (s.readLine f e p).1 := fun e p =>
      (h.whenNot fun h => h.step.bump).whenFst fun h => h.step.setReg.fault.stopStep.fst
    exact (hread _ _).whenNot (·.step)

/-! ### Machine/Engine.lean -/

theorem baseRead {f off n} (h : Traffic a s) : Traffic a (s.baseRead f off n).1 := by
  unfold State.baseRead
  split <;> exact h.chargeFolio.reamScan.ofFst ‹_›

theorem baseWrite {f off bs} (h : Traffic a s) : Traffic a (s.baseWrite f off bs).1 := by
  unfold State.baseWrite
  generalize pieces off (bs.length / 256 + 2) bs = ps
  induction ps generalizing s with
  | nil => exact h
  | cons p ps ih =>
    have hp := (h.chargeFolio (f := f) (e := 3920 * p.2.length)).invalidate (f := f) (off := p.1) (n := p.2.length)
    unfold State.writePieces
    split
    · exact hp.reamWrite.ofFst ‹_›
    · exact ih (hp.reamWrite.ofFst ‹_›)

theorem accElements {f o i st bss} (h : Traffic a s) : Traffic a (s.accElements f o i st bss).1 := by
  induction bss generalizing s i st with
  | nil => exact h
  | cons bs bss ih =>
    unfold State.accElements
    dsimp only
    split
    · exact h.baseRead.ofFst ‹_›
    · split
      · exact (h.baseRead.ofFst ‹_›).baseWrite.ofFst ‹_›
      · exact ih ((h.baseRead.ofFst ‹_›).baseWrite.ofFst ‹_›)

theorem scanParts {ps} (h : Traffic a s) : Traffic a (s.scanParts ps).1 := by
  induction ps generalizing s with
  | nil => exact h
  | cons p ps ih =>
    unfold State.scanParts
    split
    · exact h.vatScan.ofFst ‹_›
    · exact ih (h.vatScan.ofFst ‹_›)

theorem writeParts {ps bs} (h : Traffic a s) : Traffic a (s.writeParts ps bs).1 := by
  induction ps generalizing s bs with
  | nil => exact h
  | cons p ps ih =>
    unfold State.writeParts
    split
    · exact h.vatWrite.ofFst ‹_›
    · exact ih (h.vatWrite.ofFst ‹_›)

theorem performOp {f o} (h : Traffic a s) : Traffic a (s.performOp f o).1 := by
  dsimp only [State.performOp]
  split
  · split <;> split
    · exact h.scanParts.ofFst ‹_›
    · exact h.scanParts.ofFst ‹_›
    · exact h.writeParts.ofFst ‹_›
    · exact h.writeParts.ofFst ‹_›
  split
  · split <;> exact h.baseRead.ofFst ‹_›
  split
  · split <;> exact h.baseWrite.ofFst ‹_›
  split
  · split
    · exact h.baseRead.ofFst ‹_›
    · split <;> exact (h.baseRead.ofFst ‹_›).baseWrite.ofFst ‹_›
  split
  · split
    · exact h.baseRead.ofFst ‹_›
    · split <;> exact (h.baseRead.ofFst ‹_›).baseWrite.ofFst ‹_›
  · exact h.accElements

theorem carryOut {f o} (h : Traffic a s) : Traffic a (s.carryOut f o) :=
  h.whenNotFst (fun h => h.whenNotFst fun h => h.whenNot (·.resolveHost) |>.performOp)
    |>.whenNot (fun h => h.branch (·.bump) (·.bump)) |>.completeRequest

theorem performReady {f o} (h : Traffic a s) : Traffic a (s.performReady f o) := by
  dsimp only [State.performReady]
  refine h.whenNot fun h => ?_
  have hu := fun g => h.updNet (f := g)
  split
  · exact (hu _).branch (·.carryOut) (·.bump.answer)
  · exact (hu _).carryOut

theorem settleOps {f off n} (h : Traffic a s) : Traffic a (s.settleOps f off n) := h.foldl fun _ _ h => h.performReady

/-! ### Machine/Plain.lean and Machine/Events.lean -/

theorem folioWrite {f off bs} (h : Traffic a s) : Traffic a (s.folioWrite f none off bs) :=
  h.settleOps.branch (·.fault) fun h =>
    (h.resolveHost.chargeFolio.foldl fun _ _ h => h.updateLine).reamWrite.when (·.step)

theorem postEvent {f kind source record} (h : Traffic a s) : Traffic a (s.postEvent f kind source record) :=
  h.branch (·.updNet) fun h =>
    h.branch (fun h => (h.folioWrite.when (·.folioWrite)).setFld.updNet.step) (·.bump.setFlag)

end Traffic

end Sys2Proof.Machine

end

section
/-! LEMMAS. Bytes in memory: what is read where bytes were written, and the pieces that a write is cut into (R5, R229). -/

namespace Sys2Proof.Machine

theorem Memory.read_writeBytes_inside (m : Memory) {a c : Nat} {bs : List Byte} (hlo : a ≤ c) (hhi : c < a + bs.length) :
    (m.writeBytes a bs).read c = bs.getD (c - a) 0 := by
  induction bs generalizing m a with
  | nil => simp at hhi; omega
  | cons b bs ih =>
    simp only [List.length_cons] at hhi
    rw [Memory.writeBytes]
    obtain rfl | hgt := Nat.eq_or_lt_of_le hlo
    · rw [Memory.read_writeBytes_outside _ _ _ (.inl (by omega)), Memory.read_write_same, Nat.sub_self,
        List.getD_cons_zero]
    · rw [ih _ hgt (by omega), show c - a = (c - (a + 1)) + 1 by omega, List.getD_cons_succ]

@[simp] theorem Memory.length_readBytes (m : Memory) (a n : Nat) : (m.readBytes a n).length = n := by
  simp [Memory.readBytes]

theorem Memory.readBytes_congr {m k : Memory} {a b n : Nat} (h : ∀ i < n, m.read (a + i) = k.read (b + i)) :
    m.readBytes a n = k.readBytes b n := by
  refine List.map_congr_left fun i hi => h i (List.mem_range.mp hi)

theorem Memory.readBytes_writeBytes_same (m : Memory) (a : Nat) (bs : List Byte) :
    (m.writeBytes a bs).readBytes a bs.length = bs := by
  refine List.ext_getElem (by simp) fun i hi _ => ?_
  have hlt : i < bs.length := by simpa using hi
  simp only [Memory.readBytes, List.getElem_map, List.getElem_range]
  rw [Memory.read_writeBytes_inside m (Nat.le_add_right a i) (by omega), Nat.add_sub_cancel_left,
    List.getD_eq_getElem _ _ hlt]

theorem Memory.readBytes_writeBytes_disjoint (m : Memory) {a b n : Nat} {bs : List Byte}
    (h : b + n ≤ a ∨ a + bs.length ≤ b) : (m.writeBytes a bs).readBytes b n = m.readBytes b n :=
  Memory.readBytes_congr fun i hi => Memory.read_writeBytes_outside m a bs (by omega)

theorem Memory.writeBytes_append (m : Memory) (a : Nat) (xs ys : List Byte) :
    m.writeBytes a (xs ++ ys) = (m.writeBytes a xs).writeBytes (a + xs.length) ys := by
  induction xs generalizing m a with
  | nil => rfl
  | cons x xs ih =>
    rw [List.cons_append, Memory.writeBytes, ih, Memory.writeBytes, List.length_cons, Nat.add_comm xs.length,
      Nat.add_assoc]

/-- Pieces of bytes are written one after another, each at its offset of a folio. -/
def Memory.writePieces (m : Memory) (f : Folio) : List (Nat × List Byte) → Memory
  | [] => m
  | p :: ps => (m.writeBytes (reamAddr f p.1) p.2).writePieces f ps

theorem reamAddr_add (f : Folio) (a b : Nat) : reamAddr f (a + b) = reamAddr f a + b :=
  (Nat.add_assoc _ _ _).symm

/-- Cutting bytes at the boundaries of blocks does not change what is written (R229). -/
theorem Memory.writePieces_pieces (m : Memory) (f : Folio) {off n : Nat} {bs : List Byte}
    (h : off % 256 + bs.length ≤ 256 * n) :
    m.writePieces f (pieces off n bs) = m.writeBytes (reamAddr f off) bs := by
  induction n generalizing m off bs with
  | zero =>
    obtain rfl : bs = [] := List.eq_nil_of_length_eq_zero (by omega)
    rfl
  | succ n ih =>
    unfold pieces
    split
    next hnil =>
      obtain rfl := List.isEmpty_iff.mp hnil
      rfl
    next =>
      have hrest : (off + (256 - off % 256)) % 256 + (bs.drop (256 - off % 256)).length ≤ 256 * n := by
        rw [List.length_drop]
        omega
      dsimp only
      rw [Memory.writePieces, ih _ hrest]
      by_cases hlen : 256 - off % 256 ≤ bs.length
      · conv_rhs => rw [← List.take_append_drop (256 - off % 256) bs]
        rw [Memory.writeBytes_append, List.length_take, Nat.min_eq_left hlen, reamAddr_add]
      · rw [List.drop_eq_nil_of_le (by omega), List.take_of_length_le (by omega)]
        rfl

theorem pieces_fit (off : Nat) (bs : List Byte) : off % 256 + bs.length ≤ 256 * (bs.length / 256 + 2) := by omega

/-! ### Accesses of the engines where nothing is in error (R222, R228, R253) -/

/-- From `s` to `u` engines had access to the reams and memory became `m`: beside it only the status of ream bases may
differ among the registers, and what opening rows, metering, the caches and the host's pages keep. -/
structure Served (m : Memory) (s u : State) : Prop where
  frame : u = { s with mem := m, regs := u.regs, clocks := u.clocks, energy := u.energy, banks := u.banks,
                       caches := u.caches, out := u.out }
  reg : ∀ k, (∀ m, k ≠ .reamStatus m) → u.reg k = s.reg k

namespace Served
variable {m k : Memory} {s u v : State}

theorem refl (s : State) : Served s.mem s s := ⟨rfl, fun _ _ => rfl⟩

theorem trans (h : Served m s u) (i : Served k u v) : Served k s v where
  frame := by rw [i.frame, h.frame]
  reg r hr := (i.reg r hr).trans (h.reg r hr)

theorem mem (h : Served m s u) : u.mem = m := by rw [h.frame]

theorem marks (h : Served m s u) : u.marks = s.marks := by rw [h.frame]

theorem net (h : Served m s u) : u.net = s.net := by rw [h.frame]

theorem host (h : Served m s u) : u.host = s.host := by rw [h.frame]

theorem ecq (h : Served m s u) (f : Folio) (q : Ecq) : u.ecq f q = s.ecq f q := by rw [h.frame]; rfl

theorem fld (h : Served m s u) {r : Reg} (f : Field) (hr : ∀ m, r ≠ .reamStatus m := by nofun) : u.fld r f = s.fld r f :=
  fld_congr h.reg hr f

theorem flag (h : Served m s u) {r : Reg} (f : Field) (hr : ∀ m, r ≠ .reamStatus m := by nofun) :
    u.flag r f = s.flag r f := flag_congr h.reg hr f

theorem clean (h : Served m s u) (hm : s.marks = []) : u.marks = [] := h.marks.trans hm

theorem noOps (h : Served m s u) {f : Folio} (ho : s.noOps f) : u.noOps f := by
  rw [State.noOps, h.net]
  exact ho

theorem readMem (h : Served m s u) (a n : Nat) : u.readMem a n = m.readBytes a n := by rw [State.readMem, h.mem]

end Served

/-- What does no more than open rows, meter, and hold lines or outputs. -/
theorem Served.of_regs {s u : State} (frame : u = { s with
    clocks := u.clocks, energy := u.energy, banks := u.banks, caches := u.caches, out := u.out } := by rfl) :
    Served s.mem s u := ⟨by rw [frame], fun r _ => by rw [frame]; rfl⟩

theorem State.served_wake (s : State) (d : Domain) : Served s.mem s (s.wake d) := by
  obtain ⟨c, e, he⟩ := s.started_eq d
  unfold State.wake
  rw [he]
  dsimp only
  split
  next m => exact ⟨rfl, fun k hk => State.reg_setFlag_other _ _ _ (hk m)⟩
  next => exact Served.of_regs

theorem Served.foldl {α : Type} {m : Memory} {a s : State} {g : State → α → State} {l : List α} (h : Served m a s)
    (hg : ∀ s x, Served m a s → Served m a (g s x)) : Served m a (l.foldl g s) := by
  induction l generalizing s with
  | nil => exact h
  | cons x l ih => exact ih (hg s x h)

theorem State.served_touchReam (s : State) (f : Folio) (off n : Nat) : Served s.mem s (s.touchReam f off n) := by
  refine (Served.refl s).foldl fun u x hu => ?_
  dsimp only
  split
  · have hw := u.served_wake (.reamBase (reamLoc f x).ream)
    exact hu.trans (hu.mem ▸ hw.trans (hw.mem ▸ Served.of_regs))
  · exact hu.trans (hu.mem ▸ Served.of_regs)

theorem State.served_chargeFolio (s : State) (f : Folio) (e : Nat) : Served s.mem s (s.chargeFolio f e) := by
  obtain ⟨x, hx⟩ := s.chargeFolio_eq f e
  rw [hx]
  exact Served.of_regs

theorem State.served_resolveHost (s : State) (f : Folio) (off n : Nat) : Served s.mem s (s.resolveHost f off n) := by
  obtain ⟨o, ho⟩ := s.resolveHost_eq f off n
  rw [ho]
  exact Served.of_regs

theorem State.served_invalidate (s : State) (f : Folio) (off n : Nat) : Served s.mem s (s.invalidate f off n) := by
  unfold State.invalidate
  dsimp only
  split
  · exact Served.refl s
  · exact Served.of_regs

variable {s : State} {f : Folio}

theorem State.baseRead_served (hm : s.marks = []) (off n : Nat) :
    ∃ u, Served s.mem s u ∧ s.baseRead f off n = (u, some (s.readMem (reamAddr f off) n)) := by
  have hc := s.served_chargeFolio f (3920 * n)
  have ht := (s.chargeFolio f (3920 * n)).served_touchReam f off n
  rw [hc.mem] at ht
  refine ⟨_, hc.trans ht, ?_⟩
  rw [State.baseRead, State.reamScan_clean (hc.clean hm)]
  dsimp only
  rw [ht.readMem]
  rfl

theorem State.writePieces_served (hm : s.marks = []) (ps : List (Nat × List Byte)) :
    ∃ u, Served (s.mem.writePieces f ps) s u ∧ s.writePieces f ps = (u, false) := by
  induction ps generalizing s with
  | nil => exact ⟨s, Served.refl s, rfl⟩
  | cons p ps ih =>
    have hc := s.served_chargeFolio f (3920 * p.2.length)
    have hi := (s.chargeFolio f (3920 * p.2.length)).served_invalidate f p.1 p.2.length
    rw [hc.mem] at hi
    have hci := hc.trans hi
    generalize hv : (s.chargeFolio f (3920 * p.2.length)).invalidate f p.1 p.2.length = v at hci
    have ht := v.served_touchReam f p.1 p.2.length
    rw [hci.mem] at ht
    have hw : Served (s.mem.writeBytes (reamAddr f p.1) p.2) s
        ((v.touchReam f p.1 p.2.length).writeMem (reamAddr f p.1) p.2) := by
      refine (hci.trans ht).trans ⟨?_, fun _ _ => rfl⟩
      rw [State.writeMem, ht.mem]
    obtain ⟨u, hu, hp⟩ := ih (hw.clean hm)
    rw [hw.mem] at hu
    refine ⟨u, hw.trans hu, ?_⟩
    rw [State.writePieces, hv, State.reamWrite_clean (hci.clean hm)]
    exact hp

theorem State.baseWrite_served (hm : s.marks = []) (off : Nat) (bs : List Byte) :
    ∃ u, Served (s.mem.writeBytes (reamAddr f off) bs) s u ∧ s.baseWrite f off bs = (u, false) := by
  obtain ⟨u, hu, hw⟩ := State.writePieces_served (f := f) hm (pieces off (bs.length / 256 + 2) bs)
  rw [Memory.writePieces_pieces _ _ (pieces_fit off bs)] at hu
  exact ⟨u, hu, hw⟩

/-- A read of an engine command returns what the memory holds. -/
theorem State.engRead_served (hm : s.marks = []) (ho : s.noOps f) (off n : Nat) :
    ∃ u, Served s.mem s u ∧ s.engRead f off n = (u, some (s.mem.readBytes (reamAddr f off) n)) := by
  have hr := s.served_resolveHost f off n
  obtain ⟨u, hu, hb⟩ := State.baseRead_served (f := f) (hr.clean hm) off n
  rw [hr.mem] at hu
  refine ⟨u, hr.trans hu, ?_⟩
  rw [State.engRead, State.settleOps_idle ho, hb, hr.readMem]

/-- A write of an engine command puts its bytes. -/
theorem State.engWrite_served (hm : s.marks = []) (ho : s.noOps f) (off : Nat) (bs : List Byte) :
    ∃ u, Served (s.mem.writeBytes (reamAddr f off) bs) s u ∧ s.engWrite f off bs = (u, false) := by
  have hr := s.served_resolveHost f off bs.length
  obtain ⟨u, hu, hb⟩ := State.baseWrite_served (f := f) (hr.clean hm) off bs
  rw [hr.mem] at hu
  exact ⟨u, hr.trans hu, by rw [State.engWrite, State.settleOps_idle ho, hb]⟩

end Sys2Proof.Machine

end

section
/-! LEMMAS. The upkeep of a ream: a step of its scrubber, and a refresh of a bank that falls due (R223-R225). -/

namespace Sys2Proof.Store

/-- What a store keeps of the keys that a test lets stand. -/
theorem get_filter_key {κ α : Type} [DecidableEq κ] (d : κ → α) (st : Store κ α) (p : κ → Bool) (k : κ) :
    get d (st.filter (fun e => p e.1)) k = if p k then get d st k else d k := by
  have hfind : find? (st.filter (fun e => p e.1)) k = if p k then find? st k else none := by
    induction st with
    | nil => simp [find?]
    | cons e st ih =>
      obtain ⟨j, v⟩ := e
      by_cases hj : j = k
      · subst hj
        cases hp : p j <;> simp [hp, find?, ih]
      · cases hp : p j <;> simp [hp, find?, ih, hj]
  unfold get
  rw [hfind]
  cases p k <;> rfl

end Sys2Proof.Store

namespace Sys2Proof.Machine

variable {s : State} {m : Ream}

/-! ### The scrubber (R223) -/

/-- The scrubber of a ream has done step `k`: it stands at the next, or has made a pass. -/
def State.nextScrub (s : State) (m : Ream) (k : Nat) : State :=
  if k + 1 = scrubPass then
    ({ s with
      scrubStep := Store.put (fun r => r.val) (fun _ => 0) s.scrubStep m 0
      rowErrors := s.rowErrors.filter (fun e => decide (e.1 / 16384 / 2048 ≠ m.val)) }).bump (.reamScrub m)
        Fld.reamScrubPasses 1
  else { s with scrubStep := Store.put (fun r => r.val) (fun _ => 0) s.scrubStep m (k + 1) }

theorem State.mem_nextScrub (s : State) (m : Ream) (k : Nat) : (s.nextScrub m k).mem = s.mem := by
  unfold State.nextScrub
  split <;> rfl

theorem State.scrubStep_nextScrub (s : State) (m : Ream) (k : Nat) :
    Store.get (fun _ => 0) (s.nextScrub m k).scrubStep m = if k + 1 = scrubPass then 0 else k + 1 := by
  unfold State.nextScrub
  split
  · exact Store.get_put_same (fun r => r.val) _ s.scrubStep m 0
  · exact Store.get_put_same (fun r => r.val) _ s.scrubStep m (k + 1)

theorem State.passes_nextScrub (s : State) (m : Ream) (k : Nat) :
    (s.nextScrub m k).fld (.reamScrub m) Fld.reamScrubPasses
      = if k + 1 = scrubPass then s.counted (.reamScrub m) Fld.reamScrubPasses 1
        else s.fld (.reamScrub m) Fld.reamScrubPasses := by
  unfold State.nextScrub
  split
  · exact State.fld_bump_of_unscored _ 1 rfl (by decide)
  · rfl

theorem doReamScrub_of_off (h : s.flag (.reamScrub m) Fld.reamScrubEnable = false ∨
    s.flag (.reamStatus m) Fld.reamStatusSelfRefresh = true) : doReamScrub m s = s :=
  if_pos (h.imp_right .inr)

/-- On data without errors a step reads its lines and finds none. -/
theorem doReamScrub_of_on (hon : s.flag (.reamScrub m) Fld.reamScrubEnable = true)
    (hrests : ¬ s.flag (.reamStatus m) Fld.reamStatusSelfRefresh = true) (hc : s.clocksStopped = false)
    (hm : s.marks = []) :
    ∃ v, Served s.mem s v ∧ doReamScrub m s = v.nextScrub m (Store.get (fun _ => 0) s.scrubStep m) := by
  have hcharge := s.served_chargeFolio (reamFolio m) (3920 * 64 * 32)
  have hstep : (s.chargeFolio (reamFolio m) (3920 * 64 * 32)).scrubStep = s.scrubStep := by rw [hcharge.frame]
  refine ⟨_, hcharge.foldl (l := scrubLines m (Store.get (fun _ => 0) s.scrubStep m)) (g := fun s l =>
    (s.reamScan (reamFolio m) (64 * l) 64).1) fun u l hu => ?_, ?_⟩
  · rw [State.reamScan_clean (hu.clean hm)]
    exact hu.trans (hu.mem ▸ u.served_touchReam _ _ _)
  · unfold doReamScrub
    rw [if_neg (by simp [hon, hrests, hc])]
    dsimp only
    rw [hstep]
    rfl

/-! ### Refresh (R224, R225) -/

/-- A refresh of a bank is issued, ahead of the requests where it was put off as often as it may be. -/
def State.issueRefresh (s : State) (m : Ream) (key : Nat) (queued : Bool) (rows : Nat) : State :=
  let u := { s with postponed := Store.put id (fun _ => 0) s.postponed key 0 }
  let v := if queued then u.bump (.reamRefresh m) Fld.reamRefreshForced 1 else u
  (v.setBank key ((v.bank key).refresh rows)).bump (.reamHammer m) Fld.reamHammerCount (v.bank key).due

variable {bank : Fin 2048} {queued : Bool} {rows : Fin 2048}

theorem doRefresh_of_resting (h : s.flag (.reamStatus m) Fld.reamStatusSelfRefresh = true) :
    doRefresh m bank queued rows s = s := if_pos (.inr h)

theorem doRefresh_of_postponed (hc : s.clocksStopped = false)
    (h : ¬ s.flag (.reamStatus m) Fld.reamStatusSelfRefresh = true) (hq : queued = true)
    (hn : Store.get (fun _ => 0) s.postponed (m.val * 2048 + bank.val) < 8) :
    doRefresh m bank queued rows s = { s.noteHot m with
      postponed := Store.put id (fun _ => 0) s.postponed (m.val * 2048 + bank.val)
        (Store.get (fun _ => 0) s.postponed (m.val * 2048 + bank.val) + 1) } := by
  unfold doRefresh
  rw [if_neg (by simp [hc, h])]
  exact if_pos (Bool.and_eq_true_iff.mpr ⟨hq, decide_eq_true hn⟩)

theorem doRefresh_of_issued (hc : s.clocksStopped = false)
    (h : ¬ s.flag (.reamStatus m) Fld.reamStatusSelfRefresh = true)
    (hn : ¬ (queued = true ∧ Store.get (fun _ => 0) s.postponed (m.val * 2048 + bank.val) < 8)) :
    doRefresh m bank queued rows s = (s.noteHot m).issueRefresh m (m.val * 2048 + bank.val) queued rows.val := by
  unfold doRefresh
  rw [if_neg (by simp [hc, h])]
  exact if_neg fun he => hn ((Bool.and_eq_true_iff.mp he).imp_right of_decide_eq_true)

theorem State.flag_hot_noteHot (s : State) (m : Ream) :
    (s.noteHot m).flag (.reamStatus m) Fld.reamStatusHot = s.reamHot m :=
  State.flag_setFlag_same _ _ _ _ (by decide) (by decide)

theorem BankRec.counts_refresh (b : BankRec) (rows r : Nat) :
    Store.get (fun _ => 0) (b.refresh rows).counts r = if r / 8 = rows then 0 else Store.get (fun _ => 0) b.counts r := by
  rw [BankRec.refresh, Store.get_filter_key _ _ (fun k => decide (k / 8 ≠ rows))]
  by_cases h : r / 8 = rows <;> simp [h]

@[simp] theorem State.bank_setBank_same (s : State) (key : Nat) (b : BankRec) : (s.setBank key b).bank key = b :=
  Store.get_put_same _ _ _ _ _

section
variable (s : State) (m : Ream) (key : Nat) (queued : Bool) (rows : Nat)

/-- The forced refresh before its bank is served. -/
def State.forceRefresh : State :=
  let u := { s with postponed := Store.put id (fun _ => 0) s.postponed key 0 }
  if queued then u.bump (.reamRefresh m) Fld.reamRefreshForced 1 else u

theorem State.fld_forceRefresh : (s.forceRefresh m key queued).fld (.reamRefresh m) Fld.reamRefreshForced
    = if queued then s.counted (.reamRefresh m) Fld.reamRefreshForced 1
      else s.fld (.reamRefresh m) Fld.reamRefreshForced := by
  unfold State.forceRefresh
  cases queued
  · rfl
  · dsimp only
    rw [if_pos rfl, if_pos rfl, State.fld_bump_of_unscored _ 1 rfl (by decide)]
    rfl

theorem State.issueRefresh_eq : s.issueRefresh m key queued rows =
    ((s.forceRefresh m key queued).setBank key ((s.bank key).refresh rows)).setFld (.reamHammer m) Fld.reamHammerCount
      (s.counted (.reamHammer m) Fld.reamHammerCount (s.bank key).due) := by
  cases queued
  · rfl
  · have hcount : (s.forceRefresh m key true).counted (.reamHammer m) Fld.reamHammerCount (s.bank key).due =
        s.counted (.reamHammer m) Fld.reamHammerCount (s.bank key).due :=
      counted_congr (State.reg_setFld_other _ _ _ (by simp)) _ _
    rw [← hcount]
    rfl

theorem State.postponed_issueRefresh : Store.get (fun _ => 0) (s.issueRefresh m key queued rows).postponed key = 0 := by
  rw [s.issueRefresh_eq]
  cases queued <;> exact Store.get_put_same id _ s.postponed key 0

theorem State.bank_issueRefresh : (s.issueRefresh m key queued rows).bank key = (s.bank key).refresh rows := by
  rw [s.issueRefresh_eq]
  exact State.bank_setBank_same _ _ _

theorem State.hammer_issueRefresh : (s.issueRefresh m key queued rows).fld (.reamHammer m) Fld.reamHammerCount
    = s.counted (.reamHammer m) Fld.reamHammerCount (s.bank key).due := by
  rw [s.issueRefresh_eq, State.fld_setFld_same _ _ _ _ (by decide), Nat.mod_eq_of_lt (State.counted_lt ..)]

theorem State.forced_issueRefresh : (s.issueRefresh m key queued rows).fld (.reamRefresh m) Fld.reamRefreshForced
    = if queued then s.counted (.reamRefresh m) Fld.reamRefreshForced 1
      else s.fld (.reamRefresh m) Fld.reamRefreshForced := by
  rw [s.issueRefresh_eq, State.fld_setFld_other _ _ _ _ (by simp)]
  exact s.fld_forceRefresh m key queued

theorem State.flag_hot_issueRefresh : (s.issueRefresh m key queued rows).flag (.reamStatus m) Fld.reamStatusHot
    = s.flag (.reamStatus m) Fld.reamStatusHot := by
  rw [s.issueRefresh_eq, State.flag, State.fld_setFld_other _ _ _ _ (by simp)]
  change (s.forceRefresh m key queued).flag _ _ = _
  cases queued
  · rfl
  · exact congrArg (fun w => decide (Fld.reamStatusHot.get w = 1)) (State.reg_setFld_other _ _ _ (by simp))

end

theorem State.reg_noteHot {r : Reg} (s : State) (hr : r ≠ .reamStatus m) : (s.noteHot m).reg r = s.reg r :=
  State.reg_setFlag_other _ _ _ hr

end Sys2Proof.Machine

end

section
/-! LEMMAS. An engine queue: its tail word, the fetch of a record, and the completion of a command (R242, R246, R247). -/

namespace Sys2Proof.Machine

variable {s u : State} {f : Folio} {q : Ecq}

@[simp] theorem State.ecq_setEcq_same (s : State) (f : Folio) (q : Ecq) (e : EcqState) : (s.setEcq f q e).ecq f q = e :=
  Store.get_put_same ..

@[simp] theorem State.reg_setEcq (s : State) (f : Folio) (q : Ecq) (e : EcqState) (k : Reg) :
    (s.setEcq f q e).reg k = s.reg k := rfl

/-- A queue stopped on an error is off and shows the error with its code (R242). -/
theorem State.flags_ecqStop (s : State) (f : Folio) (q : Ecq) {code : Nat} (hc : code < 256) :
    (s.ecqStop f q code).flag (.ecqCtl f q) Fld.ecqCtlEnable = false ∧
      (s.ecqStop f q code).flag (.ecqCtl f q) Fld.ecqCtlError = true ∧
      (s.ecqStop f q code).fld (.ecqCtl f q) Fld.ecqCtlErrorCode = code := by
  refine ⟨decide_eq_false ?_, decide_eq_true ?_, ?_⟩
  · rw [State.ecqStop, State.fld_setFld_field _ _ _ _ _ (by decide) (by decide) (by decide), State.setFlag,
      State.fld_setFld_field _ _ _ _ _ (by decide) (by decide) (by decide), State.setFlag,
      State.fld_setFld_same _ _ _ _ (by decide)]
    decide
  · rw [State.ecqStop, State.fld_setFld_field _ _ _ _ _ (by decide) (by decide) (by decide), State.setFlag,
      State.fld_setFld_same _ _ _ _ (by decide)]
    decide
  · rw [State.ecqStop, State.fld_setFld_same _ _ _ _ (by decide)]
    exact Nat.mod_eq_of_lt hc

theorem State.ecq_ecqStop (s : State) (f : Folio) (q : Ecq) (code : Nat) : (s.ecqStop f q code).ecq f q = s.ecq f q := rfl

theorem State.mem_ecqStop (s : State) (f : Folio) (q : Ecq) (code : Nat) : (s.ecqStop f q code).mem = s.mem := rfl

/-! ### The tail word (R242) -/

/-- What the tail word of a queue says. -/
def State.ecqTailWord (s : State) (f : Folio) (q : Ecq) : Nat :=
  s.readLe (reamAddr f (8 * s.fld (.ecqTailAddr f q) Fld.ecqTailAddrAddr)) 8 % 2 ^ 32

/-- Whether a tail lies within the ring. -/
def State.ecqFits (s : State) (f : Folio) (q : Ecq) (tail : Nat) : Prop :=
  (tail + 2 ^ 32 - s.fld (.ecqHead f q) Fld.ecqHeadIndex) % 2 ^ 32 ≤ 2 ^ s.fld (.ecqSize f q) Fld.ecqSizeLog2

/-- The queue takes over a tail word. -/
def State.takeEcqTail (s : State) (f : Folio) (q : Ecq) (tail : Nat) : State :=
  s.setEcq f q { s.ecq f q with tail := tail, unread := false }

theorem State.tail_takeEcqTail (s : State) (f : Folio) (q : Ecq) (tail : Nat) :
    ((s.takeEcqTail f q tail).ecq f q).tail = tail := by rw [State.takeEcqTail, State.ecq_setEcq_same]

theorem State.mem_takeEcqTail (s : State) (f : Folio) (q : Ecq) (tail : Nat) : (s.takeEcqTail f q tail).mem = s.mem := rfl

theorem State.reg_takeEcqTail (s : State) (f : Folio) (q : Ecq) (tail : Nat) (k : Reg) :
    (s.takeEcqTail f q tail).reg k = s.reg k := rfl

theorem ecqNotice_of_waits (h : s.biasWaits f (8 * s.fld (.ecqTailAddr f q) Fld.ecqTailAddrAddr) 8 = true) :
    s.ecqNotice f q = s.setEcq f q { s.ecq f q with unread := true } := if_pos h

theorem ecqFits_congr {tail : Nat} (h1 : u.reg (.ecqHead f q) = s.reg (.ecqHead f q))
    (h2 : u.reg (.ecqSize f q) = s.reg (.ecqSize f q)) : u.ecqFits f q tail ↔ s.ecqFits f q tail := by
  unfold State.ecqFits State.fld
  rw [h1, h2]

theorem not_ecqFits {tail : Nat} : ¬ s.ecqFits f q tail ↔
    (tail + 2 ^ 32 - s.fld (.ecqHead f q) Fld.ecqHeadIndex) % 2 ^ 32 > 2 ^ s.fld (.ecqSize f q) Fld.ecqSizeLog2 := by
  unfold State.ecqFits
  exact Nat.not_le

theorem ecqNotice_of_read (hm : s.marks = []) (ho : s.noOps f)
    (hw : s.biasWaits f (8 * s.fld (.ecqTailAddr f q) Fld.ecqTailAddrAddr) 8 = false) :
    ∃ u, Served s.mem s u ∧
      (s.ecqFits f q (s.ecqTailWord f q) → s.ecqNotice f q = u.takeEcqTail f q (s.ecqTailWord f q)) ∧
      (¬ s.ecqFits f q (s.ecqTailWord f q) →
        s.ecqNotice f q = (u.takeEcqTail f q (s.ecqTailWord f q)).ecqStop f q 1) := by
  obtain ⟨u, hu, hr⟩ := State.engRead_served hm ho (8 * s.fld (.ecqTailAddr f q) Fld.ecqTailAddrAddr) 8
  have hfits : (u.takeEcqTail f q (s.ecqTailWord f q)).ecqFits f q (s.ecqTailWord f q) ↔
      s.ecqFits f q (s.ecqTailWord f q) :=
    ecqFits_congr ((State.reg_setEcq ..).trans (hu.reg _ (by simp))) ((State.reg_setEcq ..).trans (hu.reg _ (by simp)))
  rw [State.ecqNotice, if_neg (by simp [hw]), hr]
  dsimp only
  rw [← State.readMem, ← State.readLe, ← State.ecqTailWord, ← State.takeEcqTail]
  refine ⟨u, hu, fun h => ?_, fun h => ?_⟩
  · rw [if_neg fun hgt => not_ecqFits.mpr hgt (hfits.mpr h), State.takeEcqTail, hu.ecq]
  · rw [if_pos (not_ecqFits.mp (hfits.not.mpr h)), State.takeEcqTail, hu.ecq]

/-! ### The record at HEAD (R242, R246) -/

/-- Where the record at HEAD lies. -/
def State.ecqRecordOff (s : State) (f : Folio) (q : Ecq) : Nat :=
  64 * s.fld (.ecqBase f q) Fld.ecqBaseAddr
    + s.fld (.ecqHead f q) Fld.ecqHeadIndex % 2 ^ s.fld (.ecqSize f q) Fld.ecqSizeLog2 * 64

/-- The words of the record at HEAD. -/
def State.ecqWords (s : State) (f : Folio) (q : Ecq) : List W64 :=
  (elements 8 (s.readMem (reamAddr f (s.ecqRecordOff f q)) 64)).map (fun b => BitVec.ofNat 64 (leNat b))

/-- A command taken in hand. -/
def takenRun (ws : List W64) (head : Nat) : EcqRun :=
  ⟨ws, head, (cmdOf ws).badField, if (cmdOf ws).badField then 1 else 0, 0, 0, 0, false⟩

theorem Served.badCpl {m : Memory} (h : Served m s u) (c : Cmd) : badCpl u f c = badCpl s f c := by
  have hblocks : u.regionBlocks f c.cplOff 32 = s.regionBlocks f c.cplOff 32 := by
    refine congrArg (List.any _) (funext fun r => ?_)
    rw [h.fld, h.fld, h.fld, h.fld, h.fld]
  rw [Machine.badCpl, hblocks, ← Machine.badCpl]

section
variable (hup : s.enginesUp f = true) (hon : s.flag (.ecqCtl f q) Fld.ecqCtlEnable = true)
  (hrun : (s.ecq f q).run = none) (hseen : (s.ecq f q).unread = false)
  (hwork : (s.ecq f q).tail ≠ s.fld (.ecqHead f q) Fld.ecqHeadIndex)
include hup hon hrun hseen hwork

theorem doEcqRecordFetch_of_waits (hw : s.biasWaits f (s.ecqRecordOff f q) 64 = true) : doEcqRecordFetch f q s = s := by
  unfold doEcqRecordFetch
  rw [if_neg (by simp [hup, hon, hrun]), if_neg (by simp [hseen]), if_neg hwork]
  exact if_pos hw

theorem doEcqRecordFetch_of_work (hm : s.marks = []) (ho : s.noOps f)
    (hw : s.biasWaits f (s.ecqRecordOff f q) 64 = false) :
    ∃ u, Served s.mem s u ∧ doEcqRecordFetch f q s =
      if badCpl s f (cmdOf (s.ecqWords f q)) then u.ecqStop f q 3
      else u.setEcq f q { s.ecq f q with
        run := some (takenRun (s.ecqWords f q) (s.fld (.ecqHead f q) Fld.ecqHeadIndex)) } := by
  obtain ⟨u, hu, hr⟩ := State.engRead_served hm ho (s.ecqRecordOff f q) 64
  refine ⟨u, hu, ?_⟩
  rw [← hu.badCpl]
  unfold doEcqRecordFetch
  rw [if_neg (by simp [hup, hon, hrun]), if_neg (by simp [hseen]), if_neg hwork]
  refine (if_neg (Bool.eq_false_iff.mp hw)).trans ?_
  dsimp only
  rw [← State.ecqRecordOff, hr]
  rfl

end

/-! ### Completion (R242, R245, R247) -/

/-- The region of a REGION_OPEN of status 0 is opened. -/
def State.opensRegion (s : State) (f : Folio) (q : Ecq) (r : EcqRun) : State :=
  if (cmdOf r.words).code = 0x08 ∧ r.status = 0 then s.openRegion f q (cmdOf r.words) else s

/-- The command in hand is counted, and HEAD moves past it unless ENABLE was set anew. -/
def State.retire (s : State) (f : Folio) (q : Ecq) (r : EcqRun) : State :=
  let s := (s.setEcq f q { s.ecq f q with run := none }).bump (.ecqDone f q) Fld.ecqDoneCount 1
  let s := if r.status ≠ 0 then s.bump (.engCmds f) Fld.engCmdsCount 1 else s
  if r.stale then s else s.setFld (.ecqHead f q) Fld.ecqHeadIndex ((r.index + 1) % 2 ^ 32)

variable {r : EcqRun}

theorem doEngineCommandComplete_of_waits (hr : (s.ecq f q).run = some r)
    (hw : s.biasWaits f (cmdOf r.words).cplOff 32 = true) : doEngineCommandComplete f q s = s := by
  rw [doEngineCommandComplete, hr]
  exact if_pos (by simp [hw])

theorem doEngineCommandComplete_of_done (hup : s.enginesUp f = true) (hm : s.marks = []) (ho : s.noOps f)
    (hr : (s.ecq f q).run = some r) (hd : r.done = true) (hw : s.biasWaits f (cmdOf r.words).cplOff 32 = false) :
    ∃ u, Served (s.mem.writeBytes (reamAddr f (cmdOf r.words).cplOff) (cmdRecord s (cmdOf r.words) r)) s u ∧
      doEngineCommandComplete f q s =
        if ((u.opensRegion f q r).retire f q r).flag (.ecqCtl f q) Fld.ecqCtlEvent then
          ((u.opensRegion f q r).retire f q r).postEvent f 2 q.val (cmdRecord s (cmdOf r.words) r)
        else (u.opensRegion f q r).retire f q r := by
  obtain ⟨u, hu, he⟩ := State.engWrite_served hm ho (cmdOf r.words).cplOff (cmdRecord s (cmdOf r.words) r)
  refine ⟨u, hu, ?_⟩
  rw [doEngineCommandComplete, hr]
  refine (if_neg (by simp [hd, hup, hw])).trans ?_
  dsimp only
  rw [he]
  rfl

/-! What a retired command leaves. -/

section
variable (s f q r)

/-- The command is off the queue and counted. -/
def State.countDone : State :=
  (s.setEcq f q { s.ecq f q with run := none }).setFld (.ecqDone f q) Fld.ecqDoneCount
    (s.counted (.ecqDone f q) Fld.ecqDoneCount 1)

/-- A command that failed is counted as such. -/
def State.countFailed : State :=
  if r.status ≠ 0 then s.setFld (.engCmds f) Fld.engCmdsCount (s.counted (.engCmds f) Fld.engCmdsCount 1) else s

theorem State.retire_eq : s.retire f q r = if r.stale then (s.countDone f q).countFailed f r
    else ((s.countDone f q).countFailed f r).setFld (.ecqHead f q) Fld.ecqHeadIndex ((r.index + 1) % 2 ^ 32) := by
  unfold State.retire
  dsimp only
  rw [State.bump_of_unscored _ _ (rfl : scoreOf (.ecqDone f q) _ = none),
    State.bump_of_unscored _ _ (rfl : scoreOf (.engCmds f) _ = none)]
  rfl

theorem State.countFailed_eq : ∃ v, s.countFailed f r = { s with regs := v } := by
  unfold State.countFailed
  split <;> exact ⟨_, rfl⟩

theorem State.retire_eq_regs : ∃ v, s.retire f q r = { s.setEcq f q { s.ecq f q with run := none } with regs := v } := by
  obtain ⟨v, hv⟩ := (s.countDone f q).countFailed_eq f r
  rw [State.retire_eq, hv]
  split <;> exact ⟨_, rfl⟩

theorem State.mem_retire : (s.retire f q r).mem = s.mem := by
  obtain ⟨v, hv⟩ := s.retire_eq_regs f q r
  rw [hv]
  rfl

theorem State.run_retire : ((s.retire f q r).ecq f q).run = none := by
  obtain ⟨v, hv⟩ := s.retire_eq_regs f q r
  rw [hv]
  exact congrArg EcqState.run (State.ecq_setEcq_same s f q { s.ecq f q with run := none })

theorem State.reg_countFailed {k : Reg} (h : k ≠ .engCmds f) : (s.countFailed f r).reg k = s.reg k := by
  unfold State.countFailed
  split
  · exact State.reg_setFld_other _ _ _ h
  · rfl

theorem State.reg_retire_of_ne_head {k : Reg} (h1 : k ≠ .ecqHead f q) (h2 : k ≠ .engCmds f) :
    (s.retire f q r).reg k = (s.countDone f q).reg k := by
  rw [State.retire_eq]
  split
  · exact State.reg_countFailed _ _ _ h2
  · exact (State.reg_setFld_other _ _ _ h1).trans (State.reg_countFailed _ _ _ h2)

theorem State.reg_retire {k : Reg} (h1 : k ≠ .ecqHead f q) (h2 : k ≠ .engCmds f) (h3 : k ≠ .ecqDone f q) :
    (s.retire f q r).reg k = s.reg k :=
  (s.reg_retire_of_ne_head f q r h1 h2).trans (State.reg_setFld_other _ _ _ h3)

theorem State.done_retire :
    (s.retire f q r).fld (.ecqDone f q) Fld.ecqDoneCount = s.counted (.ecqDone f q) Fld.ecqDoneCount 1 := by
  rw [State.fld, s.reg_retire_of_ne_head f q r (by simp) (by simp), ← State.fld, State.countDone,
    State.fld_setFld_same _ _ _ _ (by decide), Nat.mod_eq_of_lt (State.counted_lt ..)]

theorem State.head_retire : (s.retire f q r).fld (.ecqHead f q) Fld.ecqHeadIndex =
    if r.stale then s.fld (.ecqHead f q) Fld.ecqHeadIndex else (r.index + 1) % 2 ^ 32 := by
  rw [State.retire_eq]
  split
  · rw [State.fld, State.reg_countFailed _ _ _ (by simp), State.countDone, State.reg_setFld_other _ _ _ (by simp)]
    rfl
  · rw [State.fld_setFld_same _ _ _ _ (by decide)]
    exact Nat.mod_mod _ _

theorem State.setReg_eq_regs (k : Reg) (w : W64) : ∃ v, s.setReg k w = { s with regs := v } := ⟨_, rfl⟩

theorem State.openRegion_eq (c : Cmd) : ∃ v, s.openRegion f q c = { s with regs := v } := by
  obtain ⟨a, ha⟩ := s.setReg_eq_regs (.regionTarget f c.region) (BitVec.ofNat 64 c.dst)
  obtain ⟨b, hb⟩ := State.setReg_eq_regs { s with regs := a } (.regionCount f c.region)
    (BitVec.ofNat 64 (c.count + c.dstFmt * 2 ^ 32))
  rw [State.openRegion]
  rw [ha, hb]
  exact ⟨_, rfl⟩

theorem State.opensRegion_eq : ∃ v, s.opensRegion f q r = { s with regs := v } := by
  unfold State.opensRegion
  split
  · exact s.openRegion_eq f q _
  · exact ⟨_, rfl⟩

theorem State.reg_opensRegion {k : Reg}
    (h : ∀ i, k ≠ .regionTarget f i ∧ k ≠ .regionCount f i ∧ k ≠ .regionSlot f i ∧ k ≠ .regionState f i) :
    (s.opensRegion f q r).reg k = s.reg k := by
  obtain ⟨h1, h2, h3, h4⟩ := h (cmdOf r.words).region
  unfold State.opensRegion
  split
  · unfold State.openRegion
    dsimp only
    rw [State.reg_setFld_other _ _ _ h4, State.reg_setFld_other _ _ _ h4, State.reg_setFld_other _ _ _ h3,
      State.reg_setReg_other _ _ h2, State.reg_setReg_other _ _ h1]
  · rfl

/-- The region that the command opens is OPEN (R245). -/
theorem State.regionState_opensRegion (h : (cmdOf r.words).code = 0x08 ∧ r.status = 0) :
    (s.opensRegion f q r).fld (.regionState f (cmdOf r.words).region) Fld.regionStateState = 1 := by
  rw [State.opensRegion, if_pos h, State.openRegion,
    State.fld_setFld_field _ _ _ _ _ (by decide) (by decide) (by decide), State.fld_setFld_same _ _ _ _ (by decide)]
  rfl

end

end Sys2Proof.Machine

end

section
/-! LEMMAS. A write of an engine queue's control register: what it stores, and what follows (R242, R257). -/

namespace Sys2Proof.Machine

variable {s u : State} {f : Folio} {q : Ecq}

theorem ofAddr_ecqCtl (f : Folio) (q : Ecq) : Reg.ofAddr (Reg.ecqCtl f q).addr = .reg (.ecqCtl f q) :=
  Reg.ofAddr_addr _ fun g => by simp

theorem maskOf_rw_ecqCtl (f : Folio) (q : Ecq) : (Reg.ecqCtl f q).maskOf .rw = 0x3#64 := by
  change ((0 ||| Fld.ecqCtlEnable.mask) ||| Fld.ecqCtlEvent.mask : W64) = _
  decide

theorem wholeFields_w1c_ecqCtl (f : Folio) (q : Ecq) : wholeFields (.ecqCtl f q) .w1c (BitVec.allOnes 64) = 0x4#64 := by
  change (0 ||| Fld.ecqCtlError.mask : W64) = _
  decide

theorem wholeFields_wo_ecqCtl (f : Folio) (q : Ecq) : wholeFields (.ecqCtl f q) .wo (BitVec.allOnes 64) = 0x8#64 := by
  change (0 ||| Fld.ecqCtlResume.mask : W64) = _
  decide

/-- What ECQ_CTL holds once a write is stored: ENABLE and EVENT of the write, and an error that the write does not clear. -/
def State.writtenEcqCtl (s : State) (f : Folio) (q : Ecq) (ctl : W64) : W64 :=
  s.wanted (.ecqCtl f q) ctl (BitVec.allOnes 64) &&& ~~~ (ctl &&& 0x4#64)

theorem getLsbD_wanted_ecqCtl (s : State) (f : Folio) (q : Ecq) (ctl : W64) :
    (s.wanted (.ecqCtl f q) ctl (BitVec.allOnes 64)).getLsbD 0 = ctl.getLsbD 0 := by
  rw [State.wanted, maskOf_rw_ecqCtl]
  simp

theorem get_enable_of_getLsbD {v w : W64} (h : v.getLsbD 0 = w.getLsbD 0) :
    Fld.ecqCtlEnable.get v = Fld.ecqCtlEnable.get w :=
  Field.get_congr fun i hi => by
    obtain rfl : i = 0 := by simp only [Fld.ecqCtlEnable] at hi; omega
    exact h

theorem get_enable_wanted_ecqCtl (s : State) (f : Folio) (q : Ecq) (ctl : W64) :
    Fld.ecqCtlEnable.get (s.wanted (.ecqCtl f q) ctl (BitVec.allOnes 64)) = Fld.ecqCtlEnable.get ctl :=
  get_enable_of_getLsbD (getLsbD_wanted_ecqCtl s f q ctl)

theorem get_enable_writtenEcqCtl (s : State) (f : Folio) (q : Ecq) (ctl : W64) :
    Fld.ecqCtlEnable.get (s.writtenEcqCtl f q ctl) = Fld.ecqCtlEnable.get ctl :=
  get_enable_of_getLsbD (by
    rw [State.writtenEcqCtl, BitVec.getLsbD_and, getLsbD_wanted_ecqCtl]
    simp)

/-- RESUME is the one action of the register. -/
theorem get_resume_acts (ctl : W64) : Fld.ecqCtlResume.get (ctl &&& 0x8#64) = Fld.ecqCtlResume.get ctl :=
  Field.get_congr fun i hi => by
    obtain rfl : i = 0 := by simp only [Fld.ecqCtlResume] at hi; omega
    simp [Fld.ecqCtlResume]

theorem clears_ecqCtl (s : State) (src : Src) (f : Folio) (q : Ecq) (bits : W64) :
    s.clears src (.ecqCtl f q) bits = if bits = 0 then s else s.setReg (.ecqCtl f q) (s.reg (.ecqCtl f q) &&& ~~~ bits) :=
  rfl

/-- The write itself changes ECQ_CTL alone. -/
theorem clears_setReg_ecqCtl (s : State) (src : Src) (f : Folio) (q : Ecq) (ctl : W64) :
    ∃ x, (s.setReg (.ecqCtl f q) (s.wanted (.ecqCtl f q) ctl (BitVec.allOnes 64))).clears src (.ecqCtl f q)
        (ctl &&& 0x4#64) = { s with regs := x } ∧
      ({ s with regs := x } : State).reg (.ecqCtl f q) = s.writtenEcqCtl f q ctl ∧
      ∀ r, r ≠ .ecqCtl f q → ({ s with regs := x } : State).reg r = s.reg r := by
  rw [clears_ecqCtl]
  split
  next h =>
    refine ⟨_, rfl, (State.reg_setReg_same _ _ _).trans ?_, fun r hr => State.reg_setReg_other _ _ hr⟩
    rw [State.writtenEcqCtl, h]
    simp only [BitVec.ofNat_eq_ofNat, BitVec.not_zero, BitVec.and_allOnes]
  next h =>
    refine ⟨_, rfl, (State.reg_setReg_same _ _ _).trans ?_, fun r hr => ?_⟩
    · rw [State.reg_setReg_same]
      rfl
    · exact (State.reg_setReg_other _ _ hr).trans (State.reg_setReg_other _ _ hr)

/-- RESUME is refused while the queue runs or an error stands, and by a write that sets ENABLE (R242). -/
def State.resumable (s : State) (f : Folio) (q : Ecq) (ctl : W64) : Prop :=
  Fld.ecqCtlResume.get ctl = 1 → s.flag (.ecqCtl f q) Fld.ecqCtlError = false ∧ Fld.ecqCtlEnable.get ctl = 0

theorem badActions_ecqCtl {ctl : W64} (hoff : s.flag (.ecqCtl f q) Fld.ecqCtlEnable = false)
    (h : s.resumable f q ctl) : badActions (.ecqCtl f q) (s.reg (.ecqCtl f q))
      (s.wanted (.ecqCtl f q) ctl (BitVec.allOnes 64)) (ctl &&& 0x8#64) = false := by
  rw [badActions, get_resume_acts, get_enable_wanted_ecqCtl]
  by_cases hr : Fld.ecqCtlResume.get ctl = 1
  · obtain ⟨herr, hen⟩ := h hr
    have hoff' : Fld.ecqCtlEnable.get (s.reg (.ecqCtl f q)) ≠ 1 := of_decide_eq_false hoff
    have herr' : Fld.ecqCtlError.get (s.reg (.ecqCtl f q)) ≠ 1 := of_decide_eq_false herr
    simp [hoff', herr', hen]
  · simp [hr]

/-- What follows the stored write: a queue whose ENABLE it set is enabled, and RESUME resumes it. -/
def State.followEcqCtl (s : State) (f : Folio) (q : Ecq) (ctl : W64) : State :=
  let s := if Fld.ecqCtlEnable.get ctl = 1 then s.ecqEnable f q else s
  if Fld.ecqCtlResume.get ctl = 1 then s.ecqResume f q else s

theorem writeReg_ecqCtl {ctl : W64} (src : Src) (line : BitVec 32) (record : Nat → State → State)
    (hoff : s.flag (.ecqCtl f q) Fld.ecqCtlEnable = false) (h : s.resumable f q ctl) :
    ∃ x, s.writeReg src (.ecqCtl f q) ctl (BitVec.allOnes 64) line record
        = State.followEcqCtl { s with regs := x } f q ctl ∧
      ∀ r, r ≠ .ecqCtl f q → ({ s with regs := x } : State).reg r = s.reg r := by
  obtain ⟨x, hx, hsame, hother⟩ := clears_setReg_ecqCtl s src f q ctl
  refine ⟨x, ?_, hother⟩
  have hold : Fld.ecqCtlEnable.get (s.reg (.ecqCtl f q)) = 0 := by
    have hlt : Fld.ecqCtlEnable.get (s.reg (.ecqCtl f q)) < 2 := BitVec.isLt _
    have hne : Fld.ecqCtlEnable.get (s.reg (.ecqCtl f q)) ≠ 1 := of_decide_eq_false hoff
    omega
  have hrun : ({ s with regs := x } : State).flag (.ecqCtl f q) Fld.ecqCtlEnable
      = decide (Fld.ecqCtlEnable.get ctl = 1) := by
    rw [State.flag, State.fld, hsame, get_enable_writtenEcqCtl]
  have hfrozen : s.frozenBits (.ecqCtl f q) = 0 := rfl
  have hkept (v : W64) : keptRecorded (.ecqCtl f q) v v 0 (BitVec.allOnes 64) = false := by simp [keptRecorded]
  have hlock (v : W64) : s.lockedWrite (.ecqCtl f q) v = false := rfl
  have hcomb (v w : W64) : s.badCombination (.ecqCtl f q) v w = false := rfl
  have hres : reservedFields (.ecqCtl f q) = [] := rfl
  have hrw : (Reg.ecqCtl f q).maskOf .rw &&& BitVec.allOnes 64 ≠ 0 := by
    rw [maskOf_rw_ecqCtl]
    decide
  unfold State.writeReg
  dsimp only
  rw [← State.wanted, hfrozen, wholeFields_wo_ecqCtl, wholeFields_w1c_ecqCtl]
  have hnew (v : W64) : (v &&& ~~~ (0 : W64)) ||| (s.reg (.ecqCtl f q) &&& 0) = v := by
    simp only [BitVec.ofNat_eq_ofNat, BitVec.and_zero, BitVec.or_zero, BitVec.not_zero, BitVec.and_allOnes]
  rw [hnew, hres, hcomb, badActions_ecqCtl hoff h, hkept, hlock]
  simp only [List.any_nil, Bool.or_false, Bool.and_false, Bool.false_eq_true, if_false, if_neg hrw, hx]
  unfold State.stored State.actions State.followEcqCtl
  dsimp only
  rw [hrun, hold]
  simp only [get_resume_acts, decide_true, Bool.and_true, decide_eq_true_eq]

/-- Such a write as an access: beside it nothing changes but what waking the ream's base may. -/
theorem access_ecqCtl {src : Src} {ctl : W64} (line : BitVec 32) (ha : s.reaches (.ecqCtl f q))
    (hh : s.heeds src (Reg.ecqCtl f q).addr ctl) (hoff : s.flag (.ecqCtl f q) Fld.ecqCtlEnable = false)
    (h : s.resumable f q ctl) :
    ∃ w x, Served s.mem s w ∧ s.access src (Reg.ecqCtl f q).addr true ctl line
        = State.followEcqCtl { w with regs := x } f q ctl ∧
      ∀ r, r ≠ .ecqCtl f q → ({ w with regs := x } : State).reg r = w.reg r := by
  obtain ⟨hp, hans, ht, hd, hmode⟩ := ha
  have hmod : (Reg.ecqCtl f q).addr % 8 = 0 := (Reg.addr_mod_eight_and_lt _).1
  have hdiv : (Reg.ecqCtl f q).addr / 8 * 8 = (Reg.ecqCtl f q).addr := Nat.div_mul_cancel (Nat.dvd_of_mod_eq_zero hmod)
  have hw : Served s.mem s (s.wakeReg (Reg.ecqCtl f q).addr) := by
    rw [State.wakeReg, ofAddr_ecqCtl]
    dsimp only
    split
    · exact Served.refl s
    · exact s.served_wake _
  obtain ⟨x, hx, hother⟩ := writeReg_ecqCtl (s := s.wakeReg (Reg.ecqCtl f q).addr) src line
    (fun code u => u.regFault code (Reg.ecqCtl f q).addr (valueOf true ctl).toNat)
    ((hw.flag _).trans hoff) fun hr => ⟨(hw.flag _).trans (h hr).1, (h hr).2⟩
  refine ⟨_, x, hw, ?_, hother⟩
  rw [access_eq_writeOff (wide := true) line hp hmod hans hh ht, writeOff_writeReg src true ctl line
    (hdiv.symm ▸ ofAddr_ecqCtl f q) hd (decide_eq_true hmode) rfl, hdiv]
  exact hx

/-! ### Enabling (R242) -/

theorem get_enable_set_resume (ctl : W64) (n : Nat) :
    Fld.ecqCtlEnable.get (Fld.ecqCtlResume.set ctl n) = Fld.ecqCtlEnable.get ctl :=
  Field.get_set_other _ _ _ _ (by decide) (by decide) (by decide)

theorem get_resume_set_resume (ctl : W64) (n : Nat) :
    Fld.ecqCtlResume.get (Fld.ecqCtlResume.set ctl n) = n % 2 := Field.get_set _ _ _ (by decide)

theorem State.enabled_ecqEnable (s : State) (f : Folio) (q : Ecq) :
    (s.ecqEnable f q).flag (.ecqCtl f q) Fld.ecqCtlEnable = true ∧ (s.ecqEnable f q).fld (.ecqHead f q) Fld.ecqHeadIndex = 0 ∧
      ((s.ecqEnable f q).ecq f q).tail = 0 ∧ (s.ecqEnable f q).mem = s.mem := by
  refine ⟨?_, ?_, ?_, rfl⟩
  · rw [State.flag, State.fld, State.ecqEnable, State.reg_setEcq, State.reg_setFld_other _ _ _ (by simp)]
    exact State.flag_setFlag_same _ _ _ _ (by decide) (by decide)
  · rw [State.fld, State.ecqEnable, State.reg_setEcq]
    exact State.fld_setFld_same _ _ _ _ (by decide)
  · rw [State.ecqEnable, State.ecq_setEcq_same]

theorem execEcqCtlEnable_of_off {src : Src} {ctl : W64} (ha : s.reaches (.ecqCtl f q))
    (hh : ∀ v, s.heeds src (Reg.ecqCtl f q).addr v) (hoff : s.flag (.ecqCtl f q) Fld.ecqCtlEnable = false)
    (hen : Fld.ecqCtlEnable.get ctl = 1) :
    ∃ u : State, u.mem = s.mem ∧ execEcqCtlEnable src f q ctl s = .next (u.ecqEnable f q) := by
  obtain ⟨w, x, hw, hx, -⟩ := access_ecqCtl (ctl := Fld.ecqCtlResume.set ctl 0) 0 ha (hh _) hoff
    fun hr => absurd hr (by rw [get_resume_set_resume]; decide)
  refine ⟨{ w with regs := x }, hw.mem, ?_⟩
  rw [execEcqCtlEnable, State.writeNamed, hx, State.followEcqCtl, if_pos ((get_enable_set_resume ..).trans hen),
    get_resume_set_resume]
  rfl

/-! ### Resuming (R242) -/

theorem execEcqResume_of_off {src : Src} {ctl : W64} (ha : s.reaches (.ecqCtl f q))
    (hh : ∀ v, s.heeds src (Reg.ecqCtl f q).addr v) (hoff : s.flag (.ecqCtl f q) Fld.ecqCtlEnable = false)
    (hen : Fld.ecqCtlEnable.get ctl = 0) (herr : s.flag (.ecqCtl f q) Fld.ecqCtlError = false) :
    ∃ w x, Served s.mem s w ∧ execEcqResume src f q ctl s = .next (State.ecqResume { w with regs := x } f q) ∧
      ∀ r, r ≠ .ecqCtl f q → ({ w with regs := x } : State).reg r = w.reg r := by
  obtain ⟨w, x, hw, hx, hother⟩ := access_ecqCtl (ctl := Fld.ecqCtlResume.set ctl 1) 0 ha (hh _) hoff
    fun _ => ⟨herr, (get_enable_set_resume ..).trans hen⟩
  refine ⟨w, x, hw, ?_, hother⟩
  rw [execEcqResume, State.writeNamed, hx, State.followEcqCtl, get_enable_set_resume, hen,
    get_resume_set_resume]
  rfl

theorem ecqTailWord_congr (hm : u.mem = s.mem) (h : u.reg (.ecqTailAddr f q) = s.reg (.ecqTailAddr f q)) :
    u.ecqTailWord f q = s.ecqTailWord f q := by
  unfold State.ecqTailWord State.readLe State.readMem State.fld
  rw [hm, h]

theorem ecqResume_of_fits (hm : s.marks = []) (ho : s.noOps f)
    (hb : s.biasWaits f (8 * s.fld (.ecqTailAddr f q) Fld.ecqTailAddrAddr) 8 = false)
    (hfit : s.ecqFits f q (s.ecqTailWord f q)) :
    (s.ecqResume f q).flag (.ecqCtl f q) Fld.ecqCtlEnable = true ∧
      (s.ecqResume f q).fld (.ecqHead f q) Fld.ecqHeadIndex = s.fld (.ecqHead f q) Fld.ecqHeadIndex ∧
      ((s.ecqResume f q).ecq f q).tail = s.ecqTailWord f q := by
  have hon := State.flag_setFlag_same s (.ecqCtl f q) Fld.ecqCtlEnable true (by decide) (by decide)
  have hreg {r : Reg} (h : r ≠ .ecqCtl f q) := s.reg_setFlag_other Fld.ecqCtlEnable true h
  have hmv : (s.setFlag (.ecqCtl f q) Fld.ecqCtlEnable true).mem = s.mem := rfl
  have hmarks : (s.setFlag (.ecqCtl f q) Fld.ecqCtlEnable true).marks = s.marks := rfl
  have hov : (s.setFlag (.ecqCtl f q) Fld.ecqCtlEnable true).noOps f := ho
  have hbv : (s.setFlag (.ecqCtl f q) Fld.ecqCtlEnable true).biasWaits f = s.biasWaits f := rfl
  unfold State.ecqResume
  generalize s.setFlag (.ecqCtl f q) Fld.ecqCtlEnable true = v at *
  have hword := ecqTailWord_congr (q := q) (f := f) hmv (hreg (by simp))
  obtain ⟨u, hu, hfits, -⟩ := ecqNotice_of_read (s := v) (q := q) (hmarks.trans hm) hov (by
    rw [hbv, State.fld, hreg (by simp)]
    exact hb)
  rw [hword, ecqFits_congr (hreg (by simp)) (hreg (by simp))] at hfits
  rw [hfits hfit]
  refine ⟨?_, ?_, u.tail_takeEcqTail ..⟩
  · rw [State.flag, State.fld, State.reg_takeEcqTail]
    exact (hu.flag _).trans hon
  · rw [State.fld, State.reg_takeEcqTail, hu.reg _ (by simp), hreg (by simp), State.fld]

end Sys2Proof.Machine

end

section
/-! PROOFS. The upkeep of a ream, and the engine queues (O48). -/

namespace Sys2Proof.Machine

variable {s : State} {f : Folio} {q : Ecq}

/-- A resumed queue takes over the tail that the tail word says. -/
theorem execEcqResume_of_fits {src : Src} {ctl : W64} (ha : s.reaches (.ecqCtl f q))
    (hh : ∀ v, s.heeds src (Reg.ecqCtl f q).addr v) (hoff : s.flag (.ecqCtl f q) Fld.ecqCtlEnable = false)
    (hen : Fld.ecqCtlEnable.get ctl = 0) (herr : s.flag (.ecqCtl f q) Fld.ecqCtlError = false) (hm : s.marks = [])
    (ho : s.noOps f) (hb : s.biasWaits f (8 * s.fld (.ecqTailAddr f q) Fld.ecqTailAddrAddr) 8 = false)
    (hfit : s.ecqFits f q (s.ecqTailWord f q)) :
    ∃ u, execEcqResume src f q ctl s = .next u ∧ u.flag (.ecqCtl f q) Fld.ecqCtlEnable = true ∧
      u.fld (.ecqHead f q) Fld.ecqHeadIndex = s.fld (.ecqHead f q) Fld.ecqHeadIndex ∧
      (u.ecq f q).tail = s.ecqTailWord f q := by
  obtain ⟨w, x, hw, hx, hother⟩ := execEcqResume_of_off ha hh hoff hen herr
  have hreg {r : Reg} (h1 : r ≠ .ecqCtl f q) (h2 : ∀ m, r ≠ .reamStatus m) :
      ({ w with regs := x } : State).reg r = s.reg r := (hother r h1).trans (hw.reg r h2)
  have hword : ({ w with regs := x } : State).ecqTailWord f q = s.ecqTailWord f q :=
    ecqTailWord_congr hw.mem (hreg (by simp) (by simp))
  have hbias (off n : Nat) : ({ w with regs := x } : State).biasWaits f off n = s.biasWaits f off n :=
    biasWaits_congr (congrArg HostSide.flip hw.host) f off n
  obtain ⟨hon, hhead, htail⟩ := ecqResume_of_fits (s := { w with regs := x }) (f := f) (q := q) (hw.clean hm) (hw.noOps ho)
    (by
      rw [State.fld, hreg (by simp) (by simp), hbias]
      exact hb)
    (by
      rw [hword, ecqFits_congr (hreg (by simp) (by simp)) (hreg (by simp) (by simp))]
      exact hfit)
  refine ⟨_, hx, hon, hhead.trans ?_, htail.trans hword⟩
  rw [State.fld, hreg (by simp) (by simp), State.fld]

theorem execReamScrub_of_on {m : Ream} (hon : s.flag (.reamScrub m) Fld.reamScrubEnable = true)
    (hrests : ¬ s.flag (.reamStatus m) Fld.reamStatusSelfRefresh = true) (hc : s.clocksStopped = false)
    (hm : s.marks = []) :
    let k := Store.get (fun _ => 0) s.scrubStep m
    ∃ u, exec (.reamScrub m) s = .next u ∧ u.mem = s.mem ∧
      Store.get (fun _ => 0) u.scrubStep m = (if k + 1 = scrubPass then 0 else k + 1) ∧
      u.fld (.reamScrub m) Fld.reamScrubPasses
        = (if k + 1 = scrubPass then s.counted (.reamScrub m) Fld.reamScrubPasses 1
          else s.fld (.reamScrub m) Fld.reamScrubPasses) := by
  obtain ⟨v, hv, he⟩ := doReamScrub_of_on hon hrests hc hm
  refine ⟨_, congrArg Host.Outcome.next he, (v.mem_nextScrub m _).trans hv.mem, v.scrubStep_nextScrub m _, ?_⟩
  rw [v.passes_nextScrub, hv.fld, counted_congr (hv.reg _ (by simp))]

theorem execRefresh_of_working {m : Ream} {bank rows : Fin 2048} {queued : Bool} (hc : s.clocksStopped = false)
    (hrests : ¬ s.flag (.reamStatus m) Fld.reamStatusSelfRefresh = true) :
    let key := m.val * 2048 + bank.val
    let n := Store.get (fun _ => 0) s.postponed key
    ∃ u, exec (.refresh m bank queued rows) s = .next u ∧ u.flag (.reamStatus m) Fld.reamStatusHot = s.reamHot m ∧
      (queued = true ∧ n < 8 → Store.get (fun _ => 0) u.postponed key = n + 1) ∧
      (¬ (queued = true ∧ n < 8) → Store.get (fun _ => 0) u.postponed key = 0 ∧
        u.fld (.reamHammer m) Fld.reamHammerCount = s.counted (.reamHammer m) Fld.reamHammerCount (s.bank key).due ∧
        (u.bank key).row = none ∧ (u.bank key).due = 0 ∧
        (∀ r, Store.get (fun _ => 0) (u.bank key).counts r
          = if r / 8 = rows.val then 0 else Store.get (fun _ => 0) (s.bank key).counts r) ∧
        u.fld (.reamRefresh m) Fld.reamRefreshForced
          = (if queued then s.counted (.reamRefresh m) Fld.reamRefreshForced 1
            else s.fld (.reamRefresh m) Fld.reamRefreshForced)) := by
  intro key n
  by_cases hn : queued = true ∧ n < 8
  · exact ⟨_, congrArg Host.Outcome.next (doRefresh_of_postponed hc hrests hn.1 hn.2), s.flag_hot_noteHot m,
      fun _ => Store.get_put_same id _ s.postponed key (n + 1), fun h => absurd hn h⟩
  · refine ⟨_, congrArg Host.Outcome.next (doRefresh_of_issued hc hrests hn), ?_, fun h => absurd h hn, fun _ =>
      ⟨State.postponed_issueRefresh .., ?_, ?_⟩⟩
    · rw [State.flag_hot_issueRefresh, s.flag_hot_noteHot]
    · rw [State.hammer_issueRefresh]
      exact counted_congr (s.reg_noteHot (by simp)) _ _
    · rw [State.bank_issueRefresh, State.forced_issueRefresh, counted_congr (s.reg_noteHot (by simp)), State.fld,
        s.reg_noteHot (by simp), ← State.fld]
      exact ⟨rfl, rfl, BankRec.counts_refresh _ _, rfl⟩

theorem execEcqTailWrite_of_on (hup : s.enginesUp f = true) (hon : s.flag (.ecqCtl f q) Fld.ecqCtlEnable = true) :
    exec (.ecqTailWrite f q) s = .next (s.ecqNotice f q) := by
  change execEcqTailWrite f q s = _
  rw [execEcqTailWrite, hup, hon]
  rfl

theorem execEcqTailWrite_of_read (hup : s.enginesUp f = true) (hon : s.flag (.ecqCtl f q) Fld.ecqCtlEnable = true)
    (hm : s.marks = []) (ho : s.noOps f) (hb : s.biasWaits f (8 * s.fld (.ecqTailAddr f q) Fld.ecqTailAddrAddr) 8 = false) :
    ∃ u, exec (.ecqTailWrite f q) s = .next u ∧ (u.ecq f q).tail = s.ecqTailWord f q ∧ u.mem = s.mem ∧
      (s.ecqFits f q (s.ecqTailWord f q) → ∀ r, (∀ m, r ≠ .reamStatus m) → u.reg r = s.reg r) ∧
      (¬ s.ecqFits f q (s.ecqTailWord f q) → u.flag (.ecqCtl f q) Fld.ecqCtlEnable = false ∧
        u.flag (.ecqCtl f q) Fld.ecqCtlError = true ∧ u.fld (.ecqCtl f q) Fld.ecqCtlErrorCode = 1) := by
  obtain ⟨u, hu, hfits, hbeyond⟩ := ecqNotice_of_read hm ho hb
  rw [execEcqTailWrite_of_on hup hon]
  refine ⟨_, rfl, ?_⟩
  by_cases h : s.ecqFits f q (s.ecqTailWord f q)
  · rw [hfits h]
    exact ⟨u.tail_takeEcqTail .., (u.mem_takeEcqTail ..).trans hu.mem, fun _ r hr =>
      (u.reg_takeEcqTail ..).trans (hu.reg r hr), fun hn => absurd h hn⟩
  · rw [hbeyond h]
    refine ⟨?_, ?_, fun hp => absurd hp h, fun _ => State.flags_ecqStop _ _ _ (by decide)⟩
    · rw [State.ecq_ecqStop, State.tail_takeEcqTail]
    · rw [State.mem_ecqStop, State.mem_takeEcqTail, hu.mem]

theorem execEngineCommandComplete_of_done {r : EcqRun} (hup : s.enginesUp f = true) (hm : s.marks = []) (ho : s.noOps f)
    (hr : (s.ecq f q).run = some r) (hd : r.done = true) (hb : s.biasWaits f (cmdOf r.words).cplOff 32 = false) :
    ∃ u, exec (.engineCommandComplete f q) s = .next u ∧ (u.ecq f q).run = none ∧
      (s.flag (.ecqCtl f q) Fld.ecqCtlEvent = false →
        u.mem = s.mem.writeBytes (reamAddr f (cmdOf r.words).cplOff) (cmdRecord s (cmdOf r.words) r)) ∧
      u.fld (.ecqDone f q) Fld.ecqDoneCount = s.counted (.ecqDone f q) Fld.ecqDoneCount 1 ∧
      u.fld (.ecqHead f q) Fld.ecqHeadIndex
        = (if r.stale then s.fld (.ecqHead f q) Fld.ecqHeadIndex else (r.index + 1) % 2 ^ 32) ∧
      ((cmdOf r.words).code = 0x08 → r.status = 0 →
        u.fld (.regionState f (cmdOf r.words).region) Fld.regionStateState = 1) := by
  obtain ⟨w, hw, he⟩ := doEngineCommandComplete_of_done hup hm ho hr hd hb
  obtain ⟨x, hx⟩ := w.opensRegion_eq f q r
  have hopen {k : Reg} (h : ∀ i, k ≠ .regionTarget f i ∧ k ≠ .regionCount f i ∧ k ≠ .regionSlot f i ∧ k ≠ .regionState f i)
      (hk : ∀ m, k ≠ .reamStatus m) : (w.opensRegion f q r).reg k = s.reg k :=
    (w.reg_opensRegion f q r h).trans (hw.reg k hk)
  have hmem : ((w.opensRegion f q r).retire f q r).mem = s.mem.writeBytes _ (cmdRecord s (cmdOf r.words) r) :=
    ((State.mem_retire ..).trans (congrArg State.mem hx)).trans hw.mem
  have hrun := (w.opensRegion f q r).run_retire f q r
  have hdone := (w.opensRegion f q r).done_retire f q r
  have hhead := (w.opensRegion f q r).head_retire f q r
  rw [counted_congr (hopen (by simp) (by simp))] at hdone
  rw [State.fld, State.fld, hopen (by simp) (by simp), ← State.fld, ← State.fld] at hhead
  have hregion (hc : (cmdOf r.words).code = 0x08) (hs : r.status = 0) :
      ((w.opensRegion f q r).retire f q r).fld (.regionState f (cmdOf r.words).region) Fld.regionStateState = 1 := by
    rw [State.fld, State.reg_retire _ _ _ _ (by simp) (by simp) (by simp)]
    exact w.regionState_opensRegion f q r ⟨hc, hs⟩
  have hevent : ((w.opensRegion f q r).retire f q r).flag (.ecqCtl f q) Fld.ecqCtlEvent
      = s.flag (.ecqCtl f q) Fld.ecqCtlEvent := by
    rw [State.flag, State.fld, State.reg_retire _ _ _ _ (by simp) (by simp) (by simp), hopen (by simp) (by simp)]
    rfl
  refine ⟨_, congrArg Host.Outcome.next he, ?_⟩
  rw [hevent]
  cases hev : s.flag (.ecqCtl f q) Fld.ecqCtlEvent
  case false => exact ⟨hrun, fun _ => hmem, hdone, hhead, hregion⟩
  case true =>
    generalize (w.opensRegion f q r).retire f q r = v at *
    have ha := Aside.postEvent (f := f) (kind := 2) (source := q.val) (record := cmdRecord s (cmdOf r.words) r) (Aside.refl v)
    have hecqs := (Traffic.refl v).postEvent (f := f) (kind := 2) (source := q.val)
      (record := cmdRecord s (cmdOf r.words) r) |>.ecqs
    have hfld {k : Reg} (h : tallyReg k = false) (g : Field) :
        (v.postEvent f 2 q.val (cmdRecord s (cmdOf r.words) r)).fld k g = v.fld k g := congrArg g.get (ha.reg k h)
    refine ⟨?_, nofun, (hfld rfl _).trans hdone, (hfld rfl _).trans hhead, fun hc hs => (hfld rfl _).trans (hregion hc hs)⟩
    change (v.postEvent f 2 q.val (cmdRecord s (cmdOf r.words) r) |>.ecq f q).run = none
    rw [State.ecq, hecqs]
    exact hrun

end Sys2Proof.Machine

open Sys2Proof Sys2Proof.Machine

/-- Settles O48: an access of the engines on clean data leaves the registers that the queues stand in as they were, and
what each upkeep step or queue command then changes is named once. -/
theorem reamUpkeepAndEngineQueuesComplete : Obligations.ReamUpkeepAndEngineQueuesComplete := by
  unfold Obligations.ReamUpkeepAndEngineQueuesComplete
  refine ⟨fun s m => ⟨fun h => congrArg Host.Outcome.next (doReamScrub_of_off h), execReamScrub_of_on⟩,
    fun s m bank queued rows hc => ⟨fun h => congrArg Host.Outcome.next (doRefresh_of_resting h),
      execRefresh_of_working hc⟩,
    fun s src f q ctl ha hh hoff => ⟨fun hen => ?_, execEcqResume_of_fits ha hh hoff⟩,
    fun s f q hup hm ho => ⟨fun hon => ⟨fun hb => ?_, fun hb => ?_, fun hrun hseen hwork => ⟨fun hb => ?_, fun hb =>
      ⟨fun hgood => ?_, fun hbad => ?_⟩⟩⟩, fun r hr hb => ?_, fun r => execEngineCommandComplete_of_done hup hm ho⟩⟩
  · obtain ⟨u, hu, he⟩ := execEcqCtlEnable_of_off ha hh hoff hen
    obtain ⟨h1, h2, h3, h4⟩ := u.enabled_ecqEnable f q
    exact ⟨_, he, h1, h2, h3, h4.trans hu⟩
  · refine ⟨_, execEcqTailWrite_of_on hup hon, ?_⟩
    rw [ecqNotice_of_waits hb]
    exact ⟨by rw [State.ecq_setEcq_same], rfl, rfl⟩
  · obtain ⟨u, he, htail, hmem, hfits, hbeyond⟩ := execEcqTailWrite_of_read hup hon hm ho hb
    refine ⟨u, he, htail, hmem, ?_⟩
    split
    next h => exact hfits h
    next h => exact hbeyond h
  · exact congrArg Host.Outcome.next (doEcqRecordFetch_of_waits hup hon hrun hseen hwork hb)
  · obtain ⟨u, hu, he⟩ := doEcqRecordFetch_of_work hup hon hrun hseen hwork hm ho hb
    refine ⟨_, congrArg Host.Outcome.next he, ?_⟩
    rw [if_neg (by rw [← Bool.not_eq_true] at hgood; exact hgood), State.ecq_setEcq_same]
    rfl
  · obtain ⟨u, hu, he⟩ := doEcqRecordFetch_of_work hup hon hrun hseen hwork hm ho hb
    refine ⟨_, congrArg Host.Outcome.next he, ?_⟩
    rw [if_pos (show badCpl s f (cmdOf (s.ecqWords f q)) = true from hbad)]
    exact State.flags_ecqStop _ _ _ (by decide)
  · exact congrArg Host.Outcome.next (doEngineCommandComplete_of_waits hr hb)

end

section
/-! LEMMAS. Codes in bytes: the slices of little-endian bytes, and packing and unpacking codes of whole bytes (R5, R46). -/

namespace Sys2Proof.Machine

/-! ### Slices -/

/-- Bytes from `k` on, as one value. -/
theorem leNat_slice (bs : List Byte) (k n : Nat) :
    leNat ((bs.drop k).take n) = leNat bs / 256 ^ k % 256 ^ n := by
  refine Nat.eq_of_testBit_eq fun i => ?_
  have h256 (j : Nat) : 256 ^ j = 2 ^ (8 * j) := (Nat.pow_mul 2 8 j).symm
  rw [testBit_leNat, h256, h256, Nat.testBit_mod_two_pow, Nat.testBit_div_two_pow, testBit_leNat,
    List.getD_eq_getElem?_getD, List.getD_eq_getElem?_getD, List.getElem?_take]
  by_cases h : i / 8 < n
  · have hlt : i < 8 * n := by omega
    have hdiv : (8 * k + i) / 8 = k + i / 8 := by omega
    have hmod : (8 * k + i) % 8 = i % 8 := by omega
    simp [h, hlt, Nat.add_comm i, hdiv, hmod]
  · have hge : ¬ i < 8 * n := by omega
    simp [h, hge]

theorem leNat_leBytes (n v : Nat) : leNat (leBytes n v) = v % 256 ^ n := by
  refine Nat.eq_of_testBit_eq fun i => ?_
  rw [testBit_leNat, show 256 ^ n = 2 ^ (8 * n) from (Nat.pow_mul 2 8 n).symm, Nat.testBit_mod_two_pow]
  by_cases h : i / 8 < n
  · rw [getLsbD_leBytes v h (by omega), Nat.div_add_mod, decide_eq_true (by omega), Bool.true_and]
  · rw [List.getD_eq_default _ _ (by simp; omega), decide_eq_false (by omega), Bool.false_and]
    simp

theorem Memory.slice_readBytes (m : Memory) (a : Nat) {k l n : Nat} (h : k + l ≤ n) :
    ((m.readBytes a n).drop k).take l = m.readBytes (a + k) l := by
  refine List.ext_getElem (by simp; omega) fun i _ _ => ?_
  simp [Memory.readBytes, Nat.add_assoc]

theorem Memory.readBytes_writeBytes_within (m : Memory) (a : Nat) {k l : Nat} {bs : List Byte} (h : k + l ≤ bs.length) :
    (m.writeBytes a bs).readBytes (a + k) l = (bs.drop k).take l := by
  rw [← Memory.slice_readBytes _ _ h, Memory.readBytes_writeBytes_same]

theorem getElem?_elements {w i : Nat} {bs : List Byte} (hw : 0 < w) (h : i * w + w ≤ bs.length) :
    (elements w bs)[i]? = some ((bs.drop (i * w)).take w) := by
  have hlt : i < bs.length / w := by
    rw [Nat.lt_iff_add_one_le, Nat.le_div_iff_mul_le hw, Nat.succ_mul]
    exact h
  simp [elements, Nat.max_eq_left hw, hlt]

/-- The elements of bytes that memory holds. -/
theorem elements_readBytes (m : Memory) (a : Nat) {w : Nat} (hw : 0 < w) (n : Nat) :
    elements w (m.readBytes a (w * n)) = (List.range n).map (fun i => m.readBytes (a + w * i) w) := by
  unfold elements
  rw [Memory.length_readBytes, Nat.max_eq_left hw, Nat.mul_div_cancel_left n hw]
  refine List.map_congr_left fun i hi => ?_
  have hle : i * w + w ≤ w * n := by
    rw [← Nat.succ_mul, Nat.mul_comm w]
    exact Nat.mul_le_mul_right w (List.mem_range.mp hi)
  rw [Memory.slice_readBytes _ _ hle, Nat.mul_comm]

/-! ### Codes of whole bytes -/

theorem two_pow_eight_mul (k : Nat) : 2 ^ (8 * k) = 256 ^ k := Nat.pow_mul 2 8 k

/-- Code `i` of bytes is the value of the bytes that hold it. -/
theorem codesOf_readBytes (mem : Memory) (a k n : Nat) :
    codesOf (8 * k) n (mem.readBytes a (n * k)) = (List.range n).map (fun i => leNat (mem.readBytes (a + i * k) k)) := by
  refine List.map_congr_left fun i hi => ?_
  have hle : i * k + k ≤ n * k := by
    rw [← Nat.succ_mul]
    exact Nat.mul_le_mul_right k (List.mem_range.mp hi)
  rw [← Memory.slice_readBytes _ _ hle, leNat_slice, two_pow_eight_mul, Nat.mul_comm i (8 * k), Nat.mul_assoc,
    two_pow_eight_mul, Nat.mul_comm k i]

/-- Codes laid down one after another, the first lowest. -/
theorem foldl_zipIdx_codes (w : Nat) (codes : List Nat) (a k : Nat) :
    (codes.zipIdx k).foldl (fun a c => a + c.1 % 2 ^ w * 2 ^ (c.2 * w)) a
      = a + 2 ^ (k * w) * Nat.ofDigits (2 ^ w) (codes.map (· % 2 ^ w)) := by
  induction codes generalizing a k with
  | nil => simp
  | cons c cs ih =>
    rw [List.zipIdx_cons, List.foldl_cons, ih, List.map_cons, Nat.ofDigits_cons, Nat.succ_mul, Nat.pow_add]
    ring

theorem ofDigits_digit (b : Nat) {l : List Nat} (h : ∀ d ∈ l, d < b) {i : Nat} (hi : i < l.length) :
    Nat.ofDigits b l / b ^ i % b = l[i] := by
  induction l generalizing i with
  | nil => simp at hi
  | cons d ds ih =>
    have hd : d < b := h d (by simp)
    rw [Nat.ofDigits_cons]
    cases i with
    | zero => simp [Nat.mod_eq_of_lt hd]
    | succ i =>
      have hpos : 0 < b := by omega
      rw [Nat.pow_succ', ← Nat.div_div_eq_div_mul, Nat.add_mul_div_left _ _ hpos, Nat.div_eq_of_lt hd, Nat.zero_add]
      exact ih (fun x hx => h x (by simp [hx])) (by simpa using hi)

theorem length_packCodes (k : Nat) (codes : List Nat) (rest : Nat) :
    (packCodes (8 * k) codes rest).length = codes.length * k := by
  unfold packCodes
  rw [length_leBytes]
  have : codes.length * (8 * k) = 8 * (codes.length * k) := by ring
  omega

/-- Code `i` of packed codes stands in its own bytes. -/
theorem leNat_slice_packCodes (k : Nat) {codes : List Nat} (rest : Nat) {i : Nat} (h : i < codes.length) :
    leNat (((packCodes (8 * k) codes rest).drop (i * k)).take k) = codes[i] % 2 ^ (8 * k) := by
  have hbits : codes.length * (8 * k) = 8 * (codes.length * k) := by ring
  have hbytes : (8 * (codes.length * k) + 7) / 8 = codes.length * k := by omega
  have hlow : 256 ^ (codes.length * k) = 256 ^ (i * k) * 256 ^ ((codes.length - i) * k) := by
    rw [← Nat.pow_add, ← Nat.add_mul, Nat.add_sub_cancel' h.le]
  have hdvd : 256 ^ k ∣ 256 ^ ((codes.length - i) * k) :=
    Nat.pow_dvd_pow _ (Nat.le_mul_of_pos_left k (Nat.sub_pos_of_lt h))
  rw [leNat_slice]
  unfold packCodes
  rw [leNat_leBytes, foldl_zipIdx_codes, hbits, hbytes, hlow, Nat.mod_mul_right_div_self, Nat.mod_mod_of_dvd _ hdvd]
  simp only [Nat.zero_mul, Nat.pow_zero, Nat.one_mul, Nat.zero_add, Nat.mul_mod_right, if_true, Nat.add_zero]
  rw [Nat.mul_comm i k, Nat.pow_mul 256 k i, ← two_pow_eight_mul, ofDigits_digit _ _ (by simpa using h)]
  · simp
  · simp only [List.mem_map]
    rintro d ⟨x, -, rfl⟩
    exact Nat.mod_lt _ (Nat.two_pow_pos _)

/-! ### Numbered lists -/

theorem zipIdx_map_range {α : Type} (g : Nat → α) (n : Nat) :
    ((List.range n).map g).zipIdx = (List.range n).map (fun i => (g i, i)) :=
  List.ext_getElem (by simp) fun i _ _ => by simp

/-- In a list that numbers pick, each stands after those picked before it. -/
theorem zipIdx_filter_range (p : Nat → Bool) (n : Nat) :
    ((List.range n).filter p).zipIdx = ((List.range n).filter p).map (fun r => (r, ((List.range r).filter p).length)) := by
  induction n with
  | zero => rfl
  | succ n ih =>
    rw [List.range_succ, List.filter_append, List.zipIdx_append, ih, List.map_append]
    cases hp : p n <;> simp [hp]

theorem filter_lt_filter_range (p : Nat → Bool) {r n : Nat} (h : r ≤ n) :
    ((List.range n).filter p).filter (fun k => decide (k < r)) = (List.range r).filter p := by
  obtain ⟨d, rfl⟩ := Nat.exists_eq_add_of_le h
  rw [List.range_add, List.filter_append, List.filter_append, List.filter_filter, List.filter_filter]
  have hlow : (List.range r).filter (fun k => decide (k < r) && p k) = (List.range r).filter p :=
    List.filter_congr fun k hk => by simp [List.mem_range.mp hk]
  have hhigh : ((List.range d).map (r + ·)).filter (fun k => decide (k < r) && p k) = [] := by simp
  rw [hlow, hhigh, List.append_nil]

end Sys2Proof.Machine

end

section
/-! LEMMAS. The checks of an engine command's arrays, and the queue that carries a command out (R236, R241, R242). -/

namespace Sys2Proof.Machine

variable {s : State} {f : Folio} {q : Ecq}

/-! ### Ranges apart -/

theorem rangesMeet_eq_false_iff {a n b m : Nat} :
    rangesMeet a n b m = false ↔ n = 0 ∨ m = 0 ∨ a + n ≤ b ∨ b + m ≤ a := by
  simp only [rangesMeet, decide_eq_false_iff_not]
  omega

theorem rangesMeet_comm (a n b m : Nat) : rangesMeet a n b m = rangesMeet b m a n := by
  rw [rangesMeet, rangesMeet, Nat.max_comm, Nat.min_comm]

/-- Parts of ranges that are apart are apart. -/
theorem rangesMeet_of_within {a n b m a' n' b' m' : Nat} (h : rangesMeet a n b m = false) (ha : a ≤ a' ∧ a' + n' ≤ a + n)
    (hb : b ≤ b' ∧ b' + m' ≤ b + m) : rangesMeet a' n' b' m' = false := by
  rw [rangesMeet_eq_false_iff] at h ⊢
  omega

/-- Row `i` of `n` rows lies within them. -/
theorem row_within {i n : Nat} (w : Nat) (h : i < n) : i * w + w ≤ n * w := by
  rw [← Nat.succ_mul]
  exact Nat.mul_le_mul_right w h

/-- Different rows are apart where the pitch leaves each its room. -/
theorem rangesMeet_rows {i j w p : Nat} (base : Nat) (hw : w ≤ p) (h : i ≠ j) :
    rangesMeet (base + i * p) w (base + j * p) w = false := by
  rw [rangesMeet_eq_false_iff]
  rcases Nat.lt_or_gt_of_ne h with hlt | hlt
  · have := row_within p hlt
    omega
  · have := row_within p hlt
    omega

theorem Memory.readBytes_writeBytes_apart (m : Memory) (f : Folio) {a b n : Nat} {bs : List Byte}
    (h : rangesMeet a bs.length b n = false) :
    (m.writeBytes (reamAddr f a) bs).readBytes (reamAddr f b) n = m.readBytes (reamAddr f b) n := by
  refine Memory.readBytes_congr fun i hi => Memory.read_writeBytes_outside _ _ _ ?_
  have hz (x : Nat) : reamAddr f x = reamAddr f 0 + x := by rw [← reamAddr_add, Nat.zero_add]
  rw [rangesMeet_eq_false_iff] at h
  rw [hz a, hz b]
  omega

/-! ### Status codes (R236) -/

theorem lowest_ne_zero {l : List Nat} {m : Nat} (hm : m ≠ 0) (h : ∀ c ∈ l, c ≠ 0) :
    l.foldl (fun m c => if m = 0 then c else min m c) m ≠ 0 := by
  induction l generalizing m with
  | nil => exact hm
  | cons c l ih =>
    refine ih ?_ fun d hd => h d (by simp [hd])
    have hc : c ≠ 0 := h c (by simp)
    dsimp only
    rw [if_neg hm]
    omega

/-- A command that ends with status 0 found none of its errors. -/
theorem eq_false_of_lowestStatus {l : List (Bool × Nat)} (hc : ∀ e ∈ l, e.2 ≠ 0) (h : lowestStatus l = 0) :
    ∀ e ∈ l, e.1 = false := by
  intro e he
  by_contra hne
  have hmem : e.2 ∈ (l.filter (·.1)).map (·.2) :=
    List.mem_map_of_mem (List.mem_filter.mpr ⟨he, Bool.eq_true_of_not_eq_false hne⟩)
  have hall : ∀ c ∈ (l.filter (·.1)).map (·.2), c ≠ 0 := by
    intro c hcm
    obtain ⟨d, hd, rfl⟩ := List.mem_map.mp hcm
    exact hc d (List.mem_of_mem_filter hd)
  revert h
  unfold lowestStatus
  cases hl : (l.filter (·.1)).map (·.2) with
  | nil => simp [hl] at hmem
  | cons c cs =>
    rw [hl] at hall
    rw [List.foldl_cons, if_pos rfl]
    exact lowest_ne_zero (hall c (by simp)) fun d hd => hall d (by simp [hd])

/-- What ends with status 0 did not fail at a check. -/
theorem not_failed {p : Prop} [Decidable p] {v : State} {st : Nat} {y : State × CmdEnd} (hst : p → st ≠ 0)
    (h : (if p then (v, .fail st) else y).2.status = 0) : ¬ p ∧ (if p then (v, .fail st) else y) = y := by
  by_cases hp : p
  · rw [if_pos hp] at h
    exact absurd h (hst hp)
  · exact ⟨hp, if_neg hp⟩

/-! ### Arrays (R236) -/

/-- No array that a command writes meets one that it reads, nor, where that is asked, another that it writes. -/
structure ArraysApart (reads writes : List (Nat × Nat)) (pairs : Bool) : Prop where
  reads : ∀ a ∈ writes, ∀ b ∈ reads, rangesMeet a.1 a.2 b.1 b.2 = false
  writes : pairs = true → writes.Pairwise fun a b => rangesMeet a.1 a.2 b.1 b.2 = false

theorem rangesMeet_of_meets {a n b m : Nat} (h : (rangesMeet a n b m && decide (n ≠ 0) && decide (m ≠ 0)) = false) :
    rangesMeet a n b m = false := by
  rw [rangesMeet_eq_false_iff]
  cases hr : rangesMeet a n b m with
  | false => exact rangesMeet_eq_false_iff.mp hr
  | true =>
    rw [hr] at h
    simp at h
    omega

theorem ne_zero_of_mem_checks {pre : List (Bool × Nat)} {reads writes : List (Nat × Nat)} {pairs : Bool}
    (hpre : ∀ e ∈ pre, e.2 ≠ 0) : ∀ e ∈ pre ++ arrayErrors s f reads writes pairs, e.2 ≠ 0 := by
  intro e he
  rcases List.mem_append.mp he with hp | ha
  · exact hpre e hp
  · simp only [arrayErrors, List.mem_cons, List.not_mem_nil, or_false] at ha
    rcases ha with rfl | rfl | rfl <;> exact Nat.succ_ne_zero _

theorem ArraysApart.of_status {pre : List (Bool × Nat)} {reads writes : List (Nat × Nat)} {pairs : Bool}
    (hpre : ∀ e ∈ pre, e.2 ≠ 0) (h : lowestStatus (pre ++ arrayErrors s f reads writes pairs) = 0) :
    ArraysApart reads writes pairs := by
  have hover := eq_false_of_lowestStatus (ne_zero_of_mem_checks hpre) h (_, 7) (List.mem_append_right _ (List.mem_cons_of_mem _ List.mem_cons_self))
  dsimp only at hover
  rw [Bool.or_eq_false_iff] at hover
  obtain ⟨hreads, hwrites⟩ := hover
  refine ⟨fun a ha b hb => rangesMeet_of_meets ?_, fun hp => List.pairwise_iff_getElem.mpr fun i j hi hj hij => ?_⟩
  · have := List.any_eq_false.mp hreads a ha
    simpa using List.any_eq_false.mp (Bool.eq_false_iff.mpr this) b hb
  · rw [hp, Bool.true_and] at hwrites
    have hmem (k : Nat) (hk : k < writes.length) : (writes[k], k) ∈ writes.zipIdx :=
      List.mk_mem_zipIdx_iff_getElem?.mpr (List.getElem?_eq_getElem hk)
    have := List.any_eq_false.mp hwrites _ (hmem i hi)
    have := List.any_eq_false.mp (Bool.eq_false_iff.mpr this) _ (hmem j hj)
    refine rangesMeet_of_meets ?_
    simpa [hij] using this

/-! ### A command of a queue (R242) -/

/-- A command that has been carried out. -/
def EcqRun.ended (r : EcqRun) (e : CmdEnd) : EcqRun :=
  { r with done := true, status := e.status, flags := e.flags, result := e.result, count := e.count }

theorem runQueue_of_work {r : EcqRun} {code : Nat} (hr : (s.ecq f q).run = some r) (hd : r.done = false)
    (hup : s.enginesUp f = true) (hb : s.biasWaits f 0 reamLimit = false) (hc : (cmdOf r.words).code = code) :
    s.runQueue f q code = (runCmd s f (cmdOf r.words)).1.setEcq f q { (runCmd s f (cmdOf r.words)).1.ecq f q with
      run := some (r.ended (runCmd s f (cmdOf r.words)).2) } := by
  rw [State.runQueue, hr]
  refine (if_neg ?_).trans rfl
  rw [hd, hup, hb]
  simpa using hc

end Sys2Proof.Machine

end

section
/-! LEMMAS. Rows that an engine command copies (R244). -/

namespace Sys2Proof.Machine

variable {s : State} {f : Folio} {n : Nat}

/-- What is written for a row: the bytes of its source, or zeros. -/
def Memory.rowData (m : Memory) (f : Folio) (n : Nat) : Option Nat → List Byte
  | some a => m.readBytes (reamAddr f a) n
  | none => List.replicate n 0

@[simp] theorem Memory.length_rowData (m : Memory) (f : Folio) (n : Nat) (src : Option Nat) :
    (m.rowData f n src).length = n := by
  cases src
  · exact List.length_replicate
  · exact m.length_readBytes _ _

/-- Rows are copied one after another. -/
def Memory.copyRows (m : Memory) (f : Folio) (n : Nat) : List (Option Nat × Nat) → Memory
  | [] => m
  | p :: ps => (m.writeBytes (reamAddr f p.2) (m.rowData f n p.1)).copyRows f n ps

theorem State.copyRows_served (hm : s.marks = []) (ho : s.noOps f) (done : Nat) (ps : List (Option Nat × Nat)) :
    ∃ u, Served (s.mem.copyRows f n ps) s u ∧ s.copyRows f n done ps = (u, done + ps.length, false) := by
  induction ps generalizing s done with
  | nil => exact ⟨s, Served.refl s, rfl⟩
  | cons p ps ih =>
    obtain ⟨src, dst⟩ := p
    have hread : ∃ v, Served s.mem s v ∧ ∀ t, s.copyRows f n done ((src, dst) :: t) =
        match v.engWrite f dst (s.mem.rowData f n src) with
        | (w, true) => (w, done, true)
        | (w, false) => w.copyRows f n (done + 1) t := by
      cases src with
      | none => exact ⟨s, Served.refl s, fun _ => rfl⟩
      | some a =>
        obtain ⟨v, hv, he⟩ := State.engRead_served hm ho a n
        refine ⟨v, hv, fun t => ?_⟩
        rw [State.copyRows]
        dsimp only
        rw [he]
        rfl
    obtain ⟨v, hv, he⟩ := hread
    obtain ⟨w, hw, hwrite⟩ := State.engWrite_served (hv.clean hm) (hv.noOps ho) dst (s.mem.rowData f n src)
    rw [hv.mem] at hw
    have hsw := hv.trans hw
    obtain ⟨u, hu, hrest⟩ := ih (hsw.clean hm) (hsw.noOps ho) (done + 1)
    rw [hsw.mem] at hu
    refine ⟨u, hsw.trans hu, ?_⟩
    rw [he, hwrite, List.length_cons, Nat.add_comm ps.length, ← Nat.add_assoc]
    exact hrest

theorem Memory.copyRows_append (m : Memory) (f : Folio) (n : Nat) (ps qs : List (Option Nat × Nat)) :
    m.copyRows f n (ps ++ qs) = (m.copyRows f n ps).copyRows f n qs := by
  induction ps generalizing m with
  | nil => rfl
  | cons p ps ih => exact ih _

/-- Bytes that no copied row meets keep their values. -/
theorem Memory.readBytes_copyRows_apart (m : Memory) {ps : List (Option Nat × Nat)} {a l : Nat}
    (h : ∀ p ∈ ps, rangesMeet p.2 n a l = false) :
    (m.copyRows f n ps).readBytes (reamAddr f a) l = m.readBytes (reamAddr f a) l := by
  induction ps generalizing m with
  | nil => rfl
  | cons p ps ih =>
    rw [Memory.copyRows, ih _ fun q hq => h q (by simp [hq]), Memory.readBytes_writeBytes_apart]
    rw [Memory.length_rowData]
    exact h p (by simp)

theorem Memory.rowData_copyRows_apart (m : Memory) {ps : List (Option Nat × Nat)} {src : Option Nat}
    (h : ∀ p ∈ ps, ∀ a, src = some a → rangesMeet p.2 n a n = false) :
    (m.copyRows f n ps).rowData f n src = m.rowData f n src := by
  cases src with
  | none => rfl
  | some a => exact m.readBytes_copyRows_apart fun p hp => h p hp a rfl

/-- Of rows copied in the order of their numbers, row `r` holds what its source held at first, where no earlier row is
copied over its source and no later one over it. -/
theorem Memory.readBytes_copyRows (m : Memory) {rows : List Nat} {src : Nat → Option Nat} {dst : Nat → Nat} {r : Nat}
    (hrows : rows.Pairwise (· < ·)) (hr : r ∈ rows)
    (hsrc : ∀ j ∈ rows, j < r → ∀ a, src r = some a → rangesMeet (dst j) n a n = false)
    (hdst : ∀ j ∈ rows, r < j → rangesMeet (dst j) n (dst r) n = false) :
    (m.copyRows f n (rows.map fun j => (src j, dst j))).readBytes (reamAddr f (dst r)) n = m.rowData f n (src r) := by
  obtain ⟨pre, post, rfl⟩ := List.append_of_mem hr
  obtain ⟨-, hpost, hpre⟩ := List.pairwise_append.mp hrows
  have hkept : ∀ p ∈ post.map (fun j => (src j, dst j)), rangesMeet p.2 n (dst r) n = false := by
    intro p hp
    obtain ⟨j, hj, rfl⟩ := List.mem_map.mp hp
    exact hdst j (by simp [hj]) ((List.pairwise_cons.mp hpost).1 j hj)
  have hseen : ∀ p ∈ pre.map (fun j => (src j, dst j)), ∀ a, src r = some a → rangesMeet p.2 n a n = false := by
    intro p hp
    obtain ⟨j, hj, rfl⟩ := List.mem_map.mp hp
    exact hsrc j (by simp [hj]) (hpre j hj r (by simp))
  rw [List.map_append, List.map_cons, Memory.copyRows_append, Memory.copyRows,
    Memory.readBytes_copyRows_apart _ hkept, Memory.rowData_copyRows_apart _ hseen]
  have hsame := Memory.readBytes_writeBytes_same (m.copyRows f n (pre.map fun j => (src j, dst j)))
    (reamAddr f (dst r)) (m.rowData f n (src r))
  rwa [Memory.length_rowData] at hsame

theorem pairwise_lt_filter_range (p : Nat → Bool) (n : Nat) : ((List.range n).filter p).Pairwise (· < ·) :=
  List.pairwise_lt_range.filter p

end Sys2Proof.Machine

end

section
/-! LEMMAS. GATHER, SCATTER, ELIDE and RESTORE on clean data (R244). -/

namespace Sys2Proof.Machine

variable {s : State} {f : Folio} {c : Cmd} {gather : Bool}

/-! ### GATHER and SCATTER -/

/-- The index that the list of a command has for row `i`. -/
def State.rowIndex (s : State) (f : Folio) (c : Cmd) (i : Nat) : Nat := s.readLe (reamAddr f (c.aux + 4 * i)) 4

/-- Where the row that an index names lies. -/
def Cmd.spot (c : Cmd) (gather : Bool) (x : Nat) : Nat := (if gather then c.src else c.dst) + x * c.pitch

/-- Where row `i` of the packed side lies. -/
def Cmd.line (c : Cmd) (gather : Bool) (i : Nat) : Nat := (if gather then c.dst else c.src) + i * c.rowBytes

/-- What row `i` is copied from. -/
def State.rowSource (s : State) (f : Folio) (c : Cmd) (gather : Bool) (i : Nat) : Option Nat :=
  if gather then (if s.rowIndex f c i = padIndex then none else some (c.spot gather (s.rowIndex f c i)))
  else some (c.line gather i)

/-- What row `i` is copied to. -/
def State.rowTarget (s : State) (f : Folio) (c : Cmd) (gather : Bool) (i : Nat) : Nat :=
  if gather then c.line gather i else c.spot gather (s.rowIndex f c i)

/-- The rows that are copied. -/
def State.listedRows (s : State) (f : Folio) (c : Cmd) (gather : Bool) : List Nat :=
  (List.range c.count).filter fun i => gather || decide (s.rowIndex f c i ≠ padIndex)

/-- The rows that indexes name. -/
def State.namedRows (s : State) (f : Folio) (c : Cmd) (gather : Bool) : List (Nat × Nat) :=
  ((List.range c.count).map (s.rowIndex f c)).filter (fun x => decide (x ≠ padIndex)) |>.map
    fun x => (c.spot gather x, c.rowBytes)

theorem mem_namedRows {i : Nat} (h : i < c.count) (hx : s.rowIndex f c i ≠ padIndex) :
    (c.spot gather (s.rowIndex f c i), c.rowBytes) ∈ s.namedRows f c gather :=
  List.mem_map_of_mem (List.mem_filter.mpr
    ⟨List.mem_map_of_mem (List.mem_range.mpr h), decide_eq_true hx⟩)

theorem map_leNat_elements (s : State) (f : Folio) (c : Cmd) :
    (elements 4 (s.mem.readBytes (reamAddr f c.aux) (4 * c.count))).map leNat
      = (List.range c.count).map (s.rowIndex f c) := by
  rw [elements_readBytes _ _ (by decide), List.map_map]
  refine List.map_congr_left fun i _ => ?_
  rw [State.rowIndex, reamAddr_add]
  rfl

/-- The checks of GATHER and SCATTER over their arrays (R236). -/
def State.listedStatus (s v : State) (f : Folio) (c : Cmd) (gather : Bool) : Nat :=
  lowestStatus (if gather then
      arrayErrors v f ((c.aux, 4 * c.count) :: s.namedRows f c gather) [(c.line gather 0, c.count * c.rowBytes)] true
    else arrayErrors v f [(c.aux, 4 * c.count), (c.line gather 0, c.count * c.rowBytes)] (s.namedRows f c gather) false)

theorem runIndexed_of_good (hm : s.marks = []) (ho : s.noOps f) (hg : (runIndexed gather s f c).2.status = 0) :
    (∃ v, s.listedStatus v f c gather = 0) ∧
    ∃ u, Served (s.mem.copyRows f c.rowBytes ((s.listedRows f c gather).map fun i =>
      (s.rowSource f c gather i, s.rowTarget f c gather i))) s u ∧ (runIndexed gather s f c).1 = u := by
  have hmoves : ((((((List.range c.count).map (s.rowIndex f c)).zipIdx.map fun p =>
      if gather then (if p.1 = padIndex then none else some (c.spot gather p.1), c.line gather p.2)
      else (some (c.line gather p.2), c.spot gather p.1)).zip ((List.range c.count).map (s.rowIndex f c))).filter
        fun p => gather || decide (p.2 ≠ padIndex)).map (·.1))
      = (s.listedRows f c gather).map fun i => (s.rowSource f c gather i, s.rowTarget f c gather i) := by
    rw [zipIdx_map_range, List.map_map, List.zip_map', List.filter_map, List.map_map]
    refine List.map_congr_left fun i _ => ?_
    cases gather <;> rfl
  unfold runIndexed at hg ⊢
  dsimp only at hg ⊢
  obtain ⟨-, he⟩ := not_failed (fun _ => by decide) hg
  rw [he] at hg ⊢
  clear he
  obtain ⟨v, hv, hr⟩ := State.engRead_served hm ho c.aux (4 * c.count)
  rw [hr] at hg ⊢
  dsimp only at hg ⊢
  rw [map_leNat_elements] at hg ⊢
  obtain ⟨hst, he⟩ := not_failed id hg
  obtain ⟨u, hu, hcopy⟩ := State.copyRows_served (n := c.rowBytes) (hv.clean hm) (hv.noOps ho) 0
    ((s.listedRows f c gather).map fun i => (s.rowSource f c gather i, s.rowTarget f c gather i))
  rw [← hmoves] at hcopy
  unfold Cmd.spot Cmd.line at hcopy
  rw [he, hcopy]
  rw [hv.mem] at hu
  exact ⟨⟨v, not_not.mp hst⟩, u, hv.trans hu, rfl⟩

theorem mem_listedRows {i : Nat} (hi : i < c.count) (h : gather = true ∨ s.rowIndex f c i ≠ padIndex) :
    i ∈ s.listedRows f c gather :=
  List.mem_filter.mpr ⟨List.mem_range.mpr hi, by rcases h with h | h <;> simp [h]⟩

theorem lt_of_mem_listedRows {i : Nat} (h : i ∈ s.listedRows f c gather) :
    i < c.count ∧ (gather = true ∨ s.rowIndex f c i ≠ padIndex) := by
  obtain ⟨hi, hp⟩ := List.mem_filter.mp h
  exact ⟨List.mem_range.mp hi, by simpa using hp⟩

/-- Every line of the packed side lies within its array. -/
theorem line_within {i : Nat} (hi : i < c.count) : c.line gather 0 ≤ c.line gather i ∧
    c.line gather i + c.rowBytes ≤ c.line gather 0 + c.count * c.rowBytes := by
  have := row_within c.rowBytes hi
  unfold Cmd.line
  omega

theorem gathered_row (hm : s.marks = []) (ho : s.noOps f) (hg : (runIndexed true s f c).2.status = 0) {i : Nat}
    (hi : i < c.count) : (runIndexed true s f c).1.readMem (reamAddr f (c.dst + i * c.rowBytes)) c.rowBytes
      = if s.rowIndex f c i = padIndex then List.replicate c.rowBytes 0
        else s.readMem (reamAddr f (c.src + s.rowIndex f c i * c.pitch)) c.rowBytes := by
  obtain ⟨⟨v, hst⟩, u, hu, he⟩ := runIndexed_of_good hm ho hg
  have hapart : ArraysApart ((c.aux, 4 * c.count) :: s.namedRows f c true)
      [(c.line true 0, c.count * c.rowBytes)] true := ArraysApart.of_status (pre := []) (by simp) hst
  have hrow := s.mem.readBytes_copyRows (f := f) (n := c.rowBytes) (rows := s.listedRows f c true) (src := s.rowSource f c true)
    (dst := s.rowTarget f c true) (pairwise_lt_filter_range _ _) (mem_listedRows hi (.inl rfl))
    (fun j hj _ a ha => ?_) fun j _ hij => rangesMeet_rows _ le_rfl (by omega)
  · rw [he, hu.readMem]
    refine hrow.trans ?_
    rw [State.rowSource, if_pos rfl]
    split <;> rfl
  · obtain ⟨hx, rfl⟩ : s.rowIndex f c i ≠ padIndex ∧ c.spot true (s.rowIndex f c i) = a := by
      rw [State.rowSource, if_pos rfl] at ha
      split at ha
      next => cases ha
      next h => exact ⟨h, Option.some.inj ha⟩
    exact rangesMeet_of_within (hapart.reads _ (List.mem_singleton_self _) _ (List.mem_cons_of_mem _ (mem_namedRows hi hx)))
      (line_within (lt_of_mem_listedRows hj).1) ⟨le_rfl, le_rfl⟩

theorem scattered_row (hm : s.marks = []) (ho : s.noOps f) (hg : (runIndexed false s f c).2.status = 0) {i : Nat}
    (hi : i < c.count) (hx : s.rowIndex f c i ≠ padIndex)
    (hlast : ∀ j < c.count, i < j → s.rowIndex f c j = padIndex ∨ rangesMeet (c.dst + s.rowIndex f c i * c.pitch) c.rowBytes
      (c.dst + s.rowIndex f c j * c.pitch) c.rowBytes = false) :
    (runIndexed false s f c).1.readMem (reamAddr f (c.dst + s.rowIndex f c i * c.pitch)) c.rowBytes
      = s.readMem (reamAddr f (c.src + i * c.rowBytes)) c.rowBytes := by
  obtain ⟨⟨v, hst⟩, u, hu, he⟩ := runIndexed_of_good hm ho hg
  have hapart : ArraysApart [(c.aux, 4 * c.count), (c.line false 0, c.count * c.rowBytes)]
      (s.namedRows f c false) false := ArraysApart.of_status (pre := []) (by simp) hst
  have hrow := s.mem.readBytes_copyRows (f := f) (n := c.rowBytes) (rows := s.listedRows f c false) (src := s.rowSource f c false)
    (dst := s.rowTarget f c false) (pairwise_lt_filter_range _ _) (mem_listedRows hi (.inr hx))
    (fun j hj _ a ha => ?_) fun j hj hij => ?_
  · rw [he, hu.readMem]
    exact hrow
  · obtain ⟨hjc, hjx⟩ := lt_of_mem_listedRows hj
    obtain rfl : c.line false i = a := Option.some.inj ha
    exact rangesMeet_of_within (hapart.reads _ (mem_namedRows hjc (hjx.resolve_left (by simp))) _
      (List.mem_cons_of_mem _ (List.mem_singleton_self _)))
      ⟨le_rfl, le_rfl⟩ (line_within hi)
  · obtain ⟨hjc, hjx⟩ := lt_of_mem_listedRows hj
    rw [rangesMeet_comm]
    exact (hlast j hjc hij).resolve_left (hjx.resolve_left (by simp))

/-! ### The mask of ELIDE and RESTORE -/

/-- Bit `i` of the mask. -/
def State.maskBit (s : State) (f : Folio) (c : Cmd) (i : Nat) : Bool :=
  (s.mem.read (reamAddr f (c.aux + i / 8))).toNat.testBit (i % 8)

/-- The rows that the mask marks. -/
def State.markedRows (s : State) (f : Folio) (c : Cmd) (n : Nat) : List Nat := (List.range n).filter (s.maskBit f c)

theorem map_codesOf_mask (s : State) (f : Folio) (c : Cmd) :
    (codesOf 1 c.count (s.mem.readBytes (reamAddr f c.aux) ((c.count + 7) / 8))).map (fun b => decide (b = 1))
      = (List.range c.count).map (s.maskBit f c) := by
  unfold codesOf
  rw [List.map_map]
  refine List.map_congr_left fun i hi => ?_
  have hlt : i / 8 < (c.count + 7) / 8 := by
    have := List.mem_range.mp hi
    omega
  have hbyte : (s.mem.readBytes (reamAddr f c.aux) ((c.count + 7) / 8)).getD (i / 8) 0
      = s.mem.read (reamAddr f (c.aux + i / 8)) := by
    simp [Memory.readBytes, List.getD_eq_getElem?_getD, hlt, reamAddr_add]
  have hbit (v : Nat) : decide (v / 2 ^ (i * 1) % 2 ^ 1 = 1) = v.testBit i := by
    rw [Nat.mul_one, Nat.pow_one, Nat.testBit_eq_decide_div_mod_eq]
  refine (hbit _).trans ?_
  rw [testBit_leNat, hbyte]
  rfl

theorem readMask_served (hm : s.marks = []) (ho : s.noOps f) :
    ∃ u, Served s.mem s u ∧ readMask s f c = (u, some ((List.range c.count).map (s.maskBit f c))) := by
  obtain ⟨u, hu, he⟩ := State.engRead_served hm ho c.aux ((c.count + 7) / 8)
  refine ⟨u, hu, ?_⟩
  rw [readMask, he, ← map_codesOf_mask]

theorem activeRows_map_range (p : Nat → Bool) (n : Nat) :
    activeRows ((List.range n).map p) = (List.range n).filter p := by
  rw [activeRows, zipIdx_map_range, List.filter_map, List.map_map]
  exact List.map_id _

/-- A marked row's place among them lies within their number. -/
theorem rank_lt_of_maskBit {i n : Nat} (hi : i < n) (hx : s.maskBit f c i = true) :
    (s.markedRows f c i).length < (s.markedRows f c n).length := by
  rw [State.markedRows, ← filter_lt_filter_range _ hi.le]
  refine List.length_filter_lt_length_iff_exists.mpr ⟨i, ?_, by simp⟩
  exact List.mem_filter.mpr ⟨List.mem_range.mpr hi, hx⟩

/-! ### ELIDE -/

theorem runElide_of_good (hm : s.marks = []) (ho : s.noOps f) (hb : c.flags.testBit 0 = false)
    (hg : (runElide s f c).2.status = 0) :
    (runElide s f c).2.result = (s.markedRows f c c.count).length ∧
    ArraysApart ((c.aux, (c.count + 7) / 8) :: (List.range c.count).map (fun r => (c.src + r * c.pitch, c.rowBytes)))
      [(c.dst, (s.markedRows f c c.count).length * c.rowBytes)] true ∧
    ∃ u, Served (s.mem.copyRows f c.rowBytes ((s.markedRows f c c.count).map fun r =>
        (some (c.src + r * c.pitch), c.dst + (s.markedRows f c r).length * c.rowBytes))) s u ∧
      (runElide s f c).1 = u := by
  unfold runElide at hg ⊢
  simp only [hb, Bool.false_eq_true, if_false] at hg ⊢
  obtain ⟨-, he⟩ := not_failed id hg
  rw [he] at hg ⊢
  clear he
  obtain ⟨v, hv, hmask⟩ := readMask_served (c := c) hm ho
  rw [hmask] at hg ⊢
  dsimp only at hg ⊢
  rw [activeRows_map_range, ← State.markedRows] at hg ⊢
  obtain ⟨hst, he⟩ := not_failed id hg
  obtain ⟨u, hu, hcopy⟩ := State.copyRows_served (n := c.rowBytes) (hv.clean hm) (hv.noOps ho) 0
    ((s.markedRows f c c.count).map fun r => (some (c.src + r * c.pitch), c.dst + (s.markedRows f c r).length * c.rowBytes))
  have hmoves : (s.markedRows f c c.count).zipIdx.map (fun p => (some (c.src + p.1 * c.pitch), c.dst + p.2 * c.rowBytes))
      = (s.markedRows f c c.count).map fun r =>
        (some (c.src + r * c.pitch), c.dst + (s.markedRows f c r).length * c.rowBytes) := by
    rw [State.markedRows, zipIdx_filter_range, List.map_map]
    rfl
  rw [he, hmoves, hcopy]
  rw [hv.mem] at hu
  exact ⟨rfl, ArraysApart.of_status (pre := []) (by simp) (not_not.mp hst), u, hv.trans hu, rfl⟩

theorem elided_row (hm : s.marks = []) (ho : s.noOps f) (hb : c.flags.testBit 0 = false)
    (hg : (runElide s f c).2.status = 0) {i : Nat} (hi : i < c.count) (hx : s.maskBit f c i = true) :
    (runElide s f c).1.readMem (reamAddr f (c.dst + (s.markedRows f c i).length * c.rowBytes)) c.rowBytes
      = s.readMem (reamAddr f (c.src + i * c.pitch)) c.rowBytes := by
  obtain ⟨-, hapart, u, hu, he⟩ := runElide_of_good hm ho hb hg
  have hrow := s.mem.readBytes_copyRows (f := f) (n := c.rowBytes) (rows := s.markedRows f c c.count)
    (src := fun r => some (c.src + r * c.pitch)) (dst := fun r => c.dst + (s.markedRows f c r).length * c.rowBytes)
    (pairwise_lt_filter_range _ _) (List.mem_filter.mpr ⟨List.mem_range.mpr hi, hx⟩)
    (fun j hj _ a ha => ?_) fun j hj hij => ?_
  · rw [he, hu.readMem]
    exact hrow
  · obtain ⟨hjc, hjx⟩ := List.mem_filter.mp hj
    obtain rfl := Option.some.inj ha
    have := row_within c.rowBytes (rank_lt_of_maskBit (List.mem_range.mp hjc) hjx)
    refine rangesMeet_of_within (hapart.reads _ (List.mem_singleton_self _) (c.src + i * c.pitch, c.rowBytes) ?_)
      ⟨by omega, by omega⟩ ⟨le_rfl, le_rfl⟩
    exact List.mem_cons_of_mem _ (List.mem_map_of_mem (List.mem_range.mpr hi))
  · have := rank_lt_of_maskBit hij hx
    exact rangesMeet_rows _ le_rfl (by omega)

/-! ### RESTORE -/

/-- The rows that are written: the marked ones, and the others where they are to be zeroed. -/
def State.restoredRows (s : State) (f : Folio) (c : Cmd) : List Nat :=
  (List.range c.count).filter fun r => s.maskBit f c r || c.flags.testBit 1

/-- What a row is restored from. -/
def State.restoreSource (s : State) (f : Folio) (c : Cmd) (r : Nat) : Option Nat :=
  if s.maskBit f c r then some (c.src + (s.markedRows f c r).length * c.rowBytes) else none

theorem runRestore_of_good (hm : s.marks = []) (ho : s.noOps f) (hg : (runRestore s f c).2.status = 0) :
    ArraysApart [(c.aux, (c.count + 7) / 8), (c.src, (s.markedRows f c c.count).length * c.rowBytes)]
      ((s.restoredRows f c).map fun r => (c.dst + r * c.pitch, c.rowBytes)) false ∧
    ∃ u, Served (s.mem.copyRows f c.rowBytes ((s.restoredRows f c).map fun r =>
        (s.restoreSource f c r, c.dst + r * c.pitch))) s u ∧ (runRestore s f c).1 = u := by
  unfold runRestore at hg ⊢
  dsimp only at hg ⊢
  obtain ⟨-, he⟩ := not_failed id hg
  rw [he] at hg ⊢
  clear he
  obtain ⟨v, hv, hmask⟩ := readMask_served (c := c) hm ho
  have hhit : (((List.range c.count).map (s.maskBit f c)).zipIdx.filter
      (fun p => p.1 || c.flags.testBit 1)).map (·.2) = s.restoredRows f c := by
    rw [zipIdx_map_range, List.filter_map, List.map_map]
    exact List.map_id _
  rw [hmask] at hg ⊢
  dsimp only at hg ⊢
  rw [activeRows_map_range, ← State.markedRows, hhit] at hg ⊢
  obtain ⟨hst, he⟩ := not_failed id hg
  obtain ⟨u, hu, hcopy⟩ := State.copyRows_served (n := c.rowBytes) (hv.clean hm) (hv.noOps ho) 0
    ((s.restoredRows f c).map fun r => (s.restoreSource f c r, c.dst + r * c.pitch))
  have hmoves : (s.restoredRows f c).map (fun r => (if ((List.range c.count).map (s.maskBit f c)).getD r false then
        some (c.src + ((s.markedRows f c c.count).filter (fun k => decide (k < r))).length * c.rowBytes) else none,
        c.dst + r * c.pitch))
      = (s.restoredRows f c).map fun r => (s.restoreSource f c r, c.dst + r * c.pitch) := by
    refine List.map_congr_left fun r hr => ?_
    have hlt : r < c.count := List.mem_range.mp (List.mem_filter.mp hr).1
    have hbit : ((List.range c.count).map (s.maskBit f c)).getD r false = s.maskBit f c r := by
      simp [List.getD_eq_getElem?_getD, hlt]
    rw [hbit, State.markedRows, filter_lt_filter_range _ hlt.le]
    rfl
  rw [he, hmoves, hcopy]
  rw [hv.mem] at hu
  exact ⟨ArraysApart.of_status (pre := []) (by simp) (not_not.mp hst), u, hv.trans hu, rfl⟩

theorem restored_row (hm : s.marks = []) (ho : s.noOps f) (hg : (runRestore s f c).2.status = 0)
    (hp : c.rowBytes ≤ c.pitch) {i : Nat} (hi : i < c.count) (hx : (s.maskBit f c i || c.flags.testBit 1) = true) :
    (runRestore s f c).1.readMem (reamAddr f (c.dst + i * c.pitch)) c.rowBytes
      = s.mem.rowData f c.rowBytes (s.restoreSource f c i) := by
  obtain ⟨hapart, u, hu, he⟩ := runRestore_of_good hm ho hg
  rw [he, hu.readMem]
  refine s.mem.readBytes_copyRows (f := f) (n := c.rowBytes) (rows := s.restoredRows f c)
    (src := s.restoreSource f c) (dst := fun r => c.dst + r * c.pitch)
    (pairwise_lt_filter_range _ _) (List.mem_filter.mpr ⟨List.mem_range.mpr hi, hx⟩)
    (fun j hj _ a ha => ?_) fun j hj hij => rangesMeet_rows _ hp (by omega)
  unfold State.restoreSource at ha
  split at ha
  next hset =>
    obtain rfl := Option.some.inj ha
    have := row_within c.rowBytes (rank_lt_of_maskBit hi hset)
    exact rangesMeet_of_within (hapart.reads _ (List.mem_map_of_mem hj) _
      (List.mem_cons_of_mem _ (List.mem_singleton_self _))) ⟨le_rfl, le_rfl⟩ ⟨by omega, by omega⟩
  next => cases ha

end Sys2Proof.Machine

end

section
/-! LEMMAS. CONVERT and the region commands on clean data (R238, R244, R245). -/

namespace Sys2Proof.Machine

variable {s : State} {f : Folio} {c : Cmd}

/-! ### CONVERT -/

theorem State.writeArrays_served (hm : s.marks = []) (ho : s.noOps f) (done : Nat) (ps : List (Nat × List Byte)) :
    ∃ u d, Served (s.mem.writePieces f ps) s u ∧ s.writeArrays f done ps = (u, d, false) := by
  induction ps generalizing s done with
  | nil => exact ⟨s, done, Served.refl s, rfl⟩
  | cons p ps ih =>
    obtain ⟨v, hv, he⟩ := State.engWrite_served hm ho p.1 p.2
    obtain ⟨u, d, hu, hrest⟩ := ih (hv.clean hm) (hv.noOps ho) (done + p.2.length)
    rw [hv.mem] at hu
    refine ⟨u, d, hv.trans hu, ?_⟩
    rw [State.writeArrays, he]
    exact hrest

/-- The code that a code becomes, rounded without a draw. -/
def convertCode (a b : Fmt) (rm : Rm) (satc : Bool) (x : Nat) : Nat := (b.elem.encode rm satc 0 (a.elem.decode x)).1

theorem convertAll_of_plain {a b : Fmt} (rm : Rm) (satc : Bool) (codes : List Nat) (scales : List Byte)
    (ha : a.isMx = false) (hb : b.isMx = false) :
    (convertAll a b rm satc (fun _ => 0) codes scales).1 = codes.map (convertCode a b rm satc) := by
  unfold convertAll
  simp only [ha, hb, Bool.false_eq_true, if_false, List.map_map]
  refine List.ext_getElem (by simp) fun i _ _ => ?_
  simp [convertCode]

section
variable {a b : Fmt} {rm : Rm} (ha : Fmt.ofCode c.srcFmt = some a) (hb : Fmt.ofCode c.dstFmt = some b)
  (hrm : Rm.ofCode c.rm = some rm) (hsr : rm ≠ .sr) (hamx : a.isMx = false) (hbmx : b.isMx = false)
include ha hb hrm hsr hamx hbmx

/-- CONVERT leaves the packed converted codes at DST. -/
theorem runConvert_of_good (hm : s.marks = []) (ho : s.noOps f) (hg : (runConvert s f c).2.status = 0) :
    (runConvert s f c).2.count = c.count ∧ ∃ u d last, (runConvert s f c).1 = u ∧
      Served (s.mem.writePieces f (pieces c.dst ((c.count * b.width + 7) / 8 / 256 + 2) d)) s u ∧
      d = packCodes b.width ((codesOf a.width c.count (s.mem.readBytes (reamAddr f c.src) ((c.count * a.width + 7) / 8))).map
        (convertCode a b rm c.satc)) last := by
  unfold runConvert at hg ⊢
  simp only [ha, hb, hrm] at hg ⊢
  generalize lowestStatus _ = st at hg ⊢
  cases st with
  | succ st => simp [CmdEnd.fail] at hg
  | zero =>
    obtain ⟨v, hv, hread⟩ := State.engRead_served hm ho c.src ((c.count * a.width + 7) / 8)
    simp only [hread, hamx, hbmx, hsr, Bool.false_eq_true, if_false, convertAll_of_plain _ _ _ _ hamx hbmx] at hg ⊢
    generalize hd : packCodes b.width _ _ = d at hg ⊢
    obtain ⟨u, n, hu, hw⟩ := State.writeArrays_served (hv.clean hm) (hv.noOps ho) 0
      (pieces c.dst ((c.count * b.width + 7) / 8 / 256 + 2) d)
    rw [hv.mem] at hu
    rw [hw]
    exact ⟨rfl, u, d, _, rfl, hv.trans hu, hd.symm⟩

theorem converted_element (haw : a.width % 8 = 0) (hbw : b.width % 8 = 0) (hm : s.marks = []) (ho : s.noOps f)
    (hg : (runConvert s f c).2.status = 0) {i : Nat} (hi : i < c.count) :
    (runConvert s f c).1.readLe (reamAddr f (c.dst + i * (b.width / 8))) (b.width / 8)
      = convertCode a b rm c.satc (s.readLe (reamAddr f (c.src + i * (a.width / 8))) (a.width / 8)) % 2 ^ b.width := by
  obtain ⟨-, u, d, last, he, hu, hd⟩ := runConvert_of_good ha hb hrm hsr hamx hbmx hm ho hg
  obtain ⟨k, hk⟩ := Nat.dvd_of_mod_eq_zero haw
  obtain ⟨l, hl⟩ := Nat.dvd_of_mod_eq_zero hbw
  have hbytes (w : Nat) : (c.count * (8 * w) + 7) / 8 = c.count * w := by
    have : c.count * (8 * w) = 8 * (c.count * w) := by ring
    omega
  rw [hk, hl, hbytes, codesOf_readBytes, List.map_map] at hd
  have hlen : d.length = c.count * l := by
    rw [hd, length_packCodes]
    simp
  rw [hl, hbytes, Memory.writePieces_pieces _ _ (by omega)] at hu
  have hwithin : i * l + l ≤ d.length := hlen ▸ row_within l hi
  rw [he, hk, hl, Nat.mul_div_cancel_left k (by decide), Nat.mul_div_cancel_left l (by decide), State.readLe, hu.readMem,
    reamAddr_add, Memory.readBytes_writeBytes_within _ _ hwithin, hd, leNat_slice_packCodes _ _ (by simpa using hi)]
  simp [State.readLe, State.readMem, reamAddr_add]

end

/-! ### Regions -/

@[simp] theorem length_accSlot (a : LongAcc) : (accSlot a).length = 64 := by simp [accSlot]

theorem State.clearSlots_served (hm : s.marks = []) (ho : s.noOps f) (off n : Nat) :
    ∃ u m, Served m s u ∧ s.clearSlots f off n = (u, false) ∧
      (∀ j < n, m.readBytes (reamAddr f (off + 64 * j)) 64 = accSlot LongAcc.clear) ∧
      ∀ a l, rangesMeet off (64 * n) a l = false → m.readBytes (reamAddr f a) l = s.mem.readBytes (reamAddr f a) l := by
  induction n generalizing s off with
  | zero => exact ⟨s, s.mem, Served.refl s, rfl, nofun, fun _ _ _ => rfl⟩
  | succ n ih =>
    obtain ⟨v, hv, he⟩ := State.engWrite_served hm ho off (accSlot LongAcc.clear)
    obtain ⟨u, m, hu, hrest, hslots, hother⟩ := ih (hv.clean hm) (hv.noOps ho) (off + 64)
    rw [hv.mem] at hother
    refine ⟨u, m, hv.trans hu, by rw [State.clearSlots, he]; exact hrest, fun j hj => ?_, fun a l ha => ?_⟩
    · cases j with
      | zero =>
        have hfirst := Memory.readBytes_writeBytes_same s.mem (reamAddr f off) (accSlot LongAcc.clear)
        rw [length_accSlot] at hfirst
        rw [Nat.mul_zero, Nat.add_zero, hother _ _ (by rw [rangesMeet_eq_false_iff]; omega), hfirst]
      | succ j =>
        rw [Nat.mul_succ, Nat.add_comm (64 * j), ← Nat.add_assoc]
        exact hslots j (by omega)
    · rw [hother a l (rangesMeet_of_within ha ⟨by omega, by omega⟩ ⟨le_rfl, le_rfl⟩),
        Memory.readBytes_writeBytes_apart]
      rw [length_accSlot]
      exact rangesMeet_of_within ha ⟨le_rfl, by omega⟩ ⟨le_rfl, le_rfl⟩

/-- A region that is opened without PRESERVE begins with clear slots. -/
theorem opened_slot (hm : s.marks = []) (ho : s.noOps f) (hp : c.flags.testBit 0 = false)
    (hg : (runRegionOpen s f c).2.status = 0) {j : Nat} (hj : j < c.count) :
    (runRegionOpen s f c).1.readMem (reamAddr f (c.aux + 64 * j)) 64 = accSlot LongAcc.clear := by
  unfold runRegionOpen at hg ⊢
  dsimp only at hg ⊢
  obtain ⟨-, he⟩ := not_failed id hg
  obtain ⟨u, m, hu, hclear, hslots, -⟩ := State.clearSlots_served hm ho c.aux c.count
  rw [he, hp, if_neg Bool.false_ne_true, hclear]
  exact (hu.readMem _ _).trans (hslots j hj)

/-- What a slot rounds to. -/
def Memory.slotCode (m : Memory) (f : Folio) (c : Cmd) (fmt : Fmt) (slot : Nat) (rm : Rm) (r j : Nat) : Nat :=
  ((slotAcc (m.readBytes (reamAddr f (slot + 64 * j)) 64)).read fmt.elem rm c.satc r).1

theorem State.finalSlots_served (hm : s.marks = []) (ho : s.noOps f) (fmt : Fmt) (target slot n j hits : Nat) (fl : Flags) :
    ∃ u m hits' fl', Served m s u ∧ s.finalSlots f c fmt target slot n j hits fl = (u, j + n, hits', fl', false) ∧
      (∀ a l, rangesMeet (target + j * fmtBytes fmt.code) (n * fmtBytes fmt.code) a l = false →
        m.readBytes (reamAddr f a) l = s.mem.readBytes (reamAddr f a) l) ∧
      ∀ rm, Rm.ofCode c.rm = some rm → rm ≠ .sr →
        rangesMeet (target + j * fmtBytes fmt.code) (n * fmtBytes fmt.code) (slot + 64 * j) (64 * n) = false →
        ∀ i < n, leNat (m.readBytes (reamAddr f (target + (j + i) * fmtBytes fmt.code)) (fmtBytes fmt.code))
          = s.mem.slotCode f c fmt slot rm 0 (j + i) % 256 ^ fmtBytes fmt.code := by
  induction n generalizing s j hits fl with
  | zero => exact ⟨s, s.mem, hits, fl, Served.refl s, rfl, fun _ _ _ => rfl, fun _ _ _ _ => nofun⟩
  | succ n ih =>
    generalize hw : fmtBytes fmt.code = w at ih ⊢
    obtain ⟨v, hv, hread⟩ := State.engRead_served hm ho (slot + 64 * j) 64
    have hstep : ∃ code hits' fl', (∀ rm, Rm.ofCode c.rm = some rm → rm ≠ .sr → code = s.mem.slotCode f c fmt slot rm 0 j) ∧
        s.finalSlots f c fmt target slot (n + 1) j hits fl =
          match v.engWrite f (target + j * w) (leBytes w code) with
          | (v, true) => (v, j, hits, fl', true)
          | (v, false) => v.finalSlots f c fmt target slot n (j + 1) hits' fl' := by
      rw [State.finalSlots, hread]
      dsimp only
      rw [hw]
      exact ⟨_, _, _, fun rm hrm hsr => by rw [hrm, Option.getD_some, if_neg hsr]; rfl, rfl⟩
    obtain ⟨code, hits', fl', hcode, hstep⟩ := hstep
    obtain ⟨x, hx, hwrite⟩ := State.engWrite_served (hv.clean hm) (hv.noOps ho) (target + j * w) (leBytes w code)
    rw [hv.mem] at hx
    have hsx := hv.trans hx
    obtain ⟨u, m, hits'', fl'', hu, hrest, hother, hvals⟩ := ih (hsx.clean hm) (hsx.noOps ho) (j + 1) hits' fl'
    rw [hsx.mem] at hother hvals
    have hsucc : (j + 1) * w = j * w + w := Nat.succ_mul j w
    have hsucc' : (n + 1) * w = n * w + w := Nat.succ_mul n w
    refine ⟨u, m, hits'', fl'', hsx.trans hu, ?_, fun a l ha => ?_, fun rm hrm hsr hapart i hi => ?_⟩
    · rw [hstep, hwrite, Nat.add_comm n, ← Nat.add_assoc]
      exact hrest
    · rw [hother a l (rangesMeet_of_within ha ⟨by omega, by omega⟩ ⟨le_rfl, le_rfl⟩), Memory.readBytes_writeBytes_apart]
      rw [length_leBytes]
      exact rangesMeet_of_within ha ⟨le_rfl, by omega⟩ ⟨le_rfl, le_rfl⟩
    · cases i with
      | zero =>
        have hfirst := Memory.readBytes_writeBytes_same s.mem (reamAddr f (target + j * w)) (leBytes w code)
        rw [length_leBytes] at hfirst
        rw [Nat.add_zero, hother _ _ (by rw [rangesMeet_eq_false_iff]; omega), hfirst, leNat_leBytes, hcode rm hrm hsr]
      | succ i =>
        have hslot : (s.mem.writeBytes (reamAddr f (target + j * w)) (leBytes w code)).slotCode f c fmt slot rm 0 (j + 1 + i)
            = s.mem.slotCode f c fmt slot rm 0 (j + 1 + i) := by
          unfold Memory.slotCode
          rw [Memory.readBytes_writeBytes_apart]
          rw [length_leBytes]
          exact rangesMeet_of_within hapart ⟨le_rfl, by omega⟩ ⟨by omega, by omega⟩
        rw [Nat.add_comm i, ← Nat.add_assoc, hvals rm hrm hsr
          (rangesMeet_of_within hapart ⟨by omega, by omega⟩ ⟨by omega, by omega⟩) i (by omega), hslot]

/-- The format of a region. -/
def State.regionFmt (s : State) (f : Folio) (r : Fin 256) : Fmt :=
  (Fmt.ofCode (s.fld (.regionCount f r) Fld.regionCountFmt)).getD .fp32

theorem runRegionFinal_of_open (hm : s.marks = []) (ho : s.noOps f)
    (hopen : s.fld (.regionState f c.region) Fld.regionStateState = 1) :
    let n := s.fld (.regionCount f c.region) Fld.regionCountCount
    let e := s.regionFmt f c.region
    let w := fmtBytes e.code
    let target := s.fld (.regionTarget f c.region) Fld.regionTargetOffset
    (runRegionFinal s f c).1.fld (.regionState f c.region) Fld.regionStateState = 0 ∧
      (runRegionFinal s f c).2.count = n ∧
      ∀ rm, Rm.ofCode c.rm = some rm → rm ≠ .sr →
        rangesMeet target (n * w) (s.regionSlotOff f c.region) (64 * n) = false → ∀ j < n,
          (runRegionFinal s f c).1.readLe (reamAddr f (target + j * w)) w
            = s.mem.slotCode f c e (s.regionSlotOff f c.region) rm 0 j % 2 ^ (8 * w) := by
  intro n e w target
  obtain ⟨u, m, hits, fl, hu, hfinal, -, hvals⟩ := State.finalSlots_served (c := c) (f := f)
    (s := s.setFld (.regionState f c.region) Fld.regionStateState 2) hm ho e target (s.regionSlotOff f c.region) n 0 0 0
  have hfld {k : Reg} (g : Field) (hk : k ≠ .regionState f c.region) :
      (s.setFld (.regionState f c.region) Fld.regionStateState 2).fld k g = s.fld k g := State.fld_setFld_other _ _ _ _ hk
  have hrun : runRegionFinal s f c = (u.setFld (.regionState f c.region) Fld.regionStateState 0, ⟨0, fl, hits, 0 + n⟩) := by
    unfold runRegionFinal
    dsimp only
    rw [if_neg (not_not.mpr hopen), State.settleOps_idle ho, State.regionSlotOff, hfld _ (by simp), hfld _ (by simp),
      hfld _ (by simp), ← State.regionSlotOff, ← State.regionFmt, hfinal]
    rfl
  rw [hrun]
  refine ⟨State.fld_setFld_same _ _ _ _ (by decide), Nat.zero_add n, fun rm hrm hsr hapart j hj => ?_⟩
  have := hvals rm hrm hsr (by rw [Nat.zero_mul]; exact hapart) j hj
  rw [Nat.zero_add] at this
  rw [two_pow_eight_mul]
  exact (congrArg leNat (hu.readMem _ _)).trans this

end Sys2Proof.Machine

end

section
/-! LEMMAS. SGDM, ADAM and ADAMW on clean data (R248-R250). -/

namespace Sys2Proof.Machine

variable {s : State} {f : Folio} {c : Cmd} {b : OptBlock} {m : Memory}

/-! ### One element (R249) -/

/-- A word of an array. -/
def Memory.word (m : Memory) (f : Folio) (off i : Nat) : W32 :=
  BitVec.ofNat 32 (leNat (m.readBytes (reamAddr f (off + 4 * i)) 4))

/-- The gradient of element `i`. -/
def Memory.grad (m : Memory) (f : Folio) (c : Cmd) (b : OptBlock) (i : Nat) : Val :=
  ((Fmt.ofCode c.srcFmt).getD .fp32).elem.decode
    (leNat (m.readBytes (reamAddr f (b.g + i * fmtBytes c.srcFmt)) (fmtBytes c.srcFmt)))

/-- Whether element `i` is skipped for its gradient. -/
def Memory.skips (m : Memory) (f : Folio) (c : Cmd) (b : OptBlock) (i : Nat) : Bool :=
  c.flags.testBit 2 && ((m.grad f c b i).isNaN || (m.grad f c b i).isInf)

/-- The second moment of element `i`, which SGDM has not. -/
def Memory.second (m : Memory) (f : Folio) (c : Cmd) (b : OptBlock) (i : Nat) : List Byte :=
  if c.code = 0x10 then [] else m.readBytes (reamAddr f (b.v + 4 * i)) 4

/-- The update of element `i`. -/
def Memory.update (m : Memory) (f : Folio) (c : Cmd) (b : OptBlock) (i : Nat) : W32 × W32 × W32 × Flags :=
  optStep c.code (c.flags.testBit 0) b.k ((toF32 .rne (m.grad f c b i)).1) (m.word f b.w i) (m.word f b.m i)
    (BitVec.ofNat 32 (leNat (m.second f c b i)))

/-- The code of a weight in the copy. -/
def copyCode (c : Cmd) (b : OptBlock) (i : Nat) (w : W32) : Nat :=
  let rm := (Rm.ofCode c.rm).getD .rne
  let r := if rm = .sr then srDraw c.seed c.step (BitVec.ofNat 64 (8 * (b.copy + i * fmtBytes c.dstFmt))) else 0
  (if c.flags.testBit 1 then ((Fmt.ofCode c.dstFmt).getD .bf16).elem.encode rm c.satc r (ofF32 w) else (0, 0)).1

/-- What an update writes beside the weight. -/
def Memory.otherWrites (m : Memory) (f : Folio) (c : Cmd) (b : OptBlock) (i : Nat) : List (Nat × List Byte) :=
  (b.m + 4 * i, leBytes 4 (m.update f c b i).2.1.toNat) ::
    ((if c.code = 0x10 then [] else [(b.v + 4 * i, leBytes 4 (m.update f c b i).2.2.1.toNat)])
      ++ (if c.flags.testBit 1 then
        [(b.copy + i * fmtBytes c.dstFmt, leBytes (fmtBytes c.dstFmt) (copyCode c b i (m.update f c b i).1))] else []))

/-- All that an update writes. -/
def Memory.optWrites (m : Memory) (f : Folio) (c : Cmd) (b : OptBlock) (i : Nat) : List (Nat × List Byte) :=
  [(b.w + 4 * i, leBytes 4 (m.update f c b i).1.toNat), (b.m + 4 * i, leBytes 4 (m.update f c b i).2.1.toNat)]
    ++ (if c.code = 0x10 then [] else [(b.v + 4 * i, leBytes 4 (m.update f c b i).2.2.1.toNat)])
    ++ (if c.flags.testBit 1 then
      [(b.copy + i * fmtBytes c.dstFmt, leBytes (fmtBytes c.dstFmt) (copyCode c b i (m.update f c b i).1))] else [])

theorem Memory.optWrites_eq (m : Memory) (f : Folio) (c : Cmd) (b : OptBlock) (i : Nat) : m.optWrites f c b i =
    (b.w + 4 * i, leBytes 4 (m.update f c b i).1.toNat) :: m.otherWrites f c b i := rfl

/-- Memory after element `i`. -/
def Memory.optElement (m : Memory) (f : Folio) (c : Cmd) (b : OptBlock) (i : Nat) : Memory :=
  if m.skips f c b i then m else m.writePieces f (m.optWrites f c b i)

/-- Memory after `n` elements from `i` on. -/
def Memory.optElements (m : Memory) (f : Folio) (c : Cmd) (b : OptBlock) : Nat → Nat → Memory
  | 0, _ => m
  | n + 1, i => (m.optElement f c b i).optElements f c b n (i + 1)

/-- What the weight of element `i` becomes. -/
def Memory.newWeight (m : Memory) (f : Folio) (c : Cmd) (b : OptBlock) (i : Nat) : Nat :=
  if m.skips f c b i then leNat (m.readBytes (reamAddr f (b.w + 4 * i)) 4) else (m.update f c b i).1.toNat

theorem State.second_served (hm : s.marks = []) (ho : s.noOps f) (i : Nat) :
    ∃ u, Served s.mem s u ∧ (if c.code = 0x10 then (s, some []) else s.engRead f (b.v + 4 * i) 4)
      = (u, some (s.mem.second f c b i)) := by
  unfold Memory.second
  split
  · exact ⟨s, Served.refl s, rfl⟩
  · exact State.engRead_served hm ho _ _

theorem State.optElement_served (hm : s.marks = []) (ho : s.noOps f) (n i : Nat) (fl : Flags) (skips : Nat) :
    ∃ u fl' k, Served (s.mem.optElement f c b i) s u ∧
      s.optElements f c b (n + 1) i fl skips = u.optElements f c b n (i + 1) fl' k := by
  obtain ⟨v, hv, hg⟩ := State.engRead_served hm ho (b.g + i * fmtBytes c.srcFmt) (fmtBytes c.srcFmt)
  rw [State.optElements, hg]
  dsimp only
  rw [← Memory.grad, ← Memory.skips, Memory.optElement]
  split
  next h => exact ⟨v, fl, skips + 1, hv, rfl⟩
  next h =>
    obtain ⟨x, hx, hw⟩ := State.engRead_served (hv.clean hm) (hv.noOps ho) (b.w + 4 * i) 4
    rw [hv.mem] at hx hw
    have hsx := hv.trans hx
    obtain ⟨y, hy, hmm⟩ := State.engRead_served (hsx.clean hm) (hsx.noOps ho) (b.m + 4 * i) 4
    rw [hsx.mem] at hy hmm
    have hsy := hsx.trans hy
    obtain ⟨z, hz, hs⟩ := State.second_served (c := c) (b := b) (hsy.clean hm) (hsy.noOps ho) i
    rw [hsy.mem] at hz hs
    have hsz := hsy.trans hz
    obtain ⟨u, d, hu, hwrite⟩ := State.writeArrays_served (hsz.clean hm) (hsz.noOps ho) 0 (s.mem.optWrites f c b i)
    rw [hsz.mem] at hu
    rw [hw]
    dsimp only
    rw [hmm]
    dsimp only
    rw [hs]
    dsimp only
    unfold Memory.optWrites Memory.update Memory.word copyCode at hwrite
    dsimp only at hwrite
    rw [hwrite]
    exact ⟨u, _, _, hsz.trans hu, rfl⟩

theorem State.optElements_served (hm : s.marks = []) (ho : s.noOps f) (n i : Nat) (fl : Flags) (skips : Nat) :
    ∃ u fl' k, Served (s.mem.optElements f c b n i) s u ∧
      s.optElements f c b n i fl skips = (u, fl', k, i + n, false) := by
  induction n generalizing s i fl skips with
  | zero => exact ⟨s, fl, skips, Served.refl s, rfl⟩
  | succ n ih =>
    obtain ⟨v, fl', k, hv, he⟩ := State.optElement_served (c := c) (b := b) hm ho n i fl skips
    obtain ⟨u, fl'', k', hu, hrest⟩ := ih (hv.clean hm) (hv.noOps ho) (i + 1) fl' k
    rw [hv.mem] at hu
    refine ⟨u, fl'', k', hv.trans hu, ?_⟩
    rw [he, hrest, Nat.add_comm n, ← Nat.add_assoc]

/-! ### The arrays (R248) -/

/-- The arrays that are written beside the weights, each an offset and the bytes of an element. -/
def OptBlock.others (b : OptBlock) (c : Cmd) : List (Nat × Nat) :=
  (b.m, 4) :: ((if c.code = 0x10 then [] else [(b.v, 4)])
    ++ (if c.flags.testBit 1 then [(b.copy, fmtBytes c.dstFmt)] else []))

def OptBlock.arrays (b : OptBlock) (c : Cmd) : List (Nat × Nat) := (b.w, 4) :: b.others c

/-- The arrays of `n` elements that are written meet neither the gradients nor one another. -/
structure OptApart (b : OptBlock) (c : Cmd) (n : Nat) : Prop where
  grads : ∀ x ∈ b.arrays c, rangesMeet x.1 (x.2 * n) b.g (fmtBytes c.srcFmt * n) = false
  arrays : (b.arrays c).Pairwise fun x y => rangesMeet x.1 (x.2 * n) y.1 (y.2 * n) = false

section
variable {n i k : Nat}

theorem mem_otherWrites {p : Nat × List Byte} (h : p ∈ m.otherWrites f c b i) :
    ∃ x ∈ b.others c, p.1 = x.1 + x.2 * i ∧ p.2.length = x.2 := by
  unfold Memory.otherWrites at h
  unfold OptBlock.others
  rcases List.mem_cons.mp h with rfl | h
  · exact ⟨_, List.mem_cons_self, rfl, by simp⟩
  rcases List.mem_append.mp h with h | h
  · split at h
    next => cases h
    next hc =>
      obtain rfl := List.mem_singleton.mp h
      exact ⟨(b.v, 4), by simp [hc], rfl, by simp⟩
  · split at h
    next hc =>
      obtain rfl := List.mem_singleton.mp h
      exact ⟨(b.copy, fmtBytes c.dstFmt), by simp [hc], by rw [Nat.mul_comm], by simp⟩
    next => cases h

theorem mem_optWrites {p : Nat × List Byte} (h : p ∈ m.optWrites f c b i) :
    ∃ x ∈ b.arrays c, p.1 = x.1 + x.2 * i ∧ p.2.length = x.2 := by
  rcases List.mem_cons.mp (m.optWrites_eq f c b i ▸ h) with rfl | h
  · exact ⟨_, List.mem_cons_self, rfl, by simp⟩
  · obtain ⟨x, hx, hp⟩ := mem_otherWrites h
    exact ⟨x, List.mem_cons_of_mem _ hx, hp⟩

/-- Element `i` lies within its array. -/
theorem element_within (w : Nat) (h : i < n) : w * i + w ≤ w * n := by
  rw [← Nat.mul_succ]
  exact Nat.mul_le_mul_left w h

/-- Elements of different arrays are apart. -/
theorem elements_apart {x y : Nat × Nat} (h : rangesMeet x.1 (x.2 * n) y.1 (y.2 * n) = false) (hi : i < n) (hk : k < n) :
    rangesMeet (x.1 + x.2 * i) x.2 (y.1 + y.2 * k) y.2 = false := by
  have h1 := element_within x.2 hi
  have h2 := element_within y.2 hk
  exact rangesMeet_of_within h ⟨by omega, by omega⟩ ⟨by omega, by omega⟩

/-- Different elements are apart, whatever their arrays. -/
theorem OptApart.elements (h : OptApart b c n) {x y : Nat × Nat} (hx : x ∈ b.arrays c) (hy : y ∈ b.arrays c) (hi : i < n)
    (hk : k < n) (hne : i ≠ k) : rangesMeet (x.1 + x.2 * i) x.2 (y.1 + y.2 * k) y.2 = false := by
  by_cases hxy : x = y
  · subst hxy
    rw [Nat.mul_comm _ i, Nat.mul_comm _ k]
    exact rangesMeet_rows _ le_rfl hne
  · have : Std.Symm fun x y : Nat × Nat => rangesMeet x.1 (x.2 * n) y.1 (y.2 * n) = false :=
      ⟨fun x y h => (rangesMeet_comm _ _ _ _).trans h⟩
    exact elements_apart (h.arrays.forall hx hy hxy) hi hk

theorem OptApart.grad (h : OptApart b c n) {x : Nat × Nat} (hx : x ∈ b.arrays c) (hi : i < n) (hk : k < n) :
    rangesMeet (x.1 + x.2 * i) x.2 (b.g + k * fmtBytes c.srcFmt) (fmtBytes c.srcFmt) = false := by
  rw [Nat.mul_comm k]
  exact elements_apart (y := (b.g, fmtBytes c.srcFmt)) (h.grads x hx) hi hk

theorem Memory.readBytes_writePieces_apart {ps : List (Nat × List Byte)} {a l : Nat}
    (h : ∀ p ∈ ps, rangesMeet p.1 p.2.length a l = false) :
    (m.writePieces f ps).readBytes (reamAddr f a) l = m.readBytes (reamAddr f a) l := by
  induction ps generalizing m with
  | nil => rfl
  | cons p ps ih =>
    rw [Memory.writePieces, ih fun q hq => h q (by simp [hq])]
    exact Memory.readBytes_writeBytes_apart _ _ (h p (by simp))

theorem Memory.readBytes_optElement_apart {a l : Nat}
    (h : ∀ x ∈ b.arrays c, rangesMeet (x.1 + x.2 * i) x.2 a l = false) :
    (m.optElement f c b i).readBytes (reamAddr f a) l = m.readBytes (reamAddr f a) l := by
  unfold Memory.optElement
  split
  · rfl
  · refine Memory.readBytes_writePieces_apart fun p hp => ?_
    obtain ⟨x, hx, hoff, hlen⟩ := mem_optWrites hp
    rw [hoff, hlen]
    exact h x hx

theorem Memory.readBytes_optElements_apart {a l : Nat}
    (h : ∀ x ∈ b.arrays c, ∀ j, i ≤ j → j < i + n → rangesMeet (x.1 + x.2 * j) x.2 a l = false) :
    (m.optElements f c b n i).readBytes (reamAddr f a) l = m.readBytes (reamAddr f a) l := by
  induction n generalizing m i with
  | zero => rfl
  | succ n ih =>
    rw [Memory.optElements, ih fun x hx j hj hlt => h x hx j (by omega) (by omega)]
    exact Memory.readBytes_optElement_apart fun x hx => h x hx i le_rfl (by omega)

/-- The update of an element leaves its weight. -/
theorem Memory.weight_optElement (h : OptApart b c n) (hi : i < n) :
    leNat ((m.optElement f c b i).readBytes (reamAddr f (b.w + 4 * i)) 4) = m.newWeight f c b i := by
  unfold Memory.optElement Memory.newWeight
  split
  · rfl
  · have hothers : ∀ p ∈ m.otherWrites f c b i, rangesMeet p.1 p.2.length (b.w + 4 * i) 4 = false := by
      intro p hp
      obtain ⟨x, hx, hoff, hlen⟩ := mem_otherWrites hp
      rw [hoff, hlen, rangesMeet_comm]
      exact elements_apart (x := (b.w, 4)) ((List.pairwise_cons.mp h.arrays).1 x hx) hi hi
    have hsame := Memory.readBytes_writeBytes_same m (reamAddr f (b.w + 4 * i)) (leBytes 4 (m.update f c b i).1.toNat)
    rw [length_leBytes] at hsame
    rw [Memory.optWrites_eq, Memory.writePieces, Memory.readBytes_writePieces_apart hothers, hsame, leNat_leBytes]
    exact Nat.mod_eq_of_lt (BitVec.isLt _)

/-- The update of another element leaves what an update reads. -/
theorem Memory.newWeight_optElement (h : OptApart b c n) (hi : i < n) (hk : k < n) (hne : i ≠ k) :
    (m.optElement f c b i).newWeight f c b k = m.newWeight f c b k := by
  have hkept {y : Nat} (hy : (y, 4) ∈ b.arrays c) : (m.optElement f c b i).readBytes (reamAddr f (y + 4 * k)) 4
      = m.readBytes (reamAddr f (y + 4 * k)) 4 :=
    Memory.readBytes_optElement_apart fun x hx => h.elements hx hy hi hk hne
  have hgrad : (m.optElement f c b i).grad f c b k = m.grad f c b k := by
    unfold Memory.grad
    rw [Memory.readBytes_optElement_apart fun x hx => h.grad hx hi hk]
  have hw := hkept (y := b.w) List.mem_cons_self
  have hm := hkept (y := b.m) (List.mem_cons_of_mem _ List.mem_cons_self)
  have hsecond : (m.optElement f c b i).second f c b k = m.second f c b k := by
    unfold Memory.second
    split
    · rfl
    next hc => exact hkept (by simp [OptBlock.arrays, OptBlock.others, hc])
  unfold Memory.newWeight Memory.skips Memory.update Memory.word
  rw [hgrad, hw, hm, hsecond]

theorem Memory.weight_optElements {N : Nat} (h : OptApart b c N) (hN : i + n ≤ N) (hlo : i ≤ k) (hhi : k < i + n) :
    leNat ((m.optElements f c b n i).readBytes (reamAddr f (b.w + 4 * k)) 4) = m.newWeight f c b k := by
  induction n generalizing m i with
  | zero => omega
  | succ n ih =>
    rw [Memory.optElements]
    obtain rfl | hlt := Nat.eq_or_lt_of_le hlo
    · rw [Memory.readBytes_optElements_apart, Memory.weight_optElement h (by omega)]
      exact fun x hx j hj hlt => h.elements (y := (b.w, 4)) hx List.mem_cons_self (by omega) (by omega) (by omega)
    · rw [ih (by omega) hlt (by omega), Memory.newWeight_optElement h (by omega) (by omega) (by omega)]

end

/-! ### The command -/

theorem OptBlock.skip_zero (b : OptBlock) (c : Cmd) : b.skip c 0 = b := rfl

/-- The parameter block of a command. -/
def State.paramBlock (s : State) (f : Folio) (c : Cmd) : OptBlock :=
  optBlock (decide (c.code = 0x10)) (s.readMem (reamAddr f c.aux) 128)

/-- The arrays that a command whose copy has a format of R248 declares as written. -/
theorem map_arrays (b : OptBlock) {badC : Bool} (hbad : badC = false) (n : Nat) :
    [(b.w, 4 * n), (b.m, 4 * n)] ++ (if decide (c.code = 0x10) then [] else [(b.v, 4 * n)])
      ++ (if c.flags.testBit 1 && !badC then [(b.copy, fmtBytes c.dstFmt * n)] else [])
      = (b.arrays c).map fun x => (x.1, x.2 * n) := by
  subst hbad
  unfold OptBlock.arrays OptBlock.others
  by_cases hc : c.code = 0x10 <;> cases hf : c.flags.testBit 1 <;> simp [hc]

theorem OptApart.of_status {v : State} {badG badC : Bool} {pre : List (Bool × Nat)} {read : Nat × Nat}
    (hpre : ∀ e ∈ pre, e.2 ≠ 0)
    (h : lowestStatus (pre ++ [(badG || badC, 4)] ++ arrayErrors v f
      (read :: if badG then [] else [(b.g, fmtBytes c.srcFmt * c.count)])
      ([(b.w, 4 * c.count), (b.m, 4 * c.count)] ++ (if decide (c.code = 0x10) then [] else [(b.v, 4 * c.count)])
        ++ (if c.flags.testBit 1 && !badC then [(b.copy, fmtBytes c.dstFmt * c.count)] else [])) true) = 0) :
    OptApart b c c.count := by
  have hcodes : ∀ e ∈ pre ++ [(badG || badC, 4)], e.2 ≠ 0 := by
    intro e he
    rcases List.mem_append.mp he with hp | hs
    · exact hpre e hp
    · rw [List.mem_singleton.mp hs]
      exact Nat.succ_ne_zero _
  have hfmt := eq_false_of_lowestStatus (ne_zero_of_mem_checks hcodes) h (badG || badC, 4) (by simp)
  obtain ⟨hG, hC⟩ := Bool.or_eq_false_iff.mp hfmt
  have hapart := ArraysApart.of_status hcodes h
  rw [map_arrays b hC, hG, if_neg Bool.false_ne_true] at hapart
  obtain ⟨hreads, hwrites⟩ := hapart
  exact ⟨fun x hx => hreads _ (List.mem_map_of_mem hx) (b.g, fmtBytes c.srcFmt * c.count)
    (List.mem_cons_of_mem _ (List.mem_singleton_self _)), List.pairwise_map.mp (hwrites rfl)⟩

theorem runOptimizer_of_good (hm : s.marks = []) (ho : s.noOps f) (hg : (runOptimizer s f c).2.status = 0) :
    OptApart (s.paramBlock f c) c c.count ∧
    ∃ u, Served (s.mem.optElements f c (s.paramBlock f c) c.count 0) s u ∧ (runOptimizer s f c).1 = u := by
  unfold runOptimizer runOptimizerAt at hg ⊢
  dsimp only at hg ⊢
  obtain ⟨-, he⟩ := not_failed (fun _ => by decide) hg
  rw [he] at hg ⊢
  clear he
  obtain ⟨v, hv, hr⟩ := State.engRead_served hm ho c.aux 128
  rw [hr] at hg ⊢
  dsimp only at hg ⊢
  rw [OptBlock.skip_zero, ← State.readMem, ← State.paramBlock] at hg ⊢
  obtain ⟨hst, he⟩ := not_failed id hg
  obtain ⟨u, fl, k, hu, helems⟩ := State.optElements_served (c := c) (b := s.paramBlock f c) (hv.clean hm) (hv.noOps ho)
    c.count 0 0 0
  rw [hv.mem] at hu
  rw [he, helems]
  exact ⟨OptApart.of_status (pre := [(_, 1), (_, 3)]) (by simp) (not_not.mp hst), u, hv.trans hu, rfl⟩

/-- Each weight of a command that succeeds has its update. -/
theorem updated_weight (hm : s.marks = []) (ho : s.noOps f) (hg : (runOptimizer s f c).2.status = 0) {i : Nat}
    (hi : i < c.count) : (runOptimizer s f c).1.readLe (reamAddr f ((s.paramBlock f c).w + 4 * i)) 4
      = s.mem.newWeight f c (s.paramBlock f c) i := by
  obtain ⟨hapart, u, hu, he⟩ := runOptimizer_of_good hm ho hg
  rw [he, State.readLe, hu.readMem]
  exact Memory.weight_optElements hapart (by omega) (Nat.zero_le i) (by omega)

end Sys2Proof.Machine

end

section
/-! PROOFS. The engine commands (O49). -/

namespace Sys2Proof.Machine

variable {s : State} {f : Folio} {q : Ecq} {r : EcqRun}

/-- How a command of a queue ends: `p` is what is said of the device and of the command in hand. -/
def Ends (s : State) (f : Folio) (q : Ecq) (r : EcqRun) (i : Instr) (p : State → EcqRun → Prop) : Prop :=
  ∃ s' r', exec i s = .next s' ∧ (s'.ecq f q).run = some r' ∧ r'.done = true ∧ r'.words = r.words ∧
    r'.status = (runCmd s f (cmdOf r.words)).2.status ∧ p s' r'

/-- A queue leaves the device as its command made it, but for the command in hand. -/
theorem Ends.of_runCmd {i : Instr} {code : Nat} {run : State × CmdEnd} {p : State → EcqRun → Prop}
    (hr : (s.ecq f q).run = some r) (hd : r.done = false) (hup : s.enginesUp f = true)
    (hb : s.biasWaits f 0 reamLimit = false) (hc : (cmdOf r.words).code = code)
    (hi : exec i s = .next (s.runQueue f q code)) (he : runCmd s f (cmdOf r.words) = run)
    (hp : ∀ x, p (run.1.setEcq f q x) (r.ended run.2)) : Ends s f q r i p := by
  subst he
  rw [runQueue_of_work hr hd hup hb hc] at hi
  exact ⟨_, r.ended (runCmd s f (cmdOf r.words)).2, hi, by rw [State.ecq_setEcq_same], rfl, rfl, rfl, hp _⟩

theorem newWeight_eq (s : State) (f : Folio) (c : Cmd) (b : OptBlock) (i : Nat) : s.mem.newWeight f c b i =
    if c.flags.testBit 2 && ((s.mem.grad f c b i).isNaN || (s.mem.grad f c b i).isInf) then
      s.readLe (reamAddr f (b.w + 4 * i)) 4
    else (optStep c.code (c.flags.testBit 0) b.k ((toF32 .rne (s.mem.grad f c b i)).1) (s.mem.word f b.w i)
      (s.mem.word f b.m i) (if c.code = 0x10 then 0 else s.mem.word f b.v i)).1.toNat := by
  unfold Memory.newWeight Memory.skips Memory.update Memory.second
  by_cases hc : c.code = 0x10
  · rw [if_pos hc, if_pos hc]
    rfl
  · rw [if_neg hc, if_neg hc]
    rfl

end Sys2Proof.Machine

open Sys2Proof Sys2Proof.Machine

/-- Settles O49: on clean data each command is a change of memory alone; its checks keep the arrays apart, so that no
element is read or written again after its own turn. -/
theorem engineCommandsComplete : Obligations.EngineCommandsComplete := by
  unfold Obligations.EngineCommandsComplete
  intro s f q r hr hd hup hb hm ho c good open' idx set rank ends
  have hends {i : Instr} {code : Nat} {run : State × CmdEnd} {p : State → EcqRun → Prop} (hc : c.code = code)
      (hi : exec i s = .next (s.runQueue f q code)) (he : runCmd s f c = run)
      (hp : ∀ x, p (run.1.setEcq f q x) (r.ended run.2)) : ends i p :=
    Ends.of_runCmd hr hd hup hb hc hi he hp
  have hgood {run : State × CmdEnd} (he : runCmd s f c = run) (h : good) : run.2.status = 0 := he ▸ h
  refine ⟨fun hc => ?convert, fun hc => ?gather, fun hc => ?scatter, fun hc => ?elide, fun hc => ?restore,
    fun hc => ?regionOpen, fun hc => ?regionFinal, fun hc => ?regionAbandon, ?optimizer⟩
  case convert =>
    have he : runCmd s f c = runConvert s f c := by
      rw [runCmd, hc]
      rfl
    refine hends hc rfl he fun x a b rm ha hb hrm hsr hamx hbmx haw hbw hg => ?_
    exact ⟨(runConvert_of_good ha hb hrm hsr hamx hbmx hm ho (hgood he hg)).1, fun i hi =>
      converted_element ha hb hrm hsr hamx hbmx haw hbw hm ho (hgood he hg) hi⟩
  case gather =>
    have he : runCmd s f c = runIndexed true s f c := by
      rw [runCmd, hc]
      rfl
    exact hends hc rfl he fun x hg i hi => gathered_row hm ho (hgood he hg) hi
  case scatter =>
    have he : runCmd s f c = runIndexed false s f c := by
      rw [runCmd, hc]
      rfl
    exact hends hc rfl he fun x hg i hi hx hlast => scattered_row hm ho (hgood he hg) hi hx hlast
  case elide =>
    have he : runCmd s f c = runElide s f c := by
      rw [runCmd, hc]
      rfl
    exact hends hc rfl he fun x hg hf => ⟨(runElide_of_good hm ho hf (hgood he hg)).1, fun i hi hx =>
      elided_row hm ho hf (hgood he hg) hi hx⟩
  case restore =>
    have he : runCmd s f c = runRestore s f c := by
      rw [runCmd, hc]
      rfl
    refine hends hc rfl he fun x hg hp i hi => ⟨fun hset => ?_, fun hclear hz => ?_⟩
    · have hset : s.maskBit f c i = true := hset
      refine (restored_row hm ho (hgood he hg) hp hi (by rw [hset]; rfl)).trans ?_
      rw [State.restoreSource, if_pos hset]
      rfl
    · have hclear : s.maskBit f c i = false := hclear
      refine (restored_row hm ho (hgood he hg) hp hi (by rw [hclear, hz]; rfl)).trans ?_
      rw [State.restoreSource, hclear]
      rfl
  case regionOpen =>
    have he : runCmd s f c = runRegionOpen s f c := by
      rw [runCmd, hc]
      rfl
    exact hends hc rfl he fun x hg hf j hj => opened_slot hm ho hf (hgood he hg) hj
  case regionFinal =>
    have he : runCmd s f c = runRegionFinal s f c := by
      rw [runCmd, hc]
      rfl
    refine hends hc rfl he fun x => ⟨fun hopen => ?_, fun hopen => ?_⟩
    · exact runRegionFinal_of_open hm ho hopen
    · have hrun : runRegionFinal s f c = (s, .fail 5) := if_pos hopen
      rw [hrun]
      exact ⟨rfl, rfl, rfl⟩
  case regionAbandon =>
    have he : runCmd s f c = runRegionAbandon s f c := by
      rw [runCmd, hc]
      rfl
    by_cases hopen : open'
    · have hrun : runRegionAbandon s f c = (s.setFld (.regionState f c.region) Fld.regionStateState 0, ⟨0, 0, 0, 0⟩) :=
        if_neg (not_not.mpr hopen)
      exact hends hc rfl (he.trans hrun) fun x => ⟨rfl, fun _ => ⟨rfl, State.fld_setFld_same _ _ _ _ (by decide)⟩,
        fun h => absurd hopen h⟩
    · have hrun : runRegionAbandon s f c = (s, .fail 5) := if_pos hopen
      exact hends hc rfl (he.trans hrun) fun x => ⟨rfl, fun h => absurd h hopen, fun _ => ⟨rfl, rfl⟩⟩
  case optimizer =>
    intro update
    have hupdate (he : runCmd s f c = runOptimizer s f c) (x : EcqState) :
        update ((runOptimizer s f c).1.setEcq f q x) := fun hg i hi =>
      (updated_weight hm ho (hgood he hg) hi).trans (newWeight_eq s f c (s.paramBlock f c) i)
    have hrun (h : c.code = 0x10 ∨ c.code = 0x11 ∨ c.code = 0x12) : runCmd s f c = runOptimizer s f c := by
      rcases h with h | h | h <;> rw [runCmd, h] <;> rfl
    refine ⟨fun hc => ?sgdm, fun hc => ?adam, fun hc => ?adamw⟩
    case sgdm => exact hends hc rfl (hrun (.inl hc)) (hupdate (hrun (.inl hc)))
    case adam => exact hends hc rfl (hrun (.inr (.inl hc))) (hupdate (hrun (.inr (.inl hc))))
    case adamw => exact hends hc rfl (hrun (.inr (.inr hc))) (hupdate (hrun (.inr (.inr hc))))

end
